-- ==== Sys2Proof/Word.lean ====
section
/-! DEFINITION. Word types and the plain names that every layer of the model uses: bytes and words, positions on
the fabric (R3), and the keys by which State's lists name weaves, tasks and engine contexts. -/

namespace Sys2Proof

/-- A byte of memory. -/
abbrev Byte := BitVec 8
/-- A 32-bit lane or memory word (R32). -/
abbrev W32 := BitVec 32
/-- A 64-bit register or word. -/
abbrev W64 := BitVec 64
/-- A 128-bit skid command (R164). -/
abbrev W128 := BitVec 128

/-- Cell operand code (R154) or sequencer register code (R146). -/
abbrev Code6 := BitVec 6

/-- One value per die (R3: dies are numbered 0 to 3). -/
structure PerDie (α : Type) where
  /-- die 0 -/
  d0 : α
  /-- die 1 -/
  d1 : α
  /-- die 2 -/
  d2 : α
  /-- die 3 -/
  d3 : α
  deriving DecidableEq, Repr

/-- The same value on every die. -/
def PerDie.all {α : Type} (x : α) : PerDie α := ⟨x, x, x, x⟩

/-- The value of die `n`; a number is read modulo 4, as a two-bit die field. -/
def PerDie.get {α : Type} (p : PerDie α) (n : Nat) : α :=
  match n % 4 with
  | 0 => p.d0
  | 1 => p.d1
  | 2 => p.d2
  | _ => p.d3

/-- Replace the value of die `n`. -/
def PerDie.set {α : Type} (p : PerDie α) (n : Nat) (x : α) : PerDie α :=
  match n % 4 with
  | 0 => { p with d0 := x }
  | 1 => { p with d1 := x }
  | 2 => { p with d2 := x }
  | _ => { p with d3 := x }

/-- Apply a function on every die. -/
def PerDie.map {α β : Type} (f : α → β) (p : PerDie α) : PerDie β := ⟨f p.d0, f p.d1, f p.d2, f p.d3⟩

/-- A weave's place within its stand (R85, R137): compartment offset, cell column and weave slot. -/
structure WPos where
  dcol : Nat
  drow : Nat
  col : Nat
  slot : Nat
  deriving DecidableEq, Repr

/-- A weave of a stand. -/
structure WKey where
  stand : Nat
  pos : WPos
  deriving DecidableEq, Repr

/-- A task: a node copy resident on a weave (R83, R85), named by its node id. -/
structure TKey where
  stand : Nat
  pos : WPos
  nid : Nat
  deriving DecidableEq, Repr

/-- The weave a task is resident on. -/
def TKey.weave (t : TKey) : WKey := ⟨t.stand, t.pos⟩

/-- A sequencer context (R126, R168): island number 16·die + 8·side + row (side 0 west, 1 east),
sequencer 0 or 1 and context 0 to 3. -/
structure SeqId where
  isl : Nat
  seq : Nat
  ctx : Nat
  deriving DecidableEq, Repr

/-- The die of an island number. -/
def islandDie (isl : Nat) : Nat := isl / 16

/-- The die of a sequencer context. -/
def SeqId.die (q : SeqId) : Nat := islandDie q.isl

/-- An engine context, by the stand it is bound to and its stand-relative number (R88). -/
structure EKey where
  stand : Nat
  eng : Nat
  deriving DecidableEq, Repr

/-- A memory-side cache slice: die and number 0 to 255 (R1, R287). -/
structure SliceId where
  die : Nat
  idx : Nat
  deriving DecidableEq, Repr

end Sys2Proof
end

