-- ==== Sys2Proof/Config.lean ====
section
/-! DEFINITION. What one implementation fixes and what the manual leaves open. Figures of the part stand here as plain
definitions; values the manual leaves open are opaque constants (free values), so that no proof can see what they are. -/

namespace Sys2Proof.Config

/-- Stepping of the part, the value of `REVID` [15:0] (R381, R384): which stepping is left open. -/
opaque stepping : BitVec 16

/-- Free value of an undefined windowed register at the entry of a block (R92), by a counter of State.
[DESIGN CHOICE, log 5] -/
opaque freeWord : Nat → W64
/-- Free poison bit of an undefined windowed register at the entry of a block (R92). -/
opaque freeBit : Nat → Bool

/-- The address the loader allocates for DATA whose dbase is 0 (R93), by the VF and the object's size; the loader
aligns it to 4 KiB, which the model does around this constant. -/
opaque dataAddress : Nat → Nat → BitVec 57

/-- The identity key's signature over a digest (R378): its private half never leaves the management controller. -/
opaque identitySign : BitVec 512 → BitVec 1056
/-- Whether the signature that a firmware image carries verifies against the fused key (R376): the manual does not say where an
image holds it. -/
opaque firmwareSigned : List Byte → Bool
/-- The sequencer firmware and the loader's validator (R376, R378), one image in flash that no command replaces. -/
opaque sequencerFirmware : List Byte
/-- Whether the flash fails a write of the inactive bank (R376, R377, R381), by a counter of State. [DESIGN CHOICE, log 118] -/
opaque flashFails : Nat → Bool
/-- What the inactive bank holds after a write that the flash failed. [DESIGN CHOICE, log 118] -/
opaque flashLeaves : Nat → List (BitVec 8)
/-- Bytes that a firmware bank holds (R377): an image that is larger ends with outcome 2. -/
opaque bankSize : Nat
/-- Whether the logical vector of a stand of more than one row of compartments (R30, R138) runs along a whole row of
compartments before the next, or down the rows of a column before the next column: the manual orders the columns of a
stand, and does not say how its rows of compartments come in. [DEDUCED, log 22] -/
opaque rowsOuter : Bool

/-- Which of the two neighbouring encodings a special function's result takes where the model's interval arithmetic
(Machine/Trans.lean) does not separate them: one bit per function, format and operand. [DEDUCED, log 12] -/
opaque specialTie : Nat → Nat → Nat → Bool

/-- The set of a slice that holds a line (4 MiB, 16 ways, 128-byte lines: 2,048 sets), by line number: the manual gives no
index function (R290 counts pinned ways by set). [DESIGN CHOICE, log 51] -/
opaque sliceSet : Nat → BitVec 11

/-- The digit that an L2 operation leaves in a t2 tensor (R305, R309), by operation, old digit and operand digit: the manual
defines the operations of R59 on integers and floating-point values only; 0, +1 or −1 (2). [DESIGN CHOICE, log 66] -/
opaque l2Digit : Nat → Nat → Nat → Fin 3
/-- Whether a sum that overflows a format without infinities is the canonical NaN or the largest finite value (R37), by its
sign. [DESIGN CHOICE, log 152] -/
opaque overflowNan : Bool → Bool
/-- The lane word that an L2 operation leaves in a dg tensor (R305, R309), by operation, old word and operand word. -/
opaque l2String : Nat → W32 → W32 → W32

/-- Usable device memory with 48 active channels (R291). -/
def memtop48 : Nat := 288000000000
/-- 256-byte chunks of one channel (R291). -/
def chunksPerChannel : Nat := 23437500

/-- Depth in tokens of an engine's stream port: the manual bounds it by credits (R125) and gives no figure.
[DESIGN CHOICE, log 143] -/
def streamDepth : Nat := 32

end Sys2Proof.Config
end

