-- ==== Sys2Proof/Syntax.lean ====
section
/-! DEFINITION. The abstract syntax: one constructor of `Instr` for each row of the operation and event table. The
sequencer rows carry the fields of R145, the cell rows those of R153, the skid rows those of R164; an event row carries
what the agent or the outside world supplies with it (which unit it concerns, the value written). -/

namespace Sys2Proof

/-- Fields of the SR layout (R145); the function number is the constructor's. -/
structure SR where
  d : Code6
  a : Code6
  b : Code6
  q : BitVec 3
  deriving DecidableEq, Repr

/-- Fields of the SI layout (R145). -/
structure SI where
  d : Code6
  a : Code6
  imm14 : BitVec 14
  deriving DecidableEq, Repr

/-- Fields of the SB layout (R145). -/
structure SB where
  sense : BitVec 1
  q : BitVec 3
  a : Code6
  disp16 : BitVec 16
  deriving DecidableEq, Repr

/-- Fields of the SX layout (R145); fn8 is the constructor's. -/
structure SX where
  d : Code6
  sel12 : BitVec 12
  deriving DecidableEq, Repr

/-- Fields of the CG format (R153); the opcode is the constructor's. -/
structure CG where
  ty : BitVec 4
  d : Code6
  a : Code6
  b : Code6
  c : Code6
  e : Code6
  gp : BitVec 4
  gq : BitVec 4
  gm : BitVec 2
  ch : BitVec 2
  aux : BitVec 6
  sc : BitVec 4
  deriving DecidableEq, Repr

/-- Fields of the CM format (R153); the opcode is the constructor's. -/
structure CM where
  ty : BitVec 4
  d : Code6
  a : Code6
  b : Code6
  own : BitVec 8
  pred : BitVec 8
  succ : BitVec 8
  ch : BitVec 2
  gp : BitVec 4
  sc : BitVec 4
  deriving DecidableEq, Repr

/-- Fields of a skid command (R164); the opcode is the constructor's. -/
structure Skid where
  eng : BitVec 8
  stid : BitVec 16
  dtid : BitVec 16
  l2op : BitVec 3
  fe : BitVec 1
  pub : BitVec 1
  scope : BitVec 3
  route : BitVec 8
  t0 : BitVec 16
  t1 : BitVec 16
  t2 : BitVec 16
  t3 : BitVec 16
  deriving DecidableEq, Repr

/-- A member of a barrier (R188, R231): a sequencer context or a task. -/
inductive BarMember where
  | seq (c : SeqId)
  | task (t : TKey)
  deriving DecidableEq, Repr

/-- A function with an event ring (R382). -/
inductive FnId where
  | pf
  | vf (n : Nat)
  deriving DecidableEq, Repr

/-- A register space and who writes it: the physical function's space, a VF's CXL.io space written by the VF or by the
physical function (R289's "PF" registers), and a VF's landing window (R106). -/
inductive RegSpace where
  | pf
  | vf (n : Nat)
  | vfByPf (n : Nat)
  | window (n : Nat)
  deriving DecidableEq, Repr

/-- What a register write carries: its width in bytes and its value (R106, R289). -/
structure RegWrite where
  width : Nat
  value : W64
  deriving DecidableEq, Repr

/-- A host access: to the device-memory range of a VF (R379), at a byte offset of that range, or the read of a register of
a space with its width in bytes (R106, R289, R360, R370, R373, R381). -/
inductive HostAccess where
  | read (off : Nat) (len : Nat)
  | write (off : Nat) (bytes : List Byte)
  | register (sp : RegSpace) (off : BitVec 12) (width : Nat)
  deriving DecidableEq, Repr

/-- Where a detected error lands (R356): nothing to do; a memory word, store word, register, accumulator element, element of a
B buffer, L1 word, transducer slot or held write to poison; a lane at enqueue of an input port or an engine ingress (R357);
an instruction, or a butterfly of CX.MBFY, with the number of its attempts that failed (R355, R267); an instruction word
(RESIDUE at fetch); a packet whose resends failed; a landing-table word to poison; or a TLB entry to fetch again. -/
inductive ErrSite where
  | none
  | memWord (pa : Nat)
  | storeWord (w : WKey) (off : Nat)
  | laneReg (w : WKey) (r l : Nat)
  | seqReg (c : SeqId) (code : Code6)
  | accElem (w : WKey) (tile row col : Nat)
  | bufElem (w : WKey) (buf row col : Nat)
  | l1Word (w : WKey) (cell line word : Nat)
  | slotWord (w : WKey) (slot : Nat)
  | segWrite (stand die idx : Nat)
  | portLane (t : TKey) (port idx lane : Nat)
  | engLane (e : EKey) (idx lane : Nat)
  | tokenKind (t : TKey) (port : Nat) (kind : BitVec 4)
  | instr (t : TKey) (lane tries : Nat)
  | butterfly (t : TKey) (row tries : Nat)
  | fetch (t : TKey)
  | packet (id : Nat)
  | landing (die set way : Nat)
  | tlb (vf unit : Nat) (va : BitVec 57)
  | link (port : Nat)
  deriving DecidableEq, Repr

/-- A hardware error a check reports (R355 to R360): the unit that counts it, the check's unit code of R356, whether it
was corrected, and where it lands. -/
structure ErrReport where
  die : Nat
  slice : Bool
  unit : Nat
  unitCode : Nat
  corrected : Bool
  site : ErrSite
  deriving DecidableEq, Repr

/-- A packet from another package of the pod (R305 CPYGG at scope pod, R308, R188); a copy writes the bits of each byte
that its mask sets. -/
inductive PodPacket where
  | copy (vf va : Nat) (bytes : List Byte) (mask : Byte) (poison : Bool)
  | coll (vf dtid tile rank : Nat) (words : List W32) (poison : List Bool)
  | barrier (id : Nat) (rank : Nat) (bit : Bool)
  deriving DecidableEq, Repr

/-- One unit's hour (R370): kind 0 compartment, 1 slice, 2 channel, 3 port; its peak junction temperature in °C and its deepest
supply droop in mV. -/
structure HourBins where
  die : Nat
  kind : Nat
  unit : Nat
  temp : Int
  droop : Int
  deriving DecidableEq, Repr

/-- The instructions and events of the Botusyn B4, one constructor per row of the table. -/
inductive Instr where
  /-- SR.ALU: Writes the 64-bit wrapped sum of registers a and b to d under guard q. -/
  | srAluAdd (f : SR)
  /-- SR.ALU: Writes the 64-bit wrapped difference a minus b to d. -/
  | srAluSub (f : SR)
  /-- SR.ALU: Writes the low 64 bits of a times b to d. -/
  | srAluMul (f : SR)
  /-- SR.ALU: Writes the high 64 bits of the signed 128-bit product to d. -/
  | srAluMulh (f : SR)
  /-- SR.ALU: Writes the signed quotient to d, with the fixed division-by-zero and overflow results of R35. -/
  | srAluDiv (f : SR)
  /-- SR.ALU: Writes the unsigned quotient to d under R35. -/
  | srAluDivn (f : SR)
  /-- SR.ALU: Writes the signed remainder to d under R35. -/
  | srAluRem (f : SR)
  /-- SR.ALU: Writes the unsigned remainder to d under R35. -/
  | srAluRemn (f : SR)
  /-- SR.ALU: Writes a AND b to d. -/
  | srAluAnd (f : SR)
  /-- SR.ALU: Writes a OR b to d. -/
  | srAluOr (f : SR)
  /-- SR.ALU: Writes a XOR b to d. -/
  | srAluXor (f : SR)
  /-- SR.ALU: Writes a AND NOT b to d. -/
  | srAluAndn (f : SR)
  /-- SR.ALU: Writes a shifted left by b[5:0] to d. -/
  | srAluShl (f : SR)
  /-- SR.ALU: Writes a shifted right logically by b[5:0] to d. -/
  | srAluShr (f : SR)
  /-- SR.ALU: Writes a shifted right arithmetically by b[5:0] to d. -/
  | srAluSra (f : SR)
  /-- SR.ALU: Writes the signed minimum of a and b to d. -/
  | srAluMin (f : SR)
  /-- SR.ALU: Writes the signed maximum of a and b to d. -/
  | srAluMax (f : SR)
  /-- SR.ALU: Writes the unsigned minimum of a and b to d. -/
  | srAluMinn (f : SR)
  /-- SR.ALU: Writes the unsigned maximum of a and b to d. -/
  | srAluMaxn (f : SR)
  /-- SR.ALU: Writes the number of leading zeros of a, 0 to 64, to d. -/
  | srAluClz (f : SR)
  /-- SR.ALU: Writes the number of ones in a to d. -/
  | srAluPopc (f : SR)
  /-- SR.ALU: Writes a to d when predicate q holds and b otherwise; q does not guard. -/
  | srAluSel (f : SR)
  /-- SQ.CMP: Writes predicate d with a equal to b. -/
  | sqCmpEq (f : SR)
  /-- SQ.CMP: Writes predicate d with a not equal to b. -/
  | sqCmpNe (f : SR)
  /-- SQ.CMP: Writes predicate d with a less than b, signed. -/
  | sqCmpLt (f : SR)
  /-- SQ.CMP: Writes predicate d with a at most b, signed. -/
  | sqCmpLe (f : SR)
  /-- SQ.CMP: Writes predicate d with a less than b, unsigned. -/
  | sqCmpLtn (f : SR)
  /-- SQ.CMP: Writes predicate d with a at most b, unsigned. -/
  | sqCmpLen (f : SR)
  /-- SQ.CMP: Writes predicate d with predicate a AND predicate b. -/
  | sqCmpQand (f : SR)
  /-- SQ.CMP: Writes predicate d with predicate a OR predicate b. -/
  | sqCmpQor (f : SR)
  /-- SQ.CMP: Writes predicate d with NOT predicate a. -/
  | sqCmpQnot (f : SR)
  /-- SI.ADDI: Writes a plus the immediate, wrapped, to d. -/
  | siAddi (f : SI)
  /-- SI.ANDI: Writes a AND the immediate to d. -/
  | siAndi (f : SI)
  /-- SI.ORI: Writes a OR the immediate to d. -/
  | siOri (f : SI)
  /-- SI.XORI: Writes a XOR the immediate to d. -/
  | siXori (f : SI)
  /-- SI.SHLI: Writes a shifted left by imm14[5:0] to d. -/
  | siShli (f : SI)
  /-- SI.SHRI: Writes a shifted right logically by imm14[5:0] to d. -/
  | siShri (f : SI)
  /-- SI.SRAI: Writes a shifted right arithmetically by imm14[5:0] to d. -/
  | siSrai (f : SI)
  /-- SI.CMPI: Writes a predicate with the condition of a against the immediate. -/
  | siCmpi (f : SI)
  /-- SI.MOVI: Writes the immediate, or the 40-bit prefixed value, to d. -/
  | siMovi (f : SI)
  /-- SI.LDB: Loads one byte, sign-extended, from a plus offset into d. -/
  | siLdb (f : SI)
  /-- SI.LDH: Loads two bytes, sign-extended, into d. -/
  | siLdh (f : SI)
  /-- SI.LDW: Loads four bytes, sign-extended, into d. -/
  | siLdw (f : SI)
  /-- SI.LDD: Loads eight bytes into d. -/
  | siLdd (f : SI)
  /-- SI.STB: Stores the low byte of d at a plus offset. -/
  | siStb (f : SI)
  /-- SI.STH: Stores the low two bytes of d. -/
  | siSth (f : SI)
  /-- SI.STW: Stores the low four bytes of d. -/
  | siStw (f : SI)
  /-- SI.STD: Stores the eight bytes of d. -/
  | siStd (f : SI)
  /-- SA.AMO: Atomically adds b to the doubleword at a and returns the old value in d. -/
  | saAmoAdd (f : SR)
  /-- SA.AMO: Atomically takes the signed minimum with b and returns the old value. -/
  | saAmoMin (f : SR)
  /-- SA.AMO: Atomically takes the signed maximum with b and returns the old value. -/
  | saAmoMax (f : SR)
  /-- SA.AMO: Atomically ANDs b into the doubleword and returns the old value. -/
  | saAmoAnd (f : SR)
  /-- SA.AMO: Atomically ORs b into the doubleword and returns the old value. -/
  | saAmoOr (f : SR)
  /-- SA.AMO: Atomically exchanges the doubleword with b. -/
  | saAmoXchg (f : SR)
  /-- SA.AMO: Atomically writes b when the doubleword equals d, and returns the old value. -/
  | saAmoCas (f : SR)
  /-- SB.BR: Branches by disp16 words when predicate q equals sense. -/
  | sbBr (f : SB)
  /-- SB.BZ: Branches by disp16 words when (a = 0) equals sense. -/
  | sbBz (f : SB)
  /-- SJ.JMP: Jumps by disp26 words. -/
  | sjJmp (disp26 : BitVec 26)
  /-- SJ.CALL: Calls by disp26 words, advancing the register window and possibly spilling. -/
  | sjCall (disp26 : BitVec 26)
  /-- SX.RET: Returns from a call, or at depth 0 ends the block's feeding or halts a root program. -/
  | sxRet (f : SX)
  /-- SR.JR: Jumps to the byte offset in register a under guard q. -/
  | srJrJump (f : SR)
  /-- SR.JR: Calls the byte offset in register a under guard q. -/
  | srJrCall (f : SR)
  /-- SB.LOOP: Runs the following body of disp16 words a latched number of times. -/
  | sbLoop (f : SB)
  /-- SX.LBRK: Pops the innermost hardware loop and continues after its body. -/
  | sxLbrk (f : SX)
  /-- SR.WAIT: Waits, up to limit d, for free command-queue slots or for trap records. -/
  | srWaitQueue (f : SR)
  /-- SR.WAIT: Waits, up to limit d, for an engine's R or V counter to reach b, as an acquire. -/
  | srWaitTimeline (f : SR)
  /-- SR.WAIT: Waits, up to limit d, for a tag to be published, as an acquire. -/
  | srWaitTag (f : SR)
  /-- SX.FENCE: Orders the context's memory operations at the named scope. -/
  | sxFence (f : SX)
  /-- SX.BAR: Arrives at a die, pkg or pod barrier as a release and waits for it as an acquire. -/
  | sxBar (f : SX)
  /-- SR.TAGP: Publishes a tag at once from a root program, or holds it for the block's commit. -/
  | srTagp (f : SR) (scope : BitVec 3)
  /-- SR.TAGQ: Queries a tag reference at its home die and writes the result to d. -/
  | srTagq (f : SR)
  /-- SR.TAGG: Advances a tensor's generation, at once in a root program or held for commit. -/
  | srTagg (f : SR)
  /-- SR.TLRD: Reads an engine context's R counter, or its rejection flag, into d. -/
  | srTlrdR (f : SR)
  /-- SR.TLRD: Reads an engine context's V counter, or its rejection flag, into d. -/
  | srTlrdV (f : SR)
  /-- SS.SCMD: Sends a 128-bit skid command to an engine context and writes its sequence number. -/
  | ssScmd (f : SR)
  /-- SS.LNCH: Copies a block record into the die's scheduler and writes a status. -/
  | ssLnch (f : SR)
  /-- SX.GRN: Writes the grain of the block being fed to d. -/
  | sxGrn (f : SX)
  /-- SR.RNG: Evaluates Osier on a and b with OSKEY and writes d and d+1. -/
  | srRng (f : SR)
  /-- SX.SYS: Reads a system register into d. -/
  | sxSysCsrrd (f : SX)
  /-- SX.SYS: Writes d to a system register. -/
  | sxSysCsrwr (f : SX)
  /-- SX.SYS: Takes a software trap with the given code. -/
  | sxSysTrap (f : SX)
  /-- SX.SYS: Returns from a trap handler to EPC, or to idle, clearing H. -/
  | sxSysEret (f : SX)
  /-- SX.SYS: Halts a root program's context, or ends a block's feeding. -/
  | sxSysHalt (f : SX)
  /-- SX.SYS: Makes the context ready and gives up the sequencer. -/
  | sxSysYield (f : SX)
  /-- SX.WIN: Spills the oldest resident register window when more than one is resident. -/
  | sxWinSave (f : SX)
  /-- SX.WIN: Fills the window below the current one when it is not resident. -/
  | sxWinRestore (f : SX)
  /-- SX.WIN: Spills every resident window except the current one. -/
  | sxWinFlush (f : SX)
  /-- SX.CTX: Injects a CTXC token naming a configuration context at every ingress of the stand. -/
  | sxCtxCond (f : SX)
  /-- SX.CTX: Waits until every weave has switched to the context named by the last COND. -/
  | sxCtxSwitch (f : SX)
  /-- SL.LIMM: Supplies the upper 26 bits of a 40-bit immediate to the following SI instruction. -/
  | slLimm (imm26 : BitVec 26)
  /-- CV.ADD: Adds a and b elementwise with wrap in active lanes. -/
  | cvAdd (f : CG)
  /-- CV.SUB: Subtracts b from a elementwise with wrap. -/
  | cvSub (f : CG)
  /-- CV.MUL: Writes the low W bits of the elementwise product. -/
  | cvMul (f : CG)
  /-- CV.MULH: Writes the high W bits of the exact elementwise product. -/
  | cvMulh (f : CG)
  /-- CV.MAD: Writes the wrapped a times b plus c elementwise. -/
  | cvMad (f : CG)
  /-- CV.ADDS: Adds elementwise with saturation. -/
  | cvAdds (f : CG)
  /-- CV.SUBS: Subtracts elementwise with saturation. -/
  | cvSubs (f : CG)
  /-- CV.MIN: Writes the elementwise lesser of a and b. -/
  | cvMin (f : CG)
  /-- CV.MAX: Writes the elementwise greater of a and b. -/
  | cvMax (f : CG)
  /-- CV.ABS: Writes the wrapped absolute value of a. -/
  | cvAbs (f : CG)
  /-- CV.NEG: Writes the wrapped negation of a. -/
  | cvNeg (f : CG)
  /-- CV.AND: Writes a AND b per lane. -/
  | cvAnd (f : CG)
  /-- CV.OR: Writes a OR b per lane. -/
  | cvOr (f : CG)
  /-- CV.XOR: Writes a XOR b per lane. -/
  | cvXor (f : CG)
  /-- CV.ANDN: Writes a AND NOT b per lane. -/
  | cvAndn (f : CG)
  /-- CV.SEL: Selects a or b per lane by a named predicate. -/
  | cvSel (f : CG)
  /-- CV.SHL: Shifts elements left by b. -/
  | cvShl (f : CG)
  /-- CV.SHR: Shifts elements right, zero-filled. -/
  | cvShr (f : CG)
  /-- CV.SRA: Shifts elements right, sign-filled. -/
  | cvSra (f : CG)
  /-- CV.ROT: Rotates elements left by b. -/
  | cvRot (f : CG)
  /-- CV.CLZ: Writes the leading-zero count of each element. -/
  | cvClz (f : CG)
  /-- CV.POPC: Writes the number of ones of each element. -/
  | cvPopc (f : CG)
  /-- CV.CMP: Writes a predicate from an elementwise comparison of a and b. -/
  | cvCmp (f : CG)
  /-- CV.TEST: Writes a predicate from whether a AND b is zero or nonzero. -/
  | cvTest (f : CG)
  /-- CV.MOV: Copies a to d in active lanes. -/
  | cvMov (f : CG)
  /-- CV.MOVK: Writes a sign-extended 24-bit immediate to every lane of d. -/
  | cvMovk (f : CG)
  /-- CV.DOT4: Writes the saturated exact four-byte dot product plus accumulator. -/
  | cvDot4 (f : CG)
  /-- CV.TDOT: Writes the saturated ternary-by-i8 dot product plus accumulator. -/
  | cvTdot (f : CG)
  /-- CV.CVTI: Converts integer elements between widths with wrap or clamp. -/
  | cvCvti (f : CG)
  /-- CV.NZC: Writes a nonzero bitmap and count of each lane's elements. -/
  | cvNzc (f : CG)
  /-- CV.BITR: Reverses the bits of each element. -/
  | cvBitr (f : CG)
  /-- CV.PSET: Writes a predicate by mode BIT, BELOW, LBELOW or ALL. -/
  | cvPset (f : CG)
  /-- CF.FADD: Adds floating-point elements with one rounding. -/
  | cfFadd (f : CG)
  /-- CF.FSUB: Subtracts floating-point elements with one rounding. -/
  | cfFsub (f : CG)
  /-- CF.FMUL: Multiplies floating-point elements with one rounding. -/
  | cfFmul (f : CG)
  /-- CF.FFMA: Computes a times b plus c with one rounding. -/
  | cfFfma (f : CG)
  /-- CF.FMIN: Writes the lesser of two floating-point values, NaN canonical. -/
  | cfFmin (f : CG)
  /-- CF.FMAX: Writes the greater of two floating-point values, NaN canonical. -/
  | cfFmax (f : CG)
  /-- CF.FCMP: Writes a predicate from a full-value floating-point comparison. -/
  | cfFcmp (f : CG)
  /-- CF.FABS: Clears the sign bit of each encoding. -/
  | cfFabs (f : CG)
  /-- CF.FNEG: Inverts the sign bit of each encoding. -/
  | cfFneg (f : CG)
  /-- CF.FCVT: Converts elements between integer and floating formats under a rounding mode and overflow policy. -/
  | cfFcvt (f : CG)
  /-- CF.FRND: Rounds each element to an integral value under FRM.rm. -/
  | cfFrnd (f : CG)
  /-- CF.FCLS: Writes the class code of each floating-point encoding. -/
  | cfFcls (f : CG)
  /-- CF.FRCP: Writes the correctly rounded reciprocal. -/
  | cfFrcp (f : CG)
  /-- CF.FRSQ: Writes the correctly rounded reciprocal square root. -/
  | cfFrsq (f : CG)
  /-- CF.FEXP2: Writes the correctly rounded 2 to the x. -/
  | cfFexp2 (f : CG)
  /-- CF.FLOG2: Writes the correctly rounded base-2 logarithm. -/
  | cfFlog2 (f : CG)
  /-- CF.FSIG: Writes the correctly rounded sigmoid. -/
  | cfFsig (f : CG)
  /-- CF.FTANH: Writes the correctly rounded hyperbolic tangent. -/
  | cfFtanh (f : CG)
  /-- CF.FSINP: Writes the correctly rounded sin of pi x. -/
  | cfFsinp (f : CG)
  /-- CF.FCOSP: Writes the correctly rounded cos of pi x. -/
  | cfFcosp (f : CG)
  /-- CL.LRED: Reduces the weave's elements over the fixed tree and broadcasts the result. -/
  | clLred (f : CG)
  /-- CL.LSCN: Forms inclusive or exclusive prefix results in logical element order. -/
  | clLscn (f : CG)
  /-- CL.LSHF: Permutes whole lanes by index, rotation or XOR. -/
  | clLshf (f : CG)
  /-- CL.LBRD: Broadcasts one lane of a to every active lane. -/
  | clLbrd (f : CG)
  /-- CL.LCMP: Compacts the guarded lanes of a and writes their count. -/
  | clLcmp (f : CG)
  /-- CL.RNGX: Evaluates Osier per lane from the logical lane index and writes four words. -/
  | clRngx (f : CG)
  /-- CX.MZERO: Zeroes an accumulator tile, sets its kind and clears flags and chunk count. -/
  | cxMzero (f : CG)
  /-- CX.MLDB: Loads a resident B buffer from the cell store. -/
  | cxMldb (f : CG)
  /-- CX.MMA: Accumulates A times B into a tile in K-chunks, possibly chained. -/
  | cxMma (f : CG)
  /-- CX.MMAT: Accumulates ternary A times i8 B into an integer tile. -/
  | cxMmat (f : CG)
  /-- CX.MRD: Reads a half column of a tile at one chunk boundary. -/
  | cxMrd (f : CG)
  /-- CX.MDRN: Drains a tile to the cell store with optional scaling and zeroing. -/
  | cxMdrn (f : CG)
  /-- CX.MCHN: Makes the weave lead a chain of weaves of one slot. -/
  | cxMchn (f : CG)
  /-- CX.MBFY: Performs one mixed-radix butterfly stage on a tile pair. -/
  | cxMbfy (f : CG)
  /-- CX.TWG: Sets TWST and generates twiddle factors into registers. -/
  | cxTwg (f : CG)
  /-- CX.MSCL: Scales tile rows by powers of two or sets tile elements. -/
  | cxMscl (f : CG)
  /-- CD.DXLD: Loads and checks a transducer table image into a slot. -/
  | cdDxld (f : CG)
  /-- CD.DXCF: Changes one attribute of a loaded transducer table. -/
  | cdDxcf (f : CG)
  /-- CD.DXRN: Runs one transducer pass in every active lane. -/
  | cdDxrn (f : CG)
  /-- CD.DXFN: Reads pass records or table header views into d. -/
  | cdDxfn (f : CG)
  /-- CD.DXCH: Runs one one-operand transducer pass in the reverse direction. -/
  | cdDxch (f : CG)
  /-- CM.LD: Loads one element per active lane. -/
  | cmLd (f : CM)
  /-- CM.ST: Stores one element per active lane, held in the segment or written to the store. -/
  | cmSt (f : CM)
  /-- CM.LDT: Copies a tensor tile into the weave's store and sets full bits. -/
  | cmLdt (f : CM)
  /-- CM.STT: Copies the store into a tensor tile through the segment. -/
  | cmStt (f : CM)
  /-- CM.LDX: Loads lane values and sends them as reply tokens on a route. -/
  | cmLdx (f : CM)
  /-- CM.UPD: Applies an order-independent update to an update-only line. -/
  | cmUpd (f : CM)
  /-- CM.LOCK: Pins the line of each lane's base at its slice and writes a status. -/
  | cmLock (f : CM)
  /-- CM.UNLK: Unpins the line of each lane's base and writes a status. -/
  | cmUnlk (f : CM)
  /-- CM.PFT: Prefetches a line into the L1 or slice. -/
  | cmPft (f : CM)
  /-- CM.LDBR: Loads elements at digit-reversed indices. -/
  | cmLdbr (f : CM)
  /-- CM.STBR: Stores elements at digit-reversed indices. -/
  | cmStbr (f : CM)
  /-- CM.FILL: Sets or clears the full bits of a range of store lines. -/
  | cmFill (f : CM)
  /-- CM.ATOM: Performs a 32-bit atomic at the home slice per active lane. -/
  | cmAtom (f : CM)
  /-- CP.RECV: Takes one token of any kind from an input port within a limit. -/
  | cpRecv (f : CG)
  /-- CP.SEND: Releases prior memory operations and enqueues a marked token. -/
  | cpSend (f : CG)
  /-- CP.PEEK: Reads the head token of a port without dequeuing it. -/
  | cpPeek (f : CG)
  /-- CP.JOIN: Steps two sorted streams by a comparison of their heads. -/
  | cpJoin (f : CG)
  /-- CP.FILT: Routes the next record down one arm and counts skips on the others. -/
  | cpFilt (f : CG)
  /-- CP.MRGE: Finds the input arm holding the next record using SKIP credits. -/
  | cpMrge (f : CG)
  /-- CP.SKIP: Adds to an output port's pending skip count and flushes it. -/
  | cpSkip (f : CG)
  /-- CP.EOS: Flushes pending skips and enqueues an EOS token. -/
  | cpEos (f : CG)
  /-- CP.CTXC: Enqueues a CTXC token naming a context on an output port. -/
  | cpCtxc (f : CG)
  /-- CC.LOOP: Runs the following body a latched number of times. -/
  | ccLoop (f : CG)
  /-- CC.LBRK: Pops the innermost loop and continues after its body. -/
  | ccLbrk (f : CG)
  /-- CC.BRA: Branches when the active lanes satisfy ANY, ALL or NONE. -/
  | ccBra (f : CG)
  /-- CC.JMP: Jumps unconditionally within the node's text. -/
  | ccJmp (f : CG)
  /-- CC.GRAIN: Writes G to every lane of d. -/
  | ccGrain (f : CG)
  /-- CC.TAGP: Requests a tag publication held until the block's commit. -/
  | ccTagp (f : CG)
  /-- CC.TLW: Waits on an engine context's timeline as an acquire. -/
  | ccTlw (f : CG)
  /-- CC.FENC: Orders the task's memory operations at a scope as full, release or acquire. -/
  | ccFenc (f : CG)
  /-- CC.BARR: Arrives at a quad, die, pkg or pod barrier and waits for it. -/
  | ccBarr (f : CG)
  /-- CC.YLD: Makes the issue stage pass over the task once. -/
  | ccYld (f : CG)
  /-- CC.TRAP: Traps with a software cause and code. -/
  | ccTrap (f : CG)
  /-- CC.RDSR: Reads a special register into d. -/
  | ccRdsr (f : CG)
  /-- CC.WRSR: Writes a writable special register from lane 0 of a. -/
  | ccWrsr (f : CG)
  /-- CC.ENDT: Ends the task. -/
  | ccEndt (f : CG)
  /-- SK_CPYGL: Engine copies a global tile into a cell store, optionally setting full bits. -/
  | skCpygl (f : Skid)
  /-- SK_CPYLG: Engine copies a cell-store tile to a global tile. -/
  | skCpylg (f : Skid)
  /-- SK_CPYGG: Engine copies a global tile to a global tile, possibly to another package. -/
  | skCpygg (f : Skid)
  /-- SK_GATH: Engine answers index tokens with value tokens. -/
  | skGath (f : Skid)
  /-- SK_SCAT: Engine writes value tokens to elements named by coordinate tokens. -/
  | skScat (f : Skid)
  /-- SK_DISP: Engine sends rows to expert routes. -/
  | skDisp (f : Skid)
  /-- SK_CMBN: Engine combines weighted expert rows in fixed order. -/
  | skCmbn (f : Skid)
  /-- SK_REDC: Engine applies an L2 operation from a source tile to a destination tile. -/
  | skRedc (f : Skid)
  /-- SK_FILL: Engine writes a replicated value to every element of a tile. -/
  | skFill (f : Skid)
  /-- SK_PFMC: Engine fetches a tile's lines into their slices. -/
  | skPfmc (f : Skid)
  /-- SK_LKMC: Engine pins each line of a tile, counting refusals. -/
  | skLkmc (f : Skid)
  /-- SK_ULMC: Engine unpins each line of a tile. -/
  | skUlmc (f : Skid)
  /-- SK_COLL: Engine joins a package or pod collective copy or reduction. -/
  | skColl (f : Skid)
  /-- SK_STRM: Engine sends a tile as data tokens on a route. -/
  | skStrm (f : Skid)
  /-- SK_SINK: Engine writes stream tokens as a tile. -/
  | skSink (f : Skid)
  /-- SK_BLAZ: Engine injects a blaze wave at every ingress of the stand. -/
  | skBlaz (f : Skid)
  /-- SK_NOPC: Engine passes each phase once earlier commands have. -/
  | skNopc (f : Skid)
  /-- TASK_FIRE: A task fires once its inputs hold their rates, outputs have slots and declared lines are full. -/
  | taskFire (t : TKey)
  /-- INSTRUCTION_COMPLETION: A cell instruction writes its destinations at completion. -/
  | instructionCompletion (t : TKey)
  /-- TASK_WAIT_EXPIRED: A bounded wait of a fired task reaches its limit and traps with WAIT_EXPIRED. -/
  | taskWaitExpired (t : TKey)
  /-- BACKWARD_BRANCH_LIMIT: A firing's count of taken backward branches reaches the wait limit and traps. -/
  | backwardBranchLimit (t : TKey)
  /-- INPUT_LINE_WAIT_EXPIRED: A firing blocked by an empty declared line for the wait limit traps. -/
  | inputLineWaitExpired (t : TKey)
  /-- MATRIX_CHUNK_COMPLETE: A K-chunk of a multiply completes into its tile and the chunk count advances. -/
  | matrixChunkComplete (w : WKey) (tile : Nat) (badTries : Nat) (row : Nat)
  /-- VF_WATCHDOG_EXPIRY: The VF's time-slice timer reaches VFSLICE and resets the VF's partition. -/
  | vfWatchdogExpiry (vf : Nat)
  /-- FUNCTION_LEVEL_RESET: A function-level reset of a VF acts as a partition reset. -/
  | functionLevelReset (vf : Nat)
  /-- TT_COMMIT: TTCMD 1 installs the staged tensor entry or refuses it. -/
  | ttCommit (vf : Nat)
  /-- TT_READ: TTCMD 2 copies an entry into the staging words. -/
  | ttRead (vf : Nat)
  /-- KERNEL_LOAD: KLCMD 1 checks and installs an object. -/
  | kernelLoad (vf : Nat)
  /-- KERNEL_UNLOAD: KLCMD 2 unloads a kid. -/
  | kernelUnload (vf : Nat)
  /-- ROOT_PROGRAM_CREATE: KLCMD 3 creates the VF's root program and launches its root blocks. -/
  | rootProgramCreate (vf : Nat)
  /-- ROOT_BLOCK_LAUNCH: A root block waiting for scheduler room is launched when room frees. -/
  | rootBlockLaunch (vf : Nat)
  /-- LWPUB: A host write publishes a tag at sys after the host's earlier writes. -/
  | lwpub (vf : Nat) (ref : W64)
  /-- LWQREF: A host write starts a query of a tag reference. -/
  | lwqref (vf : Nat) (ref : W64)
  /-- PUBLICATION: A publication is performed at the tensor's home die. -/
  | publication (die : Nat)
  /-- TAG_NOTIFICATION: A notification from the home die makes waiting records eligible. -/
  | tagNotification (die : Nat)
  /-- BITMAP_POLL: Every 2,048 cycles a scheduler reads the bitmap bits of records on fallen-back tensors. -/
  | bitmapPoll (die : Nat)
  /-- GENERATION_ADVANCE: An advance frees entries, clears bitmap and mark, and increments gen at the home die. -/
  | generationAdvance (die : Nat)
  /-- BLOCK_DISPATCH: The scheduler dispatches an eligible record to a stand that can accept it. -/
  | blockDispatch (die stand : Nat)
  /-- CLASS_PROMOTION: A record waiting a full 2^20 cycles moves one class lower. -/
  | classPromotion (die : Nat)
  /-- STAND_PLACEMENT: The allocator places a stand in a free box when one fits. -/
  | standPlacement (die : Nat)
  /-- SUSPENDED_STAND_REPLACE: A suspended stand is placed again once a box fits and VFSUSP is clear. -/
  | suspendedStandReplace (die : Nat)
  /-- TRACK_SEGMENT_HOP: A token crosses one track segment into the next latch and is route-checked. -/
  | trackSegmentHop (flight : Nat)
  /-- INPUT_BUS_DELIVERY: A token leaves the track and is delivered to the weave's input port, or dropped. -/
  | inputBusDelivery (flight : Nat)
  /-- RIDE_PACKET_ARRIVAL: A ride packet arrives and is placed in its reserved slot in sequence order. -/
  | ridePacketArrival (packet : Nat)
  /-- FIREBREAK_REPORT: A guard sends its report after 1,024 cycles with no further drop. -/
  | firebreakReport (report : Nat)
  /-- RIDE_CONGESTION: A ride buffer stays three-quarters full for 256 cycles and the next ride powers up. -/
  | rideCongestion (die ride : Nat)
  /-- RIDE_POWER_UP: A ride finishes its 4,096-cycle power-up. -/
  | ridePowerUp (die ride : Nat)
  /-- RIDE_POWER_DOWN: A ride idle for 2^16 cycles powers down. -/
  | ridePowerDown (die ride : Nat)
  /-- CTXC_SWITCH: A weave with CTXC at every head switches its active context and forwards CTXC. -/
  | ctxcSwitch (w : WKey)
  /-- COPPICE_WINDOW_END: At a window's end the controller decides on a grain change. -/
  | coppiceWindowEnd (stand : Nat)
  /-- SEQ_WAIT_SATISFIED: A waiting sequencer context's condition holds and it resumes as an acquire. -/
  | seqWaitSatisfied (c : SeqId)
  /-- SEQ_WAIT_EXPIRED: A sequencer wait reaches its limit and traps with WAIT_EXPIRED. -/
  | seqWaitExpired (c : SeqId)
  /-- SCMD_QUEUE_STALL_EXPIRED: SS.SCMD stalled on a full queue for 2^20 cycles traps. -/
  | scmdQueueStallExpired (c : SeqId)
  /-- CTX_SWITCH_WAIT_EXPIRED: SX.CTX SWITCH waiting 2^24 cycles traps. -/
  | ctxSwitchWaitExpired (c : SeqId)
  /-- BARRIER_EXPIRED: A barrier member's 2^24-cycle limit runs out, withdrawing its arrival. -/
  | barrierExpired (m : BarMember)
  /-- L1_EVICTION: A cell L1 line is written back or evicted. -/
  | l1Eviction (w : WKey) (cell line : Nat)
  /-- SLICE_SERVICE: A slice serves one queued line request. -/
  | sliceService (sl : SliceId)
  /-- GDDR_FILL_RETURN: A missed line returns from GDDR 7 and queued requests are replied. -/
  | gddrFillReturn (sl : SliceId) (line : Nat)
  /-- TRANSLATION_WALK: A page-table walk completes or faults. -/
  | translationWalk (vf unit : Nat) (va : BitVec 57)
  /-- TLBINV_ALL: TLBINV 1 invalidates all of the VF's TLB entries. -/
  | tlbinvAll (vf : Nat)
  /-- TLBINV_PAGE: TLBINV 2 invalidates the page holding an address. -/
  | tlbinvPage (vf : Nat) (va : BitVec 57)
  /-- PCMD: Writes back, invalidates and installs a staged partition. -/
  | pcmd (vf : Nat)
  /-- TRAP_EVENT_DELIVERY: A pending trap event is delivered to the stand's sequencer context. -/
  | trapEventDelivery (c : SeqId)
  /-- TQHEAD: A store advances the trap queue head, servicing records. -/
  | tqhead (c : SeqId) (value : W32)
  /-- WEAVE_SNAPSHOT: A weave with BLAZE on every port and no fired task snapshots and forwards BLAZE. -/
  | weaveSnapshot (w : WKey)
  /-- WAVE_COMPLETE: A complete wave commits the segment, performs publications and proceeds with grain, move or pre-emption. -/
  | waveComplete (stand : Nat)
  /-- PERIODIC_BLAZE: The BLZPER timer injects a wave into a stand. -/
  | periodicBlaze (stand : Nat)
  /-- PREEMPT_STARVATION: A class-0 record waiting 2^20 cycles pre-empts a lower-class stand. -/
  | preemptStarvation (die : Nat)
  /-- VFSUSP: A write of VFSUSP pre-empts or releases a VF's stands. -/
  | vfsusp (value : W64)
  /-- HARDWARE_ERROR: A check detects or corrects an error and counts it. -/
  | hardwareError (e : ErrReport)
  /-- ERROR_WINDOW_RESET: Error counts clear at each window start. -/
  | errorWindowReset (die : Nat)
  /-- GROWTH_RING_FLUSH: The controller writes growth rings to flash every 24 hours. -/
  | growthRingFlush
  /-- IFTCMD: A write requests an in-field test of a unit. -/
  | iftcmd (value : W32)
  /-- IFT_START: A requested test starts when its unit becomes vacant. -/
  | iftStart
  /-- IFT_COMPLETE: A test ends, returning the unit to service or keeping it retired. -/
  | iftComplete (passed : Bool)
  /-- CHRET: A write starts retirement of a GDDR 7 channel. -/
  | chret (value : W32)
  /-- CHANNEL_MIGRATION_COMPLETE: Migration ends, MEMTOP updates and VFs resume. -/
  | channelMigrationComplete
  /-- MODULE_RESET: The boot ROM verifies and boots the firmware bank. -/
  | moduleReset
  /-- FW_VERIFY_WRITE: FWCMD 1 verifies an image and writes the inactive bank. -/
  | fwVerifyWrite
  /-- FW_BANK_SWITCH: FWCMD 2 makes the inactive bank active at the next reset. -/
  | fwBankSwitch
  /-- ATCMD: A VF requests a signed attestation report. -/
  | atcmd (vf : Nat)
  /-- LNKCMD: A write retrains a Chiararex port. -/
  | lnkcmd (value : W32)
  /-- LINK_TRAINING_COMPLETE: A Chiararex port finishes training and carries flits. -/
  | linkTrainingComplete (port : Nat)
  /-- THERMAL_TRIP: At 115 C the compute dies are powered down and partitions reset. -/
  | thermalTrip
  /-- EVHEAD: A write advances the event ring head unless past the tail. -/
  | evhead (fn : FnId) (value : W32)
  /-- VFRSET: A write sets a VF's route set or is refused. -/
  | vfrset (die : Nat) (value : W32)
  /-- VFKEY_INSTALL: VFKEYCMD 1 installs a public key in a VF's key slot. -/
  | vfkeyInstall
  /-- VFKEY_CLEAR: VFKEYCMD 2 clears a VF's key slot. -/
  | vfkeyClear
  /-- HOST_CXL_MEM_ACCESS: A host CXL.mem access to device memory is served at its home slice. -/
  | hostCxlMemAccess (vf : Nat) (a : HostAccess)
  /-- REGISTER_WRITE: A write to a register with no behaviour of its own sets its writable fields. -/
  | registerWrite (sp : RegSpace) (off : BitVec 12) (x : RegWrite)
  /-- CHIARAREX_PACKET_ARRIVAL: A flit or packet from another package arrives on a Chiararex port, carrying a pod-scope copy, a collective contribution or a pod barrier arrival. -/
  | chiararexPacketArrival (p : PodPacket)
  /-- HOST_MEMORY_REPLY: A device read of host memory through CXL.cache returns its data to the waiting requester. -/
  | hostMemoryReply (e : EKey) (line : Nat)
  /-- LOADER_COMMAND_COMPLETE: The loader finishes a KLCMD command, writes its status and kid, and clears KLSTAT.busy. -/
  | loaderCommandComplete (vf : Nat)
  /-- TLB_INVALIDATION_COMPLETE: No TLB still holds an entry that a TLBINV write invalidates, and TLBSTAT returns to 0. -/
  | tlbInvalidationComplete (vf : Nat)
  /-- PCMD_COMPLETE: A PCMD finishes its write-back, invalidation and install, releases the held accesses and unblocks pending register reads. -/
  | pcmdComplete (vf : Nat)
  /-- ATTESTATION_REPORT_COMPLETE: The management controller finishes writing the signed report, and ATSTAT leaves busy for done or failed. -/
  | attestationReportComplete (vf : Nat)
  /-- FIRMWARE_WRITE_COMPLETE: Verification and writing of the inactive bank end, and FWSTAT.busy clears with an outcome code. -/
  | firmwareWriteComplete
  /-- VF_KEY_COMMAND_COMPLETE: A VFKEYCMD install or clear finishes, and VFCFGSTAT.busy clears with its outcome. -/
  | vfKeyCommandComplete
  /-- POWER_LOSS: Module power is lost, and the growth-ring temperature and droop bins not yet flushed to flash are lost with it. -/
  | powerLoss
  /-- GROWTH_RING_HOUR: Each hour the controller adds one hour to each unit's bins for peak junction temperature and deepest supply droop. -/
  | growthRingHour (r : List HourBins)
  deriving DecidableEq, Repr

end Sys2Proof
end

