-- ==== Sys2Proof/WellFormed.lean ====
section
/-! DEFINITION. What makes an instruction well formed: the decoding checks of R151 for sequencer words, of R162 (in its
order, by cause) for cell words, and the static part of R165 and R305 for skid commands. -/

namespace Sys2Proof

/-- Why a word is refused: the two causes of R162 (R151 uses the first). -/
inductive DecodeCause where
  | illegal
  | reservedField
  deriving DecidableEq, Repr

/-- The opcode and fields of an instruction in CG format (R161). -/
def Instr.cg : Instr → Option (Nat × CG)
  | .cvAdd f => some (0x00, f)
  | .cvSub f => some (0x01, f)
  | .cvMul f => some (0x02, f)
  | .cvMulh f => some (0x03, f)
  | .cvMad f => some (0x04, f)
  | .cvAdds f => some (0x05, f)
  | .cvSubs f => some (0x06, f)
  | .cvMin f => some (0x07, f)
  | .cvMax f => some (0x08, f)
  | .cvAbs f => some (0x09, f)
  | .cvNeg f => some (0x0A, f)
  | .cvAnd f => some (0x0B, f)
  | .cvOr f => some (0x0C, f)
  | .cvXor f => some (0x0D, f)
  | .cvAndn f => some (0x0E, f)
  | .cvSel f => some (0x0F, f)
  | .cvShl f => some (0x10, f)
  | .cvShr f => some (0x11, f)
  | .cvSra f => some (0x12, f)
  | .cvRot f => some (0x13, f)
  | .cvClz f => some (0x14, f)
  | .cvPopc f => some (0x15, f)
  | .cvCmp f => some (0x16, f)
  | .cvTest f => some (0x17, f)
  | .cvMov f => some (0x18, f)
  | .cvMovk f => some (0x19, f)
  | .cvDot4 f => some (0x1A, f)
  | .cvTdot f => some (0x1B, f)
  | .cvCvti f => some (0x1C, f)
  | .cvNzc f => some (0x1D, f)
  | .cvBitr f => some (0x1E, f)
  | .cvPset f => some (0x1F, f)
  | .cfFadd f => some (0x20, f)
  | .cfFsub f => some (0x21, f)
  | .cfFmul f => some (0x22, f)
  | .cfFfma f => some (0x23, f)
  | .cfFmin f => some (0x24, f)
  | .cfFmax f => some (0x25, f)
  | .cfFcmp f => some (0x26, f)
  | .cfFabs f => some (0x27, f)
  | .cfFneg f => some (0x28, f)
  | .cfFcvt f => some (0x29, f)
  | .cfFrnd f => some (0x2A, f)
  | .cfFcls f => some (0x2B, f)
  | .cfFrcp f => some (0x2C, f)
  | .cfFrsq f => some (0x2D, f)
  | .cfFexp2 f => some (0x2E, f)
  | .cfFlog2 f => some (0x2F, f)
  | .cfFsig f => some (0x30, f)
  | .cfFtanh f => some (0x31, f)
  | .cfFsinp f => some (0x32, f)
  | .cfFcosp f => some (0x33, f)
  | .clLred f => some (0x34, f)
  | .clLscn f => some (0x35, f)
  | .clLshf f => some (0x36, f)
  | .clLbrd f => some (0x37, f)
  | .clLcmp f => some (0x38, f)
  | .clRngx f => some (0x39, f)
  | .cxMzero f => some (0x40, f)
  | .cxMldb f => some (0x41, f)
  | .cxMma f => some (0x42, f)
  | .cxMmat f => some (0x43, f)
  | .cxMrd f => some (0x44, f)
  | .cxMdrn f => some (0x45, f)
  | .cxMchn f => some (0x46, f)
  | .cxMbfy f => some (0x47, f)
  | .cxTwg f => some (0x48, f)
  | .cxMscl f => some (0x49, f)
  | .cdDxld f => some (0x50, f)
  | .cdDxcf f => some (0x51, f)
  | .cdDxrn f => some (0x52, f)
  | .cdDxfn f => some (0x53, f)
  | .cdDxch f => some (0x54, f)
  | .cpRecv f => some (0x70, f)
  | .cpSend f => some (0x71, f)
  | .cpPeek f => some (0x72, f)
  | .cpJoin f => some (0x73, f)
  | .cpFilt f => some (0x74, f)
  | .cpMrge f => some (0x75, f)
  | .cpSkip f => some (0x76, f)
  | .cpEos f => some (0x77, f)
  | .cpCtxc f => some (0x78, f)
  | .ccLoop f => some (0x80, f)
  | .ccLbrk f => some (0x81, f)
  | .ccBra f => some (0x82, f)
  | .ccJmp f => some (0x83, f)
  | .ccGrain f => some (0x84, f)
  | .ccTagp f => some (0x85, f)
  | .ccTlw f => some (0x86, f)
  | .ccFenc f => some (0x87, f)
  | .ccBarr f => some (0x88, f)
  | .ccYld f => some (0x89, f)
  | .ccTrap f => some (0x8A, f)
  | .ccRdsr f => some (0x8B, f)
  | .ccWrsr f => some (0x8C, f)
  | .ccEndt f => some (0x8D, f)
  | _ => none

/-- The opcode and fields of an instruction in CM format (R161). -/
def Instr.cm : Instr → Option (Nat × CM)
  | .cmLd f => some (0x60, f)
  | .cmSt f => some (0x61, f)
  | .cmLdt f => some (0x62, f)
  | .cmStt f => some (0x63, f)
  | .cmLdx f => some (0x64, f)
  | .cmUpd f => some (0x65, f)
  | .cmLock f => some (0x66, f)
  | .cmUnlk f => some (0x67, f)
  | .cmPft f => some (0x68, f)
  | .cmLdbr f => some (0x69, f)
  | .cmStbr f => some (0x6A, f)
  | .cmFill f => some (0x6B, f)
  | .cmAtom f => some (0x6C, f)
  | _ => none

/-- The opcode and fields of a skid command (R164). -/
def Instr.skid : Instr → Option (Nat × Skid)
  | .skCpygl f => some (0x01, f)
  | .skCpylg f => some (0x02, f)
  | .skCpygg f => some (0x03, f)
  | .skGath f => some (0x04, f)
  | .skScat f => some (0x05, f)
  | .skDisp f => some (0x06, f)
  | .skCmbn f => some (0x07, f)
  | .skRedc f => some (0x08, f)
  | .skFill f => some (0x09, f)
  | .skPfmc f => some (0x0A, f)
  | .skLkmc f => some (0x0B, f)
  | .skUlmc f => some (0x0C, f)
  | .skColl f => some (0x0D, f)
  | .skStrm f => some (0x0E, f)
  | .skSink f => some (0x0F, f)
  | .skBlaz f => some (0x10, f)
  | .skNopc f => some (0x11, f)
  | _ => none

/-- A sequencer instruction as its opcode, its function number where the layout has one, and its fields (R145, R150). -/
inductive SeqForm where
  | sr (op fn : Nat) (f : SR)
  | si (op : Nat) (f : SI)
  | sb (op : Nat) (f : SB)
  | sj (op : Nat) (disp : BitVec 26)
  | sx (op fn : Nat) (f : SX)
  | sl (imm : BitVec 26)
  deriving DecidableEq, Repr

/-- The sequencer form of an instruction. -/
def Instr.seqForm : Instr → Option SeqForm
  | .srAluAdd f => some (.sr 0x00 0 f)
  | .srAluSub f => some (.sr 0x00 1 f)
  | .srAluMul f => some (.sr 0x00 2 f)
  | .srAluMulh f => some (.sr 0x00 3 f)
  | .srAluDiv f => some (.sr 0x00 4 f)
  | .srAluDivn f => some (.sr 0x00 5 f)
  | .srAluRem f => some (.sr 0x00 6 f)
  | .srAluRemn f => some (.sr 0x00 7 f)
  | .srAluAnd f => some (.sr 0x00 8 f)
  | .srAluOr f => some (.sr 0x00 9 f)
  | .srAluXor f => some (.sr 0x00 10 f)
  | .srAluAndn f => some (.sr 0x00 11 f)
  | .srAluShl f => some (.sr 0x00 12 f)
  | .srAluShr f => some (.sr 0x00 13 f)
  | .srAluSra f => some (.sr 0x00 14 f)
  | .srAluMin f => some (.sr 0x00 15 f)
  | .srAluMax f => some (.sr 0x00 16 f)
  | .srAluMinn f => some (.sr 0x00 17 f)
  | .srAluMaxn f => some (.sr 0x00 18 f)
  | .srAluClz f => some (.sr 0x00 19 f)
  | .srAluPopc f => some (.sr 0x00 20 f)
  | .srAluSel f => some (.sr 0x00 21 f)
  | .sqCmpEq f => some (.sr 0x01 0 f)
  | .sqCmpNe f => some (.sr 0x01 1 f)
  | .sqCmpLt f => some (.sr 0x01 2 f)
  | .sqCmpLe f => some (.sr 0x01 3 f)
  | .sqCmpLtn f => some (.sr 0x01 4 f)
  | .sqCmpLen f => some (.sr 0x01 5 f)
  | .sqCmpQand f => some (.sr 0x01 6 f)
  | .sqCmpQor f => some (.sr 0x01 7 f)
  | .sqCmpQnot f => some (.sr 0x01 8 f)
  | .siAddi f => some (.si 0x02 f)
  | .siAndi f => some (.si 0x03 f)
  | .siOri f => some (.si 0x04 f)
  | .siXori f => some (.si 0x05 f)
  | .siShli f => some (.si 0x06 f)
  | .siShri f => some (.si 0x07 f)
  | .siSrai f => some (.si 0x08 f)
  | .siCmpi f => some (.si 0x09 f)
  | .siMovi f => some (.si 0x0A f)
  | .siLdb f => some (.si 0x10 f)
  | .siLdh f => some (.si 0x11 f)
  | .siLdw f => some (.si 0x12 f)
  | .siLdd f => some (.si 0x13 f)
  | .siStb f => some (.si 0x14 f)
  | .siSth f => some (.si 0x15 f)
  | .siStw f => some (.si 0x16 f)
  | .siStd f => some (.si 0x17 f)
  | .saAmoAdd f => some (.sr 0x18 0 f)
  | .saAmoMin f => some (.sr 0x18 1 f)
  | .saAmoMax f => some (.sr 0x18 2 f)
  | .saAmoAnd f => some (.sr 0x18 3 f)
  | .saAmoOr f => some (.sr 0x18 4 f)
  | .saAmoXchg f => some (.sr 0x18 5 f)
  | .saAmoCas f => some (.sr 0x18 6 f)
  | .sbBr f => some (.sb 0x20 f)
  | .sbBz f => some (.sb 0x21 f)
  | .sjJmp x => some (.sj 0x22 x)
  | .sjCall x => some (.sj 0x23 x)
  | .sxRet f => some (.sx 0x24 0 f)
  | .srJrJump f => some (.sr 0x25 0 f)
  | .srJrCall f => some (.sr 0x25 1 f)
  | .sbLoop f => some (.sb 0x26 f)
  | .sxLbrk f => some (.sx 0x27 0 f)
  | .srWaitQueue f => some (.sr 0x30 0 f)
  | .srWaitTimeline f => some (.sr 0x30 1 f)
  | .srWaitTag f => some (.sr 0x30 2 f)
  | .sxFence f => some (.sx 0x31 0 f)
  | .sxBar f => some (.sx 0x32 0 f)
  | .srTagp f sc => some (.sr 0x33 sc.toNat f)
  | .srTagq f => some (.sr 0x34 0 f)
  | .srTagg f => some (.sr 0x35 0 f)
  | .srTlrdR f => some (.sr 0x36 0 f)
  | .srTlrdV f => some (.sr 0x36 1 f)
  | .ssScmd f => some (.sr 0x38 0 f)
  | .ssLnch f => some (.sr 0x39 0 f)
  | .sxGrn f => some (.sx 0x3A 0 f)
  | .srRng f => some (.sr 0x3B 0 f)
  | .sxSysCsrrd f => some (.sx 0x3C 0 f)
  | .sxSysCsrwr f => some (.sx 0x3C 1 f)
  | .sxSysTrap f => some (.sx 0x3C 2 f)
  | .sxSysEret f => some (.sx 0x3C 3 f)
  | .sxSysHalt f => some (.sx 0x3C 4 f)
  | .sxSysYield f => some (.sx 0x3C 5 f)
  | .sxWinSave f => some (.sx 0x3D 0 f)
  | .sxWinRestore f => some (.sx 0x3D 1 f)
  | .sxWinFlush f => some (.sx 0x3D 2 f)
  | .sxCtxCond f => some (.sx 0x3E 0 f)
  | .sxCtxSwitch f => some (.sx 0x3E 1 f)
  | .slLimm x => some (.sl x)
  | _ => none

/-! ## Sequencer words (R148, R150, R151) -/

/-- Scopes `SX.FENCE` and `SR.TAGP` accept: die to sys (R150, R163). -/
def wideScope (n : Nat) : Bool := 3 ≤ n && n ≤ 6

/-- Which register fields an SR-layout opcode uses (R150), as (d, a, b); a predicate field is bounded to its low bits. -/
def srFieldsOk (op fn : Nat) (f : SR) : Bool :=
  let z (x : Code6) : Bool := x == 0
  let p (x : Code6) : Bool := x.toNat < 8
  match op with
  | 0x00 => fn ≤ 21 && (if fn = 19 ∨ fn = 20 then z f.b else true)
  | 0x01 => fn ≤ 8 && p f.d &&
      (if fn = 6 ∨ fn = 7 then p f.a && p f.b else if fn = 8 then p f.a && z f.b else true)
  | 0x18 => fn ≤ 6
  | 0x25 => fn ≤ 1 && z f.d && z f.b
  | 0x30 => fn ≤ 2 && (if fn = 2 then z f.b else true)
  | 0x33 => wideScope fn && z f.d && z f.b
  | 0x34 => fn == 0 && z f.b
  | 0x35 => fn == 0 && z f.d && z f.b
  | 0x36 => fn ≤ 1 && z f.b
  | 0x38 => fn == 0
  | 0x39 => fn == 0 && z f.b
  | 0x3B => fn == 0
  | _ => false

/-- The register numbers of R152. -/
def csrOk (n : Nat) : Bool := n ≤ 0x00E

/-- Which fields an SX-layout opcode uses (R150). -/
def sxFieldsOk (op fn : Nat) (f : SX) : Bool :=
  let d0 : Bool := f.d == 0
  let s0 : Bool := f.sel12 == 0
  let sc := f.sel12.toNat % 8
  let id := f.sel12.toNat / 8
  match op with
  | 0x24 => fn == 0 && d0 && s0
  | 0x27 => fn == 0 && d0 && s0
  | 0x31 => fn == 0 && d0 && wideScope sc && id == 0
  | 0x32 => fn == 0 &&
      ((sc == 3 && id < 64) || (sc == 4 && id < 16) || (sc == 5 && id < 8))
  | 0x3A => fn == 0 && s0
  | 0x3C => match fn with
      | 0 => csrOk f.sel12.toNat
      | 1 => csrOk f.sel12.toNat
      | 2 => d0 && f.sel12.toNat < 256
      | 3 => d0 && s0
      | 4 => d0 && s0
      | 5 => d0 && s0
      | _ => false
  | 0x3D => fn ≤ 2 && d0 && s0
  | 0x3E => match fn with
      | 0 => s0
      | 1 => d0 && s0
      | _ => false
  | _ => false

/-- Unused and required-zero fields of the SI forms (R148, R150). -/
def siFieldsOk (op : Nat) (f : SI) : Bool :=
  match op with
  | 0x06 => f.imm14.toNat < 64
  | 0x07 => f.imm14.toNat < 64
  | 0x08 => f.imm14.toNat < 64
  | 0x09 => f.d.toNat / 8 ≤ 5
  | 0x0A => f.a == 0
  | _ => true

/-- Unused fields of the SB forms (R150). -/
def sbFieldsOk (op : Nat) (f : SB) : Bool :=
  match op with
  | 0x20 => f.a == 0
  | 0x21 => f.q == 0
  | 0x26 => f.sense == 0 && f.q == 0
  | _ => false

/-- A sequencer form passes R151. -/
def SeqForm.ok : SeqForm → Bool
  | .sr op fn f => srFieldsOk op fn f
  | .si op f => siFieldsOk op f
  | .sb op f => sbFieldsOk op f
  | .sj _ _ => true
  | .sx op fn f => sxFieldsOk op fn f
  | .sl _ => true

/-! ## Cell words (R154 to R162) -/

/-- How a 6-bit operand field is used (R154). -/
inductive Role where
  | unused
  | src
  | dst
  | reg
  | regs (n : Nat)
  | inPort
  | outPort
  | pred
  | num (bound : Nat)
  | base
  deriving DecidableEq, Repr

/-- A field used in a way R154 or the instruction's entry forbids. -/
def Role.illegal (r : Role) (x : Code6) : Bool :=
  let n := x.toNat
  match r with
  | .unused => false
  | .src => 52 ≤ n && n ≤ 55
  | .dst => (48 ≤ n && n ≤ 51) || 56 ≤ n
  | .reg => 48 ≤ n
  | .regs k => 48 < n + k
  | .inPort => !(48 ≤ n && n ≤ 51)
  | .outPort => !(52 ≤ n && n ≤ 55)
  | .pred => 16 ≤ n
  | .num b => b ≤ n
  | .base => !((n < 48 && n % 2 == 0) || n == 56 || n == 58 || n == 60 || n == 62)

/-- An unused field that is not zero (R162, check 5). -/
def Role.reserved (r : Role) (x : Code6) : Bool := r == .unused && x != 0

/-- The integer types I, the float types F and the 8-bit float types E8 of R160. -/
def tysI : List Nat := [0, 1, 2, 3, 4, 5]
/-- F of R160. -/
def tysF : List Nat := [8, 9, 0xA]
/-- E8 of R160. -/
def tysE8 : List Nat := [0xB, 0xC]

/-- What R160 to R162 and an instruction's entry say of a CG word: types, roles of the operand fields, guard fields in
use, whether its aux value is defined, whether ch is a hint, and further illegal or reserved conditions. -/
structure CgSpec where
  tys : List Nat
  d : Role
  a : Role
  b : Role
  c : Role
  e : Role
  gp : Bool
  gq : Bool
  gm : Bool
  aux : Bool
  ch : Bool
  ill : Bool
  deriving DecidableEq, Repr

/-- A guarded word of types `tys` with destination, two sources and no aux. -/
def CgSpec.plain (f : CG) (tys : List Nat) (d a b c : Role) : CgSpec :=
  ⟨tys, d, a, b, c, .unused, true, true, true, f.aux == 0, false, false⟩

/-- An unguarded word of type 0. -/
def CgSpec.bare (aux : Bool) (d a b c e : Role) : CgSpec :=
  ⟨[0], d, a, b, c, e, false, false, false, aux, false, false⟩

/-- Width in bits of a type code (R33); 0 for the reserved codes. -/
def tyWidth (ty : Nat) : Nat :=
  match ty with
  | 0 => 8 | 1 => 8 | 2 => 16 | 3 => 16 | 4 => 32 | 5 => 32
  | 8 => 16 | 9 => 16 | 0xA => 32 | 0xB => 8 | 0xC => 8 | 0xD => 2 | 0xE => 32
  | _ => 0

/-- A float type code. -/
def isFloatTy (ty : Nat) : Bool := ty == 8 || ty == 9 || ty == 0xA || ty == 0xB || ty == 0xC

/-- Conversion of integers (R210): parts and operands by the two widths. -/
def cvtiSpec (f : CG) : CgSpec :=
  let wd := tyWidth f.ty.toNat
  let st := f.aux.toNat % 16
  let ws := tyWidth st
  let auxOk := st ≤ 5 && f.aux.toNat / 32 == 0
  let r : Role × Role × Role :=
    if ws < wd then (.num (wd / ws), .unused, .unused)
    else if ws = wd then (.unused, .unused, .unused)
    else if ws / wd = 2 then (.src, .unused, .unused)
    else (.src, .src, .src)
  ⟨tysI, .dst, .src, r.1, r.2.1, r.2.2, true, true, true, auxOk, false, false⟩

/-- Conversion of elements (R159, R241): source type in e[3:0], part in aux[1:0], register ranges of a narrowing. -/
def fcvtSpec (f : CG) : CgSpec :=
  let t := f.ty.toNat
  let st := f.e.toNat % 16
  let all := tysI ++ tysF ++ tysE8
  let wd := tyWidth t
  let ws := tyWidth st
  let p := f.aux.toNat % 4
  let stOk := all.contains st && !(tysI.contains t && tysI.contains st)
  let pOk := if ws < wd then p < wd / ws else p == 0
  let aRole : Role := if wd < ws then .regs (ws / wd) else .src
  ⟨all, .dst, aRole, .unused, .unused, .num 64, true, true, true, true, false, !(stOk && pOk)⟩

/-- The spec of a CG opcode on given fields (R160 to R162 and the entries of the CV, CF, CL, CX, CD, CP and CC groups).
[DEDUCED, log 132] -/
def cgSpec (op : Nat) (f : CG) : Option CgSpec :=
  let aux := f.aux.toNat
  let two := fun tys => CgSpec.plain f tys .dst .src .src .unused
  let one := fun tys => CgSpec.plain f tys .dst .src .unused .unused
  match op with
  | 0x00 | 0x01 | 0x02 | 0x03 | 0x05 | 0x06 | 0x07 | 0x08 => some (two tysI)
  | 0x04 => some (CgSpec.plain f tysI .dst .src .src .src)
  | 0x09 | 0x0A | 0x14 | 0x15 | 0x1E => some (one tysI)
  | 0x0B | 0x0C | 0x0D | 0x0E => some (two [0])
  | 0x0F => some { two [0] with aux := aux < 16 }
  | 0x10 | 0x11 | 0x12 | 0x13 => some (two tysI)
  | 0x16 => some { two tysI with d := .pred, aux := aux < 16 && aux % 8 ≤ 5 }
  | 0x17 => some { two tysI with d := .pred, aux := aux < 16 && aux % 8 ≤ 1 }
  | 0x18 => some (one [0])
  | 0x19 => some ⟨[0], .dst, .unused, .unused, .num 64, .num 64, true, true, true, aux == 0, true, false⟩
  | 0x1A => some (CgSpec.plain f [0, 1] .dst .src .src .src)
  | 0x1B => some { CgSpec.plain f [0xD] .dst .src .src .src with aux := aux < 4 }
  | 0x1C => some (cvtiSpec f)
  | 0x1D => some (one (tysI ++ tysF ++ tysE8))
  | 0x1F => some { one [0] with d := .pred, aux := aux ≤ 3 }
  | 0x20 | 0x21 | 0x22 | 0x24 | 0x25 => some (two tysF)
  | 0x23 => some (CgSpec.plain f tysF .dst .src .src .src)
  | 0x26 => some { two tysF with d := .pred, aux := aux < 16 && aux % 8 ≤ 6 }
  | 0x27 | 0x28 | 0x2A | 0x2C | 0x2D | 0x2E | 0x2F | 0x30 | 0x31 | 0x32 | 0x33 => some (one tysF)
  | 0x29 => some (fcvtSpec f)
  | 0x2B => some (one (tysF ++ tysE8))
  | 0x34 => some { one (tysI ++ tysF) with
      aux := aux ≤ 4 && !(3 ≤ aux && isFloatTy f.ty.toNat) }
  | 0x35 => some { one (tysI ++ tysF) with
      b := if aux / 16 % 2 = 1 then .src else .unused
      aux := aux < 32 && aux % 8 ≤ 4 && !(3 ≤ aux % 8 && isFloatTy f.ty.toNat) }
  | 0x36 => some { two [0] with aux := aux ≤ 2 }
  | 0x37 => some (two [0])
  | 0x38 => some { one [0] with d := .dst, e := .dst, ill := f.d == f.e && f.d.toNat < 48 }
  | 0x39 => some { CgSpec.plain f [5, 0xA] (.regs 4) .src .src .src with e := .src, aux := aux < 4 }
  | 0x40 => some (CgSpec.bare (aux < 2) (.num 4) .unused .unused .unused .unused)
  | 0x41 => some { CgSpec.bare (aux == 0) (.num 2) .src .src .src .unused with
      tys := [0, 1, 8, 9, 0xB, 0xC], ch := true }
  | 0x42 => some { CgSpec.bare (aux < 8 && aux / 2 ≤ 2) (.num 4) .src .src .src .unused with
      tys := [0, 1, 8, 9, 0xB, 0xC]
      a := if aux / 2 = 2 then .unused else .src
      b := if aux / 2 = 2 then .unused else .src
      c := if aux / 2 = 2 then .unused else .src }
  | 0x43 => some { CgSpec.bare (aux < 8 && aux / 2 ≤ 2) (.num 4) .src .src .src .unused with
      tys := [0xD]
      a := if aux / 2 = 2 then .unused else .src
      b := if aux / 2 = 2 then .unused else .src
      c := if aux / 2 = 2 then .unused else .src }
  | 0x44 => some { CgSpec.plain f [4, 0xA] .dst (.num 4) .src .unused with
      aux := aux < 4, e := if aux / 2 % 2 = 1 then .dst else .unused }
  | 0x45 => some { CgSpec.bare (aux % 4 == 0) .unused (.num 4) .src .src .unused with
      tys := tysI ++ tysF ++ tysE8
      d := if aux / 4 % 2 = 1 then .src else .unused
      e := if aux / 4 % 2 = 1 then .src else .unused }
  | 0x46 => some (CgSpec.bare (aux == 0) .unused .src .unused .unused .unused)
  | 0x47 => some { CgSpec.bare (aux < 32) (.num 4) .src .src .src .unused with
      tys := [0xA], ill := f.d.toNat % 2 == 1 }
  | 0x48 => some { two [0xA] with d := .regs 2, aux := aux < 2 }
  | 0x49 => some { CgSpec.plain f [0xA] (.num 4) .src .src .src with
      aux := aux < 2, a := if aux = 0 then .unused else .src }
  | 0x50 => some { CgSpec.bare (aux < 2) (.num 4) .src .unused .unused .unused with ch := true }
  | 0x51 => some (CgSpec.bare (aux < 4) (.num 4) .src .unused .unused .unused)
  | 0x52 => some ⟨[0xE], .dst, .src, .src, if aux / 32 = 1 then .src else .unused,
      if aux / 16 % 2 = 1 then .reg else .unused, true, true, false, true, false,
      aux / 16 % 2 == 1 && f.d == f.e⟩
  | 0x53 => some { CgSpec.plain f [0] .dst .unused .unused .unused with
      aux := aux < 16 && !(aux / 4 == 0 && aux % 4 != 0) }
  | 0x54 => some ⟨[0xE], .dst, .src, .unused, if aux / 32 = 1 then .src else .unused,
      if aux / 16 % 2 = 1 then .reg else .unused, true, true, false, true, false,
      aux / 16 % 2 == 1 && f.d == f.e⟩
  | 0x70 => some { CgSpec.plain f [0] .dst .inPort .src .unused with
      e := if aux = 1 then .dst else .unused, aux := aux < 2 }
  | 0x71 => some { one [0] with d := .outPort, aux := aux ≤ 4 }
  | 0x72 => some { CgSpec.plain f [0] .dst .inPort .src .unused with
      e := if aux = 1 then .dst else .unused, aux := aux < 2 }
  | 0x73 => some ⟨tysI, .dst, .inPort, .inPort, .dst, .dst, false, true, false, true, false, false⟩
  | 0x74 => some (CgSpec.bare (aux < 16) .unused .src .unused .unused .unused)
  | 0x75 => some (CgSpec.bare (aux < 16) .dst .unused .unused .unused .unused)
  | 0x76 => some (CgSpec.bare (aux == 0) .outPort .src .unused .unused .unused)
  | 0x77 => some (CgSpec.bare (aux == 0) .outPort .unused .unused .unused .unused)
  | 0x78 => some (CgSpec.bare (aux == 0) .outPort .src .unused .unused .unused)
  | 0x80 => some (CgSpec.bare (aux == 0) .unused .src .unused (.num 64) (.num 64))
  | 0x81 => some (CgSpec.bare (aux == 0) .unused .unused .unused .unused .unused)
  | 0x82 => some { CgSpec.plain f [0] .unused .unused .unused (.num 64) with
      e := .num 64, aux := aux ≤ 2 }
  | 0x83 => some (CgSpec.bare (aux == 0) .unused .unused .unused (.num 64) (.num 64))
  | 0x84 => some (CgSpec.bare (aux == 0) .dst .unused .unused .unused .unused)
  | 0x85 => some (CgSpec.bare (3 ≤ aux && aux ≤ 6) .unused .src .unused .unused .unused)
  | 0x86 => some (CgSpec.bare (aux == 0) .unused .src .src .src .unused)
  | 0x87 => some (CgSpec.bare (aux < 24 && 1 ≤ aux % 8 && aux % 8 ≤ 6) .unused .unused .unused .unused .unused)
  | 0x88 => some (CgSpec.bare (2 ≤ aux && aux ≤ 5) .dst .src .unused .unused
      (.num (if aux = 2 then 4 else if aux = 3 then 64 else if aux = 4 then 16 else 8)))
  | 0x89 => some (CgSpec.bare (aux == 0) .unused .unused .unused .unused .unused)
  | 0x8A => some (CgSpec.bare true .unused .unused .unused .unused .unused)
  | 0x8B => some { CgSpec.plain f [0] .dst .unused .unused .unused with aux := aux ≤ 9 }
  | 0x8C => some (CgSpec.bare (6 ≤ aux && aux ≤ 8) .unused .src .unused .unused .unused)
  | 0x8D => some (CgSpec.bare (aux == 0) .unused .unused .unused .unused .unused)
  | _ => none

/-- Checks 1 to 4 of R162 on a CG word. -/
def cgIllegal (op : Nat) (f : CG) : Bool :=
  match cgSpec op f with
  | none => true
  | some k =>
    !(k.tys.contains f.ty.toNat) || !k.aux || k.d.illegal f.d || k.a.illegal f.a || k.b.illegal f.b
      || k.c.illegal f.c || k.e.illegal f.e || k.ill

/-- Fields that an entry sets to zero beyond those of its roles: sc in CP.EOS, CC.GRAIN, CC.YLD, CC.TRAP and CC.ENDT (R219,
R227, R232), and e[5:4] in CF.FCVT (R159). -/
def cgFixed (op : Nat) (f : CG) : Bool :=
  ([0x77, 0x84, 0x89, 0x8A, 0x8D].contains op && f.sc != 0) || (op == 0x29 && 16 ≤ f.e.toNat)

/-- Check 5 of R162 on a CG word. -/
def cgReserved (op : Nat) (f : CG) : Bool :=
  match cgSpec op f with
  | none => false
  | some k =>
    cgFixed op f
      || k.d.reserved f.d || k.a.reserved f.a || k.b.reserved f.b || k.c.reserved f.c || k.e.reserved f.e
      || (!k.gp && f.gp != 0) || (!k.gq && f.gq != 0) || (!k.gm && f.gm != 0) || (!k.ch && f.ch != 0)

/-- What R160, R162 and the entries say of a CM word: types, roles, whether gp and ch are used. -/
structure CmSpec where
  tys : List Nat
  d : Role
  a : Role
  b : Role
  gp : Bool
  ch : Bool
  deriving DecidableEq, Repr

/-- The spec of a CM opcode on given fields (R160, R295 to R303). -/
def cmSpec (op : Nat) (f : CM) : Option CmSpec :=
  let elt := tysI ++ tysF ++ tysE8 ++ [0xD]
  match op with
  | 0x60 => some ⟨elt, .dst, .base, .src, true, true⟩
  | 0x61 => some ⟨elt, .src, .base, .src, true, true⟩
  | 0x62 => some ⟨[0xF], .src, .src, .src, false, false⟩
  | 0x63 => some ⟨[0xF], .src, .src, .src, false, false⟩
  | 0x64 => some ⟨elt, .unused, .base, .num 64, true, false⟩
  | 0x65 => some ⟨if f.b.toNat = 1 ∨ f.b.toNat = 2 then tysI ++ tysF else tysI, .src, .base, .num 5, true, false⟩
  | 0x66 => some ⟨[0], .dst, .base, .unused, true, false⟩
  | 0x67 => some ⟨[0], .dst, .base, .unused, true, false⟩
  | 0x68 => some ⟨[0], .unused, .base, .src, true, true⟩
  | 0x69 => some ⟨elt, .dst, .base, .src, true, true⟩
  | 0x6A => some ⟨elt, .src, .base, .src, true, true⟩
  | 0x6B => some ⟨[0], .num 2, .src, .src, false, false⟩
  | 0x6C => some ⟨[4, 5], .regs 2, .base, .num 7, true, false⟩
  | _ => none

/-- Checks 1 to 4 of R162 on a CM word. -/
def cmIllegal (op : Nat) (f : CM) : Bool :=
  match cmSpec op f with
  | none => true
  | some k => !(k.tys.contains f.ty.toNat) || k.d.illegal f.d || k.a.illegal f.a || k.b.illegal f.b

/-- Check 5 of R162 on a CM word. -/
def cmReserved (op : Nat) (f : CM) : Bool :=
  match cmSpec op f with
  | none => false
  | some k =>
    k.d.reserved f.d || k.a.reserved f.a || k.b.reserved f.b || (!k.gp && f.gp != 0) || (!k.ch && f.ch != 0)

/-- The first failing check of R162 on a cell instruction, by cause. [DEDUCED, log 57] -/
def cellCheck (i : Instr) : Option DecodeCause :=
  match i.cg with
  | some (op, f) =>
    if cgIllegal op f then some .illegal else if cgReserved op f then some .reservedField else none
  | none =>
    match i.cm with
    | some (op, f) =>
      if cmIllegal op f then some .illegal else if cmReserved op f then some .reservedField else none
    | none => none

/-! ## Skid commands (R165, R305) -/

/-- Which fields a command uses (R305): stid, dtid, l2op, fe, pub, scope, route, tile coordinates t0 and t1 to t3. -/
structure SkidUse where
  stid : Bool
  dtid : Bool
  l2op : Bool
  fe : Bool
  pub : Bool
  scope : Bool
  route : Bool
  t0 : Bool
  t123 : Bool
  deriving DecidableEq, Repr

/-- The fields a command uses, by opcode (R305). -/
def skidUse (op : Nat) : Option SkidUse :=
  match op with
  | 0x01 => some ⟨true, true, false, true, false, true, false, true, true⟩
  | 0x02 => some ⟨true, true, false, false, true, true, false, true, true⟩
  | 0x03 => some ⟨true, true, false, false, true, true, false, true, true⟩
  | 0x04 => some ⟨true, false, false, false, false, false, true, false, false⟩
  | 0x05 => some ⟨false, true, false, false, false, true, false, false, false⟩
  | 0x06 => some ⟨true, false, false, false, false, false, true, true, false⟩
  | 0x07 => some ⟨false, true, false, false, false, true, false, true, false⟩
  | 0x08 => some ⟨true, true, true, false, true, true, false, true, true⟩
  | 0x09 => some ⟨true, true, false, true, true, true, false, true, true⟩
  | 0x0A => some ⟨true, false, false, false, false, false, false, true, true⟩
  | 0x0B => some ⟨true, false, false, false, false, false, false, true, true⟩
  | 0x0C => some ⟨true, false, false, false, false, false, false, true, true⟩
  | 0x0D => some ⟨true, true, true, false, true, true, false, true, true⟩
  | 0x0E => some ⟨true, false, false, false, false, false, true, true, true⟩
  | 0x0F => some ⟨false, true, false, false, true, true, false, true, true⟩
  | 0x10 => some ⟨false, false, false, false, false, false, false, false, false⟩
  | 0x11 => some ⟨false, false, false, false, false, false, false, false, false⟩
  | _ => none

/-- The part of R165 that the command's word alone decides: unused fields, l2op and scope. DISP and CMBN counts run
from 1 to 16 (R307), REDC needs an operation (R305), COLL a scope of pkg or pod (R308). -/
def skidOk (op : Nat) (f : Skid) : Bool :=
  match skidUse op with
  | none => false
  | some u =>
    (u.stid || f.stid == 0) && (u.dtid || f.dtid == 0) && (u.l2op || f.l2op == 0) && f.l2op.toNat < 6
      && (u.fe || f.fe == 0) && (u.pub || f.pub == 0)
      && (if u.scope then 1 ≤ f.scope.toNat && f.scope.toNat ≤ 6 else f.scope == 0)
      && (u.route || f.route == 0) && (u.t0 || f.t0 == 0)
      && (u.t123 || (f.t1 == 0 && f.t2 == 0 && f.t3 == 0))
      && (if op = 0x06 ∨ op = 0x07 then 1 ≤ f.t0.toNat && f.t0.toNat ≤ 16 else true)
      && (if op = 0x08 then f.l2op != 0 else true)
      && (if op = 0x0D then f.scope == 4 || f.scope == 5 else true)

/-! ## Well-formed instructions -/

/-- An instruction that is well formed: a sequencer word passes R151, a cell word R162, a skid command the static part
of R165; an event has no encoding and is always well formed. -/
def Instr.wf (i : Instr) : Bool :=
  match i.seqForm with
  | some f => f.ok
  | none =>
    match i.skid with
    | some (op, f) => skidOk op f
    | none => cellCheck i == none

end Sys2Proof
end

