-- ==== Sys2Proof/Decode.lean ====
section
/-! DEFINITION. Decoding and encoding of the three instruction layers (R145 to R165): fields are taken out of a word
once, here; a word that R151 or R162 refuses is rejected with its cause. The encoder is written from the same formats. -/

namespace Sys2Proof

/-- The unsigned number in bits [lo + len - 1 : lo] of a number. -/
def bitsAt (w lo len : Nat) : Nat := w / 2 ^ lo % 2 ^ len

/-- The sequencer instruction of an SR-layout opcode and function (R150); the scope of `SR.TAGP` is its fn[2:0]. -/
def srInstr (op fn : Nat) (f : SR) : Option Instr :=
  match op with
  | 0x00 => match fn with
    | 0 => some (.srAluAdd f)
    | 1 => some (.srAluSub f)
    | 2 => some (.srAluMul f)
    | 3 => some (.srAluMulh f)
    | 4 => some (.srAluDiv f)
    | 5 => some (.srAluDivn f)
    | 6 => some (.srAluRem f)
    | 7 => some (.srAluRemn f)
    | 8 => some (.srAluAnd f)
    | 9 => some (.srAluOr f)
    | 10 => some (.srAluXor f)
    | 11 => some (.srAluAndn f)
    | 12 => some (.srAluShl f)
    | 13 => some (.srAluShr f)
    | 14 => some (.srAluSra f)
    | 15 => some (.srAluMin f)
    | 16 => some (.srAluMax f)
    | 17 => some (.srAluMinn f)
    | 18 => some (.srAluMaxn f)
    | 19 => some (.srAluClz f)
    | 20 => some (.srAluPopc f)
    | 21 => some (.srAluSel f)
    | _ => none
  | 0x01 => match fn with
    | 0 => some (.sqCmpEq f)
    | 1 => some (.sqCmpNe f)
    | 2 => some (.sqCmpLt f)
    | 3 => some (.sqCmpLe f)
    | 4 => some (.sqCmpLtn f)
    | 5 => some (.sqCmpLen f)
    | 6 => some (.sqCmpQand f)
    | 7 => some (.sqCmpQor f)
    | 8 => some (.sqCmpQnot f)
    | _ => none
  | 0x18 => match fn with
    | 0 => some (.saAmoAdd f)
    | 1 => some (.saAmoMin f)
    | 2 => some (.saAmoMax f)
    | 3 => some (.saAmoAnd f)
    | 4 => some (.saAmoOr f)
    | 5 => some (.saAmoXchg f)
    | 6 => some (.saAmoCas f)
    | _ => none
  | 0x25 => match fn with
    | 0 => some (.srJrJump f)
    | 1 => some (.srJrCall f)
    | _ => none
  | 0x30 => match fn with
    | 0 => some (.srWaitQueue f)
    | 1 => some (.srWaitTimeline f)
    | 2 => some (.srWaitTag f)
    | _ => none
  | 0x34 => match fn with
    | 0 => some (.srTagq f)
    | _ => none
  | 0x35 => match fn with
    | 0 => some (.srTagg f)
    | _ => none
  | 0x36 => match fn with
    | 0 => some (.srTlrdR f)
    | 1 => some (.srTlrdV f)
    | _ => none
  | 0x38 => match fn with
    | 0 => some (.ssScmd f)
    | _ => none
  | 0x39 => match fn with
    | 0 => some (.ssLnch f)
    | _ => none
  | 0x3B => match fn with
    | 0 => some (.srRng f)
    | _ => none
  | 0x33 => if fn < 8 then some (.srTagp f (BitVec.ofNat 3 fn)) else none
  | _ => none

/-- The sequencer instruction of an SI-layout opcode (R150). -/
def siInstr (op : Nat) (f : SI) : Option Instr :=
  match op with
  | 0x02 => some (.siAddi f)
  | 0x03 => some (.siAndi f)
  | 0x04 => some (.siOri f)
  | 0x05 => some (.siXori f)
  | 0x06 => some (.siShli f)
  | 0x07 => some (.siShri f)
  | 0x08 => some (.siSrai f)
  | 0x09 => some (.siCmpi f)
  | 0x0A => some (.siMovi f)
  | 0x10 => some (.siLdb f)
  | 0x11 => some (.siLdh f)
  | 0x12 => some (.siLdw f)
  | 0x13 => some (.siLdd f)
  | 0x14 => some (.siStb f)
  | 0x15 => some (.siSth f)
  | 0x16 => some (.siStw f)
  | 0x17 => some (.siStd f)
  | _ => none

/-- The sequencer instruction of an SB-layout opcode (R150). -/
def sbInstr (op : Nat) (f : SB) : Option Instr :=
  match op with
  | 0x20 => some (.sbBr f)
  | 0x21 => some (.sbBz f)
  | 0x26 => some (.sbLoop f)
  | _ => none

/-- The sequencer instruction of an SJ-layout opcode (R150). -/
def sjInstr (op : Nat) (x : BitVec 26) : Option Instr :=
  match op with
  | 0x22 => some (.sjJmp x)
  | 0x23 => some (.sjCall x)
  | _ => none

/-- The sequencer instruction of an SX-layout opcode and function (R150). -/
def sxInstr (op fn : Nat) (f : SX) : Option Instr :=
  match op with
  | 0x24 => match fn with
    | 0 => some (.sxRet f)
    | _ => none
  | 0x27 => match fn with
    | 0 => some (.sxLbrk f)
    | _ => none
  | 0x31 => match fn with
    | 0 => some (.sxFence f)
    | _ => none
  | 0x32 => match fn with
    | 0 => some (.sxBar f)
    | _ => none
  | 0x3A => match fn with
    | 0 => some (.sxGrn f)
    | _ => none
  | 0x3C => match fn with
    | 0 => some (.sxSysCsrrd f)
    | 1 => some (.sxSysCsrwr f)
    | 2 => some (.sxSysTrap f)
    | 3 => some (.sxSysEret f)
    | 4 => some (.sxSysHalt f)
    | 5 => some (.sxSysYield f)
    | _ => none
  | 0x3D => match fn with
    | 0 => some (.sxWinSave f)
    | 1 => some (.sxWinRestore f)
    | 2 => some (.sxWinFlush f)
    | _ => none
  | 0x3E => match fn with
    | 0 => some (.sxCtxCond f)
    | 1 => some (.sxCtxSwitch f)
    | _ => none
  | _ => none

/-- The cell instruction of a CG opcode (R161). -/
def cgInstr (op : Nat) (f : CG) : Option Instr :=
  match op with
  | 0x00 => some (.cvAdd f)
  | 0x01 => some (.cvSub f)
  | 0x02 => some (.cvMul f)
  | 0x03 => some (.cvMulh f)
  | 0x04 => some (.cvMad f)
  | 0x05 => some (.cvAdds f)
  | 0x06 => some (.cvSubs f)
  | 0x07 => some (.cvMin f)
  | 0x08 => some (.cvMax f)
  | 0x09 => some (.cvAbs f)
  | 0x0A => some (.cvNeg f)
  | 0x0B => some (.cvAnd f)
  | 0x0C => some (.cvOr f)
  | 0x0D => some (.cvXor f)
  | 0x0E => some (.cvAndn f)
  | 0x0F => some (.cvSel f)
  | 0x10 => some (.cvShl f)
  | 0x11 => some (.cvShr f)
  | 0x12 => some (.cvSra f)
  | 0x13 => some (.cvRot f)
  | 0x14 => some (.cvClz f)
  | 0x15 => some (.cvPopc f)
  | 0x16 => some (.cvCmp f)
  | 0x17 => some (.cvTest f)
  | 0x18 => some (.cvMov f)
  | 0x19 => some (.cvMovk f)
  | 0x1A => some (.cvDot4 f)
  | 0x1B => some (.cvTdot f)
  | 0x1C => some (.cvCvti f)
  | 0x1D => some (.cvNzc f)
  | 0x1E => some (.cvBitr f)
  | 0x1F => some (.cvPset f)
  | 0x20 => some (.cfFadd f)
  | 0x21 => some (.cfFsub f)
  | 0x22 => some (.cfFmul f)
  | 0x23 => some (.cfFfma f)
  | 0x24 => some (.cfFmin f)
  | 0x25 => some (.cfFmax f)
  | 0x26 => some (.cfFcmp f)
  | 0x27 => some (.cfFabs f)
  | 0x28 => some (.cfFneg f)
  | 0x29 => some (.cfFcvt f)
  | 0x2A => some (.cfFrnd f)
  | 0x2B => some (.cfFcls f)
  | 0x2C => some (.cfFrcp f)
  | 0x2D => some (.cfFrsq f)
  | 0x2E => some (.cfFexp2 f)
  | 0x2F => some (.cfFlog2 f)
  | 0x30 => some (.cfFsig f)
  | 0x31 => some (.cfFtanh f)
  | 0x32 => some (.cfFsinp f)
  | 0x33 => some (.cfFcosp f)
  | 0x34 => some (.clLred f)
  | 0x35 => some (.clLscn f)
  | 0x36 => some (.clLshf f)
  | 0x37 => some (.clLbrd f)
  | 0x38 => some (.clLcmp f)
  | 0x39 => some (.clRngx f)
  | 0x40 => some (.cxMzero f)
  | 0x41 => some (.cxMldb f)
  | 0x42 => some (.cxMma f)
  | 0x43 => some (.cxMmat f)
  | 0x44 => some (.cxMrd f)
  | 0x45 => some (.cxMdrn f)
  | 0x46 => some (.cxMchn f)
  | 0x47 => some (.cxMbfy f)
  | 0x48 => some (.cxTwg f)
  | 0x49 => some (.cxMscl f)
  | 0x50 => some (.cdDxld f)
  | 0x51 => some (.cdDxcf f)
  | 0x52 => some (.cdDxrn f)
  | 0x53 => some (.cdDxfn f)
  | 0x54 => some (.cdDxch f)
  | 0x70 => some (.cpRecv f)
  | 0x71 => some (.cpSend f)
  | 0x72 => some (.cpPeek f)
  | 0x73 => some (.cpJoin f)
  | 0x74 => some (.cpFilt f)
  | 0x75 => some (.cpMrge f)
  | 0x76 => some (.cpSkip f)
  | 0x77 => some (.cpEos f)
  | 0x78 => some (.cpCtxc f)
  | 0x80 => some (.ccLoop f)
  | 0x81 => some (.ccLbrk f)
  | 0x82 => some (.ccBra f)
  | 0x83 => some (.ccJmp f)
  | 0x84 => some (.ccGrain f)
  | 0x85 => some (.ccTagp f)
  | 0x86 => some (.ccTlw f)
  | 0x87 => some (.ccFenc f)
  | 0x88 => some (.ccBarr f)
  | 0x89 => some (.ccYld f)
  | 0x8A => some (.ccTrap f)
  | 0x8B => some (.ccRdsr f)
  | 0x8C => some (.ccWrsr f)
  | 0x8D => some (.ccEndt f)
  | _ => none

/-- The cell instruction of a CM opcode (R161). -/
def cmInstr (op : Nat) (f : CM) : Option Instr :=
  match op with
  | 0x60 => some (.cmLd f)
  | 0x61 => some (.cmSt f)
  | 0x62 => some (.cmLdt f)
  | 0x63 => some (.cmStt f)
  | 0x64 => some (.cmLdx f)
  | 0x65 => some (.cmUpd f)
  | 0x66 => some (.cmLock f)
  | 0x67 => some (.cmUnlk f)
  | 0x68 => some (.cmPft f)
  | 0x69 => some (.cmLdbr f)
  | 0x6A => some (.cmStbr f)
  | 0x6B => some (.cmFill f)
  | 0x6C => some (.cmAtom f)
  | _ => none

/-- The skid command of an opcode (R164). -/
def skidInstr (op : Nat) (f : Skid) : Option Instr :=
  match op with
  | 0x01 => some (.skCpygl f)
  | 0x02 => some (.skCpylg f)
  | 0x03 => some (.skCpygg f)
  | 0x04 => some (.skGath f)
  | 0x05 => some (.skScat f)
  | 0x06 => some (.skDisp f)
  | 0x07 => some (.skCmbn f)
  | 0x08 => some (.skRedc f)
  | 0x09 => some (.skFill f)
  | 0x0A => some (.skPfmc f)
  | 0x0B => some (.skLkmc f)
  | 0x0C => some (.skUlmc f)
  | 0x0D => some (.skColl f)
  | 0x0E => some (.skStrm f)
  | 0x0F => some (.skSink f)
  | 0x10 => some (.skBlaz f)
  | 0x11 => some (.skNopc f)
  | _ => none
/-! ## Words to instructions -/

/-- The layout of a sequencer opcode (R150). -/
inductive SeqLayout where
  | sr
  | si
  | sb
  | sj
  | sx
  | sl
  | bad
  deriving DecidableEq, Repr

/-- Which layout an opcode has (R145, R150); `bad` for the unassigned opcodes. -/
def seqLayout (op : Nat) : SeqLayout :=
  match op with
  | 0x00 | 0x01 | 0x18 | 0x25 | 0x30 | 0x33 | 0x34 | 0x35 | 0x36 | 0x38 | 0x39 | 0x3B => .sr
  | 0x02 | 0x03 | 0x04 | 0x05 | 0x06 | 0x07 | 0x08 | 0x09 | 0x0A => .si
  | 0x10 | 0x11 | 0x12 | 0x13 | 0x14 | 0x15 | 0x16 | 0x17 => .si
  | 0x20 | 0x21 | 0x26 => .sb
  | 0x22 | 0x23 => .sj
  | 0x24 | 0x27 | 0x31 | 0x32 | 0x3A | 0x3C | 0x3D | 0x3E => .sx
  | 0x3F => .sl
  | _ => .bad

/-- SR fields of a word (R145). -/
def srFields (w : W32) : SR :=
  ⟨w.extractLsb' 20 6, w.extractLsb' 14 6, w.extractLsb' 8 6, w.extractLsb' 0 3⟩

/-- SI fields of a word (R145). -/
def siFields (w : W32) : SI := ⟨w.extractLsb' 20 6, w.extractLsb' 14 6, w.extractLsb' 0 14⟩

/-- SB fields of a word (R145). -/
def sbFields (w : W32) : SB :=
  ⟨w.extractLsb' 25 1, w.extractLsb' 22 3, w.extractLsb' 16 6, w.extractLsb' 0 16⟩

/-- SX fields of a word (R145). -/
def sxFields (w : W32) : SX := ⟨w.extractLsb' 20 6, w.extractLsb' 8 12⟩

/-- The instruction whose layout and fields a sequencer word holds, before the checks of R151. -/
def parseSeq (w : W32) : Option Instr :=
  let op := (w.extractLsb' 26 6).toNat
  match seqLayout op with
  | .sr => srInstr op (w.extractLsb' 3 5).toNat (srFields w)
  | .si => siInstr op (siFields w)
  | .sb => sbInstr op (sbFields w)
  | .sj => sjInstr op (w.extractLsb' 0 26)
  | .sx => sxInstr op (w.extractLsb' 0 8).toNat (sxFields w)
  | .sl => some (.slLimm (w.extractLsb' 0 26))
  | .bad => none

/-- Decode a sequencer word: every word R151 refuses traps with ILLEGAL. -/
def decodeSeq (w : W32) : Except DecodeCause Instr :=
  match parseSeq w with
  | some i => if i.wf then .ok i else .error .illegal
  | none => .error .illegal

/-- CG fields of a word (R153). -/
def cgFields (w : W64) : CG :=
  ⟨w.extractLsb' 52 4, w.extractLsb' 46 6, w.extractLsb' 40 6, w.extractLsb' 34 6, w.extractLsb' 28 6,
   w.extractLsb' 22 6, w.extractLsb' 18 4, w.extractLsb' 14 4, w.extractLsb' 12 2, w.extractLsb' 10 2,
   w.extractLsb' 4 6, w.extractLsb' 0 4⟩

/-- CM fields of a word (R153). -/
def cmFields (w : W64) : CM :=
  ⟨w.extractLsb' 52 4, w.extractLsb' 46 6, w.extractLsb' 40 6, w.extractLsb' 34 6, w.extractLsb' 26 8,
   w.extractLsb' 18 8, w.extractLsb' 10 8, w.extractLsb' 8 2, w.extractLsb' 4 4, w.extractLsb' 0 4⟩

/-- The instruction of a cell word, before the checks of R162: opcodes 0x60 to 0x6F use the CM format (R153). -/
def parseCell (w : W64) : Option Instr :=
  let op := (w.extractLsb' 56 8).toNat
  if op / 16 = 6 then cmInstr op (cmFields w) else cgInstr op (cgFields w)

/-- Decode a cell word by R162: the first failing check decides the cause. -/
def decodeCell (w : W64) : Except DecodeCause Instr :=
  match parseCell w with
  | some i =>
    match cellCheck i with
    | none => .ok i
    | some c => .error c
  | none => .error .illegal

/-- Skid command fields (R164). -/
def skidFields (w : W128) : Skid :=
  ⟨w.extractLsb' 112 8, w.extractLsb' 96 16, w.extractLsb' 80 16, w.extractLsb' 77 3, w.extractLsb' 76 1,
   w.extractLsb' 75 1, w.extractLsb' 72 3, w.extractLsb' 64 8, w.extractLsb' 48 16, w.extractLsb' 32 16,
   w.extractLsb' 16 16, w.extractLsb' 0 16⟩

/-- Decode a skid command: none when its opcode is unassigned (R164). Whether the fields are as R165 requires is
checked when the command is sent, since it also depends on the stand. -/
def decodeSkid (w : W128) : Option Instr := skidInstr (w.extractLsb' 120 8).toNat (skidFields w)

/-! ## Instructions to words -/

/-- An SR word from its parts (R145). -/
def srWord (op fn : Nat) (f : SR) : W32 :=
  BitVec.ofNat 6 op ++ f.d ++ f.a ++ f.b ++ BitVec.ofNat 5 fn ++ f.q

/-- An SI word (R145). -/
def siWord (op : Nat) (f : SI) : W32 := BitVec.ofNat 6 op ++ f.d ++ f.a ++ f.imm14

/-- An SB word (R145). -/
def sbWord (op : Nat) (f : SB) : W32 := BitVec.ofNat 6 op ++ f.sense ++ f.q ++ f.a ++ f.disp16

/-- An SJ or SL word (R145). -/
def sjWord (op : Nat) (x : BitVec 26) : W32 := BitVec.ofNat 6 op ++ x

/-- An SX word (R145). -/
def sxWord (op fn : Nat) (f : SX) : W32 := BitVec.ofNat 6 op ++ f.d ++ f.sel12 ++ BitVec.ofNat 8 fn

/-- The word of a sequencer form. -/
def SeqForm.word : SeqForm → W32
  | .sr op fn f => srWord op fn f
  | .si op f => siWord op f
  | .sb op f => sbWord op f
  | .sj op x => sjWord op x
  | .sx op fn f => sxWord op fn f
  | .sl x => sjWord 0x3F x

/-- A CG word (R153). -/
def cgWord (op : Nat) (f : CG) : W64 :=
  BitVec.ofNat 8 op ++ f.ty ++ f.d ++ f.a ++ f.b ++ f.c ++ f.e ++ f.gp ++ f.gq ++ f.gm ++ f.ch ++ f.aux ++ f.sc

/-- A CM word (R153). -/
def cmWord (op : Nat) (f : CM) : W64 :=
  BitVec.ofNat 8 op ++ f.ty ++ f.d ++ f.a ++ f.b ++ f.own ++ f.pred ++ f.succ ++ f.ch ++ f.gp ++ f.sc

/-- A skid command (R164). -/
def skidWord (op : Nat) (f : Skid) : W128 :=
  BitVec.ofNat 8 op ++ f.eng ++ f.stid ++ f.dtid ++ f.l2op ++ f.fe ++ f.pub ++ f.scope ++ f.route
    ++ f.t0 ++ f.t1 ++ f.t2 ++ f.t3

/-- The 32-bit word of a sequencer instruction. -/
def encodeSeq (i : Instr) : Option W32 := i.seqForm.map SeqForm.word

/-- The 64-bit word of a cell instruction. -/
def encodeCell (i : Instr) : Option W64 :=
  match i.cg with
  | some (op, f) => some (cgWord op f)
  | none => i.cm.map fun p => cmWord p.1 p.2

/-- The 128-bit command of a skid instruction. -/
def encodeSkid (i : Instr) : Option W128 := i.skid.map fun p => skidWord p.1 p.2

/-- An instruction word of one of the three layers. -/
inductive Encoding where
  | seq (w : W32)
  | cell (w : W64)
  | skid (w : W128)
  deriving DecidableEq, Repr

/-- The word of an instruction; an event has none. -/
def encode (i : Instr) : Option Encoding :=
  match encodeSeq i with
  | some w => some (.seq w)
  | none =>
    match encodeCell i with
    | some w => some (.cell w)
    | none => (encodeSkid i).map .skid

/-- Decode a word of any layer. -/
def decode : Encoding → Option Instr
  | .seq w => (decodeSeq w).toOption
  | .cell w => (decodeCell w).toOption
  | .skid w => decodeSkid w

/-! ## Words as memory stores them -/

/-- The first `n` bytes of a number, lowest first: the hardware stores words little-endian (R145, R153, R164). -/
def bytesLE (n w : Nat) : List Byte :=
  match n with
  | 0 => []
  | n + 1 => BitVec.ofNat 8 w :: bytesLE n (w / 256)

/-- The number that little-endian bytes hold. -/
def natOfBytesLE : List Byte → Nat
  | [] => 0
  | b :: bs => b.toNat + 256 * natOfBytesLE bs

/-- The instruction that the decoder reads from an instruction of `nbits` bits whose value is `w`: a sequencer word of
32 bits, a cell word of 64 or a skid command of 128. The bits are laid out as bytes and read back by the decoder. -/
def decodeTableWord (nbits w : Nat) : Option Instr :=
  if nbits = 32 then (decodeSeq (BitVec.ofNat 32 (natOfBytesLE (bytesLE 4 w)))).toOption
  else if nbits = 64 then (decodeCell (BitVec.ofNat 64 (natOfBytesLE (bytesLE 8 w)))).toOption
  else if nbits = 128 then decodeSkid (BitVec.ofNat 128 (natOfBytesLE (bytesLE 16 w)))
  else none

end Sys2Proof
end

