-- ==== Sys2Proof/Machine/Bits.lean ====
section
/-! DEFINITION. Bit-field, list and counting helpers that the operations share. -/

namespace Sys2Proof.Machine

/-- Element `i` of a list, or a default where the list is shorter. -/
def nth {α : Type} (d : α) : List α → Nat → α
  | [], _ => d
  | x :: _, 0 => x
  | _ :: xs, n + 1 => nth d xs n

/-- The list with element `i` replaced; a list that is too short is filled with the default. -/
def setNth {α : Type} (d : α) : List α → Nat → α → List α
  | [], 0, y => [y]
  | [], n + 1, y => d :: setNth d [] n y
  | _ :: xs, 0, y => y :: xs
  | x :: xs, n + 1, y => x :: setNth d xs n y

/-- The first `n` numbers from `a` up. -/
def upFrom (a : Nat) : Nat → List Nat
  | 0 => []
  | n + 1 => a :: upFrom (a + 1) n

/-- The numbers 0 to n − 1. -/
def upTo (n : Nat) : List Nat := upFrom 0 n

/-- The value stored under a key in a list of pairs. -/
def lookupNat {α : Type} (k : Nat) : List (Nat × α) → Option α
  | [] => none
  | (j, x) :: xs => if j = k then some x else lookupNat k xs

/-- Store a value under a key of a list of pairs. -/
def storeNat {α : Type} (k : Nat) (x : α) : List (Nat × α) → List (Nat × α)
  | [] => [(k, x)]
  | (j, y) :: xs => if j = k then (k, x) :: xs else (j, y) :: storeNat k x xs

/-- Insert a number into a rising list. -/
def insertNat (k : Nat) : List Nat → List Nat
  | [] => [k]
  | j :: js => if k < j then k :: j :: js else if k = j then j :: js else j :: insertNat k js

/-- Remove a number from a list. -/
def removeNat (k : Nat) : List Nat → List Nat
  | [] => []
  | j :: js => if j = k then removeNat k js else j :: removeNat k js

/-- Put or remove a number in a rising list, by a flag. -/
def flagNat (k : Nat) (on : Bool) (l : List Nat) : List Nat := if on then insertNat k l else removeNat k l

/-- Number of bits of a number: 0 for 0. -/
def bitLen (n : Nat) : Nat := if n = 0 then 0 else Nat.log2 n + 1

/-- Ones among the low `w` bits of a number. -/
def popCount : Nat → Nat → Nat
  | 0, _ => 0
  | w + 1, n => n % 2 + popCount w (n / 2)

/-- Leading zeros of a number of `w` bits. -/
def leadZeros (w n : Nat) : Nat := w - bitLen (n % 2 ^ w)

/-- The low `w` bits of a number in reverse order. -/
def revBits : Nat → Nat → Nat
  | 0, _ => 0
  | w + 1, n => n % 2 * 2 ^ w + revBits w (n / 2)

/-- Parity of the low `w` bits. -/
def parityBits (w n : Nat) : Nat := popCount w n % 2

/-- The signed reading of a `w`-bit number. -/
def toSigned (w n : Nat) : Int := if n % 2 ^ w < 2 ^ (w - 1) then (n % 2 ^ w : Nat) else (n % 2 ^ w : Nat) - (2 ^ w : Nat)

/-- The `w`-bit two's complement encoding of an integer, wrapped. -/
def wrapInt (w : Nat) (x : Int) : Nat := (x % ((2 ^ w : Nat) : Int)).toNat

/-- Clamp an integer between two bounds. -/
def clampInt (lo hi x : Int) : Int := if x < lo then lo else if hi < x then hi else x

/-- Replace bits [lo + len - 1 : lo] of a number by the low bits of another. -/
def putBits (w lo len v : Nat) : Nat :=
  w - bitsAt w lo len * 2 ^ lo + v % 2 ^ len * 2 ^ lo

/-- The bits of a 64-bit register that a mask names, from a written value; the others keep the old value. -/
def maskWrite (old new mask : W64) : W64 := (old &&& ~~~mask) ||| (new &&& mask)

/-- A mask of ones in bits [hi:lo] of a 64-bit word. -/
def ones64 (hi lo : Nat) : W64 := BitVec.ofNat 64 ((2 ^ (hi + 1) - 1) - (2 ^ lo - 1))

/-- Add one to a 32-bit count that saturates. -/
def satInc32 (x : W32) : W32 := if x = BitVec.allOnes 32 then x else x + 1

/-- Add to a 32-bit count that saturates. -/
def satAdd32 (x : W32) (n : Nat) : W32 := BitVec.ofNat 32 (min (x.toNat + n) (2 ^ 32 - 1))

/-- The least power of two not below `n` is 2 to this (0 for n ≤ 1): ⌈log2 n⌉ (R287). -/
def ceilLog2 (n : Nat) : Nat := if n ≤ 1 then 0 else Nat.log2 (n - 1) + 1

/-- Quotient rounded up. -/
def ceilDiv (a b : Nat) : Nat := (a + b - 1) / b

/-- Sum of a list of numbers. -/
def sumNat : List Nat → Nat
  | [] => 0
  | x :: xs => x + sumNat xs

/-- Product of a list of numbers. -/
def prodNat : List Nat → Nat
  | [] => 1
  | x :: xs => x * prodNat xs

/-- The greatest of a list of numbers, 0 for none. -/
def maxNat : List Nat → Nat
  | [] => 0
  | x :: xs => max x (maxNat xs)

/-- Cut a list into pieces of `n` elements (the last may be shorter); `fuel` bounds the number of pieces. -/
def chunks {α : Type} (n : Nat) : Nat → List α → List (List α)
  | 0, _ => []
  | _ + 1, [] => []
  | k + 1, xs => xs.take n :: chunks n k (xs.drop n)

/-- A list made exactly `n` long by cutting it or filling it. -/
def fitLen {α : Type} (d : α) : Nat → List α → List α
  | 0, _ => []
  | n + 1, [] => d :: fitLen d n []
  | n + 1, x :: xs => x :: fitLen d n xs

/-- Replace the first element that satisfies a test. -/
def replaceFirst {α : Type} (p : α → Bool) (y : α) : List α → List α
  | [] => []
  | x :: xs => if p x then y :: xs else x :: replaceFirst p y xs

/-- Remove the first element that satisfies a test. -/
def dropFirst {α : Type} (p : α → Bool) : List α → List α
  | [] => []
  | x :: xs => if p x then xs else x :: dropFirst p xs

/-- The bytes of a number, most significant first. [PRESUMED, log 119] -/
def bytesBE (n w : Nat) : List Byte := (bytesLE n w).reverse

end Sys2Proof.Machine
end

