-- ==== Sys2Proof/Machine/Num.lean ====
section
/-! DEFINITION. The number formats of R32 to R49 and the exact arithmetic on their values: an encoding is read as an
exact value, an operation is exact, and one rounding writes the encoding. -/

namespace Sys2Proof.Machine

/-- A floating-point format (R36): exponent and fraction widths, bias, whether infinities exist. -/
structure FFmt where
  ew : Nat
  mw : Nat
  bias : Nat
  hasInf : Bool
  deriving DecidableEq, Repr

/-- binary32 (R36). -/
def f32fmt : FFmt := ⟨8, 23, 127, true⟩

/-- The format of a float type code (R33, R36). -/
def fmtOf (ty : Nat) : FFmt :=
  match ty with
  | 8 => ⟨8, 7, 127, true⟩
  | 9 => ⟨5, 10, 15, true⟩
  | 0xB => ⟨4, 3, 8, false⟩
  | 0xC => ⟨5, 2, 16, true⟩
  | _ => f32fmt

/-- Width of an encoding. -/
def FFmt.width (f : FFmt) : Nat := 1 + f.ew + f.mw

/-- The exponent field of all ones, shifted into place: +∞ where the format has one. -/
def FFmt.infEnc (f : FFmt) : Nat := (2 ^ f.ew - 1) * 2 ^ f.mw

/-- Encoding of the largest finite magnitude (R36): f8a uses the exponent of all ones up to fraction 0b110. -/
def FFmt.maxEnc (f : FFmt) : Nat := if f.hasInf then f.infEnc - 1 else f.infEnc + 2 ^ f.mw - 2

/-- The canonical NaN (R36): quiet, or 0x7F in f8a. -/
def FFmt.nanEnc (f : FFmt) : Nat := if f.hasInf then f.infEnc + 2 ^ (f.mw - 1) else f.infEnc + 2 ^ f.mw - 1

/-- The sign bit of a format. -/
def FFmt.signBit (f : FFmt) : Nat := 2 ^ (f.ew + f.mw)

/-- A value: NaN, an infinity, or (−1)^neg · m · 2^e exactly (a zero keeps its sign). -/
inductive FVal where
  | nan
  | inf (neg : Bool)
  | fin (neg : Bool) (m : Nat) (e : Int)
  deriving DecidableEq, Repr

/-- The value of an encoding (R36). -/
def FFmt.read (f : FFmt) (x : Nat) : FVal :=
  let neg := x / f.signBit % 2 == 1
  let mag := x % f.signBit
  let ef := mag / 2 ^ f.mw
  let fr := mag % 2 ^ f.mw
  if mag > f.maxEnc then (if f.hasInf && fr == 0 then .inf neg else .nan)
  else if ef = 0 then .fin neg fr (1 - (f.bias : Int) - (f.mw : Int))
  else .fin neg (2 ^ f.mw + fr) ((ef : Int) - (f.bias : Int) - (f.mw : Int))

/-- A rounding mode (R42). -/
inductive RM where
  | rne
  | rtz
  | rup
  | rdn
  deriving DecidableEq, Repr

/-- The rounding mode of a 2-bit code (R42). -/
def RM.ofCode (n : Nat) : RM :=
  match n % 4 with
  | 0 => .rne
  | 1 => .rtz
  | 2 => .rup
  | _ => .rdn

/-- Whether a magnitude n + rem/2^shift (0 ≤ rem < 2^shift) rounds up to n + 1. -/
def roundsUp (rm : RM) (neg : Bool) (n rem shift : Nat) : Bool :=
  if rem = 0 then false
  else match rm with
    | .rne => 2 * rem > 2 ^ shift || (2 * rem == 2 ^ shift && n % 2 == 1)
    | .rtz => false
    | .rup => !neg
    | .rdn => neg

/-- m · 2^(−shift) rounded to an integer, for a shift of either sign. -/
def roundShift (rm : RM) (neg : Bool) (m : Nat) (shift : Int) : Nat :=
  if shift ≤ 0 then m * 2 ^ (-shift).toNat
  else
    let s := shift.toNat
    let n := m / 2 ^ s
    if roundsUp rm neg n (m % 2 ^ s) s then n + 1 else n

/-- The magnitude encoding of m · 2^e rounded to a format with an unbounded exponent above (R42): exceeds
`maxEnc` exactly when the rounded magnitude exceeds the largest finite value (R48). -/
def FFmt.roundMag (f : FFmt) (rm : RM) (neg : Bool) (m : Nat) (e : Int) : Nat :=
  if m = 0 then 0
  else
    let ex : Int := e + (Nat.log2 m : Int)
    let emin : Int := 1 - (f.bias : Int)
    let base : Int := if ex < emin then emin else ex
    let n := roundShift rm neg m (base - (f.mw : Int) - e)
    (base - emin).toNat * 2 ^ f.mw + n

/-- The encoding with a sign. -/
def FFmt.signed (f : FFmt) (neg : Bool) (mag : Nat) : Nat := if neg then f.signBit + mag else mag

/-- The value IEEE 754 gives to an overflow away from zero: an infinity (R37). For a format without infinities, which only a
sum of SK.COLL can overflow, the manual gives none: the canonical NaN or the largest finite value, by a free value.
[DESIGN CHOICE, log 152] -/
def FFmt.beyond (f : FFmt) (neg : Bool) : Nat :=
  if f.hasInf then f.signed neg f.infEnc
  else if Config.overflowNan neg then f.nanEnc else f.signed neg f.maxEnc

/-- What an overflow returns under IEEE 754 (R37). -/
def FFmt.overflow (f : FFmt) (rm : RM) (neg : Bool) : Nat :=
  match rm with
  | .rne => f.beyond neg
  | .rtz => f.signed neg f.maxEnc
  | .rup => if neg then f.signed neg f.maxEnc else f.beyond neg
  | .rdn => if neg then f.beyond neg else f.signed neg f.maxEnc

/-- A zero of the same sign where flushing applies and the magnitude is below the least normal (R45). -/
def FFmt.flush (f : FFmt) (ftz : Bool) (x : Nat) : Nat :=
  let mag := x % f.signBit
  if ftz && mag < 2 ^ f.mw then x - mag else x

/-- One rounding of a value to an encoding (R37, R42, R45, R46). -/
def FFmt.write (f : FFmt) (rm : RM) (ftz : Bool) (v : FVal) : Nat :=
  match v with
  | .nan => f.nanEnc
  | .inf neg => if f.hasInf then f.signed neg f.infEnc else f.nanEnc
  | .fin neg m e =>
    let mag := f.roundMag rm neg m e
    if mag > f.maxEnc then f.overflow rm neg else f.flush ftz (f.signed neg mag)

/-- An operand as an operation reads it: a subnormal is a zero of its sign where flushing applies (R45). -/
def FFmt.readIn (f : FFmt) (ftz : Bool) (x : Nat) : FVal := f.read (f.flush ftz (x % 2 ^ f.width))

/-- The negative of a value. -/
def FVal.neg : FVal → FVal
  | .nan => .nan
  | .inf n => .inf (!n)
  | .fin n m e => .fin (!n) m e

/-- Signed mantissa of two finite values at their common exponent. -/
def alignPair (n1 : Bool) (m1 : Nat) (e1 : Int) (n2 : Bool) (m2 : Nat) (e2 : Int) : Int × Int × Int :=
  let e := if e1 ≤ e2 then e1 else e2
  let a : Int := (m1 * 2 ^ (e1 - e).toNat : Nat)
  let b : Int := (m2 * 2 ^ (e2 - e).toNat : Nat)
  (if n1 then -a else a, if n2 then -b else b, e)

/-- The sign of an exact zero sum (R47): both operands' sign where they agree, else −0 under RDN only. -/
def zeroSign (rm : RM) (n1 n2 : Bool) : Bool := if n1 == n2 then n1 else rm == .rdn

/-- The exact sum (R47, R52): ∞ − ∞ is NaN. -/
def FVal.add (rm : RM) (x y : FVal) : FVal :=
  match x, y with
  | .nan, _ => .nan
  | _, .nan => .nan
  | .inf a, .inf b => if a == b then .inf a else .nan
  | .inf a, .fin _ _ _ => .inf a
  | .fin _ _ _, .inf b => .inf b
  | .fin n1 m1 e1, .fin n2 m2 e2 =>
    let t := alignPair n1 m1 e1 n2 m2 e2
    let s := t.1 + t.2.1
    if s = 0 then .fin (zeroSign rm n1 n2) 0 t.2.2 else .fin (s < 0) s.natAbs t.2.2

/-- The exact product (R52): 0 · ∞ is NaN. -/
def FVal.mul (x y : FVal) : FVal :=
  match x, y with
  | .nan, _ => .nan
  | _, .nan => .nan
  | .inf a, .inf b => .inf (a != b)
  | .inf a, .fin b m _ => if m = 0 then .nan else .inf (a != b)
  | .fin a m _, .inf b => if m = 0 then .nan else .inf (a != b)
  | .fin a m1 e1, .fin b m2 e2 => .fin (a != b) (m1 * m2) (e1 + e2)

/-- Order of two values that are no NaN; −0 and +0 are equal here. -/
def FVal.cmp (x y : FVal) : Ordering :=
  match x, y with
  | .inf a, .inf b => if a == b then .eq else if a then .lt else .gt
  | .inf a, _ => if a then .lt else .gt
  | _, .inf b => if b then .gt else .lt
  | .fin n1 m1 e1, .fin n2 m2 e2 =>
    let t := alignPair n1 m1 e1 n2 m2 e2
    compare t.1 t.2.1
  | _, _ => .eq

/-- The sign of a value, true for negative (a zero's sign counts). -/
def FVal.isNeg : FVal → Bool
  | .nan => false
  | .inf n => n
  | .fin n _ _ => n

/-- NaN test. -/
def FVal.isNan : FVal → Bool
  | .nan => true
  | _ => false

/-- NaN or infinity (R55). -/
def FVal.isSpecial : FVal → Bool
  | .fin _ _ _ => false
  | _ => true

/-- The lesser of two values, −0 below +0, NaN if either is NaN (R236). -/
def FVal.min (x y : FVal) : FVal :=
  if x.isNan || y.isNan then .nan
  else match x.cmp y with
    | .lt => x
    | .gt => y
    | .eq => if x.isNeg then x else y

/-- The greater of two values, −0 below +0, NaN if either is NaN (R236). -/
def FVal.max (x y : FVal) : FVal :=
  if x.isNan || y.isNan then .nan
  else match x.cmp y with
    | .lt => y
    | .gt => x
    | .eq => if x.isNeg then y else x

/-- A value rounded to an integer, as magnitude, keeping its sign. -/
def roundMagInt (rm : RM) (neg : Bool) (m : Nat) (e : Int) : Nat := roundShift rm neg m (-e)

/-- The integral value nearest in the direction of a mode (R235 FRND). -/
def FVal.roundInt (rm : RM) : FVal → FVal
  | .nan => .nan
  | .inf n => .inf n
  | .fin n m e => if 0 ≤ e then .fin n m e else .fin n (roundMagInt rm n m e) 0

/-- The value times a power of two. -/
def FVal.scale (k : Int) : FVal → FVal
  | .nan => .nan
  | .inf n => .inf n
  | .fin n m e => .fin n m (e + k)

/-- An integer as a value. -/
def FVal.ofInt (x : Int) : FVal := .fin (x < 0) x.natAbs 0

/-! ## Integers (R34) -/

/-- A signed integer type code (R33). -/
def isSignedTy (ty : Nat) : Bool := ty == 0 || ty == 2 || ty == 4

/-- The integer an element of an integer type encodes. -/
def intOf (ty n : Nat) : Int := if isSignedTy ty then toSigned (tyWidth ty) n else (n % 2 ^ tyWidth ty : Nat)

/-- Least value of an integer type. -/
def intMin (ty : Nat) : Int := if isSignedTy ty then -((2 ^ (tyWidth ty - 1) : Nat) : Int) else 0

/-- Greatest value of an integer type. -/
def intMax (ty : Nat) : Int :=
  if isSignedTy ty then ((2 ^ (tyWidth ty - 1) : Nat) : Int) - 1 else ((2 ^ tyWidth ty : Nat) : Int) - 1

/-- The encoding of an integer, wrapped to a type (R34). -/
def intWrap (ty : Nat) (x : Int) : Nat := wrapInt (tyWidth ty) x

/-- The encoding of an integer, saturated to a type (R34). -/
def intSat (ty : Nat) (x : Int) : Nat := wrapInt (tyWidth ty) (clampInt (intMin ty) (intMax ty) x)

/-! ## Conversions (R48, R49) -/

/-- Conversion of a value to a float type under an overflow policy; none is policy 0b11's trap (R48). -/
def cvtFloat (f : FFmt) (rm : RM) (ftz : Bool) (policy : Nat) (v : FVal) : Option Nat :=
  let ovf (neg : Bool) : Option Nat :=
    match policy % 4 with
    | 0 => some (f.signed neg f.maxEnc)
    | 1 => some (if f.hasInf then f.signed neg f.infEnc else f.nanEnc)
    | 2 => some f.nanEnc
    | _ => none
  match v with
  | .nan => some f.nanEnc
  | .inf neg => if f.hasInf then some (f.signed neg f.infEnc) else ovf neg
  | .fin neg m e =>
    let mag := f.roundMag rm neg m e
    if mag > f.maxEnc then ovf neg else some (f.flush ftz (f.signed neg mag))

/-- Conversion of a value to an integer type under a policy; none is policy 0b11's trap (R49). -/
def cvtInt (ty : Nat) (rm : RM) (policy : Nat) (v : FVal) : Option Nat :=
  let bad (x : Int) : Option Nat := if policy % 4 = 3 then none else some (wrapInt (tyWidth ty) x)
  match v with
  | .nan => bad 0
  | .inf neg => bad (if neg then intMin ty else intMax ty)
  | .fin neg m e =>
    let n : Int := (roundMagInt rm neg m e : Nat)
    let x := if neg then -n else n
    if x < intMin ty then bad (intMin ty)
    else if intMax ty < x then bad (intMax ty)
    else some (wrapInt (tyWidth ty) x)

/-- The value of an element of an integer or float type. -/
def valueOf (ty n : Nat) : FVal := if isFloatTy ty then (fmtOf ty).read n else FVal.ofInt (intOf ty n)

/-! ## Elements of a lane (R32) -/

/-- Element `e` of width `w` of a lane (R32). -/
def elemAt (w e : Nat) (x : W32) : Nat := bitsAt x.toNat (w * e) w

/-- A lane built from its elements, element 0 in the low bits. -/
def packElems (w : Nat) : List Nat → Nat
  | [] => 0
  | x :: xs => x % 2 ^ w + 2 ^ w * packElems w xs

/-- The lane whose element e is f e (R32). -/
def laneOf (w : Nat) (f : Nat → Nat) : W32 := BitVec.ofNat 32 (packElems w ((upTo (32 / w)).map f))

/-! ## Reductions and combining operations (R57, R58, R59) -/

/-- A combining operation (R243, R300, R164): 0 add, 1 min, 2 max, 3 and, 4 or, on elements of a type; a float addition
rounds once by the mode, every float result is flushed where that applies. -/
def combine (op ty : Nat) (rm : RM) (ftz : Bool) (x y : Nat) : Nat :=
  if isFloatTy ty then
    let f := fmtOf ty
    let a := f.readIn ftz x
    let b := f.readIn ftz y
    match op with
    | 0 => f.write rm ftz (FVal.add rm a b)
    | 1 => f.write rm ftz (FVal.min a b)
    | _ => f.write rm ftz (FVal.max a b)
  else
    match op with
    | 0 => intWrap ty (intOf ty x + intOf ty y)
    | 1 => intWrap ty (if intOf ty x ≤ intOf ty y then intOf ty x else intOf ty y)
    | 2 => intWrap ty (if intOf ty x ≤ intOf ty y then intOf ty y else intOf ty x)
    | 3 => Nat.land (x % 2 ^ tyWidth ty) (y % 2 ^ tyWidth ty)
    | _ => Nat.lor (x % 2 ^ tyWidth ty) (y % 2 ^ tyWidth ty)

/-- The greatest value of a format: +∞, or the largest finite value where it has no infinities. [DEDUCED, log 153] -/
def FFmt.greatest (f : FFmt) : Nat := if f.hasInf then f.infEnc else f.maxEnc

/-- The identity element of an operation (R58). -/
def identityOf (op ty : Nat) : Nat :=
  if isFloatTy ty then
    let f := fmtOf ty
    match op with
    | 0 => f.signBit
    | 1 => f.greatest
    | _ => f.signed true f.greatest
  else
    match op with
    | 0 => 0
    | 1 => intWrap ty (intMax ty)
    | 2 => intWrap ty (intMin ty)
    | 3 => 2 ^ tyWidth ty - 1
    | _ => 0

/-- One level of the tree: elements 2i and 2i + 1 combined in that order (R57). -/
def treeLevel (g : Nat → Nat → Nat) : List Nat → List Nat
  | [] => []
  | [x] => [x]
  | x :: y :: r => g x y :: treeLevel g r

/-- The fixed binary tree over a list whose length is a power of two (R57); `levels` bounds its height. -/
def treeReduce (g : Nat → Nat → Nat) (d : Nat) : Nat → List Nat → Nat
  | 0, xs => nth d xs 0
  | k + 1, xs => treeReduce g d k (treeLevel g xs)

/-- The tree of R57 over n elements, filled with the identity up to a power of two, rounding RNE. -/
def reduceTree (op ty : Nat) (ftz : Bool) (xs : List Nat) : Nat :=
  let k := ceilLog2 xs.length
  treeReduce (combine op ty .rne ftz) (identityOf op ty) k (fitLen (identityOf op ty) (2 ^ k) xs)

end Sys2Proof.Machine
end

