-- ==== Sys2Proof/Machine/Flags.lean ====
section
/-! DEFINITION. Conditions and predicate computations: the comparisons of the sequencer (R150, R174) and of the cells
(R207, R236), guard conditions (R155) and branch conditions (R226). -/

namespace Sys2Proof.Machine

/-- The conditions of `SQ.CMP` and `SI.CMPI` (R150): 0 EQ, 1 NE, 2 LT, 3 LE, 4 LTN, 5 LEN. -/
def seqCond (cc : Nat) (a b : W64) : Bool :=
  match cc with
  | 0 => a == b
  | 1 => a != b
  | 2 => a.slt b
  | 3 => a.sle b
  | 4 => a.ult b
  | _ => a.ule b

/-- An integer comparison of `CV.CMP` (aux[2:0]): 0 EQ, 1 NE, 2 LT, 3 LE, 4 GT, 5 GE. -/
def intCond (cc : Nat) (x y : Int) : Bool :=
  match cc with
  | 0 => x == y
  | 1 => x != y
  | 2 => x < y
  | 3 => x ≤ y
  | 4 => y < x
  | _ => y ≤ x

/-- A floating-point comparison of `CF.FCMP` (R236): codes 0 to 5 as for integers, with NaN false except under NE;
6 UN, true when an operand is NaN. -/
def floatCond (cc : Nat) (x y : FVal) : Bool :=
  let un := x.isNan || y.isNan
  let o := x.cmp y
  match cc with
  | 0 => !un && o == .eq
  | 1 => un || o != .eq
  | 2 => !un && o == .lt
  | 3 => !un && o != .gt
  | 4 => !un && o == .gt
  | 5 => !un && o != .lt
  | _ => un

/-- A lane is active under guard mode gm (R155). -/
def guardLane (gm : Nat) (p q : Bool) : Bool :=
  match gm with
  | 0 => p
  | 1 => p && q
  | 2 => p && !q
  | _ => p || q

/-- The reduction of element conditions to a lane's predicate bit: ANY or ALL (R207). -/
def laneBit (all : Bool) (bs : List Bool) : Bool := if all then bs.all (fun b => b) else bs.any (fun b => b)

/-- The branch conditions of `CC.BRA` over active lanes (R226): 0 ANY, 1 ALL, 2 NONE. -/
def braTaken (aux : Nat) (bs : List Bool) : Bool :=
  match aux with
  | 0 => bs.any (fun b => b)
  | 1 => bs.all (fun b => b)
  | _ => !(bs.any (fun b => b))

end Sys2Proof.Machine
end

