-- ==== Sys2Proof/Machine/State.lean ====
section
/-! DEFINITION. The machine's state as plain data, the reasons a step can stop, and the state after reset. Collections
are lists keyed by numbers; what a list does not name has the value its reader gives for absence (an unbound context,
an empty queue, a zero register). -/

namespace Sys2Proof.Machine

/-- Memory (R283, R287, R292, R334): bytes at rising addresses with no entry equal to 0, which is what an unlisted byte
reads as (log 1), and the rising word addresses (byte address / 4) whose poison bit is set. -/
structure Memory where
  bytes : List Host.Cell
  poison : List Nat
  deriving DecidableEq, Repr

/-- Memory with nothing listed. -/
def Memory.empty : Memory := ⟨[], []⟩

/-- A 32-bit lane with its poison bit (R201). -/
structure Lane where
  v : W32
  poison : Bool
  deriving DecidableEq, Repr

/-- A sequencer register with its poison bit (R171). -/
structure Reg where
  v : W64
  poison : Bool
  deriving DecidableEq, Repr

/-- A token (R20, R122, R203, R216): kind, sixteen lanes, the release mark, the route identifier it carries and whether
it is a reply of CM.LDX (R364). -/
structure Tok where
  kind : BitVec 4
  lanes : List Lane
  release : Bool
  rid : Nat
  reply : Bool
  deriving DecidableEq, Repr

/-- Who numbers the packets of a stream (R125): an engine context, or a weave on one reply route. -/
inductive Sender where
  | eng (e : EKey)
  | ldx (w : WKey) (route : Nat)
  deriving DecidableEq, Repr

/-- A level of a hardware loop (R183, R225): first and last word address of the body, iterations left, latched count. -/
structure LoopEnt where
  start : Nat
  last : Nat
  count : Nat
  total : Nat
  deriving DecidableEq, Repr

/-! ## Objects (R78 to R103), as the loader parses them -/

/-- A port descriptor (R84). -/
structure PortDesc where
  en : Bool
  np : Nat
  vc : Nat
  rate : Nat
  depth : Nat
  route : Nat
  deriving DecidableEq, Repr

/-- A node descriptor (R83) with its text. -/
structure NodeDesc where
  nid : Nat
  col : Nat
  slot : Nat
  rep : Nat
  ctx : Nat
  cls : Nat
  wlk : Nat
  ports : List PortDesc
  lines : List (Nat × Nat)
  ks : List W32
  text : List W64
  deriving DecidableEq, Repr

/-- A switch setting (R86). -/
structure SwitchSet where
  box : Nat
  odir : Nat
  ocls : Nat
  otrk : Nat
  fport : Bool
  idir : Nat
  icls : Nat
  itrk : Nat
  route : Nat
  deriving DecidableEq, Repr

/-- A compartment image (R82). -/
structure PageImage where
  dcol : Nat
  drow : Nat
  nodes : List NodeDesc
  sws : List SwitchSet
  deriving DecidableEq, Repr

/-- A route-table entry (R87): a cell port at a signed offset, or an engine's stream port. -/
inductive RouteEnt where
  | cell (dc dr : Int) (col slot vc : Nat)
  | eng (n : Nat)
  deriving DecidableEq, Repr

/-- A carried array (R89, R90): node, words per lane, logical lanes. -/
structure CarryDecl where
  nid : Nat
  d : Nat
  n : Nat
  deriving DecidableEq, Repr

/-- A loaded kernel (R99, R100): the object's contents, the route identifiers assigned to it on each die (R88) and the grains at
which every node fits. -/
structure Kernel where
  kid : Nat
  w : Nat
  h : Nat
  gmin : Nat
  gmax : Nat
  nbar : Nat
  neng : Nat
  images : List PageImage
  routes : List RouteEnt
  rids : PerDie (List Nat)
  carries : List CarryDecl
  tags : List (Nat × Bool)
  text : List W32
  entry : Nat
  fits : List Nat
  deriving DecidableEq, Repr

/-! ## Cells -/

/-- An accumulator element (R250): an f32 encoding in the low 32 bits, or a 48-bit integer, with its poison bit. -/
structure Elt where
  v : BitVec 48
  poison : Bool
  deriving DecidableEq, Repr

/-- An accumulator tile (R250): kind, elements by row, row and column flags, chunk count. -/
structure Tile where
  int : Bool
  els : List (List Elt)
  rowF : List Bool
  colF : List Bool
  count : W32
  deriving DecidableEq, Repr

/-- A resident B buffer (R250): type, number of rows, elements (raw encodings) by row; kb = 0 is empty. -/
structure BBuf where
  ty : BitVec 4
  kb : Nat
  els : List (List Lane)
  deriving DecidableEq, Repr

/-- The chain link (R262): the A operand of one chained multiply and the members that have taken it. -/
structure Link where
  ty : BitVec 4
  k : Nat
  a : List (List Lane)
  taken : List WPos
  deriving DecidableEq, Repr

/-- What a chained multiply that has issued waits for (R262): a leader's for room in the link, a follower's for its operand. -/
inductive LinkWait where
  | place
  | take
  deriving DecidableEq, Repr

/-- A multiply that has issued and is not complete (R252, R256): the task and pc that issued it, the tile and buffer it
names, the operands captured, and the chunks applied; a chained one may still wait for the link, until `deadline` (R262). -/
structure Mult where
  nid : Nat
  pc : Nat
  tile : Nat
  buf : Nat
  ty : BitVec 4
  k : Nat
  a : List (List Lane)
  b : List (List Lane)
  done : Nat
  link : Option LinkWait
  deadline : Nat
  deriving DecidableEq, Repr

/-- A transducer table slot (R269 to R271); `bad`: a check left words of it poisoned (R356). -/
structure Slot where
  hdr : W128
  ents : List (BitVec 16)
  bad : Bool
  deriving DecidableEq, Repr

/-- An input port's queue (R14, R125, R218, R348, R364). `q` stands ahead of a BLAZE, `behind` after it. -/
structure PortQ where
  q : List Tok
  behind : List Tok
  blzNeed : Option (List Nat)
  blzGot : List Nat
  head : W32
  tail : W32
  seen : List Nat
  ended : List Nat
  early : List (Sender × Nat × Tok)
  nextSeq : List (Sender × Nat)
  deriving DecidableEq, Repr

/-- A bounded wait of a task (R17, R18): queue id, the cycle it expires, and the indices its record carries. -/
structure TWait where
  qid : Nat
  deadline : Nat
  head : W32
  tail : W32
  deriving DecidableEq, Repr

/-- A fault delivered after its instruction issued (R263, R294): cause, pc of the instruction, operand values, the
registers and the tile or buffer whose next use delivers it (`anyCM`: the task's next CM instruction does). -/
structure Deferred where
  cause : Nat
  pc : Nat
  op1 : W32
  op2 : W32
  op3 : W32
  regs : List Nat
  tiles : List Nat
  bufs : List Nat
  lines : List Nat
  anyCM : Bool
  deriving DecidableEq, Repr

/-- Destinations an instruction writes at its completion (R240, R277): registers, predicates, records by lane, and
tokens for output ports. -/
structure Pend where
  regs : List (Nat × Nat × Lane)
  preds : List (Nat × Nat × Bool)
  recs : List (Nat × Lane)
  toks : List (Nat × Tok)
  endt : Bool
  deriving DecidableEq, Repr

/-- What one firing of a copy of a replicated node has written and the gather has not yet taken (R19): tokens by output
port, oldest first, and whether the firing has ended. -/
structure OutEnt where
  toks : List (Nat × Tok)
  ended : Bool
  deriving DecidableEq, Repr

/-- A task: a node copy with its queues, and the state of its firing (R201). `cr` are the merge credits (R222), `resv`
the output slots reserved (R14), `lineSince` the cycle since which an empty declared line alone blocks it (R76), `block`
the block whose tokens the firing consumes (R111), `trapped` that it has stopped on a trap (R341); `deferred` are the faults
still to be delivered, oldest first (R263, R294); `twn` is the value of TWST that an issued CX.MBFY which waits has read
(R318), and `ent` the tensor entry that an issued instruction which waits has read (R70); `outq` holds the firings of a copy of a replicated node whose turn at the gather has not come, oldest first, and
`dealt` and `turn`, used in copy 0, deal tokens and gather firings over the copies in rotation (R19). -/
structure Task where
  nid : Nat
  copy : Nat
  ports : List PortQ
  cr : List Nat
  fired : Bool
  pc : Nat
  loops : List LoopEnt
  frm : W32
  skips : List Nat
  branches : Nat
  resv : List Nat
  outIdx : List Nat
  wait : Option TWait
  pend : Option Pend
  deferred : List Deferred
  twn : Option W32
  ent : Option (BitVec 256)
  lineSince : Option Nat
  block : Nat
  trapped : Bool
  yielded : Bool
  dealt : List Nat
  turn : Nat
  outq : List OutEnt
  deriving DecidableEq, Repr

/-- A line of a cell's L1 (R285, R286): a plain line with its bytes, word poison and dirty bytes, or an update-only line
with its operation, type and the elements updated by physical address. -/
inductive L1Body where
  | plain (bytes : List Byte) (poison : List Bool) (dirty : List Bool) (keep : Bool)
  | update (op : Nat) (ty : BitVec 4) (els : List (Nat × Lane))
  deriving DecidableEq, Repr

/-- A line of the L1 of cell `cell` of the weave, by its physical line number. -/
structure L1Line where
  cell : Nat
  line : Nat
  body : L1Body
  deriving DecidableEq, Repr

/-- A weave (R137, R201, R250, R269, R284, R349); `mode` is its block mode (R43), `lastNid` the node that issued last and
`issued` the cycle of that issue (R16). -/
structure Weave where
  pos : WPos
  xs : List (List Lane)
  ps : List (List Bool)
  tiles : List Tile
  bufs : List BBuf
  chain : Nat
  leader : Option WPos
  link : Option Link
  mults : List Mult
  slots : List Slot
  recs : List Lane
  dxst : W32
  twst : W32
  blzn : W32
  mode : W32
  store : Memory
  full : List Nat
  tasks : List Task
  actx : Nat
  l1 : List L1Line
  ldxOut : Nat
  ldxSeq : List (Nat × Nat)
  lastNid : Nat
  issued : Option Nat
  snapped : Bool
  halted : Bool
  deriving DecidableEq, Repr

/-! ## Engine contexts -/

/-- An incomplete CMBN row (R307): the row, its contribution count and the contributions (expert, weight, values). -/
structure CmbRow where
  row : Nat
  need : Nat
  got : List (Nat × Lane × List Lane)
  deriving DecidableEq, Repr

/-- A command of an engine context (R193, R304, R311): number, word, the tensor entries read at issue (R70), whether it has
left the queue, its position (tokens or rows done), the lines it has still to move, once it has started, and the elements
whose replies have come while their store line awaits others, as places in source and destination with value and poison
(R313), the phases passed, whether it waits for room in the segment (R328), and the lines whose requests it has issued
(R313). -/
structure Cmd where
  seq : Nat
  word : W128
  src : Option (BitVec 256)
  dst : Option (BitVec 256)
  started : Bool
  pos : Nat
  todo : Option (List Nat)
  kept : List ((List Nat × List Nat) × (W32 × Bool))
  finished : Bool
  passR : Bool
  passV : Bool
  failed : Bool
  block : Nat
  pairHalf : List Tok
  ends : Nat
  paused : Bool
  asked : List Nat
  deriving DecidableEq, Repr

/-- An engine context bound to a stand (R126, R192, R193, R307, R311). -/
structure Eng where
  no : Nat
  agn : Nat
  nextSeq : Nat
  qhead : Nat
  cmds : List Cmd
  err : Bool
  port : PortQ
  rows : List CmbRow
  sendSeq : List (Nat × Nat)
  blazed : Bool
  halted : Bool
  deriving DecidableEq, Repr

/-! ## Sequencer contexts -/

/-- Run state of a context (R168); `stopped` is R199's stopped context of a stand. -/
inductive RunState where
  | idle
  | ready
  | running
  | waiting
  | halted
  | stopped
  deriving DecidableEq, Repr

/-- What a context is bound to (R168). -/
inductive Binding where
  | none
  | root (vf : Nat)
  | stand (id : Nat)
  deriving DecidableEq, Repr

/-- What a waiting context waits for (R185, R188, R190, R193, R196, R328, R342); a wait for a tag keeps the tensor entry read
at issue (R70). -/
inductive SeqWait where
  | queue (eng need : Nat)
  | trapq (need : Nat)
  | timeline (eng : Nat) (v : Bool) (target : Nat)
  | tag (ref : W64) (ent : BitVec 256)
  | scmd (eng : Nat)
  | barrier (done : Option Bool)
  | switch
  | segment
  deriving DecidableEq, Repr

/-- A sequencer context (R168 to R172, R337); `limm` is a pending prefix with its address (R149), `tqnote` the numbers of
records whose act is ignored (R111), `issued` the cycle of the context's last word (R168). -/
structure SeqCtx where
  id : SeqId
  bind : Binding
  run : RunState
  readyAt : Nat
  text : List W32
  entry : Nat
  pc : Nat
  g : List Reg
  w : List Reg
  depth : Nat
  resident : Nat
  q : BitVec 8
  loops : List LoopEnt
  h : Bool
  fromIdle : Bool
  limm : Option (BitVec 26 × Nat)
  tvec : W64
  tcause : W64
  tinfo : W64
  epc : W64
  wsp : W64
  wlim : W64
  frm : W64
  oskey : W64
  tagctl : W64
  wait : Option (SeqWait × Nat)
  block : Option Nat
  tqhead : W32
  tqtail : W32
  tqlost : W32
  tqact : Nat
  tqnote : List Nat
  event : Option (Nat × Nat)
  issued : Option Nat
  deriving DecidableEq, Repr

/-! ## Stands -/

/-- A held write of bytes at a physical address, an L2 operation or merge on elements of one line, each at its
physical address (R309, R326), a write to another package of the pod (R305), sent when it commits, or what a clean write of
a whole word still does when later writes have taken over some of its bytes: the poison bit of the word goes (R334). -/
inductive SegOp where
  | write (pa : Nat) (bytes : List Byte) (poison : Bool)
  | op (code : Nat) (ty : BitVec 4) (els : List (Nat × W32 × Bool))
  | away (rank vf va : Nat) (bytes : List Byte) (mask : Byte) (poison : Bool)
  | clear (word : Nat)
  deriving DecidableEq, Repr

/-- The agent of a stand that made a held write (R327). -/
inductive SegSrc where
  | ctx
  | eng (n : Nat)
  | weave (p : WPos)
  deriving DecidableEq, Repr

/-- A segment entry: the die whose segment holds it, the operation, who made it, and whether the wave under way covers it
(R326, R327). -/
structure SegEnt where
  die : Nat
  op : SegOp
  src : SegSrc
  isSealed : Bool
  deriving DecidableEq, Repr

/-- A held publication or advance (R111, R191): `src` 0 CC.TAGP, 1 SR.TAGP or SR.TAGG, 2 pub flag, 3 output tag; `stage`
0 made since, 1 ahead of the wave under way, 2 held by the last complete image. -/
structure HeldPub where
  advance : Bool
  ref : W64
  scope : Nat
  block : Nat
  src : Nat
  pc : Nat
  tidx : Nat
  pos : WPos
  seq : Nat
  stage : Nat
  deriving DecidableEq, Repr

/-- Progress of a dispatched block in its stand (R22, R369). -/
inductive FeedState where
  | queued
  | feeding
  | fed
  deriving DecidableEq, Repr

/-- A dispatched block (R22, R117): the scheduler record, its number in the stand, its state. -/
structure Blk where
  recId : Nat
  no : Nat
  t0 : Nat
  t1 : Nat
  t2 : Nat
  t3 : Nat
  outs : List W64
  feed : FeedState
  deriving DecidableEq, Repr

/-- The coppice state of a stand (R139 to R141). -/
structure Coppice where
  view : Nat
  last : Nat
  h : Nat
  pend : Bool
  target : Nat
  pin : Bool
  pgrn : Nat
  wexp : Nat
  wcur : Nat
  th1 : Nat
  th2 : Nat
  th3 : Nat
  th4 : Nat
  ops : W32
  bytes : W32
  winStart : Nat
  deriving DecidableEq, Repr

/-- Flags of a wave (R346), with the SK.BLAZ commands merged into it and the blocks it closes, each with the last command
that every engine context had received when the block's feeding ended (R369). -/
structure WaveFlags where
  grain : Bool
  move : Bool
  preempt : Bool
  halt : Bool
  close : Bool
  blaz : List (Nat × Nat)
  closes : List (Nat × List (Nat × Nat))
  deriving DecidableEq, Repr

/-- A snapshot of a stand (R349, R350, R353); `spilled` holds the bytes of the context's spilled windows; while the stand is
set aside or suspended, `lmem` holds the local memory of its context. -/
structure StandImage where
  num : Nat
  g : Nat
  actx : Nat
  weaves : List Weave
  engs : List Eng
  ctx : Option SeqCtx
  spilled : List Byte
  lmem : Memory
  blocks : List Blk
  deriving DecidableEq, Repr

/-- The wave under way in a stand (R346 to R351): number, flags, start, weaves, engines and context snapshotted so far,
engines that emit their BLAZE only after a command, with the routes they emit it on (R369), the last command that each engine
context had received at injection (R347), the blocks as they then stood, the block mode it carries (R43), whether it has
committed, and the publications that it still has to make. -/
structure Wave where
  num : Nat
  flags : WaveFlags
  started : Nat
  snaps : List Weave
  engSnaps : List Eng
  ctxSnap : Option SeqCtx
  spillSnap : List Byte
  emit : List (Nat × Nat × List Nat)
  inj : List (Nat × Nat)
  blks : List Blk
  mode : W32
  committed : Bool
  pubs : List HeldPub
  deriving DecidableEq, Repr

/-- Where a stand stands (R129, R352). -/
inductive Status where
  | resident
  | setAside
  | suspended
  deriving DecidableEq, Repr

/-- Where an idle or moving stand is to go once its wave completes (R129, R130, R352). -/
inductive Target where
  | none
  | move (col row : Nat)
  | aside
  | suspend
  deriving DecidableEq, Repr

/-- The held state of a stand (R341, R344): the strongest act serviced, whether the halt wave is complete, the wave
requests that the halt withdrew (R346), and whether the handler has returned with its queue serviced. -/
structure HeldState where
  act : Nat
  haltDone : Bool
  withdrawn : Option WaveFlags
  returned : Bool
  deriving DecidableEq, Repr

/-- A stand (R22, R126 to R131, R135 to R141, R326, R341 to R354); `seg` are its held writes on all dies, oldest first. -/
structure Stand where
  id : Nat
  vf : Nat
  die : Nat
  col : Nat
  row : Nat
  g : Nat
  kern : Kernel
  status : Status
  since : Nat
  lastDispatch : Nat
  isl : Nat
  ctx : SeqId
  bars : List Nat
  actx : Nat
  switchTo : Option Nat
  lastCond : Option Nat
  mode : W32
  retry : Nat
  weaves : List Weave
  engs : List Eng
  seg : List SegEnt
  blocks : List Blk
  nextBlk : Nat
  held : List HeldPub
  cop : Coppice
  wave : Option Wave
  waveReq : Option WaveFlags
  nextWave : Nat
  lastWave : Nat
  lastWaveAt : Nat
  image : Option StandImage
  haltImage : Option StandImage
  isHeld : Option HeldState
  target : Target
  deriving DecidableEq, Repr

/-! ## Dies -/

/-- State of a scheduler record (R117). -/
inductive RecState where
  | waiting
  | eligible
  | dispatched
  deriving DecidableEq, Repr

/-- A block record in the scheduler (R23, R117, R118): its copy, state, inputs satisfied, class, the cycle of its acceptance
and that since which it has been eligible (R352). -/
structure Rec where
  id : Nat
  vf : Nat
  word : BitVec 1024
  st : RecState
  sat : List Bool
  cls : Nat
  since : Nat
  promotions : Nat
  elig : Nat
  deriving DecidableEq, Repr

/-- A landing-table entry at (set, way) (R108); `bad`: a check left its word poisoned (R356). -/
structure LandEnt where
  set : Nat
  way : Nat
  ent : W64
  bad : Bool
  deriving DecidableEq, Repr

/-- A notification on its way to this die's scheduler (R112). -/
structure Note where
  vf : Nat
  tid : Nat
  gen : BitVec 8
  tile : W32
  deriving DecidableEq, Repr

/-- A ride (R124, R366): powered, cycle at which a power-up ends, last cycle it carried a flit, whether it reports
congestion, and the cycle since which an input buffer of it has been more than three-quarters full. -/
structure Ride where
  on : Bool
  upAt : Option Nat
  lastFlit : Nat
  congested : Bool
  fullSince : Option Nat
  deriving DecidableEq, Repr

/-- A publication or advance waiting at the tensor's home die (R110, R111). -/
structure HomeOp where
  vf : Nat
  stand : Nat
  op : HeldPub
  deriving DecidableEq, Repr

/-- An error count of a unit in the current window (R360, R370): kind 0 compartment, 1 slice, 2 channel, 3 port. -/
structure ErrCount where
  kind : Nat
  unit : Nat
  n : Nat
  deriving DecidableEq, Repr

/-- A die: clock, landing table and fallback marks, scheduler, home operations, rides, error counts, suspect and retired
units, suspect log. -/
structure Die where
  cyc : W64
  landing : List LandEnt
  marks : List (Nat × Nat)
  recs : List Rec
  nextRec : Nat
  notes : List Note
  homeq : List HomeOp
  rides : List Ride
  errs : List ErrCount
  suspects : List (Bool × Nat)
  retired : List (Bool × Nat)
  log : List W128
  deriving DecidableEq, Repr

/-! ## VFs -/

/-- Tensor-table registers and table of a VF (R63, R64, R70). -/
structure VfTens where
  tside : W64
  ttidx : W64
  ttw0 : W64
  ttw1 : W64
  ttw2 : W64
  ttw3 : W64
  ttstat : W64
  table : List (Nat × BitVec 256)
  deriving DecidableEq, Repr

/-- Kernel-load registers, kernels and measurements of a VF (R98, R99). `pending` is the outcome the loader has not yet
written to KLSTAT, `data` the base and size of the DATA sections it has installed (R93). -/
structure VfLoad where
  kladdr : W64
  klsize : W64
  klkid : W64
  klstat : W64
  klpol : W64
  pending : Option (Nat × Nat)
  kernels : List Kernel
  measures : List (BitVec 512)
  data : List (Nat × Nat)
  deriving DecidableEq, Repr

/-- Landing-window registers of a VF (R106). -/
structure VfWin where
  lwqref : W64
  lwqres : W64
  lwstat : W64
  fallback : W64
  deriving DecidableEq, Repr

/-- An installed or staged partition (R287, R289). -/
structure Part where
  psize : Nat
  pmask : List W64
  ents : List (Nat × SliceId)
  deriving DecidableEq, Repr

/-- A translation held by a TLB (R293): the unit (the L2 TLB of a compartment or an edge island, or the L1 TLB of a cell),
page base and size, frame and rights. -/
structure TlbEnt where
  unit : Nat
  base : Nat
  size : Nat
  frame : Nat
  r : Bool
  w : Bool
  nc : Bool
  deriving DecidableEq, Repr

/-- What the host has done that a PCMD under way holds back (R107, R315): an access or the read of a register, a publication,
or a query. -/
inductive HostWait where
  | access (a : HostAccess)
  | publish (ref : W64)
  | query (ref : W64)
  deriving DecidableEq, Repr

/-- Memory registers, TLB entries (oldest first) and pins of a VF (R289, R290, R293), with what of the host's a PCMD under way
holds back, oldest first (R107, R315). -/
structure VfMem where
  ptroot : W64
  tlbstat : W64
  tlbinv : List (Option Nat)
  tlbs : List TlbEnt
  part : Part
  staged : Part
  ptidx : W64
  lkref : W64
  pkrank : W64
  pcmdBusy : Bool
  pins : List Nat
  hostq : List HostWait
  deriving DecidableEq, Repr

/-- Event-ring registers of a function (R382). -/
structure EvRing where
  base : W64
  head : W32
  tail : W32
  lost : W32
  deriving DecidableEq, Repr

/-- Per-VF configuration of the physical function (R127, R347, R383). -/
structure VfCfg where
  cquota : W64
  fbdrop : W64
  blzper : W64
  slice : W64
  rset : PerDie W64
  lockq : W64
  root : W64
  barg : W64
  save : W64
  savesz : W64
  membase : W64
  memsz : W64
  keys : List (Nat × BitVec 1056)
  deriving DecidableEq, Repr

/-- A root program (R28, R104): its context, and the root blocks that wait for room. -/
structure Root where
  ctx : SeqId
  waiting : List (BitVec 1024)
  deriving DecidableEq, Repr

/-- A virtual function. -/
structure Vf where
  id : Nat
  tens : VfTens
  load : VfLoad
  win : VfWin
  mem : VfMem
  ev : EvRing
  cfg : VfCfg
  root : Option Root
  timer : Nat
  ataddr : W64
  atstat : W64
  atBusy : Option Nat
  deriving DecidableEq, Repr

/-! ## Fabric -/

/-- Where a token between an output port and an input port is (R122, R123): on the output bus of its column, or in the
latch at the end of a track, at site (x, y) reached by a track of direction, class and number. -/
inductive Place where
  | bus
  | latch (x y dir cls trk : Nat)
  deriving DecidableEq, Repr

/-- A token on its way over tracks, with the cycle in which it left its weave (R123). -/
structure Flight where
  id : Nat
  stand : Nat
  src : WPos
  vc : Nat
  route : Nat
  tok : Tok
  place : Place
  born : Nat
  deriving DecidableEq, Repr

/-- Where a ride packet goes: an input port of a cell, by die-absolute place, or an engine's stream port. -/
inductive PktDst where
  | cell (die ccol crow col slot vc : Nat)
  | eng (e : EKey)
  deriving DecidableEq, Repr

/-- A packet on the rides (R124, R125, R365): `ride` is none while it waits at its sender for room in an injection buffer. -/
structure Packet where
  id : Nat
  die : Nat
  ride : Option Nat
  vf : Nat
  sender : Sender
  seq : Nat
  dst : PktDst
  tok : Tok
  deriving DecidableEq, Repr

/-- An open firebreak report (R133). -/
structure FbReport where
  id : Nat
  die : Nat
  ccol : Nat
  crow : Nat
  box : Nat
  side : Nat
  ridePort : Bool
  rid : Nat
  hdr : W64
  count : Nat
  last : Nat
  ovf : Option Nat
  deriving DecidableEq, Repr

/-- A barrier that some member has reached (R188, R231): scope 2 quad, 3 die, 4 pkg, 5 pod. -/
structure Barrier where
  scope : Nat
  place : Nat
  id : Nat
  arrived : List (BarMember × Bool)
  remote : List (Nat × Bool)
  deriving DecidableEq, Repr

/-- How far a member of a collective is (R308): its command is issued, it has contributed its elements, these have gone to the
other packages of the pod (or come from one), or its elements are the result. -/
inductive CollStage where
  | issued
  | contributed
  | sent
  | joined
  deriving DecidableEq, Repr

/-- A collective under way (R308): one member's part, in the order in which its rank issued its commands, with the command
that waits on it. -/
structure CollPart where
  vf : Nat
  scope : Nat
  dtid : Nat
  tile : Nat
  rank : Nat
  els : List (W32 × Bool)
  cmd : Option (EKey × Nat)
  stage : CollStage
  deriving DecidableEq, Repr

/-- A line request on a ride or at a slice (R124, R313, R314): its number among the packets, the command it belongs to, its
physical and its virtual line, and the ride it was injected on. -/
structure SliceReq where
  id : Nat
  eng : EKey
  seq : Nat
  line : Nat
  vline : Nat
  ride : Nat
  deriving DecidableEq, Repr

/-- Tokens, packets, reports, barriers and collectives, with the counter that numbers them; `reqs` are the line requests that
wait on a ride for room in their slice's queue, oldest first (R288, R314). -/
structure Fabric where
  nextId : Nat
  flights : List Flight
  packets : List Packet
  reports : List FbReport
  barriers : List Barrier
  colls : List CollPart
  reqs : List SliceReq
  deriving DecidableEq, Repr

/-! ## Slices -/

/-- A memory-side cache slice (R287, R288, R314): resident lines, oldest first, queued requests, and requests whose lines are
being filled. Memory always holds the current bytes of a line (log 90). -/
structure Slice where
  id : SliceId
  lines : List Nat
  queue : List SliceReq
  filling : List SliceReq
  deriving DecidableEq, Repr

/-! ## The module -/

/-- An in-field test (R371): unit, state. -/
structure Ift where
  stat : W64
  queue : List (Nat × Bool × Nat)
  current : Option (Nat × Bool × Nat)
  deriving DecidableEq, Repr

/-- A growth ring (R370): die, kind, unit, and the 32 counters: in flash and as they stand. -/
structure GRing where
  die : Nat
  kind : Nat
  unit : Nat
  flash : List (BitVec 16)
  now : List (BitVec 16)
  deriving DecidableEq, Repr

/-- Registers and state of the management controller and the physical function (R352, R360, R366, R370 to R383). -/
structure Pf where
  vfsusp : W64
  errwin : W64
  errthr : W64
  suspidx : W64
  ridectl : W64
  ridemap0 : W64
  ridemap1 : W64
  slidx : W64
  sllost : W64
  gridx : W64
  fwaddr : W64
  fwsize : W64
  fwstat : W64
  pwrcap : W64
  vfsel : W64
  keysel : W64
  keyaddr : W64
  cfgstat : W64
  barsel : W64
  barmem : List (Nat × W64)
  ev : EvRing
  deriving DecidableEq, Repr

/-- What the device sends out (R382, R305, R308, R188, R334): MSI-X messages, packets to other packages, host read
replies (bytes with their words' poison). -/
inductive Output where
  | msix (f : FnId)
  | pod (rank : Nat) (p : PodPacket)
  | readData (vf : Nat) (bytes : List Byte) (poison : List Bool)
  deriving DecidableEq, Repr

/-- State of the module outside the compute dies; `podWait` are the packets to other packages that wait at their senders while
every port trains, newest first (R380). -/
structure Service where
  ift : Ift
  rings : List GRing
  chActive : BitVec 48
  chMigrating : Option Nat
  chSusp : W64
  memtop : Nat
  fwActive : List Byte
  fwOther : List Byte
  fwPending : Option (Nat × List Byte)
  fwSwitch : Bool
  keyPending : Option (Nat × Nat × Option (BitVec 1056) × Nat)
  linkUp : BitVec 16
  linkTraining : List Nat
  linkRetries : List (Nat × Nat)
  podWait : List Output
  down : Bool
  deriving DecidableEq, Repr

/-- Who acts in this step. -/
inductive Agent where
  | none
  | seq (c : SeqId)
  | task (t : TKey)
  | engine (e : EKey)
  deriving DecidableEq, Repr

/-- The events that take place by themselves once their conditions hold, as a cycle lists them (log 91); each stands for the
event of that name. -/
inductive Due where
  | instructionCompletion (t : TKey)
  | taskWaitExpired (t : TKey)
  | backwardBranchLimit (t : TKey)
  | inputLineWaitExpired (t : TKey)
  | barrierExpired (m : BarMember)
  | taskFire (t : TKey)
  | matrixChunkComplete (w : WKey) (tile : Nat)
  | ctxcSwitch (w : WKey)
  | weaveSnapshot (w : WKey)
  | waveComplete (stand : Nat)
  | coppiceWindowEnd (stand : Nat)
  | periodicBlaze (stand : Nat)
  | blockDispatch (die stand : Nat)
  | seqWaitSatisfied (c : SeqId)
  | seqWaitExpired (c : SeqId)
  | scmdQueueStallExpired (c : SeqId)
  | ctxSwitchWaitExpired (c : SeqId)
  | trapEventDelivery (c : SeqId)
  | hostMemoryReply (e : EKey) (line : Nat)
  | gddrFillReturn (sl : SliceId) (line : Nat)
  | sliceService (sl : SliceId)
  | loaderCommandComplete (vf : Nat)
  | rootBlockLaunch (vf : Nat)
  | tlbInvalidationComplete (vf : Nat)
  | pcmdComplete (vf : Nat)
  | attestationReportComplete (vf : Nat)
  | vfWatchdogExpiry (vf : Nat)
  | publication (die : Nat)
  | generationAdvance (die : Nat)
  | tagNotification (die : Nat)
  | bitmapPoll (die : Nat)
  | classPromotion (die : Nat)
  | suspendedStandReplace (die : Nat)
  | standPlacement (die : Nat)
  | preemptStarvation (die : Nat)
  | errorWindowReset (die : Nat)
  | ridePowerUp (die ride : Nat)
  | ridePowerDown (die ride : Nat)
  | trackSegmentHop (flight : Nat)
  | inputBusDelivery (flight : Nat)
  | ridePacketArrival (packet : Nat)
  | firebreakReport (report : Nat)
  | iftStart
  | channelMigrationComplete
  | firmwareWriteComplete
  | vfKeyCommandComplete
  | linkTrainingComplete (port : Nat)
  deriving DecidableEq, Repr

/-- A turn of the agenda: an instruction of an agent, an event that is due, or one from outside. -/
inductive Turn where
  | seq (c : SeqId)
  | task (t : TKey)
  | engine (e : EKey)
  | due (d : Due)
  | event (i : Instr)
  deriving DecidableEq, Repr

/-- The machine. -/
structure State where
  /-- turns still to be taken, oldest first (the model's own field) -/
  agenda : List Turn
  /-- the agent whose turn it is (the model's own field) -/
  actor : Agent
  /-- counter of free values (the model's own field) -/
  free : Nat
  /-- device and host memory by 52-bit physical address; bit 51 names host memory (R292) -/
  mem : Memory
  /-- sequencer local memories, at 262,144·(2·island + sequencer) + offset (R170) -/
  lmem : Memory
  seqs : List SeqCtx
  stands : List Stand
  nextStand : Nat
  dies : PerDie Die
  vfs : List Vf
  slices : List Slice
  fab : Fabric
  pf : Pf
  svc : Service
  /-- what has been sent out, newest first -/
  out : List Output
  deriving DecidableEq, Repr

/-- Reasons a step stops with a fault. -/
inductive Fault where
  /-- an instruction of a sequencer, cell or engine is executed when the agent whose turn it is does not exist, is of
  another kind or is not running: raised by every such instruction; safe (no hardware agent executes then) -/
  | noAgent
  deriving DecidableEq, Repr

/-- Reasons a step is refused. -/
inductive Refusal where
  /-- the instruction has no meaning in this model yet: raised by the arms of exec only; safe -/
  | notModelled (mnemonic : String)
  deriving DecidableEq, Repr

/-! ## Reset -/

/-- An empty port queue. -/
def PortQ.empty : PortQ := ⟨[], [], none, [], 0, 0, [], [], [], []⟩

/-- The rides after reset: ride 0 is always powered; the others are taken as off (log 3). -/
def Ride.resetAll : List Ride := 
  [⟨true, none, 0, false, none⟩, ⟨false, none, 0, false, none⟩, ⟨false, none, 0, false, none⟩, ⟨false, none, 0, false, none⟩]

/-- A die after reset: CYC 0 (R172), landing table empty (R108), scheduler and rides idle. [DESIGN CHOICE, log 3 for the rides] -/
def Die.reset : Die := ⟨0, [], [], [], 0, [], [], Ride.resetAll, [], [], [], []⟩

/-- An event ring after reset (R382). -/
def EvRing.reset : EvRing := ⟨0, 0, 0, 0⟩

/-- No partition (R289). -/
def Part.reset : Part := ⟨0, [], []⟩

/-- A VF after reset: what its registers hold is R70, R99, R106, R127, R289, R347, R381, R382 and R383. -/
def Vf.reset (n : Nat) : Vf :=
  { id := n
    tens := ⟨0, 0, 0, 0, 0, 0, 0, []⟩
    load := ⟨0, 0, 0, 0, 0, none, [], [], []⟩
    win := ⟨0, 0, 0, 0⟩
    mem := ⟨0, 0, [], [], Part.reset, Part.reset, 0, 0, 0, false, [], []⟩
    ev := EvRing.reset
    cfg := ⟨0, 0, 0, 0, PerDie.all 0, 0, 0, 0, 0, 0, 0, 0, []⟩
    root := none
    timer := 0
    ataddr := 0
    atstat := 0
    atBusy := none }

/-- The physical function's registers after reset (R352, R360, R366, R381, R382, R383). -/
def Pf.reset : Pf :=
  { vfsusp := 0, errwin := 24, errthr := 16, suspidx := 0, ridectl := 0, ridemap0 := 0, ridemap1 := 0, slidx := 0
    sllost := 0, gridx := 0, fwaddr := 0, fwsize := 0, fwstat := 0, pwrcap := 3400, vfsel := 0, keysel := 0
    keyaddr := 0, cfgstat := 0, barsel := 0, barmem := [], ev := EvRing.reset }

/-- The module after reset: all 48 channels active (R291, R381), no port up and every port in training (R380, R381). -/
def Service.reset : Service :=
  { ift := ⟨0, [], none⟩, rings := [], chActive := BitVec.allOnes 48, chMigrating := none, chSusp := 0
    memtop := Config.memtop48, fwActive := [], fwOther := [], fwPending := none
    fwSwitch := false, keyPending := none, linkUp := 0, linkTraining := [0, 1, 2, 3, 4, 5, 6, 7, 8, 9, 10, 11, 12, 13, 14, 15], linkRetries := [], podWait := [], down := false }

/-- The machine right after reset: nothing placed, loaded or published. [DESIGN CHOICE, log 2] -/
def State.reset : State :=
  { agenda := [], actor := .none, free := 0, mem := Memory.empty, lmem := Memory.empty, seqs := [], stands := []
    nextStand := 0, dies := PerDie.all Die.reset, vfs := [], slices := [], fab := ⟨0, [], [], [], [], [], []⟩
    pf := Pf.reset, svc := Service.reset, out := [] }

end Sys2Proof.Machine
end

