-- ==== Sys2Proof/Machine/Mem.lean ====
section
/-! DEFINITION. Memory as plain data: reading and writing bytes with their poison bits (R32, R334), the overlay of a
stand's segment (R309, R326), the page-table walk (R292, R293) and the home slice of a line (R287). -/

namespace Sys2Proof.Machine

/-! ## Bytes -/

/-- What a byte that no write has listed reads as (log 1). -/
def Memory.unlisted : Byte := 0

/-- Read one byte of a list of cells. [DESIGN CHOICE, log 1] -/
def cellsRead (a : Nat) : List Host.Cell → Byte
  | [] => Memory.unlisted
  | (b, v) :: r => if b = a then v else cellsRead a r

/-- Write one byte of a list of cells at rising addresses; writing the unlisted value removes the entry. -/
def cellsWrite (a : Nat) (x : Byte) : List Host.Cell → List Host.Cell
  | [] => if x = Memory.unlisted then [] else [(a, x)]
  | (b, v) :: r =>
    if a < b then (if x = Memory.unlisted then (b, v) :: r else (a, x) :: (b, v) :: r)
    else if a = b then (if x = Memory.unlisted then r else (a, x) :: r)
    else (b, v) :: cellsWrite a x r

/-- One byte of memory. -/
def Memory.byte (m : Memory) (a : Nat) : Byte := cellsRead a m.bytes

/-- Write one byte, leaving poison alone. -/
def Memory.setByte (m : Memory) (a : Nat) (x : Byte) : Memory := { m with bytes := cellsWrite a x m.bytes }

/-- Write consecutive bytes. -/
def Memory.setBytes (m : Memory) (a : Nat) : List Byte → Memory
  | [] => m
  | x :: xs => (m.setByte a x).setBytes (a + 1) xs

/-- `n` bytes from an address. -/
def Memory.bytesAt (m : Memory) (a n : Nat) : List Byte := (upFrom a n).map m.byte

/-- The little-endian number in `n` bytes. -/
def Memory.readN (m : Memory) (a n : Nat) : Nat := natOfBytesLE (m.bytesAt a n)

/-- The poison bit of the aligned word that holds a byte (R334). -/
def Memory.poisoned (m : Memory) (a : Nat) : Bool := m.poison.contains (a / 4)

/-- Some word of `n` bytes from an address is poisoned. -/
def Memory.anyPoison (m : Memory) (a n : Nat) : Bool := (upFrom (a / 4) (ceilDiv (a % 4 + n) 4)).any (m.poison.contains ·)

/-- Set or clear the poison bit of a word address. -/
def Memory.setPoison (m : Memory) (w : Nat) (p : Bool) : Memory := { m with poison := flagNat w p m.poison }

/-- The poison bit that a store of `n` bytes at `a` leaves on word `w` (R334): a whole word takes the stored bit, a part
leaves a poisoned word poisoned. -/
def storePoison (m : Memory) (a n w : Nat) (p : Bool) : Bool :=
  if a ≤ 4 * w ∧ 4 * w + 4 ≤ a + n then p else p || m.poison.contains w

/-- Set the poison bits of the words a store covers. -/
def Memory.markWords (m : Memory) (a n : Nat) (p : Bool) (ws : List Nat) : Memory :=
  ws.foldl (fun acc w => acc.setPoison w (storePoison m a n w p)) m

/-- Store bytes with one poison bit (R297, R334). -/
def Memory.store (m : Memory) (a : Nat) (bs : List Byte) (p : Bool) : Memory :=
  (m.setBytes a bs).markWords a bs.length p (upFrom (a / 4) (ceilDiv (a % 4 + bs.length) 4))

/-- Rising addresses, none of whose bytes is the unlisted value. -/
def cellsWf : List Host.Cell → Bool
  | [] => true
  | [(_, v)] => v != Memory.unlisted
  | (a, v) :: (b, w) :: r => v != Memory.unlisted && a < b && cellsWf ((b, w) :: r)

/-- Rising numbers. -/
def risingNat : List Nat → Bool
  | [] => true
  | [_] => true
  | a :: b :: r => a < b && risingNat (b :: r)

/-- The canonical form: rising addresses with no unlisted value, rising poisoned words. -/
def Memory.wf (m : Memory) : Bool := cellsWf m.bytes && risingNat m.poison

/-! ## Segments (R309, R326 to R328) -/

/-- The encoding of a digit that is 0, +1 or −1 by number 0, 1, 2 (R38). -/
def digitEnc (d : Fin 3) : Nat := if d.val = 2 then 3 else d.val

/-- A ternary digit as an instruction reads it: the reserved code is 0 (R38). -/
def digitIn (x : Nat) : Nat := if x % 4 = 2 then 0 else x % 4

/-- The encoding of the digit that an L2 operation leaves (R38, R59): no instruction writes the reserved code. -/
def digitOp (code a b : Nat) : Nat := digitEnc (Config.l2Digit code (digitIn a) (digitIn b))

/-- A digit of a byte of t2 digits after an L2 operation with an operand byte whose bits [15:8] mark the digits concerned:
the manual gives no value for it. -/
def l2Digit (code old x k : Nat) : Nat :=
  if bitsAt x (8 + 2 * k) 2 = 0 then bitsAt old (2 * k) 2 else digitOp code (bitsAt old (2 * k) 2) (bitsAt x (2 * k) 2)

/-- The result of an L2 operation on an element (R59, R309): on t2 and dg elements the manual gives no value.
[DESIGN CHOICE, log 66] -/
def l2Result (code ty old x : Nat) : Nat :=
  if ty = 0xD then packElems 2 ((upTo 4).map (l2Digit code old x))
  else if ty = 0xE then (Config.l2String code (BitVec.ofNat 32 old) (BitVec.ofNat 32 x)).toNat
  else combine code ty .rne false old x

/-- Bytes of an element in memory: a t2 tensor's digits act by bytes. -/
def l2Bytes (ty : Nat) : Nat := ceilDiv (tyWidth ty) 8

/-- Apply an L2 operation or merge to one element (R59, R309): poison of the operand joins the word's. -/
def Memory.applyEl (m : Memory) (code : Nat) (ty : BitVec 4) (el : Nat × W32 × Bool) : Memory :=
  let n := l2Bytes ty.toNat
  let old := m.readN el.1 n
  let new := l2Result code ty.toNat old (bitsAt el.2.1.toNat 0 (if ty.toNat = 0xD then 16 else 8 * n))
  (m.setBytes el.1 (bytesLE n new)).setPoison (el.1 / 4) (el.2.2 || m.poisoned el.1)

/-- Apply one held operation. -/
def Memory.applyOp (m : Memory) : SegOp → Memory
  | .write pa bs p => m.store pa bs p
  | .op code ty els => els.foldl (fun acc el => acc.applyEl code ty el) m
  | .away _ _ _ _ _ _ => m
  | .clear w => m.setPoison w false

/-- Memory as a list of held operations leaves it. -/
def Memory.applySeg (m : Memory) (l : List SegEnt) : Memory := l.foldl (fun acc e => acc.applyOp e.op) m

/-- The number of the 128-byte line that a held write touches, even for a line of this package, odd for one of another; none
for an L2 operation. -/
def SegOp.lineKey : SegOp → Option Nat
  | .write pa _ _ => some (2 * (pa / 128))
  | .op _ _ _ => none
  | .away rank _ va _ _ _ => some (2 * (2 ^ 50 * rank + va / 128) + 1)
  | .clear w => some (2 * (w / 32))

/-- Whether a held operation is a write of bytes. -/
def SegOp.isWrite : SegOp → Bool
  | .write _ _ _ => true
  | .op _ _ _ => false
  | .away _ _ _ _ _ _ => false
  | .clear _ => false

/-- Lines that the writes of a segment touch, each once. -/
def segLines : List SegEnt → List Nat
  | [] => []
  | e :: r => match e.op.lineKey with
    | some n => insertNat n (segLines r)
    | none => segLines r

/-- Entries a segment takes (R328): one per line written, one per L2 operation on a line. -/
def segEntries (l : List SegEnt) : Nat := (segLines l).length + (l.filter fun e => e.op.lineKey.isNone).length

/-- The capacity of a segment on one die (R328). -/
def segCapacity : Nat := 16384

/-- Memory as the agents of a stand see it (R324, R326): its held writes on all dies, in their order, over the committed
bytes. -/
def standView (m : Memory) (seg : List SegEnt) : Memory := m.applySeg seg

/-! ## Partitions (R287) -/

/-- The partition index of a physical address. -/
def partIndex (p : Part) (pa : Nat) : Nat :=
  let n := ceilLog2 p.psize
  let i := sumNat ((upTo n).map fun k => parityBits 52 (Nat.land pa (nth 0 p.pmask k).toNat) * 2 ^ k)
  if i ≥ p.psize then i - p.psize else i

/-- The home slice of a line (R287); an entry that was never written names die 0, slice 0. [DESIGN CHOICE, log 90] -/
def homeSlice (p : Part) (pa : Nat) : SliceId := (lookupNat (partIndex p pa) p.ents).getD ⟨0, 0⟩

/-! ## Translation (R283, R292, R293) -/

/-- What an access needs of a page. -/
inductive Access where
  | read
  | write
  | both
  deriving DecidableEq, Repr

/-- Bit 51 of a physical address names host memory (R292). -/
def isHost (pa : Nat) : Bool := pa / 2 ^ 51 % 2 == 1

/-- A page found by a walk: base, size, frame, rights, not-allocated. -/
structure Page where
  base : Nat
  size : Nat
  frame : Nat
  r : Bool
  w : Bool
  nc : Bool
  deriving DecidableEq, Repr

/-- A page-table entry whose reserved bits are zero (R292). -/
def pteClean (e : Nat) : Bool := bitsAt e 52 12 == 0 && bitsAt e 6 6 == 0 && bitsAt e 2 1 == 0

/-- A VF reaches a physical address (R289, R291): host memory, or device memory below MEMTOP where its partition is not
empty. -/
def VfMem.reaches (v : VfMem) (memtop pa : Nat) : Bool := isHost pa || (v.part.psize != 0 && pa < memtop)

/-- Walk the levels given as (index of the address, page size in bits, leaf allowed, leaf required); a table that cannot be
reached faults like any access (R289). -/
def walkLevels (m : Memory) (reach : Nat → Bool) (va : Nat) : List (Nat × Nat × Bool × Bool) → Nat → Option Page
  | [], _ => none
  | (idx, szb, leafOk, leafReq) :: rest, table =>
    let e := m.readN (table + 8 * idx) 8
    let leaf := bitsAt e 1 1 == 1
    let addr := bitsAt e 12 40 * 4096
    if reach (table + 8 * idx) = false ∨ bitsAt e 0 1 = 0 ∨ pteClean e = false then none
    else if leaf then
      if leafOk = false ∨ addr % 2 ^ szb ≠ 0 then none
      else some ⟨va / 2 ^ szb * 2 ^ szb, 2 ^ szb, addr, bitsAt e 3 1 == 1, bitsAt e 4 1 == 1,
        bitsAt e 5 1 == 1 || isHost addr⟩
    else if leafReq then none
    else walkLevels m reach va rest addr

/-- The five-level walk of a virtual address (R292); PTROOT[0] clear faults (R289). -/
def walk (m : Memory) (reach : Nat → Bool) (ptroot : W64) (va : Nat) : Option Page :=
  if ptroot.toNat % 2 = 0 then none
  else walkLevels m reach va
    [(bitsAt va 48 9, 48, false, false), (bitsAt va 39 9, 39, false, false), (bitsAt va 30 9, 30, true, false),
     (bitsAt va 21 9, 21, true, false), (bitsAt va 16 5, 16, true, true)]
    (bitsAt ptroot.toNat 12 40 * 4096)

/-- The TLBs that a unit looks in, nearest first (R293): units below 65,536 are the L2 TLBs of compartments and islands, those
above the L1 TLBs of cells, each before that of its compartment. -/
def tlbChain (unit : Nat) : List Nat := if unit < 65536 then [unit] else [unit, (unit - 65536) / 128]

/-- Entries that a TLB holds (R293). -/
def tlbCapacity (unit : Nat) : Nat := if unit < 65536 then 8192 else 512

/-- An entry of a TLB covers an address. -/
def TlbEnt.covers (e : TlbEnt) (unit va : Nat) : Bool := e.unit == unit && e.base ≤ va && va < e.base + e.size

/-- The page that the TLBs of a unit hold for an address (R293). -/
def tlbHit (l : List TlbEnt) (unit va : Nat) : Option Page :=
  ((tlbChain unit).findSome? fun u => l.find? fun e => e.covers u va).map fun e => ⟨e.base, e.size, e.frame, e.r, e.w, e.nc⟩

/-- Put an entry into its TLB; a full one loses its oldest. [DESIGN CHOICE, log 109] -/
def tlbPut (e : TlbEnt) (l : List TlbEnt) : List TlbEnt :=
  (if (l.filter fun x => x.unit == e.unit).length < tlbCapacity e.unit then l else l.eraseP fun x => x.unit == e.unit) ++ [e]

/-- The page of an address, from the unit's TLBs or a walk. -/
def findPage (m : Memory) (memtop : Nat) (v : VfMem) (unit va : Nat) : Option Page :=
  match tlbHit v.tlbs unit va with
  | some p => some p
  | none => walk m (v.reaches memtop) v.ptroot va

/-- An access has used a page (R293): every TLB of the unit that missed holds it now. -/
def VfMem.fillTlb (v : VfMem) (m : Memory) (memtop unit va : Nat) : VfMem :=
  match findPage m memtop v unit va with
  | none => v
  | some p => { v with tlbs := (tlbChain unit).foldl (fun acc u =>
      if acc.any fun e => e.covers u va then acc else tlbPut ⟨u, p.base, p.size, p.frame, p.r, p.w, p.nc⟩ acc) v.tlbs }

/-- Rights of a page against an access (R293). -/
def Page.allows (p : Page) : Access → Bool
  | .read => p.r
  | .write => p.w
  | .both => p.r && p.w

/-- A translated address: physical address and whether its line is not allocated in slices. -/
structure Phys where
  pa : Nat
  nc : Bool
  deriving DecidableEq, Repr

/-- Translation of a virtual address for one access (R283, R289, R293): `none` is the fault TRANSLATION. A partition of
size 0 faults every device access; a device address at or above MEMTOP faults. -/
def translate (m : Memory) (memtop : Nat) (v : VfMem) (unit va : Nat) (acc : Access) : Option Phys :=
  if va ≥ 2 ^ 57 then none
  else
    match findPage m memtop v unit va with
    | none => none
    | some p =>
      let pa := p.frame + (va - p.base)
      if p.allows acc = false ∨ v.reaches memtop pa = false then none
      else some ⟨pa, isHost pa || p.nc⟩

/-! ## Classes of address (R283) -/

/-- First byte of the sequencer local memory window. -/
def localBase : Nat := 0x01FFFFFFFFFC0000
/-- First byte of the self window. -/
def selfBase : Nat := 0x01FFFFEFE0000000

/-- A place in store space: compartment offset, column, slot and byte (R283). -/
structure StoreAddr where
  pos : WPos
  off : Nat
  deriving DecidableEq, Repr

/-- The class of an address (R283). -/
inductive AddrClass where
  | bad
  | localMem (off : Nat)
  | self (off : Nat)
  | storeSpace (a : StoreAddr)
  | storeHole
  | virt (va : Nat)
  deriving DecidableEq, Repr

/-- Classify an address (R283): the self window is the store-space place dcol 15, drow 7, column 7, slot 15.
[DEDUCED, log 13] -/
def classify (a : Nat) : AddrClass :=
  if a ≥ 2 ^ 57 then .bad
  else if localBase ≤ a then .localMem (a - localBase)
  else if selfBase ≤ a ∧ a < selfBase + 2 ^ 20 then .self (a - selfBase)
  else if bitsAt a 44 13 = 2 ^ 13 - 1 then
    if bitsAt a 36 1 = 0 ∧ bitsAt a 20 9 = 0 then
      .storeSpace ⟨⟨bitsAt a 40 4, bitsAt a 37 3, bitsAt a 33 3, bitsAt a 29 4⟩, bitsAt a 0 20⟩
    else .storeHole
  else .virt a

end Sys2Proof.Machine
end

