-- ==== Sys2Proof/Machine/Ops.lean ====
section
/-! DEFINITION. The named operations over State that every meaning shares: looking a piece of state up and putting it
back, tokens and packets, host events, trap records, waves, and taking a trap and returning from one for sequencer
contexts (R198, R199) and cell tasks (R316, R337 to R342). -/

namespace Sys2Proof.Machine

/-- What a step answers. -/
abbrev Out := Host.Outcome State Fault Refusal

/-! ## Looking state up -/

/-- A VF; one that nothing has configured is as after reset. -/
def State.vf (s : State) (n : Nat) : Vf := (s.vfs.find? fun v => v.id == n).getD (Vf.reset n)

/-- Put a VF back into a list. -/
def putVf (v : Vf) : List Vf → List Vf
  | [] => [v]
  | x :: xs => if x.id = v.id then v :: xs else x :: putVf v xs

/-- Put a VF back. -/
def State.setVf (s : State) (v : Vf) : State := { s with vfs := putVf v s.vfs }

/-- Change a VF. -/
def State.updVf (s : State) (n : Nat) (f : Vf → Vf) : State := s.setVf { f (s.vf n) with id := n }

/-- A stand by number. -/
def State.stand? (s : State) (n : Nat) : Option Stand := s.stands.find? fun t => t.id == n

/-- Put a stand back. -/
def putStand (t : Stand) : List Stand → List Stand
  | [] => [t]
  | x :: xs => if x.id = t.id then t :: xs else x :: putStand t xs

/-- Put a stand back. -/
def State.setStand (s : State) (t : Stand) : State := { s with stands := putStand t s.stands }

/-- Change a stand, if it exists. -/
def State.updStand (s : State) (n : Nat) (f : Stand → Stand) : State :=
  match s.stand? n with
  | some t => s.setStand { f t with id := n }
  | none => s

/-- A context that is bound to nothing. -/
def SeqCtx.unbound (q : SeqId) : SeqCtx :=
  { id := q, bind := .none, run := .idle, readyAt := 0, text := [], entry := 0, pc := 0, g := [], w := [], depth := 0
    resident := 1, q := 0, loops := [], h := false, fromIdle := false, limm := none, tvec := 0, tcause := 0, tinfo := 0
    epc := 0, wsp := BitVec.ofNat 64 (0x10000 * q.ctx), wlim := BitVec.ofNat 64 (0x10000 * q.ctx + 0x8000), frm := 0
    oskey := 0, tagctl := 0, wait := none, block := none, tqhead := 0, tqtail := 0, tqlost := 0, tqact := 0
    tqnote := [], event := none, issued := none }

/-- A sequencer context. -/
def State.ctx (s : State) (q : SeqId) : SeqCtx := (s.seqs.find? fun c => c.id == q).getD (SeqCtx.unbound q)

/-- Put a context back into a list. -/
def putSeq (c : SeqCtx) : List SeqCtx → List SeqCtx
  | [] => [c]
  | x :: xs => if x.id = c.id then c :: xs else x :: putSeq c xs

/-- Put a context back. -/
def State.setCtx (s : State) (c : SeqCtx) : State := { s with seqs := putSeq c s.seqs }

/-- Change a context. -/
def State.updCtx (s : State) (q : SeqId) (f : SeqCtx → SeqCtx) : State := s.setCtx { f (s.ctx q) with id := q }

/-- A die. -/
def State.die (s : State) (d : Nat) : Die := s.dies.get d

/-- Change a die. -/
def State.updDie (s : State) (d : Nat) (f : Die → Die) : State := { s with dies := s.dies.set d (f (s.dies.get d)) }

/-- The cycle count of a die, as a number (R1, R172). -/
def State.cyc (s : State) (d : Nat) : Nat := (s.dies.get d).cyc.toNat

/-- A slice; one that nothing has used is empty. -/
def State.slice (s : State) (i : SliceId) : Slice := (s.slices.find? fun x => x.id == i).getD ⟨i, [], [], []⟩

/-- Put a slice back into a list. -/
def putSlice (x : Slice) : List Slice → List Slice
  | [] => [x]
  | y :: ys => if y.id = x.id then x :: ys else y :: putSlice x ys

/-- Put a slice back. -/
def State.setSlice (s : State) (x : Slice) : State := { s with slices := putSlice x s.slices }

/-! ### Weaves and tasks -/

/-- A weave whose state has its values after placement (R201, R250, R269): absent registers read as zero.
[DESIGN CHOICE, log 8] -/
def Weave.fresh (p : WPos) : Weave :=
  { pos := p, xs := [], ps := [], tiles := [], bufs := [], chain := 0, leader := none, link := none, mults := []
    slots := [], recs := [], dxst := 0, twst := 0, blzn := 0, mode := 0, store := Memory.empty, full := [], tasks := [], actx := 0
    l1 := [], ldxOut := 0, ldxSeq := [], lastNid := 0, issued := none, snapped := false, halted := false }

/-- A weave of a stand; every weave of the box exists (R283). -/
def Stand.weave (t : Stand) (p : WPos) : Weave :=
  (t.weaves.find? fun w => w.pos == p).getD { Weave.fresh p with actx := t.actx, mode := t.mode }

/-- Put a weave back into a list. -/
def putWeave (w : Weave) : List Weave → List Weave
  | [] => [w]
  | x :: xs => if x.pos = w.pos then w :: xs else x :: putWeave w xs

/-- Put a weave back. -/
def Stand.setWeave (t : Stand) (w : Weave) : Stand := { t with weaves := putWeave w t.weaves }

/-- A task of a weave. -/
def Weave.task? (w : Weave) (nid : Nat) : Option Task := w.tasks.find? fun t => t.nid == nid

/-- Put a task back into a list. -/
def putTask (k : Task) : List Task → List Task
  | [] => [k]
  | x :: xs => if x.nid = k.nid then k :: xs else x :: putTask k xs

/-- Put a task back. -/
def Weave.setTask (w : Weave) (k : Task) : Weave := { w with tasks := putTask k w.tasks }

/-- A task with nothing queued and not fired. -/
def Task.fresh (nid copy : Nat) : Task :=
  { nid := nid, copy := copy, ports := [PortQ.empty, PortQ.empty, PortQ.empty, PortQ.empty], cr := [0, 0, 0, 0]
    fired := false, pc := 0, loops := [], frm := 0, skips := [0, 0, 0, 0], branches := 0, resv := [0, 0, 0, 0]
    outIdx := [0, 0, 0, 0], wait := none, pend := none, deferred := [], twn := none, ent := none, lineSince := none, block := 0
    trapped := false, yielded := false, dealt := [0, 0, 0, 0], turn := 0, outq := [] }

/-- The node a task runs (R83): by compartment offset and node id. -/
def Kernel.node? (k : Kernel) (p : WPos) (nid : Nat) : Option NodeDesc :=
  match k.images.find? fun im => im.dcol == p.dcol && im.drow == p.drow with
  | some im => im.nodes.find? fun n => n.nid == nid
  | none => none

/-- A port that does not exist (R84). -/
def PortDesc.none : PortDesc := ⟨false, 0, 0, 0, 0, 0⟩

/-- Port descriptor `i` of a node: 0 to 3 inputs, 4 to 7 outputs (R83). -/
def NodeDesc.port (n : NodeDesc) (i : Nat) : PortDesc := nth PortDesc.none n.ports i

/-- Weave slots per column at the greatest grain (R85). -/
def Kernel.slotsPerCol (k : Kernel) : Nat := 16 / 2 ^ k.gmax

/-- Place of copy `c` of a node (R85). -/
def copyPos (k : Kernel) (dcol drow : Nat) (n : NodeDesc) (c : Nat) : WPos :=
  let l := k.slotsPerCol
  let p := n.slot + c
  ⟨dcol, drow, n.col + p / l, p % l⟩

/-- Lanes of a weave of grain G (R30). -/
def lanesOf (g : Nat) : Nat := 16 * g

/-- The wait limit of a node in cycles (R18, R83): exponent 0 selects 20. -/
def NodeDesc.limit (n : NodeDesc) : Nat := 2 ^ (if n.wlk = 0 then 20 else n.wlk)

/-! ## Hardware loops (R183, R225) -/

/-- What follows the word at `e` (R183 reach_end): levels that end there step their counts, innermost first; `step` is
the distance between two words (4 bytes in a sequencer, 1 word in a cell). -/
def reachEnd (step : Nat) : List LoopEnt → Nat → List LoopEnt × Nat
  | [], e => ([], e + step)
  | l :: ls, e =>
    if l.last = e then
      if 1 < l.count then ({ l with count := l.count - 1 } :: ls, l.start) else reachEnd step ls e
    else (l :: ls, e + step)

/-- The levels left after a taken branch: a level whose body does not hold the target goes, with every level nested in it
(R183). -/
def leaveLoops (target : Nat) : List LoopEnt → List LoopEnt
  | [] => []
  | l :: ls =>
    if ls.all (fun o => o.start ≤ target && target ≤ o.last) ∧ l.start ≤ target ∧ target ≤ l.last then l :: ls
    else leaveLoops target ls

/-- A context goes on after the word it executed. -/
def SeqCtx.advance (c : SeqCtx) : SeqCtx :=
  { c with loops := (reachEnd 4 c.loops c.pc).1, pc := (reachEnd 4 c.loops c.pc).2, limm := none, wait := none }

/-- A task goes on after the word it executed. -/
def Task.advance (k : Task) : Task :=
  { k with loops := (reachEnd 1 k.loops k.pc).1, pc := (reachEnd 1 k.loops k.pc).2, wait := none, twn := none, ent := none }

/-! ## Outputs and host events (R382) -/

/-- A packet to another package, which needs a port that is up (R380). -/
def Output.needsPort : Output → Bool
  | .pod _ _ => true
  | .msix _ => false
  | .readData _ _ _ => false

/-- Something leaves the device: a packet to another package waits at its sender while no port is up (R380).
[DEDUCED, log 149] -/
def State.emit (s : State) (o : Output) : State :=
  if o.needsPort ∧ s.svc.linkUp = 0 then { s with svc := { s.svc with podWait := o :: s.svc.podWait } }
  else { s with out := o :: s.out }

/-- The ring of a function. -/
def State.ring (s : State) : FnId → EvRing
  | .pf => s.pf.ev
  | .vf n => (s.vf n).ev

/-- Put a ring back. -/
def State.setRing (s : State) (f : FnId) (r : EvRing) : State :=
  match f with
  | .pf => { s with pf := { s.pf with ev := r } }
  | .vf n => s.updVf n fun v => { v with ev := r }

/-- A host event entry (R382). -/
def eventWord (typ cause vf die : Nat) (cyc : W32) (data : W64) : W128 :=
  data ++ cyc ++ BitVec.ofNat 2 die ++ BitVec.ofNat 6 vf ++ BitVec.ofNat 8 typ ++ BitVec.ofNat 8 cause ++ (0 : BitVec 8)

/-- Host memory address of a byte of the host (R292: bit 51). -/
def hostAddr (a : Nat) : Nat := 2 ^ 51 + a % 2 ^ 51

/-- Append a host event to the ring of a function (R382): dropped and counted when the ring is full or EVBASE is 0; the
first entry of an empty ring sends MSI-X vector 0. -/
def hostEvent (f : FnId) (typ cause vf die : Nat) (data : W64) (s : State) : State :=
  let r := s.ring f
  if r.base = 0 ∨ 256 ≤ (r.tail - r.head).toNat then s.setRing f { r with lost := satInc32 r.lost }
  else
    let w := eventWord typ cause vf die (BitVec.ofNat 32 (s.cyc die)) data
    let a := hostAddr (bitsAt r.base.toNat 12 40 * 4096 + 16 * (r.tail.toNat % 256))
    let s1 := { s with mem := s.mem.store a (bytesLE 16 w.toNat) false }
    let s2 := if r.tail = r.head then s1.emit (.msix f) else s1
    s2.setRing f { r with tail := r.tail + 1 }

/-! ## Trap records (R337 to R340) -/

/-- Default act of a cause (R340): 0 RESUME, 1 ROLLBACK, 2 STOP. -/
def defaultAct (cause : Nat) : Nat :=
  match cause with
  | 0x03 => 1 | 0x07 => 1 | 0x0A => 1 | 0x0B => 1
  | 0x09 => 0
  | _ => 2

/-- Fields of a trap record (R338). -/
structure TrapRec where
  cause : Nat
  code : Nat
  src : Nat
  pos : WPos
  tidx : Nat
  blzn : W32
  pc : Nat
  op1 : W32
  op2 : W32
  op3 : W32
  op4 : W32
  deriving DecidableEq, Repr

/-- The 256 bits of a record with its default act (R338). -/
def TrapRec.word (r : TrapRec) : BitVec 256 :=
  r.op4 ++ r.op3 ++ r.op2 ++ r.op1 ++ BitVec.ofNat 32 r.pc ++ r.blzn ++ BitVec.ofNat 24 r.tidx ++ BitVec.ofNat 4 r.pos.col
    ++ BitVec.ofNat 4 r.pos.slot ++ BitVec.ofNat 2 (defaultAct r.cause) ++ BitVec.ofNat 3 r.src
    ++ BitVec.ofNat 4 r.pos.dcol ++ BitVec.ofNat 3 r.pos.drow ++ (0 : BitVec 4) ++ BitVec.ofNat 8 r.code
    ++ BitVec.ofNat 8 r.cause

/-- Address in `lmem` of an offset of a context's sequencer (R170). -/
def localAddr (q : SeqId) (off : Nat) : Nat := 262144 * (2 * q.isl + q.seq) + off % 262144

/-- Local offset of a context's trap queue (R337). -/
def tqBase (q : SeqId) : Nat := 0x10000 * q.ctx + 0xF000

/-- Append 256 bits to a context's trap queue (R337): a full ring drops them, counts them in TQLOST and keeps the
default act. `event` says whether a trap event is raised (R342); the oldest pending one is kept. -/
def appendRecord (q : SeqId) (w : BitVec 256) (cause act : Nat) (event : Bool) (s : State) : State :=
  let c := s.ctx q
  let ev := if event then (match c.event with | some e => some e | none => some (cause, c.tqtail.toNat)) else c.event
  if (c.tqtail - c.tqhead).toNat < 64 then
    let a := localAddr q (tqBase q + 32 * (c.tqtail.toNat % 64))
    { s with lmem := s.lmem.store a (bytesLE 32 w.toNat) false }.setCtx { c with tqtail := c.tqtail + 1, event := ev }
  else s.setCtx { c with tqlost := satInc32 c.tqlost, tqact := max c.tqact act, event := ev }

/-- A record for the root program of a VF (R116, R133, R199), with the host event of type 2 (or `typ`) on the VF; without
a root program nothing is written and the event carries all ones (R337). -/
def rootRecord (vf die : Nat) (w : BitVec 256) (cause : Nat) (s : State) : State :=
  match (s.vf vf).root with
  | some r =>
    let n := (s.ctx r.ctx).tqtail
    hostEvent (.vf vf) 2 cause vf die (n.setWidth 64) (appendRecord r.ctx w cause 0 true s)
  | none => hostEvent (.vf vf) 2 cause vf die (BitVec.allOnes 64) s

/-! ## Tokens and packets (R122 to R125) -/

/-- The data lanes of a token, sixteen of them. -/
def Tok.fit (t : Tok) : Tok := { t with lanes := fitLen ⟨0, false⟩ 16 t.lanes }

/-- A control token with the given lane 0. -/
def ctlTok (kind : Nat) (l0 : W32) : Tok := Tok.fit ⟨BitVec.ofNat 4 kind, [⟨l0, false⟩], false, 0, false⟩

/-- The BLAZE token of a wave (R346): number in lane 0, flags in lane 1. -/
def blazeTok (num : Nat) (f : WaveFlags) : Tok :=
  let b (x : Bool) (k : Nat) : Nat := if x then k else 0
  Tok.fit ⟨7, [⟨BitVec.ofNat 32 num, false⟩,
    ⟨BitVec.ofNat 32 (b f.grain 1 + b f.move 2 + b f.preempt 4 + b f.halt 8 + b f.close 16), false⟩], false, 0, false⟩

/-- Packets that an injection buffer and an input buffer of a ride hold (R314). -/
def rideBuffer : Nat := 4

/-- The rides that a VF's packets may take (R124, R366): the one that it is bound to, else those that are powered, lowest first. -/
def ridesFor (s : State) (vf die : Nat) : List Nat :=
  if s.pf.ridectl.toNat % 2 = 1 then
    [bitsAt (if vf < 32 then s.pf.ridemap0 else s.pf.ridemap1).toNat (2 * (vf % 32)) 2]
  else ((s.die die).rides.zipIdx.filter fun p => p.1.on).map (·.2)

/-- The ride that a packet takes (R124): the lowest on which its sender's injection buffer has room, given the packets that it
holds there, and none where no buffer has any. -/
def rideFor (s : State) (vf die : Nat) (held : Nat → Nat) : Option Nat := (ridesFor s vf die).find? fun k => held k < rideBuffer

/-- The ride of a VF's packets, for a sender that holds none. -/
def rideOf (s : State) (vf die : Nat) : Nat := (rideFor s vf die fun _ => 0).getD 0

/-- Mark that a ride carries a flit now (R124). -/
def touchRide (die ride : Nat) (s : State) : State :=
  s.updDie die fun d => { d with rides := d.rides.zipIdx.map fun p => if p.2 = ride then { p.1 with lastFlit := d.cyc.toNat } else p.1 }

/-- A packet of a VF travels on a die now (R124, R366). -/
def flitOn (vf die : Nat) (s : State) : State := touchRide die (rideOf s vf die) s

/-- The next number a sender gives to a stream (R125), 16 bits that wrap. -/
def seqNext (l : List (Nat × Nat)) (route : Nat) : Nat := (lookupNat route l).getD 0

/-- Advance a sender's number. -/
def seqBump (l : List (Nat × Nat)) (route : Nat) : List (Nat × Nat) := storeNat route ((seqNext l route + 1) % 65536) l

/-- The route under which a sender numbers what it sends to a port (R125): the first with the same destination.
[DEDUCED, log 137] -/
def Kernel.streamOf (k : Kernel) (route : Nat) : Nat :=
  ((upTo route).find? fun r => (k.routes[r]?) == (k.routes[route]?)).getD route

/-- The slice that a line request goes to: that of its line in the partition of its VF. -/
def SliceReq.home (s : State) (r : SliceReq) : SliceId :=
  homeSlice (s.vf (((s.stand? r.eng.stand).map (·.vf)).getD 0)).mem.part (128 * r.line)

/-- Requests that wait on a ride for a slice, oldest first: as many as an input buffer holds stand in that of the ride at the
slice, the rest in their senders' injection buffers (R288, R314). -/
def State.waitsAt (s : State) (ride : Nat) (h : SliceId) : List SliceReq :=
  s.fab.reqs.filter fun r => r.ride == ride && r.home s == h

/-- Packets of a sender in its injection buffer of a ride: tokens under way and an engine's requests beyond the input buffers
(R314). [DEDUCED, log 134] -/
def State.injected (s : State) (die : Nat) (sender : Sender) (ride : Nat) : Nat :=
  (s.fab.packets.filter fun p => p.die == die && p.sender == sender && p.ride == some ride).length
    + match sender with
      | .eng k => (s.fab.reqs.filter fun r =>
          r.eng == k && r.ride == ride && !(((s.waitsAt ride (r.home s)).take rideBuffer).contains r)).length
      | .ldx _ _ => 0

/-- A packet that waits at its sender enters an injection buffer with room (R124), as the newest of its ride. -/
def injectPacket (s : State) (p : Packet) : State :=
  match p.ride, rideFor s p.vf p.die (s.injected p.die p.sender) with
  | none, some r => touchRide p.die r { s with fab := { s.fab with
      nextId := s.fab.nextId + 1
      packets := s.fab.packets.map fun x => if x.id = p.id then { x with id := s.fab.nextId, ride := some r } else x } }
  | _, _ => s

/-- The packets that wait at their senders enter the injection buffers that have room, oldest first. -/
def injectWaiting (s : State) : State := s.fab.packets.foldl injectPacket s

/-- Send a packet over the rides (R124): where no injection buffer has room it waits at its sender. -/
def launchPacket (die vf : Nat) (sender : Sender) (seq : Nat) (dst : PktDst) (tok : Tok) (s : State) : State :=
  injectWaiting { s with fab := { s.fab with
    nextId := s.fab.nextId + 1
    packets := s.fab.packets ++ [⟨s.fab.nextId, die, none, vf, sender, seq, dst, tok⟩] } }

/-- Whether a cell route's compartment lies on the die. -/
def routeOnDie (t : Stand) (dc dr : Int) : Bool :=
  0 ≤ (t.col : Int) + dc && (t.col : Int) + dc < 16 && 0 ≤ (t.row : Int) + dr && (t.row : Int) + dr < 8

/-- The absolute destination that a route entry names from where its stand stands (R87, R88); a compartment beyond the die
does not exist, and a token for it is dropped where it is sent. [DESIGN CHOICE, log 154] -/
def Stand.dstOf (t : Stand) : RouteEnt → Option PktDst
  | .cell dc dr col slot vc =>
    if routeOnDie t dc dr then some (.cell t.die ((t.col : Int) + dc).toNat ((t.row : Int) + dr).toNat col slot vc) else none
  | .eng n => some (.eng ⟨t.id, n⟩)

/-- The route identifier of a route-table index (R88). -/
def Stand.rid (t : Stand) (route : Nat) : Nat := nth 0 (t.kern.rids.get t.die) route

/-- Change an engine context of a stand. -/
def Stand.updEng (t : Stand) (n : Nat) (f : Eng → Eng) : Stand :=
  { t with engs := t.engs.map fun e => if e.no = n then f e else e }

/-- An engine context of a stand. -/
def Stand.eng? (t : Stand) (n : Nat) : Option Eng := t.engs.find? fun e => e.no == n

/-- An engine sends a token on a route over the rides (R124, R125). -/
def engineSend (st eng route : Nat) (tok : Tok) (s : State) : State :=
  match s.stand? st with
  | none => s
  | some t =>
    match t.eng? eng, (t.kern.routes[route]?).bind t.dstOf with
    | some e, some dst =>
      let n := t.kern.streamOf route
      let s1 := s.setStand (t.updEng eng fun e => { e with sendSeq := seqBump e.sendSeq n })
      launchPacket t.die t.vf (.eng ⟨st, eng⟩) (seqNext e.sendSeq n) dst { tok.fit with rid := t.rid route } s1
    | _, _ => s

/-- A token enters an output bus behind those of its line that entered it before; of those of one cycle the lower slot's goes
first (R123). -/
def enterBus (f : Flight) : List Flight → List Flight
  | [] => [f]
  | g :: gs =>
    if g.place = .bus ∧ g.born = f.born ∧ g.stand = f.stand ∧ g.src.dcol = f.src.dcol ∧ g.src.drow = f.src.drow
        ∧ g.src.col = f.src.col ∧ g.route = f.route ∧ f.src.slot < g.src.slot then f :: g :: gs
    else g :: enterBus f gs

/-- A weave's output port sends a token on its route (R123): to a cell over the tracks from the output bus of its column,
to an engine's stream port over the rides. -/
def weaveSend (w : WKey) (vc route : Nat) (tok : Tok) (s : State) : State :=
  match s.stand? w.stand with
  | none => s
  | some t =>
    let tok := { tok.fit with rid := t.rid route }
    match (t.kern.routes[route]?).bind t.dstOf with
    | some (.cell _ _ _ _ _ _) =>
      { s with fab := { s.fab with
          nextId := s.fab.nextId + 1
          flights := enterBus ⟨s.fab.nextId, w.stand, w.pos, vc, route, tok, .bus, s.cyc t.die⟩ s.fab.flights } }
    | some (.eng ⟨_, n⟩) =>
      let wv := t.weave w.pos
      let m := 256 + t.kern.streamOf route
      let s1 := s.setStand (t.setWeave { wv with ldxSeq := seqBump wv.ldxSeq m })
      launchPacket t.die t.vf (.ldx w m) (seqNext wv.ldxSeq m) (.eng ⟨w.stand, n⟩) tok s1
    | none => s

/-! ## Waves (R341, R346, R347, R386) -/

/-- No flags. -/
def WaveFlags.none : WaveFlags := ⟨false, false, false, false, false, [], []⟩

/-- Union of two requests (R346). -/
def WaveFlags.join (a b : WaveFlags) : WaveFlags :=
  ⟨a.grain || b.grain, a.move || b.move, a.preempt || b.preempt, a.halt || b.halt, a.close || b.close,
   a.blaz ++ b.blaz, a.closes ++ b.closes⟩

/-- A wave after which the stand stays stopped until a grain change, move or pre-emption is done (R130, R143, R352).
[DEDUCED, log 82] -/
def WaveFlags.stops (f : WaveFlags) : Bool := f.grain || f.move || f.preempt

/-- A command word's opcode (R164). -/
def cmdOp (w : W128) : Nat := (w.extractLsb' 120 8).toNat

/-- Routes an unfinished command streams to (R386): STRM and GATH their route, DISP t0 routes from it. -/
def cmdRoutes (w : W128) : List Nat :=
  let f := skidFields w
  match cmdOp w with
  | 0x0E => [f.route.toNat]
  | 0x04 => [f.route.toNat]
  | 0x06 => upFrom f.route.toNat f.t0.toNat
  | _ => []

/-- Routes that an engine's unfinished commands stream to, each once. -/
def Eng.routes (e : Eng) : List Nat :=
  (e.cmds.filter fun c => !c.finished).foldl (fun acc c => (cmdRoutes c.word).foldl (fun a r => insertNat r a) acc) []

/-- Route indices, with their entries, of a stand's table. -/
def Stand.routeTable (t : Stand) : List (RouteEnt × Nat) := t.kern.routes.zipIdx

/-- All nodes of a stand with their compartment offsets. -/
def Kernel.allNodes (k : Kernel) : List (Nat × Nat × NodeDesc) :=
  (k.images.map fun im => im.nodes.map fun n => (im.dcol, im.drow, n)).flatten

/-- Producers of a stand on a route index (R19, R386): every node with an output port on it, whose copies' gather forwards one
BLAZE, and every engine with an unfinished streaming command on it. -/
def Stand.producers (t : Stand) (route : Nat) : Nat :=
  sumNat (t.kern.allNodes.map fun p => ((p.2.2.ports.drop 4).filter fun d => d.en && d.route == route).length)
  + (t.engs.filter fun e => e.routes.contains route).length

/-- Route identifiers, once per producer, that a wave waits for on a destination (R386). -/
def Stand.waited (t : Stand) (isDst : RouteEnt → Bool) : List Nat :=
  (t.routeTable.map fun p => if isDst p.1 then List.replicate (t.producers p.2) (t.rid p.2) else []).flatten

/-- Whether a route entry leads to a port on channel `vc` of the node whose copy 0 stands at `p`. -/
def routeLeads (p : WPos) (vc : Nat) : RouteEnt → Bool
  | .cell dc dr col slot v =>
    dc == (p.dcol : Int) && dr == (p.drow : Int) && col == p.col && slot == p.slot && v == vc
  | .eng _ => false

/-- Whether a route entry leads to an engine's stream port. -/
def routeToEng (n : Nat) : RouteEnt → Bool
  | .cell _ _ _ _ _ => false
  | .eng m => m == n

/-- Place a wave's expectation on every enabled input port of a task (R347, R386). -/
def armTask (t : Stand) (pos : WPos) (k : Task) : Task :=
  match t.kern.node? pos k.nid with
  | none => k
  | some n =>
    let home := copyPos t.kern pos.dcol pos.drow n 0
    { k with ports := k.ports.zipIdx.map fun p =>
        let d := n.port p.2
        if d.en && p.2 < 4 then { p.1 with blzNeed := some (t.waited (routeLeads home d.vc)), blzGot := [], behind := [] }
        else p.1 }

/-- Mark the segment entries of an agent as covered by the wave under way (R327). -/
def sealSeg (src : SegSrc) (seg : List SegEnt) : List SegEnt :=
  seg.map fun e => if e.src = src then { e with isSealed := true } else e

/-- Mark held publications as made ahead of the wave under way. -/
def sealHeld (f : HeldPub → Bool) (l : List HeldPub) : List HeldPub :=
  l.map fun p => if f p ∧ p.stage = 0 then { p with stage := 1 } else p

/-- A context as a wave snapshots it: between two instructions, outside a prefix pair (R350). -/
def SeqCtx.snapshot (c : SeqCtx) : SeqCtx :=
  match c.limm with
  | some p => { c with limm := none, pc := p.2 }
  | none => c

/-- First local offset of the frames that hold a context's spilled windows (R181). -/
def SeqCtx.spillBase (c : SeqCtx) : Nat := c.wsp.toNat - 264 * (c.depth + 1 - c.resident)

/-- The bytes of a context's spilled windows, which a snapshot of it holds (R350). -/
def State.spilledBytes (s : State) (c : SeqCtx) : List Byte :=
  s.lmem.bytesAt (localAddr c.id c.spillBase) (c.wsp.toNat - c.spillBase)

/-- One engine emits BLAZE on routes (R347). -/
def emitBlaze (st : Nat) (num : Nat) (fl : WaveFlags) (eng : Nat) (routes : List Nat) (s : State) : State :=
  let s1 := routes.foldl (fun acc r => engineSend st eng r (blazeTok num fl) acc) s
  s1.updStand st fun t => t.updEng eng fun e => { e with blazed := true }

/-- The last command that an engine context had received when the feeding of the blocks closed by a wave ended.
[DEDUCED, log 63] -/
def WaveFlags.bound (fl : WaveFlags) (eng : Nat) : Nat := maxNat (fl.closes.map fun b => (lookupNat eng b.2).getD 0)

/-- Engines of a closing wave that emit only after a command not yet finished (R369). [DEDUCED, log 62] -/
def closeAfter (fl : WaveFlags) (e : Eng) : Option (Nat × Nat × List Nat) :=
  if fl.close then
    match (e.cmds.filter fun c => !c.finished && c.seq ≤ fl.bound e.no && !(cmdRoutes c.word).isEmpty).getLast? with
    | some c => some (e.no, c.seq, e.routes)
    | none => none
  else none

/-- Inject a wave into a stand that has none under way (R346, R347, R350): ports await their BLAZE, the context is
snapshotted (but for a halt) and its held writes covered, engines emit at once or, for a close, after the commands
received before. -/
def injectWave (st : Nat) (fl : WaveFlags) (s : State) : State :=
  match s.stand? st with
  | none => s
  | some t =>
    let c := s.ctx t.ctx
    let late := t.engs.filterMap (closeAfter fl)
    let wave : Wave :=
      { num := t.nextWave, flags := fl, started := s.cyc t.die, snaps := [], engSnaps := []
        ctxSnap := if fl.halt then none else some c.snapshot
        spillSnap := s.spilledBytes c, emit := late, inj := t.engs.map fun e => (e.no, e.nextSeq - 1), blks := t.blocks
        mode := c.frm.setWidth 32
        committed := false, pubs := [] }
    let t1 : Stand :=
      { t with
        wave := some wave, nextWave := t.nextWave + 1, lastWaveAt := s.cyc t.die
        seg := if fl.halt then t.seg else sealSeg .ctx t.seg
        held := if fl.halt then t.held else sealHeld (fun p => p.src == 1) t.held
        weaves := t.weaves.map fun w => { w with snapped := false, tasks := w.tasks.map (armTask t w.pos) }
        engs := t.engs.map fun e => { e with
          blazed := false
          port := { e.port with blzNeed := some (t.waited (routeToEng e.no)), blzGot := [], behind := [] } } }
    (t.engs.filter fun e => !(late.any fun p => p.1 == e.no)).foldl
      (fun acc e => emitBlaze st t.nextWave fl e.no e.routes acc) (s.setStand t1)

/-- A cell's trap record in a context's queue is not yet serviced (R338: src 0). [DEDUCED, log 95] -/
def cellRecordOpen (s : State) (c : SeqCtx) : Bool :=
  (upTo (c.tqtail - c.tqhead).toNat).any fun i =>
    bitsAt (s.lmem.byte (localAddr c.id (tqBase c.id + 32 * ((c.tqhead.toNat + i) % 64) + 3))).toNat 3 3 == 0

/-- The wave has passed an engine context. -/
def Wave.hasPassed (w : Wave) (eng : Nat) : Bool := w.engSnaps.any fun y => y.no == eng

/-- A closing BLAZE of a wave under way can still follow what an engine received before the feeding ended (R369): the wave has
passed an engine whose commands were all finished, or the streams left are on routes on which the engine's BLAZE is still to
come. -/
def Wave.follows (w : Wave) (fl : WaveFlags) (e : Eng) : Bool :=
  if w.hasPassed e.no then
    w.engSnaps.all fun y => y.no != e.no || (y.nextSeq == e.nextSeq && y.cmds.all (·.finished))
  else
    (e.cmds.filter fun c => !c.finished && c.seq ≤ fl.bound e.no).all fun c => (cmdRoutes c.word).all fun r =>
      w.emit.any fun x => x.1 == e.no && x.2.2.contains r

/-- Flags can join a wave under way (R346): no weave has snapshotted for it, and a close keeps the order of R369, which lets it
be a wave of its own. [DEDUCED, log 62] -/
def Wave.takes (w : Wave) (t : Stand) (fl : WaveFlags) : Bool :=
  w.snaps.isEmpty && !w.committed && (!fl.close || t.engs.all (w.follows fl))

/-- Flags join a wave under way: a close takes the context, its held writes and the blocks as they stand, with the mode that the
context then holds (R43), and an engine's BLAZE, on the routes of the injection, waits for the commands received before; an
engine that the wave has passed stops where the wave now stops the stand. [DEDUCED, log 62] [DEDUCED, log 188] -/
def Stand.joinWave (t : Stand) (w : Wave) (fl : WaveFlags) (c : SeqCtx) (spill : List Byte) : Stand :=
  let all := w.flags.join fl
  let t1 : Stand := { t with
    wave := some { w with flags := all }
    engs := t.engs.map fun e => if all.stops && w.hasPassed e.no then { e with halted := true } else e }
  if fl.close then
    { t1 with
      wave := some { w with
        flags := all, ctxSnap := some c.snapshot, spillSnap := spill, inj := t.engs.map fun e => (e.no, e.nextSeq - 1)
        blks := t.blocks, mode := c.frm.setWidth 32
        emit := w.emit.map fun x => match (t.eng? x.1).bind (closeAfter all) with | some y => (x.1, y.2.1, x.2.2) | none => x }
      seg := sealSeg .ctx t.seg, held := sealHeld (fun p => p.src == 1) t.held }
  else t1

/-- Request a wave (R346, R354): while the stand is held it waits; while a wave is under way that takes its flags they are
added, otherwise it is injected after that wave; with none under way it is injected now, but for a grain change that waits
for the service of a cell's record (R142). [DEDUCED, log 62] -/
def requestWave (st : Nat) (fl : WaveFlags) (s : State) : State :=
  match s.stand? st with
  | none => s
  | some t =>
    match t.isHeld with
    | some h =>
      s.setStand { t with isHeld := some { h with withdrawn := some ((h.withdrawn.getD WaveFlags.none).join fl) } }
    | none =>
      let later := (t.waveReq.getD WaveFlags.none).join fl
      match t.wave with
      | none =>
        if later.grain && cellRecordOpen s (s.ctx t.ctx) then
          (if fl.grain then s.setStand { t with waveReq := some later } else injectWave st fl s)
        else injectWave st later (s.setStand { t with waveReq := none })
      | some w =>
        let c := s.ctx t.ctx
        if w.takes t fl && !(fl.grain && cellRecordOpen s c) then s.setStand (t.joinWave w fl c (s.spilledBytes c))
        else s.setStand { t with waveReq := some later }

/-- A stand becomes held (R341): a wave with the halt flag; a wave under way becomes the halt wave at once, the weaves and
engines that it has passed stop, and its other requests are withdrawn until the service decides (R346); a wave that is
complete ends first. A stand already held stays so.
[DEDUCED, log 73] -/
def holdStand (st : Nat) (s : State) : State :=
  match s.stand? st with
  | none => s
  | some t =>
    match t.isHeld with
    | some _ => s
    | none =>
      let c := s.ctx t.ctx
      let s1 := s.setCtx { c with tqact := 0 }
      match t.wave with
      | some w =>
        if w.committed then s1.setStand { t with isHeld := some ⟨0, false, t.waveReq, false⟩, waveReq := none }
        else
          let halt := { WaveFlags.none with halt := true }
          w.emit.foldl (fun acc x => emitBlaze st w.num halt x.1 x.2.2 acc) (s1.setStand { t with
            weaves := t.weaves.map fun x => if x.snapped then { x with halted := true } else x
            engs := t.engs.map fun e => if w.hasPassed e.no then { e with halted := true } else e
            wave := some { w with flags := halt, ctxSnap := none, emit := [] }
            isHeld := some ⟨0, false, some ((t.waveReq.getD WaveFlags.none).join w.flags), false⟩
            waveReq := none })
      | none =>
        injectWave st { WaveFlags.none with halt := true }
          (s1.setStand { t with isHeld := some ⟨0, false, t.waveReq, false⟩, waveReq := none })

/-- A record for a stand's trap queue (R341, R342, R345): appended, the event raised unless it is the context's own stop;
a held stand whose event cannot be delivered raises a host event of type 3 (R382). -/
def standRecord (st : Nat) (r : TrapRec) (own : Bool) (s : State) : State :=
  match s.stand? st with
  | none => s
  | some t =>
    let c := s.ctx t.ctx
    let s1 := appendRecord t.ctx r.word r.cause (defaultAct r.cause) (!own) (if own then s else flitOn t.vf t.die s)
    if t.isHeld.isSome ∧ (c.tvec = 0 ∨ c.h = true) then
      hostEvent (.vf t.vf) 3 r.cause t.vf t.die (BitVec.ofNat 64 t.kern.kid) s1
    else s1

/-- A record that also holds the stand (R341). The stand becomes held first, so that the default act of a record that its
full queue drops is kept (R337). [DEDUCED, log 93] -/
def trapStand (st : Nat) (r : TrapRec) (own : Bool) (s : State) : State := standRecord st r own (holdStand st s)

/-! ## The contexts of one sequencer (R168) -/

/-- Two contexts stand on one sequencer. -/
def sameSequencer (a b : SeqId) : Bool := a.isl == b.isl && a.seq == b.seq

/-- The ready context of a list that has been ready longest. [DESIGN CHOICE, log 172] -/
def longestReady : List SeqCtx → Option SeqCtx
  | [] => none
  | c :: cs =>
    match longestReady cs with
    | none => if c.run = .ready then some c else none
    | some d => if c.run = .ready ∧ c.readyAt ≤ d.readyAt then some c else some d

/-- Give a free sequencer to the context that has been ready longest (R168). -/
def schedule (q : SeqId) (s : State) : State :=
  let peers := s.seqs.filter fun c => sameSequencer c.id q
  if peers.any fun c => c.run == .running then s
  else match longestReady peers with
    | some c => s.setCtx { c with run := .running }
    | none => s

/-- A context becomes ready (R168). -/
def makeReady (q : SeqId) (s : State) : State :=
  schedule q (s.updCtx q fun c => { c with run := .ready, readyAt := s.cyc q.die, wait := none })

/-- A context gives up its sequencer in a new run state. -/
def giveUp (q : SeqId) (r : RunState) (s : State) : State := schedule q (s.updCtx q fun c => { c with run := r })

/-! ## Sequencer traps (R199, R200) -/

/-- Address of the instruction that traps: that of its SL.LIMM where it has one (R149). -/
def SeqCtx.here (c : SeqCtx) : Nat := match c.limm with | some p => p.2 | none => c.pc

/-- Stop a context (R199): a stand's context stops, with a record in the stand's queue that holds the stand; a root
program's context halts, with a record in its own queue and a host event on the VF. -/
def seqStop (q : SeqId) (cause : Nat) (code : Nat) (info epc : W64) (s : State) : State :=
  let c := s.ctx q
  let blz (n : Nat) : W32 := BitVec.ofNat 32 n
  match c.bind with
  | .stand st =>
    let last := match s.stand? st with | some t => t.lastWave | none => 0
    let r : TrapRec := ⟨cause, code, 1, ⟨0, 0, 0, 0⟩, 0, blz last, epc.toNat % 2 ^ 32, info.setWidth 32,
      BitVec.ofNat 32 (info.toNat / 2 ^ 32), 0, 0⟩
    trapStand st r true (giveUp q .stopped (s.setCtx { c with limm := none, wait := none }))
  | .root v =>
    let r : TrapRec := ⟨cause, code, 1, ⟨0, 0, 0, 0⟩, 0, 0, epc.toNat % 2 ^ 32, info.setWidth 32,
      BitVec.ofNat 32 (info.toNat / 2 ^ 32), 0, 0⟩
    rootRecord v q.die r.word cause (giveUp q .halted (s.setCtx { c with limm := none, wait := none }))
  | .none => giveUp q .idle (s.setCtx { c with limm := none, wait := none })

/-- TCAUSE of a cause (R172, R198): a software trap sets bit 63 and its code. -/
def causeWord (cause code : Nat) : W64 := BitVec.ofNat 64 (if cause = 0 then 2 ^ 63 + code * 256 else cause)

/-- Take a sequencer trap whose EPC is given (R199): with H set or no handler the context stops; otherwise EPC, TCAUSE
and TINFO are saved, H is set and the pc goes to TVEC. -/
def seqTrapAt (q : SeqId) (cause code : Nat) (info epc : W64) (s : State) : State :=
  let c := s.ctx q
  if c.h = true ∨ c.tvec = 0 then seqStop q cause code info epc s
  else s.setCtx { c with
    epc := epc, tcause := causeWord cause code, tinfo := info, h := true, fromIdle := false, limm := none
    wait := none, run := .running, pc := c.tvec.toNat }

/-- Take a trap at the instruction a context is executing (R199, R200). -/
def seqTrap (q : SeqId) (cause : Nat) (info : W64) (s : State) : State :=
  seqTrapAt q cause 0 info (BitVec.ofNat 64 (s.ctx q).here) s

/-! ## Cell traps (R316, R341) -/

/-- TIDX of a task (R233): context, copy, node id. -/
def tidxOf (n : NodeDesc) (copy : Nat) : Nat := n.ctx * 2 ^ 22 + copy * 2 ^ 16 + n.nid % 2 ^ 16

/-- Output slots that a trapped task keeps: those of the tokens that an instruction already issued will send (R240). -/
def Task.sentSlots (k : Task) : List Nat :=
  match k.pend with
  | none => [0, 0, 0, 0]
  | some p => (upTo 4).map fun o => (p.toks.filter fun t => t.1 == o).length

/-- A cell task traps (R316, R341): it stops where it is, its effects so far stay, the output slots that its firing did not
fill are freed, and its weave writes a record that holds the stand. -/
def cellTrap (k : TKey) (cause code pc : Nat) (op1 op2 op3 op4 : W32) (s : State) : State :=
  match s.stand? k.stand with
  | none => s
  | some t =>
    let w := t.weave k.pos
    match w.task? k.nid, t.kern.node? k.pos k.nid with
    | some tk, some n =>
      let tk1 : Task := { tk with trapped := true, wait := none, ent := none, resv := tk.sentSlots }
      let s1 := s.setStand (t.setWeave (w.setTask tk1))
      trapStand k.stand ⟨cause, code, 0, k.pos, tidxOf n tk.copy, w.blzn, pc, op1, op2, op3, op4⟩ false s1
    | _, _ => s

end Sys2Proof.Machine
end

