-- ==== Sys2Proof/Machine/Operands.lean ====
section
/-! DEFINITION. Operand forms: the registers, predicates, immediates and memory operands of a sequencer context (R146 to
R149, R169 to R171, R176 to R181). -/

namespace Sys2Proof.Machine

/-! ## Registers of a sequencer context (R169, R171, R180) -/

/-- The physical number of windowed register k at a depth, with b(0) = 0 (R180). [DESIGN CHOICE, log 6] -/
def windowReg (depth k : Nat) : Nat := (32 * depth + k) % 256

/-- A register with its poison bit; `g0` reads as zero (R169). -/
def SeqCtx.reg (c : SeqCtx) (r : Code6) : Reg :=
  if r = 0 then ⟨0, false⟩
  else if r.toNat < 16 then nth ⟨0, false⟩ c.g r.toNat
  else nth ⟨0, false⟩ c.w (windowReg c.depth (r.toNat - 16))

/-- Write a register; `g0` ignores writes (R169). -/
def SeqCtx.setReg (c : SeqCtx) (r : Code6) (x : Reg) : SeqCtx :=
  if r = 0 then c
  else if r.toNat < 16 then { c with g := setNth ⟨0, false⟩ c.g r.toNat x }
  else { c with w := setNth ⟨0, false⟩ c.w (windowReg c.depth (r.toNat - 16)) x }

/-- Predicate n; `q0` reads as true (R147). -/
def SeqCtx.pred (c : SeqCtx) (n : Nat) : Bool := n == 0 || c.q.getLsbD n

/-- Write predicate n; a write to `q0` is ignored (R174). -/
def SeqCtx.setPred (c : SeqCtx) (n : Nat) (b : Bool) : SeqCtx :=
  if n = 0 then c
  else { c with q := (c.q &&& ~~~(BitVec.ofNat 8 (2 ^ n))) ||| BitVec.ofNat 8 (if b then 2 ^ n else 0) }

/-! ## Immediates and targets (R148, R149) -/

/-- The immediate of an SI form: imm14 sign-extended, or the 40-bit value of a pending prefix. -/
def SeqCtx.imm (c : SeqCtx) (imm14 : BitVec 14) : W64 :=
  match c.limm with
  | none => imm14.signExtend 64
  | some p => (p.1 ++ imm14 : BitVec 40).signExtend 64

/-- A branch target within the text, from the address of the branch and a displacement in words (R148, R179). -/
def SeqCtx.target (c : SeqCtx) (disp : Int) : Option Nat :=
  let t := (c.pc : Int) + 4 * disp
  if 0 ≤ t ∧ t < 4 * (c.text.length : Int) then some t.toNat else none

/-- A target byte offset within the text (R179). -/
def SeqCtx.inText (c : SeqCtx) (t : Nat) : Bool := t < 4 * c.text.length

/-! ## Memory as a context reaches it (R170, R176, R177, R326) -/

/-- The VF of a context. -/
def seqVf (s : State) (c : SeqCtx) : Nat :=
  match c.bind with
  | .none => 0
  | .root v => v
  | .stand st => match s.stand? st with | some t => t.vf | none => 0

/-- The TLB unit of an island (R293); compartment units are numbered below 512. -/
def islandUnit (isl : Nat) : Nat := 512 + isl

/-- An access of a VF has used the translation of an address (R293). -/
def State.tlbFill (s : State) (vf unit va : Nat) : State :=
  s.updVf vf fun v => { v with mem := v.mem.fillTlb s.mem s.svc.memtop unit va }

/-- Memory accesses of a VF are held while a PCMD of it is under way (R315). [DEDUCED, log 106] -/
def State.memHeld (s : State) (vf : Nat) : Bool := (s.vf vf).mem.pcmdBusy

/-- A slice's queue for a ride has room: 8 requests from the cycle they enter until their replies (R288, R314). -/
def State.queueRoomAt (s : State) (h : SliceId) (ride : Nat) : Bool :=
  (((s.slice h).queue ++ (s.slice h).filling).filter fun r => r.ride == ride).length < 8

/-- An access of a VF's sequencer or cell to main memory waits: for a PCMD (R315), or for room in the queue of its ride at the
home slice of its line (R288). Otherwise it is served in the step that makes it. [DEDUCED, log 106] [DESIGN CHOICE, log 182] -/
def State.accessHeld (s : State) (vf die pa : Nat) : Bool :=
  s.memHeld vf || (!(isHost pa) && !(s.queueRoomAt (homeSlice (s.vf vf).mem.part pa) (rideOf s vf die)))

/-- Where an access of a context goes: its local memory, a trap-queue register of a context of its sequencer (R337), or
a physical address. -/
inductive SeqPlace where
  | local (off : Nat)
  | queue (ctx reg : Nat)
  | mem (pa : Nat)
  deriving DecidableEq, Repr

/-- The place in local memory of an offset: offsets 0xF800 to 0xF817 of each context's 64 KiB are registers (R337). -/
def localPlace (off : Nat) : SeqPlace :=
  if 0xF800 ≤ off % 0x10000 ∧ off % 0x10000 < 0xF818 then .queue (off / 0x10000) (off % 0x10000 - 0xF800) else .local off

/-- Resolve an access of n bytes, or the cause of its trap (R170, R176, R283). Bits [63:57] are checked first, then
alignment, then translation; the self window and store space are no sequencer's, and do not translate.
[DEDUCED, log 13] -/
def seqPlace (s : State) (c : SeqCtx) (a : W64) (n : Nat) (acc : Access) : Except Nat SeqPlace :=
  if a.toNat ≥ 2 ^ 57 then .error 0x07
  else if a.toNat % n ≠ 0 then .error 0x0F
  else match classify a.toNat with
    | .localMem off => .ok (localPlace off)
    | .virt va =>
      (match translate s.mem s.svc.memtop (s.vf (seqVf s c)).mem (islandUnit c.id.isl) va acc with
      | some p => .ok (.mem p.pa)
      | none => .error 0x07)
    | _ => .error 0x07

/-- A context accesses an address: one that its island's TLB translates is held there from now on, and the access travels on
the rides (R124). -/
def seqTouch (c : SeqCtx) (a : W64) (s : State) : State :=
  match classify a.toNat with
  | .virt va => flitOn (seqVf s c) c.id.die (s.tlbFill (seqVf s c) (islandUnit c.id.isl) va)
  | _ => s

/-- An access to main memory waits (R288, R315). -/
def seqHeld (s : State) (c : SeqCtx) : SeqPlace → Bool
  | .local _ => false
  | .queue _ _ => false
  | .mem pa => s.accessHeld (seqVf s c) c.id.die pa

/-- The committed memory, or the memory with the segment of the stand that the context feeds (R326). -/
def seqView (s : State) (c : SeqCtx) : Memory :=
  match c.bind with
  | .stand st => match s.stand? st with | some t => standView s.mem t.seg | none => s.mem
  | _ => s.mem

/-- The 64-bit value of a trap-queue register (R337). -/
def queueReg (s : State) (q : SeqId) (reg : Nat) : Nat :=
  let c := s.ctx q
  match reg / 8 with
  | 0 => c.tqhead.toNat
  | 1 => c.tqtail.toNat
  | _ => c.tqlost.toNat + 2 ^ 32 * c.tqact

/-- TINFO of a poisoned memory word (R200). -/
def poisonInfo (a : Nat) : W64 := BitVec.ofNat 64 (2 ^ 63 + a % 2 ^ 57)

/-- Read n bytes at a place, with the poison of the words read (R171). -/
def seqRead (s : State) (c : SeqCtx) (n : Nat) : SeqPlace → Nat × Bool
  | .local off => (s.lmem.readN (localAddr c.id off) n, s.lmem.anyPoison (localAddr c.id off) n)
  | .queue x reg => (bitsAt (queueReg s { c.id with ctx := x } reg) (8 * (reg % 8)) (8 * n), false)
  | .mem pa => ((seqView s c).readN pa n, (seqView s c).anyPoison pa n)

/-- The die whose segment holds a write of a stand (R326): that of the line's home slice; host memory has none and is
held on the stand's own die. [DEDUCED, log 138] -/
def heldDie (s : State) (t : Stand) (pa : Nat) : Nat :=
  if isHost pa then t.die else (homeSlice (s.vf t.vf).mem.part pa).die % 4

/-- Add a held operation to the segment of a die. -/
def Stand.hold (t : Stand) (die : Nat) (src : SegSrc) (op : SegOp) : Stand := { t with seg := t.seg ++ [⟨die, op, src, false⟩] }

/-- The entries that a die holds of a stand's segment (R326). -/
def Stand.segOn (t : Stand) (die : Nat) : List SegEnt := t.seg.filter fun e => e.die == die

/-- The first byte of a held operation. -/
def SegOp.pa : SegOp → Nat
  | .write pa _ _ => pa
  | .op _ _ els => (match els with | [] => 0 | e :: _ => e.1)
  | .away _ _ _ _ _ _ => 0
  | .clear w => 4 * w

/-- The writes that a plain line's dirty bytes make: a wholly dirty word with its poison, other bytes one by one. -/
def dirtyOps (line : Nat) (bytes : List Byte) (poison dirty : List Bool) : List SegOp :=
  ((upTo 32).map fun k =>
    let d := (upFrom (4 * k) 4).filter fun j => nth false dirty j
    let p := nth false poison k
    if d.length = 4 then [SegOp.write (128 * line + 4 * k) ((upFrom (4 * k) 4).map fun j => nth 0 bytes j) p]
    else d.map fun j => SegOp.write (128 * line + j) [nth 0 bytes j] p).flatten

/-- The held operations that write a line of an L1 back or merge it (R286). -/
def L1Line.ops (x : L1Line) : List SegOp :=
  match x.body with
  | .plain bytes poison dirty _ => dirtyOps x.line bytes poison dirty
  | .update op ty els => if els.isEmpty then [] else [.op op ty (els.map fun e => (e.1, e.2.v, e.2.poison))]

/-- A stand whose segment holds, besides, what its cells' L1s have still to write back. -/
def State.writtenBack (s : State) (t : Stand) : Stand :=
  ((t.weaves.map fun w => ((w.l1.map L1Line.ops).flatten).map fun o => (w.pos, o)).flatten).foldl
    (fun acc p => acc.hold (heldDie s acc p.2.pa) (.weave p.1) p.2) t

/-- A stand's segment is within its capacity on every die (R328), with room for the dirty lines of its cells, so that a weave
can write them back for its snapshot. [DEDUCED, log 87] -/
def State.segFits (s : State) (t : Stand) : Bool :=
  [0, 1, 2, 3].all fun d => segEntries ((s.writtenBack t).segOn d) ≤ segCapacity

/-- Whether a segment has room for an operation of a context (R328). -/
def State.hasRoom (s : State) (t : Stand) (die : Nat) (op : SegOp) : Bool := s.segFits (t.hold die .ctx op)

/-! ## Acquires of a weave (R285) -/

/-- A clean plain line of an L1. -/
def L1Line.clean (x : L1Line) : Bool :=
  match x.body with
  | .plain _ _ dirty _ => dirty.all fun b => !b
  | .update _ _ _ => false

/-- The poison bit of word k of a line after an acquire (R334): a wholly clean word has memory's, a wholly dirty one its own,
and one that is partly dirty is poisoned with either part. -/
def refreshedPoison (dirty : List Bool) (own inMem : Bool) (k : Nat) : Bool :=
  match ((upFrom (4 * k) 4).filter fun j => nth false dirty j).length with
  | 0 => inMem
  | 4 => own
  | _ => own || inMem

/-- A line that stays through an acquire: its clean bytes, and the poison that they bring, are as memory has them. -/
def L1Line.refresh (m : Memory) (x : L1Line) : L1Line :=
  match x.body with
  | .plain bytes poison dirty keep => ⟨x.cell, x.line, .plain
      ((upTo 128).map fun j => if nth false dirty j then nth 0 bytes j else m.byte (128 * x.line + j))
      ((upTo 32).map fun k => refreshedPoison dirty (nth false poison k) (m.poison.contains (32 * x.line + k)) k)
      dirty keep⟩
  | .update _ _ _ => x

/-- An acquire by a task of a weave: what its cells' L1s hold clean is fetched again when it is read next. [DEDUCED, log 32] -/
def Weave.acquire (m : Memory) (w : Weave) : Weave :=
  { w with l1 := (w.l1.filter fun x => !x.clean).map (L1Line.refresh m) }

/-- The little-endian bytes of a stored value, with the poison of its register (R171). -/
def storeLocal (c : SeqCtx) (off n : Nat) (x : Reg) (s : State) : State :=
  { s with lmem := s.lmem.store (localAddr c.id off) (bytesLE n x.v.toNat) x.poison }

/-! ## Windows (R180, R181) -/

/-- The 64-bit register an `lmem` doubleword holds. -/
def frameReg (s : State) (q : SeqId) (off : Nat) : W64 := BitVec.ofNat 64 (s.lmem.readN (localAddr q off) 8)

/-- Write the 264 bytes of a frame: 32 registers and their poison bits (R181). -/
def writeFrame (q : SeqId) (off : Nat) (rs : List Reg) (s : State) : State :=
  let bytes := (rs.map fun r => bytesLE 8 r.v.toNat).flatten
  let pw := sumNat (rs.zipIdx.map fun p => if p.1.poison then 2 ^ p.2 else 0)
  { s with lmem := (s.lmem.store (localAddr q off) bytes false).store (localAddr q (off + 256)) (bytesLE 8 pw) false }

/-- Registers w0 to w31 of the window at a depth. -/
def SeqCtx.window (c : SeqCtx) (depth : Nat) : List Reg := (upTo 32).map fun k => nth ⟨0, false⟩ c.w (windowReg depth k)

/-- Put registers w0 to w31 into the window at a depth. -/
def SeqCtx.setWindow (c : SeqCtx) (depth : Nat) (rs : List Reg) : SeqCtx :=
  { c with w := (rs.zipIdx).foldl (fun acc p => setNth ⟨0, false⟩ acc (windowReg depth p.2) p.1) c.w }

/-- Spill the oldest resident window (R181): none is the trap WINDOW_OVERFLOW, before any change. -/
def spill (q : SeqId) (s : State) : Option State :=
  let c := s.ctx q
  if c.wlim.toNat < c.wsp.toNat + 264 then none
  else
    let m := c.depth + 1 - c.resident
    some ((writeFrame q c.wsp.toNat (c.window m) s).setCtx { c with wsp := c.wsp + 264, resident := c.resident - 1 })

/-- Fill the window of a depth from the window stack (R181). -/
def fill (q : SeqId) (depth : Nat) (s : State) : State :=
  let c := s.ctx q
  let base := BitVec.ofNat 64 ((c.wsp.toNat + 2 ^ 18 - 264) % 2 ^ 18)
  let pw := frameReg s q (base.toNat + 256)
  let rs : List Reg := (upTo 32).map fun k => ⟨frameReg s q (base.toNat + 8 * k), pw.getLsbD k⟩
  s.setCtx { (c.setWindow depth rs) with wsp := base }

/-- Spill windows until one is resident; none where a spill traps, with the state it leaves (R182 FLUSH). -/
def spillAll (q : SeqId) : Nat → State → State × Bool
  | 0, s => (s, true)
  | n + 1, s =>
    if (s.ctx q).resident ≤ 1 then (s, true)
    else match spill q s with
      | some s1 => spillAll q n s1
      | none => (s, false)

end Sys2Proof.Machine
end

