-- ==== Sys2Proof/Machine/Tensor.lean ====
section
/-! DEFINITION. Tensor identifier entries, tiles and element places (R63 to R68), and the rights and installation of
entries (R69, R70). -/

namespace Sys2Proof.Machine

/-- A tensor identifier entry (R64): extents X0 to X3, pitches P1 to P3, tile exponents e0 to e3. -/
structure TEnt where
  v : Bool
  r : Bool
  w : Bool
  p : Bool
  fmt : Nat
  home : Nat
  rank : Nat
  base : Nat
  xs : List Nat
  ps : List Nat
  es : List Nat
  sbase : Int
  gen : Nat
  rsoff : Nat
  cboff : Nat
  deriving DecidableEq, Repr

/-- The fields of an entry's 256 bits (R64). -/
def tensorEntry (w : BitVec 256) : TEnt :=
  let n := w.toNat
  { v := bitsAt n 255 1 == 1, r := bitsAt n 254 1 == 1, w := bitsAt n 253 1 == 1, p := bitsAt n 252 1 == 1
    fmt := bitsAt n 248 4, home := bitsAt n 246 2, rank := bitsAt n 244 2, base := bitsAt n 192 50 * 128
    xs := [bitsAt n 128 16 + 1, bitsAt n 144 16 + 1, bitsAt n 160 16 + 1, bitsAt n 176 16 + 1]
    ps := [bitsAt n 80 16 + 1, bitsAt n 96 16 + 1, bitsAt n 112 16 + 1]
    es := [bitsAt n 64 4, bitsAt n 68 4, bitsAt n 72 4, bitsAt n 76 4]
    sbase := toSigned 8 (bitsAt n 56 8), gen := bitsAt n 48 8, rsoff := bitsAt n 32 16, cboff := bitsAt n 16 16 }

/-- Extent of dimension k. -/
def TEnt.x (e : TEnt) (k : Nat) : Nat := nth 1 e.xs k
/-- Pitch of dimension k, 1 to 3. -/
def TEnt.pitch (e : TEnt) (k : Nat) : Nat := nth 1 e.ps (k - 1)
/-- Tile extent of dimension k. -/
def TEnt.t (e : TEnt) (k : Nat) : Nat := 2 ^ nth 0 e.es k
/-- Element width in bits (R64). -/
def TEnt.width (e : TEnt) : Nat := tyWidth e.fmt
/-- Tiles along dimension k (R67). -/
def TEnt.n (e : TEnt) (k : Nat) : Nat := if k ≤ e.rank then ceilDiv (e.x k) (e.t k) else 1
/-- Tiles of the grid. -/
def TEnt.tiles (e : TEnt) : Nat := e.n 0 * e.n 1 * e.n 2 * e.n 3

/-- A malformed entry (R65). -/
def malformedEntry (w : BitVec 256) : Bool :=
  let n := w.toNat
  let e := tensorEntry w
  bitsAt n 242 2 != 0 || bitsAt n 0 16 != 0 || e.fmt == 6 || e.fmt == 7 || e.fmt == 0xF
    || ([1, 2, 3].any fun k => k ≤ e.rank && e.pitch k < e.x (k - 1))
    || (1 ≤ e.rank && e.width * e.pitch 1 % 8 != 0)
    || ([1, 2, 3].any fun k => e.rank < k && (e.x k != 1 || e.pitch k != 1 || nth 0 e.es k != 0))
    || 2 ^ 32 < e.tiles || (e.p && e.cboff == 0xFFFF)

/-- The bits of the valid entry of a tid (R63). -/
def State.entry? (s : State) (vf tid : Nat) : Option (BitVec 256) :=
  if tid = 0 ∨ 4096 ≤ tid then none
  else match lookupNat tid (s.vf vf).tens.table with
    | some w => if (tensorEntry w).v then some w else none
    | none => none

/-- The valid entry of a tid (R63). -/
def State.tensor? (s : State) (vf tid : Nat) : Option TEnt := (s.entry? vf tid).map tensorEntry

/-- Install an entry (R70): an installed entry replaces the old one whole, and a valid old entry keeps its gen. -/
def installEntry (tid : Nat) (w : BitVec 256) (table : List (Nat × BitVec 256)) : List (Nat × BitVec 256) :=
  let old := (lookupNat tid table).getD 0
  let w1 : BitVec 256 :=
    if (tensorEntry old).v then BitVec.ofNat 256 (putBits w.toNat 48 8 (tensorEntry old).gen) else w
  storeNat tid w1 table

/-- Tile coordinates of a tile linear index (R67). -/
def TEnt.coords (e : TEnt) (i : Nat) : List Nat :=
  [i % e.n 0, i / e.n 0 % e.n 1, i / (e.n 0 * e.n 1) % e.n 2, i / (e.n 0 * e.n 1 * e.n 2)]

/-- Tile linear index of coordinates (R67). -/
def TEnt.tileIndex (e : TEnt) (c : List Nat) : Nat :=
  nth 0 c 0 + e.n 0 * (nth 0 c 1 + e.n 1 * (nth 0 c 2 + e.n 2 * nth 0 c 3))

/-- Coordinates inside the grid. -/
def TEnt.inGrid (e : TEnt) (c : List Nat) : Bool := [0, 1, 2, 3].all fun k => nth 0 c k < e.n k

/-- Bit offset of an element from base (R66). -/
def TEnt.off (e : TEnt) (i : List Nat) : Nat :=
  e.width * (nth 0 i 0 + e.pitch 1 * (nth 0 i 1 + e.pitch 2 * (nth 0 i 2 + e.pitch 3 * nth 0 i 3)))

/-- An element lies within the extents. -/
def TEnt.inExt (e : TEnt) (i : List Nat) : Bool := [0, 1, 2, 3].all fun k => nth 0 i k < e.x k

/-- Row of an element (R68). -/
def TEnt.row (e : TEnt) (i : List Nat) : Nat := nth 0 i 1 + e.x 1 * (nth 0 i 2 + e.x 2 * nth 0 i 3)

/-- Rows of the tensor. -/
def TEnt.rows (e : TEnt) : Nat := e.x 1 * e.x 2 * e.x 3

/-- The elements of a tile, dimension 0 fastest, with those beyond the extents (R67). -/
def TEnt.tileElems (e : TEnt) (c : List Nat) : List (List Nat) :=
  let d (k : Nat) : List Nat := upFrom (nth 0 c k * e.t k) (e.t k)
  ((d 3).map fun i3 => ((d 2).map fun i2 => ((d 1).map fun i1 =>
    (d 0).map fun i0 => [i0, i1, i2, i3]).flatten).flatten).flatten

/-- Elements of a tile. -/
def TEnt.tileSize (e : TEnt) : Nat := e.t 0 * e.t 1 * e.t 2 * e.t 3

/-- Virtual address of the byte that holds an element's first bit. -/
def TEnt.addr (e : TEnt) (i : List Nat) : Nat := e.base + e.off i / 8

/-- An element's encoding in the bytes that hold it. -/
def TEnt.pick (e : TEnt) (i : List Nat) (raw : Nat) : Nat := bitsAt raw (e.off i % 8) e.width

/-- Bytes an element occupies (one for a t2 digit). -/
def TEnt.bytes (e : TEnt) : Nat := ceilDiv e.width 8

/-- Side-region address of the completion-bitmap byte of a tile (R72). -/
def bitmapAddr (tside : W64) (e : TEnt) (tile : Nat) : Nat := bitsAt tside.toNat 12 45 * 4096 + 4096 * e.cboff + tile / 8

/-- Side-region address of the exponent of a row (R68). -/
def rowExpAddr (tside : W64) (e : TEnt) (row : Nat) : Nat := bitsAt tside.toNat 12 45 * 4096 + 4096 * e.rsoff + row

end Sys2Proof.Machine
end

