-- ==== Sys2Proof/Machine/Tags.lean ====
section
/-! DEFINITION. Publications, queries and advances at the home die (R106 to R116), the block records of the schedulers
(R23, R25, R117, R118), and their removal. -/

namespace Sys2Proof.Machine

/-! ## Tag references (R24) -/

/-- tid of a reference. -/
def refTid (r : W64) : Nat := bitsAt r.toNat 48 16
/-- Generation of a reference. -/
def refGen (r : W64) : Nat := bitsAt r.toNat 40 8
/-- Tile of a reference. -/
def refTile (r : W64) : Nat := bitsAt r.toNat 0 32

/-- Distance of a reference's generation from the tensor's (R113). -/
def genDist (e : TEnt) (g : Nat) : Nat := (e.gen + 256 - g) % 256

/-! ## Block records (R23) -/

/-- kid of a record. -/
def recKid (w : BitVec 1024) : Nat := bitsAt w.toNat 48 16
/-- Input tags of a record. -/
def recNin (w : BitVec 1024) : Nat := bitsAt w.toNat 44 4
/-- Output tags of a record. -/
def recNout (w : BitVec 1024) : Nat := bitsAt w.toNat 40 4
/-- Least grain, log2. -/
def recGmin (w : BitVec 1024) : Nat := bitsAt w.toNat 37 3
/-- Greatest grain, log2. -/
def recGmax (w : BitVec 1024) : Nat := bitsAt w.toNat 34 3
/-- Priority class. -/
def recClass (w : BitVec 1024) : Nat := bitsAt w.toNat 32 2
/-- Block coordinate k. -/
def recT (w : BitVec 1024) (k : Nat) : Nat := bitsAt w.toNat (112 - 16 * k) 16
/-- Input slot k. -/
def recIn (w : BitVec 1024) (k : Nat) : W64 := BitVec.ofNat 64 (bitsAt w.toNat (64 * k + 128) 64)
/-- Output slot k. -/
def recOut (w : BitVec 1024) (k : Nat) : W64 := BitVec.ofNat 64 (bitsAt w.toNat (64 * k + 640) 64)
/-- Used input slots. -/
def recIns (w : BitVec 1024) : List W64 := (upTo (recNin w)).map (recIn w)
/-- Used output slots. -/
def recOuts (w : BitVec 1024) : List W64 := (upTo (recNout w)).map (recOut w)

/-- A malformed record: status 2 of R25. -/
def recMalformed (w : BitVec 1024) : Bool :=
  let n := w.toNat
  bitsAt n 0 32 != 0 || bitsAt n 896 128 != 0 || 8 < recNin w || 4 < recNout w || 4 < recGmin w || 4 < recGmax w
    || recGmax w < recGmin w
    || ((upTo 8).any fun k => if k < recNin w then bitsAt (recIn w k).toNat 32 8 != 0 else recIn w k != 0)
    || ((upTo 4).any fun k => if k < recNout w then bitsAt (recOut w k).toNat 32 8 != 0 else recOut w k != 0)

/-- Grains (log2) at which a kernel may be placed for a record (R25, R128). -/
def grainsFor (k : Kernel) (gmin gmax : Nat) : List Nat :=
  (upTo 5).filter fun g => gmin ≤ g && g ≤ gmax && k.gmin ≤ g && g ≤ k.gmax && k.fits.contains g

/-- A loaded kernel of a VF. -/
def State.kernel? (s : State) (vf kid : Nat) : Option Kernel := (s.vf vf).load.kernels.find? fun k => k.kid == kid

/-! ## The landing table (R108, R109) -/

/-- The set of a key (R109). -/
def landingSet (vf tid tile : Nat) : Nat :=
  Nat.xor (Nat.xor (tile % 4096) (tid % 4096)) (vf * 64 % 4096)

/-- A landing entry's 64 bits (R108). -/
def landingEntry (vf tid gen tile : Nat) : W64 :=
  (1 : BitVec 1) ++ BitVec.ofNat 6 vf ++ BitVec.ofNat 12 tid ++ BitVec.ofNat 8 gen ++ (0 : BitVec 5) ++ BitVec.ofNat 32 tile

/-- Whether a die's table holds a tag; an entry whose word is poisoned (R356) names none. [DESIGN CHOICE, log 184] -/
def Die.holds (d : Die) (vf tid gen tile : Nat) : Bool :=
  d.landing.any fun e => !e.bad && e.set == landingSet vf tid tile && e.ent == landingEntry vf tid gen tile

/-- The lowest free way of a set (R109). -/
def Die.freeWay (d : Die) (set : Nat) : Option Nat :=
  (upTo 8).find? fun w => !(d.landing.any fun e => e.set == set && e.way == w)

/-- Whether an entry belongs to a tensor. -/
def LandEnt.ofTensor (e : LandEnt) (vf tid : Nat) : Bool :=
  bitsAt e.ent.toNat 57 6 == vf && bitsAt e.ent.toNat 45 12 == tid

/-! ## Memory of a VF, without a TLB -/

/-- Translation for the home die and the scheduler, which walk the tables as they stand (R110, R115).
[DESIGN CHOICE, log 140] -/
def State.vfTranslate (s : State) (vf va : Nat) (acc : Access) : Option Phys :=
  let v := (s.vf vf).mem
  translate s.mem s.svc.memtop { v with tlbs := [] } 0 va acc

/-- The completion-bitmap bit of a tile, clear where its byte does not translate (R113, R115).
[DESIGN CHOICE, log 140] -/
def State.bitmapBit (s : State) (vf : Nat) (e : TEnt) (tile : Nat) : Bool :=
  if e.cboff = 0xFFFF then false
  else match s.vfTranslate vf (bitmapAddr (s.vf vf).tens.tside e tile) .read with
    | some p => bitsAt (s.mem.byte p.pa).toNat (tile % 8) 1 == 1
    | none => false

/-! ## Queries (R113) -/

/-- The result of a query with a tensor's entry, none for a tile beyond its grid. -/
def queryEnt (s : State) (vf : Nat) (e : TEnt) (ref : W64) : Option Nat :=
  if e.tiles ≤ refTile ref then none
  else
    let d := genDist e (refGen ref)
    if d = 0 then
      if (s.die e.home).holds vf (refTid ref) e.gen (refTile ref) || s.bitmapBit vf e (refTile ref) then some 1 else some 0
    else if d ≤ 127 then some 2
    else some 3

/-- The result of a query, none for an invalid tid or tile. -/
def query (s : State) (vf : Nat) (ref : W64) : Option Nat :=
  match s.tensor? vf (refTid ref) with
  | none => none
  | some e => queryEnt s vf e ref

/-! ## Removal of records (R27, R116, R117) -/

/-- All records of a VF on the four dies. -/
def State.recsOf (s : State) (vf : Nat) : List Rec :=
  (s.dies.d0.recs ++ s.dies.d1.recs ++ s.dies.d2.recs ++ s.dies.d3.recs).filter fun r => r.vf == vf

/-- Remove a record; the VF's watchdog restarts when its last record goes (R27). -/
def removeRec (die id : Nat) (s : State) : State :=
  match (s.die die).recs.find? fun r => r.id == id with
  | none => s
  | some r =>
    let s1 := s.updDie die fun d => { d with recs := d.recs.filter fun x => x.id != id }
    if (s1.recsOf r.vf).isEmpty then s1.updVf r.vf fun v => { v with timer := 0 } else s1

/-- The first input of a record that fails the check of R116, with its cause and the current generation: of several the lowest
slot's, and one that is both stale and beyond the grid is reported as beyond it. [DESIGN CHOICE, log 155] -/
def failingInput (s : State) (vf : Nat) : List (W64 × Nat) → Option (Nat × Nat × Nat × Nat)
  | [] => none
  | (r, k) :: rest =>
    match s.tensor? vf (refTid r) with
    | none => some (k, 0x08, refGen r, 0)
    | some e =>
      if e.tiles ≤ refTile r then some (k, 0x08, refGen r, 0)
      else if 1 ≤ genDist e (refGen r) ∧ genDist e (refGen r) ≤ 127 then some (k, 0x05, refGen r, e.gen)
      else failingInput s vf rest

/-- Check one waiting or eligible record and remove it if it fails (R116). -/
def checkRecord (die : Nat) (r : Rec) (s : State) : State :=
  if r.st = .dispatched then s
  else
    match failingInput s r.vf (recIns r.word).zipIdx with
    | none => s
    | some (slot, cause, expect, cur) =>
      let w : TrapRec := ⟨cause, 0, 3, ⟨0, 0, 0, 0⟩, 0, 0, 0, BitVec.ofNat 32 (recKid r.word),
        BitVec.ofNat 32 (recT r.word 1 * 65536 + recT r.word 0), BitVec.ofNat 32 (recT r.word 3 * 65536 + recT r.word 2),
        BitVec.ofNat 32 (slot + expect * 256 + cur * 65536)⟩
      rootRecord r.vf die w.word cause (removeRec die r.id s)

/-- Check every record whose inputs name a tensor, on every die (R116). -/
def checkRecords (vf tid : Nat) (s : State) : State :=
  [0, 1, 2, 3].foldl (fun acc die =>
    (acc.die die).recs.foldl (fun a r =>
      if r.vf = vf ∧ ((recIns r.word).any fun x => refTid x == tid) then checkRecord die r a else a) acc) s

/-! ## Publications (R110) -/

/-- The outcome of a publication (R106, R110): 0 written, 1 already, 2 fallback, 3 stale, or refused with a cause and, for
poison, the address of the poisoned word. -/
inductive PubOut where
  | written
  | already
  | fallback
  | stale
  | refused (cause word : Nat)
  deriving DecidableEq, Repr

/-- Outcome code (R106). -/
def PubOut.code : PubOut → Nat
  | .written => 0
  | .already => 1
  | .fallback => 2
  | .stale => 3
  | .refused _ _ => 4

/-- The cause a publication's refusal carries (R111), none for one that was performed. -/
def PubOut.cause : PubOut → Option Nat
  | .stale => some 0x05
  | .refused c _ => some c
  | _ => none

/-- The check of R335 on one element in global memory: 7 where it does not translate, 6 where it is poisoned. No address but
a virtual one translates (R283). -/
def pubElem (s : State) (vf : Nat) (e : TEnt) (i : List Nat) : Option Nat :=
  match classify (e.addr i) with
  | .virt va =>
    (match s.vfTranslate vf va .read with
    | none => some 0x07
    | some p => if s.mem.anyPoison p.pa e.bytes then some 0x06 else none)
  | _ => some 0x07

/-- The address of the word that holds an element's first bit. -/
def TEnt.wordOf (e : TEnt) (i : List Nat) : Nat := e.addr i / 4 * 4

/-- A store-space place names a weave of a stand's box at the stand's grain (R283). -/
def Stand.hasStore (t : Stand) (p : WPos) : Bool := p.col < 7 && p.slot < 16 / t.g && p.dcol < t.kern.w && p.drow < t.kern.h

/-- The check of R335 on one element in a weave's store: 7 where the address names nothing (R283). [DEDUCED, log 139] -/
def pubStoreElem (t : Stand) (a : StoreAddr) (e : TEnt) (i : List Nat) : Option Nat :=
  let o := a.off + e.off i / 8
  if t.hasStore a.pos = false ∨ 65536 * t.g < o + e.bytes then some 0x07
  else if (t.weave a.pos).store.anyPoison o e.bytes then some 0x06 else none

/-- The check of R335 on one element of a tile in store space that the host or a root program publishes, which has no box of its
own: as the stores at that place hold it in the VF's resident stands; 7 where none has the place. [DEDUCED, log 139] -/
def pubAnyStore (s : State) (vf : Nat) (a : StoreAddr) (e : TEnt) (i : List Nat) : Option Nat :=
  let rs := (s.stands.filter fun t => t.vf == vf && t.status == .resident).map fun t => pubStoreElem t a e i
  if rs.any (· == some 0x06) then some 0x06 else if rs.any (·.isNone) then none else some 0x07

/-- The check of R335 on one element of a tensor. A tile in store space is that of the publishing stand's box. -/
def pubOne (s : State) (vf : Nat) (stand : Option Nat) (e : TEnt) (i : List Nat) : Option Nat :=
  match classify e.base, stand.bind s.stand? with
  | .storeSpace a, some t => pubStoreElem t a e i
  | .storeSpace a, none => pubAnyStore s vf a e i
  | _, _ => pubElem s vf e i

/-- The check of R335 on a tile: the cause is that of the first failing element in tile order, with the address of its word.
[DESIGN CHOICE, log 157] -/
def pubCheck (s : State) (vf : Nat) (stand : Option Nat) (e : TEnt) (tile : Nat) : Option (Nat × Nat) :=
  ((e.tileElems (e.coords tile)).filter e.inExt).findSome? fun i => (pubOne s vf stand e i).map fun c => (c, e.wordOf i)

/-- Whether a scheduler record waits on a tag. -/
def Rec.waitsOn (r : Rec) (vf : Nat) (ref : W64) : Bool :=
  r.vf == vf && r.st == .waiting && ((recIns r.word).zip r.sat).any fun p =>
    !p.2 && refTid p.1 == refTid ref && refGen p.1 == refGen ref && refTile p.1 == refTile ref

/-- Send a notification over the rides to every scheduler that holds a waiting record on the tag (R110, R112, R124). -/
def notify (vf : Nat) (ref : W64) (s : State) : State :=
  let n : Note := ⟨vf, refTid ref, BitVec.ofNat 8 (refGen ref), BitVec.ofNat 32 (refTile ref)⟩
  [0, 1, 2, 3].foldl (fun acc die =>
    if (acc.die die).recs.any fun r => r.waitsOn vf ref then
      flitOn vf die (acc.updDie die fun d => { d with notes := d.notes ++ [n] })
    else acc) s

/-- Set a completion-bitmap bit in committed memory. -/
def setBit (pa bit : Nat) (s : State) : State :=
  { s with mem := s.mem.setByte pa (BitVec.ofNat 8 (Nat.lor (s.mem.byte pa).toNat (2 ^ bit))) }

/-- Enter a tag in the landing table or, with its set full, in the completion bitmap (R110). -/
def enterTag (vf : Nat) (e : TEnt) (ref : W64) (s : State) : State × PubOut :=
  let d := s.die e.home
  let set := landingSet vf (refTid ref) (refTile ref)
  if d.holds vf (refTid ref) e.gen (refTile ref) then (s, .already)
  else match d.freeWay set with
    | some w =>
      (s.updDie e.home fun d => { d with
        landing := d.landing ++ [⟨set, w, landingEntry vf (refTid ref) e.gen (refTile ref), false⟩] }, .written)
    | none =>
      match s.vfTranslate vf (bitmapAddr (s.vf vf).tens.tside e (refTile ref)) .write with
      | none => (s, .refused 0x07 0)
      | some p =>
        let s1 := setBit p.pa (refTile ref % 8) s
        let s2 := s1.updVf vf fun v => { v with win := { v.win with
          fallback := (satInc32 (v.win.fallback.setWidth 32)).setWidth 64 } }
        (s2.updDie e.home fun d => { d with
          marks := if d.marks.contains (vf, refTid ref) then d.marks else d.marks ++ [(vf, refTid ref)] }, .fallback)

/-- A publication performed at the home die (R110); `stand` is the stand whose cell stores a store-space tensor names. The
reserved bits [39:32] of the reference are ignored. [DESIGN CHOICE, log 156] -/
def publish (vf : Nat) (stand : Option Nat) (ref : W64) (s : State) : State × PubOut :=
  match s.tensor? vf (refTid ref) with
  | none => (s, .refused 0x08 0)
  | some e =>
    if e.p = false ∨ e.tiles ≤ refTile ref then (s, .refused 0x08 0)
    else if refGen ref ≠ e.gen then (s, .stale)
    else
      match pubCheck s vf stand e (refTile ref) with
      | some c => (s, .refused c.1 c.2)
      | none =>
        let r := enterTag vf e ref s
        match r.2.cause with
        | some _ => r
        | none => (notify vf ref r.1, r.2)

/-- A publication of the host (R106, R107): LWSTAT takes its outcome. -/
def hostPublish (vf : Nat) (ref : W64) (s : State) : State :=
  let r := publish vf none ref s
  r.1.updVf vf fun v => { v with win := { v.win with lwstat := BitVec.ofNat 64 r.2.code } }

/-- A query of the host (R106, R113); of an invalid tid or tile LWQRES [1:0] reads 0. [DESIGN CHOICE, log 185] -/
def hostQuery (vf : Nat) (ref : W64) (s : State) : State :=
  let res : W64 := match query s vf ref with
    | some q => BitVec.ofNat 64 q
    | none => 4
  s.updVf vf fun v => { v with win := { v.win with lwqres := res } }

/-- What the host does waits behind what a PCMD of the VF holds back (R107, R315). -/
def holdHost (vf : Nat) (x : HostWait) (s : State) : State :=
  s.updVf vf fun v => { v with mem := { v.mem with hostq := v.mem.hostq ++ [x] } }

/-! ## Advances (R114) -/

/-- Clear the completion-bitmap bits of tiles 8n to 8n + 7 that exist; a byte that does not translate for writing is passed
over. [DESIGN CHOICE, log 158] -/
def clearBitmapByte (vf : Nat) (e : TEnt) (s : State) (n : Nat) : State :=
  match s.vfTranslate vf (bitmapAddr (s.vf vf).tens.tside e (8 * n)) .write with
  | none => s
  | some p =>
    let keep := if 8 * n + 8 ≤ e.tiles then 0 else 2 ^ 8 - 2 ^ (e.tiles - 8 * n)
    { s with mem := s.mem.setByte p.pa (BitVec.ofNat 8 (Nat.land (s.mem.byte p.pa).toNat keep)) }

/-- Advance a tensor's generation (R114): free its entries, clear its bitmap and mark, add 1 to gen; `some` is the cause
of a refusal. Records that name the tensor are checked afterwards (R116). -/
def advance (vf tid : Nat) (s : State) : State × Option Nat :=
  match s.tensor? vf tid with
  | none => (s, some 0x08)
  | some e =>
    if e.p = false then (s, some 0x08)
    else
      let s1 := s.updDie e.home fun d => { d with
        landing := d.landing.filter fun x => !(x.ofTensor vf tid), marks := d.marks.filter fun m => m != (vf, tid) }
      let s2 := (upTo (ceilDiv e.tiles 8)).foldl (clearBitmapByte vf e) s1
      let w := (lookupNat tid (s2.vf vf).tens.table).getD 0
      let w1 := BitVec.ofNat 256 (putBits w.toNat 48 8 ((e.gen + 1) % 256))
      let s3 := s2.updVf vf fun v => { v with tens := { v.tens with table := storeNat tid w1 v.tens.table } }
      (checkRecords vf tid s3, none)

/-! ## Launch (R25, R117) -/

/-- Whether a kernel's range lets a record run (status 3 of R25). -/
def launchable (s : State) (vf : Nat) (w : BitVec 1024) : Bool :=
  match s.kernel? vf (recKid w) with
  | some k => !(grainsFor k (recGmin w) (recGmax w)).isEmpty
  | none => false

/-- The status of a launch (R25), in the order of its checks. -/
def launchStatus (s : State) (vf die : Nat) (w : BitVec 1024) : Nat :=
  if recMalformed w then 2
  else if launchable s vf w = false then 3
  else if 4096 ≤ (s.die die).recs.length then 1
  else 0

/-- A record's state: eligible once every input is satisfied (R117), from the cycle given. -/
def Rec.settle (now : Nat) (r : Rec) : Rec :=
  if r.st = .waiting ∧ (r.sat.all fun b => b) then { r with st := .eligible, elig := now } else r

/-- Put an accepted record into a die's scheduler (R117); it is checked as it enters (R116). -/
def enterRec (vf die : Nat) (w : BitVec 1024) (s : State) : State :=
  let d := s.die die
  let r : Rec := Rec.settle (s.cyc die)
    ⟨d.nextRec, vf, w, .waiting, (recIns w).map fun x => query s vf x == some 1, recClass w, s.cyc die, 0, s.cyc die⟩
  checkRecord die r (s.updDie die fun d => { d with recs := d.recs ++ [r], nextRec := d.nextRec + 1 })

/-- Launch a record (R25). -/
def launch (vf die : Nat) (w : BitVec 1024) (s : State) : State × Nat :=
  let st := launchStatus s vf die w
  if st = 0 then (enterRec vf die w s, 0) else (s, st)

end Sys2Proof.Machine
end

