-- ==== Sys2Proof/Machine/Stands.lean ====
section
/-! DEFINITION. Operations on whole stands: feeding blocks (R22, R92, R369),
leaving the box (R129, R131, R361), restoring an image (R130, R353), and the service of a held stand, which is the return
from its traps (R343, R344). -/

namespace Sys2Proof.Machine

/-! ## Feeding (R22, R92, R140, R369) -/

/-- Windowed registers at the entry of a block: w0 to w3 hold the coordinates, every other is undefined (R92): a free
value with a free poison bit, by the counter. [DESIGN CHOICE, log 5] -/
def entryWindow (free : Nat) (ts : List Nat) : List Reg :=
  (upTo 256).map fun k => if k < 4 then ⟨BitVec.ofNat 64 (nth 0 ts k), false⟩ else ⟨Config.freeWord (free + k), Config.freeBit (free + k)⟩

/-- Start a context on a block at word sentry (R92, R180, R172: the held count of TAGCTL is the block's).
[DEDUCED, log 142] -/
def feedBlk (st : Nat) (b : Blk) (s : State) : State :=
  match s.stand? st with
  | none => s
  | some t =>
    let s0 : State := { s with free := s.free + 256 }
    let s1 := s0.setStand { t with
      blocks := t.blocks.map fun x => if x.no = b.no then { x with feed := .feeding } else x
      lastDispatch := s.cyc t.die }
    makeReady t.ctx (s1.updCtx t.ctx fun c => { c with
      depth := 0, resident := 1, loops := [], limm := none, w := entryWindow s.free [b.t0, b.t1, b.t2, b.t3]
      pc := 4 * t.kern.entry, block := some b.no, tagctl := c.tagctl &&& 7 })

/-- Feed the next dispatched block that a rollback left to be fed again, when the context is idle (R353). -/
def feedNext (st : Nat) (s : State) : State :=
  match s.stand? st with
  | none => s
  | some t =>
    if (s.ctx t.ctx).run = .idle ∧ t.cop.pend = false then
      match t.blocks.find? fun b => b.feed == .queued with
      | some b => feedBlk st b s
      | none => s
    else s

/-- The feeding of a block ends (R92, R369): the context idles without resident windows and the closing blaze is
requested, with the grain flag where a change is pending (R141). A context that feeds no block only idles.
[DEDUCED, log 63] -/
def endFeed (st : Nat) (s : State) : State :=
  match s.stand? st with
  | none => s
  | some t =>
    let c := s.ctx t.ctx
    let s1 := s.setCtx { c with run := .idle, depth := 0, resident := 1, loops := [], limm := none, block := none }
    match c.block with
    | none => schedule t.ctx s1
    | some no =>
      let s2 := s1.setStand { t with blocks := t.blocks.map fun b => if b.no = no then { b with feed := .fed } else b }
      let s3 := requestWave st { WaveFlags.none with close := true, grain := t.cop.pend, closes := [(no, t.engs.map fun e => (e.no, e.nextSeq - 1))] } s2
      feedNext st (schedule t.ctx s3)

/-! ## Growth rings, error counts and retirement (R360, R361, R370, R371) -/

/-- The ring of a unit. -/
def Pf.ringOf (l : List GRing) (die kind unit : Nat) : GRing :=
  (l.find? fun r => r.die == die && r.kind == kind && r.unit == unit).getD
    ⟨die, kind, unit, List.replicate 32 0, List.replicate 32 0⟩

/-- Put a ring back. -/
def putRing (r : GRing) : List GRing → List GRing
  | [] => [r]
  | x :: xs => if x.die = r.die ∧ x.kind = r.kind ∧ x.unit = r.unit then r :: xs else x :: putRing r xs

/-- Add one to a saturating 16-bit counter of a ring's live copy. -/
def bumpBin (l : List (BitVec 16)) (i : Nat) : List (BitVec 16) :=
  let x := nth 0 l i
  setNth 0 l i (if x = BitVec.allOnes 16 then x else x + 1)

/-- Count a service event in a unit's ring and write the ring to flash (R370). -/
def ringEvent (die kind unit ev : Nat) (s : State) : State :=
  let r := Pf.ringOf s.svc.rings die kind unit
  let now := bumpBin r.now (24 + ev)
  { s with svc := { s.svc with rings := putRing { r with now := now, flash := now } s.svc.rings } }

/-- Add one to the count of a unit in the current window. -/
def bumpErr (kind unit : Nat) : List ErrCount → List ErrCount
  | [] => [⟨kind, unit, 1⟩]
  | c :: cs => if c.kind = kind ∧ c.unit = unit then { c with n := c.n + 1 } :: cs else c :: bumpErr kind unit cs

/-- The count of a unit. -/
def errCount (kind unit : Nat) (l : List ErrCount) : Nat :=
  ((l.find? fun c => c.kind == kind && c.unit == unit).map (·.n)).getD 0

/-- A unit becomes suspect (R360, R370, R382). -/
def makeSuspect (die : Nat) (slice : Bool) (unit : Nat) (s : State) : State :=
  let s1 := s.updDie die fun d => { d with suspects := d.suspects ++ [(slice, unit)] }
  hostEvent .pf 6 0 0 die (BitVec.ofNat 64 (unit + if slice then 256 else 0)) (ringEvent die (if slice then 1 else 0) unit 0 s1)

/-- Count an error of a unit, of kind 0 compartment, 1 slice, 2 channel or 3 port; at ERRTHR within a window a compartment
or slice becomes suspect (R360). [DEDUCED, log 112] -/
def countError (die kind unit : Nat) (s : State) : State :=
  let s1 := s.updDie die fun d => { d with errs := bumpErr kind unit d.errs }
  let thr := s.pf.errthr.toNat % 65536
  let d := s1.die die
  let u : Bool × Nat := (kind == 1, unit)
  if kind < 2 ∧ thr ≠ 0 ∧ thr ≤ errCount kind unit d.errs ∧ d.suspects.contains u = false ∧ d.retired.contains u = false then
    makeSuspect die u.1 unit s1
  else s1

/-- Retire a compartment and ask for its in-field test (R360, R361, R371). [DEDUCED, log 114] -/
def retireComp (die n : Nat) (s : State) : State :=
  let s1 := s.updDie die fun d => { d with
    suspects := d.suspects.filter fun u => u != (false, n)
    retired := if d.retired.contains (false, n) then d.retired else d.retired ++ [(false, n)] }
  let s2 := ringEvent die 0 n 1 s1
  { s2 with svc := { s2.svc with ift := { s2.svc.ift with queue := s2.svc.ift.queue ++ [(die, false, n)] } } }

/-- Compartment numbers, 16·row + col, of a stand's box (R360). -/
def Stand.comps (t : Stand) : List Nat :=
  ((upFrom t.row t.kern.h).map fun r => (upFrom t.col t.kern.w).map fun c => 16 * r + c).flatten

/-- The compartment number of a weave of a stand (R360). -/
def Stand.compOf (t : Stand) (p : WPos) : Nat := 16 * (t.row + p.drow) + t.col + p.dcol

/-- Retire the suspect compartments that an owner leaves (R361). -/
def leaveBox (t : Stand) (s : State) : State :=
  t.comps.foldl (fun acc n =>
    if (acc.die t.die).suspects.contains (false, n) ∧ !((acc.die t.die).retired.contains (false, n)) then retireComp t.die n acc
    else acc) s

/-! ## Leaving and discarding (R129, R131, R344, R353) -/

/-- Whether a route entry's compartment lies inside the stand's box, or it names an engine. -/
def Stand.inside (t : Stand) : RouteEnt → Bool
  | .cell dc dr _ _ _ => 0 ≤ dc && dc < t.kern.w && 0 ≤ dr && dr < t.kern.h
  | .eng _ => true

/-- Whether a packet's destination lies inside the stand. -/
def Stand.dstInside (t : Stand) : PktDst → Bool
  | .cell die cc cr _ _ _ => die == t.die && t.col ≤ cc && cc < t.col + t.kern.w && t.row ≤ cr && cr < t.row + t.kern.h
  | .eng e => e.stand == t.id

/-- The stand a sender belongs to. -/
def Sender.stand : Sender → Nat
  | .eng e => e.stand
  | .ldx w _ => w.stand

/-- Discard every token in flight inside a stand (R353). -/
def discardTransit (t : Stand) (s : State) : State :=
  let dead (f : Flight) : Bool := f.stand == t.id && (match t.kern.routes[f.route]? with | some r => t.inside r | none => true)
  { s with fab := { s.fab with
      flights := s.fab.flights.filter fun f => !(dead f)
      packets := s.fab.packets.filter fun p => !(p.sender.stand == t.id && t.dstInside p.dst) } }

/-- Whether a barrier member belongs to a stand. -/
def BarMember.ofStand (t : Stand) : BarMember → Bool
  | .seq c => c == t.ctx
  | .task k => k.stand == t.id

/-- Parts of members that match (R308). -/
def CollPart.matches (p : CollPart) (vf scope dtid tile : Nat) : Bool :=
  p.vf == vf && p.scope == scope && p.dtid == dtid && p.tile == tile

/-- The package rank that stands for every other package of the pod. [DEDUCED, log 141] -/
def everyPackage : Nat := 0xFFFF

/-- An own contribution at scope pod goes to the other packages once every matching command that its rank issued before it has
contributed (R308). [DEDUCED, log 189] -/
def sendColl (s : State) (p : CollPart) : State :=
  let before := s.fab.colls.takeWhile fun q => q.cmd != p.cmd
  if p.scope = 5 ∧ p.stage = .contributed
      ∧ !(before.any fun q => q.matches p.vf p.scope p.dtid p.tile && q.rank == p.rank && q.stage == .issued) then
    let s1 : State := { s with fab := { s.fab with
      colls := s.fab.colls.map fun q => if q.cmd = p.cmd then { q with stage := .sent } else q } }
    s1.emit (.pod everyPackage (.coll p.vf p.dtid p.tile p.rank (p.els.map (·.1)) (p.els.map (·.2))))
  else s

/-- Change the parts of collectives; contributions that no earlier one holds back any more leave, in their order. -/
def updColls (f : List CollPart → List CollPart) (s : State) : State :=
  let s1 : State := { s with fab := { s.fab with colls := f s.fab.colls } }
  s1.fab.colls.foldl sendColl s1

/-- The command of an image that a part of a collective belongs to. -/
def StandImage.cmd? (i : StandImage) (e seq : Nat) : Option Cmd :=
  (i.engs.find? fun g => g.no == e).bind fun g => g.cmds.find? fun c => c.seq == seq

/-- A part of a stand's collective when the stand returns to an image: it stays where the image's command had contributed, is
to be contributed again where it had not, and is gone where the image holds no such command, which its context issues again.
[DEDUCED, log 75] -/
def CollPart.restored (img : Option StandImage) (e : EKey) (seq : Nat) (p : CollPart) : Option CollPart :=
  match img.bind fun i => i.cmd? e.eng seq with
  | some c => if c.todo.isSome then some p else some { p with els := [], stage := .issued }
  | none => none

/-- Withdraw the line requests of a stand's engines and its barrier arrivals. -/
def withdrawRequests (t : Stand) (s : State) : State :=
  { s with
    fab := { s.fab with
      reqs := s.fab.reqs.filter fun r => r.eng.stand != t.id
      barriers := s.fab.barriers.map fun b => { b with arrived := b.arrived.filter fun a => !(BarMember.ofStand t a.1) } }
    slices := s.slices.map fun x => { x with
      queue := x.queue.filter fun r => r.eng.stand != t.id, filling := x.filling.filter fun r => r.eng.stand != t.id } }

/-- Withdraw what a stand has under way outside it: requests, arrivals, and the collective contributions that the image it
returns to does not hold. [DEDUCED, log 75] -/
def withdrawStand (t : Stand) (img : Option StandImage) (s : State) : State :=
  updColls (fun l => l.filterMap fun p => match p.cmd with
    | some (e, n) => if e.stand = t.id then p.restored img e n else some p
    | none => some p) (withdrawRequests t s)

/-- Free a stand and everything that placement bound to it (R129, R131). -/
def freeStand (st : Nat) (s : State) : State :=
  match s.stand? st with
  | none => s
  | some t =>
    let s1 := withdrawStand t none (discardTransit t s)
    let s2 := { s1 with stands := s1.stands.filter fun x => x.id != st }
    if t.status = .resident then
      schedule t.ctx (leaveBox t (s2.setCtx (SeqCtx.unbound t.ctx)))
    else s2

/-! ## Images (R130, R349, R350, R353) -/

/-- Numbers of the streams that leave the stand go on when it is restored; those inside it start again, with the ports they
lead to. [DEDUCED, log 136] -/
def Stand.seqOutside (t : Stand) (l : List (Nat × Nat)) : List (Nat × Nat) :=
  l.filter fun p => p.1 < 256 && !((t.kern.routes[p.1]?).any t.inside)

/-- A port whose indices start again (R364). -/
def PortQ.recount (q : PortQ) : PortQ := { q with head := 0, tail := BitVec.ofNat 32 (q.q.length + q.behind.length) }

/-- The ports of a stand that stands in a new place count afresh (R130, R352, R364). -/
def Stand.recount (t : Stand) : Stand :=
  { t with
    weaves := t.weaves.map fun w => { w with tasks := w.tasks.map fun k => { k with ports := k.ports.map PortQ.recount } }
    engs := t.engs.map fun e => { e with port := e.port.recount } }

/-- Restore one port from an image. [DEDUCED, log 136] -/
def restorePort (st : Nat) (cur img : PortQ) : PortQ :=
  { img with
    q := img.q ++ img.behind, behind := [], blzNeed := none, blzGot := [], head := 0
    tail := BitVec.ofNat 32 (img.q ++ img.behind).length
    early := cur.early.filter fun p => p.1.stand != st, nextSeq := cur.nextSeq.filter fun p => p.1.stand != st }

/-- Restore a task: its waits issue again with a fresh limit (R215, R352). -/
def restoreTask (st : Nat) (cur img : Task) : Task :=
  { img with
    ports := (img.ports.zip cur.ports).map fun p => restorePort st p.2 p.1
    wait := none, trapped := false, pend := none, deferred := [], twn := none, ent := none, lineSince := none }

/-- Restore a weave; index counters restart (R364). -/
def restoreWeave (t : Stand) (cur img : Weave) : Weave :=
  { img with
    tasks := img.tasks.map fun k => restoreTask t.id ((cur.task? k.nid).getD k) k
    ldxSeq := t.seqOutside cur.ldxSeq, snapped := false, halted := false }

/-- Restore an engine context: its commands go on from their recorded positions. -/
def restoreEng (t : Stand) (cur img : Eng) : Eng :=
  { img with
    agn := cur.agn
    cmds := img.cmds.map fun c => if cmdOp c.word = 0x10 ∧ c.passV = false then { c with finished := false } else c
    port := restorePort t.id cur.port img.port
    sendSeq := t.seqOutside cur.sendSeq
    blazed := false, halted := false }

/-- Restore a context from its image; the trap queue and local memory outside the window stack stay. -/
def restoreCtx (cur img : SeqCtx) : SeqCtx :=
  { img with
    id := cur.id, bind := cur.bind, text := cur.text, entry := cur.entry
    tqhead := cur.tqhead, tqtail := cur.tqtail, tqlost := cur.tqlost, tqact := 0, tqnote := cur.tqnote, event := cur.event, issued := cur.issued
    run := match img.run with | .running => .ready | .waiting => .ready | r => r
    wait := none, limm := none }

/-- The registers of a stand's context at placement (R169, R172). -/
def placedCtx (q : SeqId) (t : Stand) : SeqCtx :=
  { SeqCtx.unbound q with bind := .stand t.id, text := t.kern.text, entry := t.kern.entry }

/-- Weaves of a stand that hold a node, in their state at placement (R128, R201, R349). -/
def placedWeaves (t : Stand) : List Weave :=
  t.kern.images.foldl (fun acc im =>
    im.nodes.foldl (fun a n =>
      (upTo (n.rep + 1)).foldl (fun b c =>
        let p := copyPos t.kern im.dcol im.drow n c
        let w := (b.find? fun w => w.pos == p).getD { Weave.fresh p with mode := t.mode }
        putWeave { w with tasks := putTask (Task.fresh n.nid c) w.tasks } b) a) acc) []

/-- An engine context at placement (R192, R193). -/
def Eng.placed (no agn : Nat) : Eng :=
  { no := no, agn := agn, nextSeq := 1, qhead := 0, cmds := [], err := false, port := PortQ.empty, rows := [], sendSeq := []
    blazed := false, halted := false }

/-- The state of a stand at its image, or at placement where there is none: its weaves then take the block mode of the stand's last
closing blaze (R43, R353). [DEDUCED, log 190] -/
def Stand.imageWeaves (t : Stand) : Option StandImage → List Weave
  | some i => i.weaves.map fun w => restoreWeave t (t.weave w.pos) w
  | none => (placedWeaves t).map fun w => restoreWeave t (t.weave w.pos) w

/-- Engines at the image. -/
def Stand.imageEngs (t : Stand) : Option StandImage → List Eng
  | some i => i.engs.map fun e => restoreEng t ((t.eng? e.no).getD e) e
  | none => t.engs.map fun e => restoreEng t e (Eng.placed e.no e.agn)

/-- Feeding states at the image: a block dispatched since is fed again in its turn (R353). -/
def Stand.imageBlocks (t : Stand) : Option StandImage → List Blk
  | some i => t.blocks.map fun b => { b with feed := ((i.blocks.find? fun x => x.no == b.no).map (·.feed)).getD .queued }
  | none => t.blocks.map fun b => { b with feed := .queued }

/-- Put the bytes of spilled windows back where a restored context's frames stand. -/
def restoreSpill (c : SeqCtx) (bs : List Byte) (s : State) : State :=
  { s with lmem := s.lmem.setBytes (localAddr c.id c.spillBase) bs }

/-- The wave that a stand with somewhere to go needs (R129, R130, R352). -/
def Target.flags : Target → WaveFlags
  | .none => WaveFlags.none
  | .move _ _ => { WaveFlags.none with move := true }
  | .aside => { WaveFlags.none with preempt := true }
  | .suspend => { WaveFlags.none with preempt := true }

/-- Roll a stand back to its last complete image, or to placement where no wave has completed since it was placed, moved or
resumed (R353): the segment is discarded with the publications held since, tokens in flight too; weaves, engines and the
context are restored. [DEDUCED, log 72] -/
def rollback (st : Nat) (s : State) : State :=
  match s.stand? st with
  | none => s
  | some t =>
    let s1 := withdrawStand t t.image (discardTransit t s)
    let cur := s1.ctx t.ctx
    let t1 : Stand := { t with
      weaves := t.imageWeaves t.image, engs := t.imageEngs t.image, blocks := t.imageBlocks t.image
      actx := (t.image.map (·.actx)).getD 0, seg := []
      held := if t.image.isSome then t.held.filter fun p => p.stage == 2 else []
      wave := none, waveReq := none, haltImage := none, isHeld := none, switchTo := none }
    let c1 := restoreCtx cur (((t.image.bind (·.ctx))).getD (placedCtx t.ctx t1))
    let s2 := restoreSpill c1 ((t.image.map (·.spilled)).getD []) (s1.setStand t1)
    let s3 := if c1.run = .ready then makeReady t.ctx (s2.setCtx { c1 with run := .idle }) else s2.setCtx c1
    let s4 := feedNext st (schedule t.ctx s3)
    let fl := { t.target.flags with grain := t.cop.pend && c1.block.isNone }
    if fl.stops then requestWave st fl s4 else s4

/-- A halted stand goes on from its halt wave (R344 RESUME): tokens behind the BLAZE rejoin their queues, trapped tasks
issue again, and the withdrawn waves are requested as one (R346). -/
def resumeHeld (st : Nat) (s : State) : State :=
  match s.stand? st with
  | none => s
  | some t =>
    let port (p : PortQ) : PortQ := { p with q := p.q ++ p.behind, behind := [], blzNeed := none, blzGot := [] }
    let task (k : Task) : Task := { k with trapped := false, wait := none, lineSince := none, ports := k.ports.map port }
    let t1 : Stand := { t with
      isHeld := none, wave := none, haltImage := none
      weaves := t.weaves.map fun w => { w with halted := false, snapped := false, tasks := w.tasks.map task }
      engs := t.engs.map fun e => { e with halted := false, blazed := false, port := port e.port } }
    let s1 := (s.setStand t1).updCtx t.ctx fun c => { c with tqact := 0 }
    match t.isHeld.bind (·.withdrawn) with
    | some fl => requestWave st fl s1
    | none => s1

/-- Remove every dispatched record of a stand, with one host event of type 5 (R344, R382). -/
def removeBlocks (t : Stand) (s : State) : State :=
  let s1 := t.blocks.foldl (fun acc b => removeRec t.die b.recId acc) s
  hostEvent (.vf t.vf) 5 0 t.vf t.die (BitVec.ofNat 64 t.blocks.length) s1

/-- Stop a stand (R344 STOP). -/
def stopStand (st : Nat) (s : State) : State :=
  match s.stand? st with
  | none => s
  | some t => freeStand st (removeBlocks t s)

/-- Apply the strongest act (R343, R344): 0 RESUME, 1 ROLLBACK, 2 and 3 STOP. -/
def applyAct (st act : Nat) (s : State) : State :=
  match act with
  | 0 => resumeHeld st s
  | 1 => rollback st s
  | _ => stopStand st s

/-- A held stand leaves the held state once its queue is serviced, its halt wave is complete and its handler has
returned, with no handler running since (R344). -/
def tryLeave (st : Nat) (s : State) : State :=
  match s.stand? st with
  | none => s
  | some t =>
    match t.isHeld with
    | none => s
    | some h =>
      let c := s.ctx t.ctx
      if h.haltDone ∧ h.returned ∧ c.h = false ∧ c.tqhead = c.tqtail then applyAct st (max h.act c.tqact) s else s

/-- The handler of a stand returns (R344): that counts once its queue is serviced. [DEDUCED, log 21] -/
def handlerReturn (q : SeqId) (s : State) : State :=
  let c := s.ctx q
  match c.bind with
  | .stand st =>
    if c.tqhead = c.tqtail then
      tryLeave st (s.updStand st fun t => { t with isHeld := t.isHeld.map fun h => { h with returned := true } })
    else s
  | _ => s

/-- The act of record n of a context's queue, byte 3 bits [7:6] (R343); 3 acts as 2. -/
def recordAct (s : State) (q : SeqId) (n : Nat) : Nat :=
  min 2 (bitsAt (s.lmem.byte (localAddr q (tqBase q + 32 * (n % 64) + 3))).toNat 6 2)

/-- A wave that was requested and not injected starts if it can (R142, R346). -/
def startWaiting (st : Nat) (s : State) : State :=
  match s.stand? st with
  | none => s
  | some t =>
    match t.wave, t.isHeld, t.waveReq with
    | none, none, some fl => requestWave st fl (s.setStand { t with waveReq := none })
    | _, _, _ => s

/-- A store to TQHEAD of a context (R337, R343): a head within the records written services them; any other value is
ignored. The acts of a root program's records (R342) and of refused publications (R111) are ignored. -/
def serviceHead (q : SeqId) (h : W32) (s : State) : State :=
  let c := s.ctx q
  let k := (h - c.tqhead).toNat
  if k = 0 ∨ (c.tqtail - c.tqhead).toNat < k then s
  else
    let nums := (upTo k).map fun i => (c.tqhead.toNat + i) % 2 ^ 32
    let acts := (nums.filter fun n => !(c.tqnote.contains n)).map (recordAct s q)
    let s1 := s.setCtx { c with tqhead := h, tqnote := c.tqnote.filter fun n => !(nums.contains n) }
    match c.bind with
    | .stand st =>
      let s2 := s1.updStand st fun t => { t with isHeld := t.isHeld.map fun x => { x with act := max x.act (maxNat acts) } }
      startWaiting st (tryLeave st s2)
    | _ => s1

end Sys2Proof.Machine
end

