-- ==== Sys2Proof/Machine/Barrier.lean ====
section
/-! DEFINITION. Barriers of the four scopes (R11, R12, R188, R231): who the members are, an arrival, the completion of
every member, and the withdrawal of an arrival. -/

namespace Sys2Proof.Machine

/-- A barrier as one agent may use it: scope, instance, absolute id, member count. -/
structure BarKey where
  scope : Nat
  place : Nat
  id : Nat
  count : Nat
  deriving DecidableEq, Repr

/-- Whether a cell word is a `CC.BARR` on an id at a scope (R231). -/
def isBarr (scope id : Nat) (w : W64) : Bool :=
  bitsAt w.toNat 56 8 == 0x88 && bitsAt w.toNat 4 6 == scope && bitsAt w.toNat 22 6 == id

/-- Whether a node's text names a barrier id at a scope. -/
def NodeDesc.namesBarrier (n : NodeDesc) (scope id : Nat) : Bool := n.text.any (isBarr scope id)

/-- Weaves of a stand, each once, whose node text names an id; `active` restricts to nodes of the weave's active
context. -/
def Stand.barrierWeaves (t : Stand) (scope id : Nat) (active : Bool) : List WPos :=
  (t.weaves.filter fun w => w.tasks.any fun k =>
    match t.kern.node? w.pos k.nid with
    | some n => n.namesBarrier scope id && (!active || n.ctx == w.actx)
    | none => false).map (·.pos)

/-- The instance of a quad: the quad that holds a weave, or the weave itself when G ≥ 4 (R322). -/
def quadPlace (t : Stand) (p : WPos) : Nat :=
  (((t.die * 8 + (t.row + p.drow)) * 16 + (t.col + p.dcol)) * 8 + p.col) * 4 + p.slot * t.g / 4

/-- The grant and member count of a pkg (4) or pod (5) barrier id for a VF (R12, R188, R383). -/
def wideKey (s : State) (vf scope id : Nat) : Option BarKey :=
  let bit := if scope = 4 then id else 16 + id
  let sel := if scope = 4 then id else 256 + id
  let n := ((lookupNat sel s.pf.barmem).getD 0).toNat % 65536
  if (s.vf vf).cfg.barg.getLsbD bit ∧ n ≠ 0 then some ⟨scope, 0, id, n⟩ else none

/-- The barrier a stand's agent names, none where the id is not granted (R12). -/
def standKey (s : State) (t : Stand) (p : WPos) (scope id : Nat) : Option BarKey :=
  match scope with
  | 2 => some ⟨2, quadPlace t p, id,
      ((t.barrierWeaves 2 id true).filter fun x => quadPlace t x == quadPlace t p).length⟩
  | 3 => (t.bars[id]?).map fun b => ⟨3, t.die, b, 1 + (t.barrierWeaves 3 id false).length⟩
  | _ => wideKey s t.vf scope id

/-- Same member: a context, or the same weave (R188 counts weaves). -/
def sameMember : BarMember → BarMember → Bool
  | .seq a, .seq b => a == b
  | .task a, .task b => a.weave == b.weave
  | _, _ => false

/-- A barrier is the one of a key. -/
def Barrier.isKey (b : Barrier) (k : BarKey) : Bool := b.scope == k.scope && b.place == k.place && b.id == k.id

/-- The barrier of a key as it stands. -/
def State.barrier (s : State) (k : BarKey) : Barrier :=
  (s.fab.barriers.find? fun b => b.isKey k).getD ⟨k.scope, k.place, k.id, [], []⟩

/-- Replace or remove the barrier of a key. -/
def State.setBarrier (s : State) (k : BarKey) (b : Option Barrier) : State :=
  let others := s.fab.barriers.filter fun x => !(x.isKey k)
  { s with fab := { s.fab with barriers := match b with | some x => others ++ [x] | none => others } }

/-- The arrival bit that a completion gives: 1 when some member arrived with 1 (R188). -/
def Barrier.result (b : Barrier) : Bool := (b.arrived.any fun a => a.2) || (b.remote.any fun a => a.2)

/-- Members that have arrived, each once: a weave is one member however many of its tasks arrive. [DEDUCED, log 59] -/
def countMembers : List (BarMember × Bool) → Nat
  | [] => 0
  | a :: r => (if r.any fun x => sameMember x.1 a.1 then 0 else 1) + countMembers r

/-- Members that have arrived. [DEDUCED, log 59] -/
def Barrier.size (b : Barrier) : Nat := countMembers b.arrived + b.remote.length

/-- An agent has arrived and waits. -/
def Barrier.holds (b : Barrier) (m : BarMember) : Bool := b.arrived.any fun a => a.1 == m

/-- Dequeue the token that a completed `CC.BARR` took as its operand. -/
def takeBarr (n : NodeDesc) (k : Task) : Task :=
  let a := (cgFields ((n.text[k.pc]?).getD 0)).a.toNat
  if 48 ≤ a ∧ a < 52 then
    let q := nth PortQ.empty k.ports (a - 48)
    { k with ports := setNth PortQ.empty k.ports (a - 48) { q with q := q.q.drop 1, head := q.head + 1 } }
  else k

/-- What a completed `CC.BARR` writes (R231): every lane of d takes the result bit; the task goes on after it
as its sc field says (R156). -/
def barrDone (t : Stand) (n : NodeDesc) (bit : Bool) (k0 : Task) : Task :=
  let k := takeBarr n k0
  let w := (n.text[k.pc]?).getD 0
  let f := cgFields w
  let x : Lane := ⟨if bit then 1 else 0, false⟩
  let d := f.d.toNat
  let p : Pend := {
    regs := if d < 48 then (upTo (lanesOf t.g)).map fun l => (d, l, x) else []
    preds := [], recs := []
    toks := if 52 ≤ d then [(d - 52, Tok.fit ⟨0, List.replicate 16 x, false, 0, false⟩)] else []
    endt := f.sc.getLsbD 3 }
  { k.advance with pend := some p, yielded := f.sc.getLsbD 2 }

/-- A member's wait ends with a result (R188): an acquire. -/
def completeMember (bit : Bool) (m : BarMember) (s : State) : State :=
  match m with
  | .seq q => s.updCtx q fun c => { c with wait := c.wait.map fun w =>
      match w.1 with | .barrier _ => (.barrier (some bit), w.2) | _ => w }
  | .task k =>
    s.updStand k.stand fun t =>
      let w := t.weave k.pos
      match w.task? k.nid, t.kern.node? k.pos k.nid with
      | some tk, some n => t.setWeave ((w.setTask (barrDone t n bit tk)).acquire (standView s.mem t.seg))
      | _, _ => t

/-- Complete a barrier whose last member has arrived. -/
def settleBarrier (k : BarKey) (s : State) : State :=
  let b := s.barrier k
  if k.count ≤ b.size then
    b.arrived.foldl (fun acc a => completeMember b.result a.1 acc) (s.setBarrier k none)
  else s

/-- A member arrives with a bit (R188); an arrival at a pod barrier is sent to the other packages (R380). -/
def arrive (k : BarKey) (m : BarMember) (bit : Bool) (s : State) : State :=
  let b := s.barrier k
  let b1 : Barrier := { b with arrived := (b.arrived.filter fun a => a.1 != m) ++ [(m, bit)] }
  let s1 := s.setBarrier k (some b1)
  let rank := (s.vf 0).mem.pkrank.toNat % 128
  settleBarrier k (if k.scope = 5 then s1.emit (.pod everyPackage (.barrier k.id rank bit)) else s1)

/-- Withdraw a member's arrival at every barrier (R188, R342). [DEDUCED, log 141] -/
def withdraw (m : BarMember) (s : State) : State :=
  { s with fab := { s.fab with
      barriers := s.fab.barriers.map fun b => { b with arrived := b.arrived.filter fun a => a.1 != m } } }

/-- The wait object of a barrier scope (R186). -/
def barrierObject (scope : Nat) : Nat :=
  match scope with
  | 2 => 0x65
  | 3 => 0x61
  | 4 => 0x62
  | _ => 0x63

/-- TINFO of an expired wait: object, head and tail (R186). -/
def waitInfo (obj head tail : Nat) : W64 :=
  BitVec.ofNat 8 obj ++ BitVec.ofNat 28 head ++ BitVec.ofNat 28 tail

/-- The barrier limit of R188 and R231. -/
def barrierLimit : Nat := 2 ^ 24

end Sys2Proof.Machine
end

