-- ==== Sys2Proof/Machine/SeqFrame.lean ====
section
/-! DEFINITION. How a sequencer instruction runs (R147, R149, R151, R168, R171, R199): the checks every instruction makes
before its own effect, and what follows that effect. -/

namespace Sys2Proof.Machine

/-- What the effect of a sequencer instruction answers: it is done; a taken branch, a call or return, or a skipped loop
body sets the pc; a trap; a trap whose EPC is the next instruction (R165); a wait until a deadline, none for no limit; or
the effect has set the context itself. -/
inductive SeqAns where
  | done (s : State)
  | branch (s : State) (t : Nat)
  | enter (s : State) (t : Nat)
  | skip (s : State) (e : Nat)
  | trap (s : State) (cause code : Nat) (info : W64)
  | trapPast (s : State) (cause : Nat) (info : W64)
  | wait (s : State) (w : SeqWait) (deadline : Nat)
  | stay (s : State)

/-- Put the answer of an effect into effect for a context. -/
def SeqAns.apply (q : SeqId) : SeqAns → State
  | .done s => s.updCtx q SeqCtx.advance
  | .branch s t => s.updCtx q fun c => { c with pc := t, loops := leaveLoops t c.loops, limm := none }
  | .enter s t => s.updCtx q fun c => { c with pc := t, limm := none }
  | .skip s e => s.updCtx q fun c => { c with loops := (reachEnd 4 c.loops e).1, pc := (reachEnd 4 c.loops e).2, limm := none }
  | .trap s cause code info => seqTrapAt q cause code info (BitVec.ofNat 64 (s.ctx q).here) s
  | .trapPast s cause info => seqTrapAt q cause 0 info (BitVec.ofNat 64 ((s.ctx q).pc + 4)) s
  | .wait s w d => giveUp q .waiting (s.updCtx q fun c => { c with wait := some (w, d) })
  | .stay s => s

/-- The word of an instruction, zero-extended: TINFO of ILLEGAL (R151). -/
def wordInfo (i : Instr) : W64 := ((encodeSeq i).getD 0).setWidth 64

/-- The first register of a list whose poison bit is set (R171). -/
def firstPoison (c : SeqCtx) (rs : List Code6) : Option Code6 := rs.find? fun r => (c.reg r).poison

/-- How a sequencer instruction is used: whether a prefix may stand before it (R149), its guard (R147), and the registers
whose poison traps (R171). -/
structure SeqUse where
  prefixed : Bool
  guard : Option (BitVec 3)
  reads : List Code6

/-- A guarded SR-layout instruction with the registers whose poison traps. -/
def SeqUse.sr (q : BitVec 3) (reads : List Code6) : SeqUse := ⟨false, some q, reads⟩
/-- An unguarded instruction that takes no prefix. -/
def SeqUse.bare (reads : List Code6) : SeqUse := ⟨false, none, reads⟩
/-- An SI form that takes a prefix. -/
def SeqUse.si (reads : List Code6) : SeqUse := ⟨true, none, reads⟩

/-- One instruction of a running context: the traps of R149 and R151 come first, whatever the guard; a false guard
leaves only the pc's advance; a poisoned operand of R171 traps before any effect. -/
def seqIssue (i : Instr) (u : SeqUse) (body : SeqCtx → State → SeqAns) (q : SeqId) (s : State) : State :=
  let c := s.ctx q
  if i.wf = false ∨ (c.limm.isSome ∧ u.prefixed = false) then seqTrap q 0x01 (wordInfo i) s
  else if (match u.guard with | some g => c.pred g.toNat | none => true) = false then (SeqAns.done s).apply q
  else match firstPoison c u.reads with
    | some r => seqTrap q 0x06 (r.setWidth 64) s
    | none => (body c s).apply q

/-- Run a sequencer instruction for the context whose turn it is. [DESIGN CHOICE, log 10] -/
def runSeq (i : Instr) (u : SeqUse) (body : SeqCtx → State → SeqAns) (s : State) : Out :=
  match s.actor with
  | .seq q => if (s.ctx q).run = .running then .next (seqIssue i u body q s) else .fault .noAgent
  | _ => .fault .noAgent

/-- Write a register of the context. -/
def setReg (c : SeqCtx) (d : Code6) (x : Reg) (s : State) : State := s.setCtx (c.setReg d x)

/-- Write a predicate of the context. -/
def setPred (c : SeqCtx) (n : Nat) (b : Bool) (s : State) : State := s.setCtx (c.setPred n b)

end Sys2Proof.Machine
end

