-- ==== Sys2Proof/Machine/SeqMem.lean ====
section
/-! DEFINITION. Sequencer loads, stores and atomics (R176 to R178) and the launch of a block (R25, R194). -/

namespace Sys2Proof.Machine

/-! ## Loads (R176) -/

/-- A load of n bytes, sign-extended; a trapping load leaves d unchanged. -/
def seqLoad (i : Instr) (f : SI) (n : Nat) (s : State) : Out :=
  runSeq i (.si [f.a]) (fun c s =>
    let a := (c.reg f.a).v + c.imm f.imm14
    match seqPlace s c a n .read with
    | .error cause => .trap s cause 0 a
    | .ok p =>
      let x := seqRead s c n p
      if seqHeld s c p then .stay s
      else .done (setReg c f.d ⟨BitVec.ofInt 64 (toSigned (8 * n) x.1), x.2⟩ (seqTouch c a s))) s

/-- SI.LDB. -/
def execSiLdb (f : SI) (s : State) : Out := seqLoad (.siLdb f) f 1 s
/-- SI.LDH. -/
def execSiLdh (f : SI) (s : State) : Out := seqLoad (.siLdh f) f 2 s
/-- SI.LDW. -/
def execSiLdw (f : SI) (s : State) : Out := seqLoad (.siLdw f) f 4 s
/-- SI.LDD. -/
def execSiLdd (f : SI) (s : State) : Out := seqLoad (.siLdd f) f 8 s

/-! ## Stores (R176, R177, R326, R337) -/

/-- A store to a trap-queue register (R337): TQHEAD services records, TQTAIL ignores stores, TQLOST takes its low half. -/
def queueStore (q : SeqId) (reg n v : Nat) (s : State) : State :=
  let w := putBits (queueReg s q reg) (8 * (reg % 8)) (8 * n) v
  match reg / 8 with
  | 0 => serviceHead q (BitVec.ofNat 32 w) s
  | 1 => s
  | _ => s.updCtx q fun c => { c with tqlost := BitVec.ofNat 32 w }

/-- Store n bytes of a register at a place: local memory at once; a trap-queue register once the context stands after the
store, since the service may take the context elsewhere (R344); global memory at once for a root program, into the
segment for a stand, whose full segment makes the store wait for a forced wave (R328). -/
def seqStoreAt (c : SeqCtx) (n : Nat) (x : Reg) (s : State) : SeqPlace → SeqAns
  | .local off => .done (storeLocal c off n x s)
  | .queue k reg => .stay (queueStore { c.id with ctx := k } reg n x.v.toNat (s.updCtx c.id SeqCtx.advance))
  | .mem pa =>
    let op := SegOp.write pa (bytesLE n x.v.toNat) x.poison
    match c.bind with
    | .stand st =>
      (match s.stand? st with
      | some t =>
        let d := heldDie s t pa
        if s.hasRoom t d op then .done (s.setStand (t.hold d .ctx op))
        else .wait (requestWave st WaveFlags.none s) .segment 0
      | none => .done s)
    | _ => .done { s with mem := s.mem.store pa (bytesLE n x.v.toNat) x.poison }

/-- A store of the low n bytes of d; a trapping store writes nothing. -/
def seqStore (i : Instr) (f : SI) (n : Nat) (s : State) : Out :=
  runSeq i (.si [f.a]) (fun c s =>
    let a := (c.reg f.a).v + c.imm f.imm14
    match seqPlace s c a n .write with
    | .error cause => .trap s cause 0 a
    | .ok p => if seqHeld s c p then .stay s else seqStoreAt c n (c.reg f.d) (seqTouch c a s) p) s

/-- SI.STB. -/
def execSiStb (f : SI) (s : State) : Out := seqStore (.siStb f) f 1 s
/-- SI.STH. -/
def execSiSth (f : SI) (s : State) : Out := seqStore (.siSth f) f 2 s
/-- SI.STW. -/
def execSiStw (f : SI) (s : State) : Out := seqStore (.siStw f) f 4 s
/-- SI.STD. -/
def execSiStd (f : SI) (s : State) : Out := seqStore (.siStd f) f 8 s

/-! ## Atomics (R178, R331) -/

/-- A held operation without its part on one aligned word. -/
def cutWord (w : Nat) : SegOp → List SegOp
  | .write pa bs p =>
    let before := bs.take (4 * w - pa)
    let after := bs.drop (4 * w + 4 - pa)
    (if before.isEmpty then [] else [.write pa before p])
      ++ (if after.isEmpty then [] else [.write (max pa (4 * w + 4)) after p])
  | .op code ty els =>
    let rest := els.filter fun e => e.1 / 4 != w
    if rest.isEmpty then [] else [.op code ty rest]
  | .away rank vf va bs k p => [.away rank vf va bs k p]
  | .clear v => if v = w then [] else [.clear v]

/-- A segment's entries without their part on one word. -/
def cutSeg (w : Nat) (l : List SegEnt) : List SegEnt :=
  (l.map fun e => (cutWord w e.op).map fun o => { e with op := o }).flatten

/-- Commit one word that a stand's segment holds, on its own (R331). -/
def commitWord (st pa : Nat) (s : State) : State :=
  match s.stand? st with
  | none => s
  | some t =>
    let w := pa / 4
    let v := standView s.mem t.seg
    let m := s.mem.store (4 * w) (v.bytesAt (4 * w) 4) (v.poison.contains w)
    { s with mem := m }.setStand { t with seg := cutSeg w t.seg }

/-- Commit the held words of an atomic's bytes where the agent belongs to a stand. -/
def commitFor (c : SeqCtx) (pa : Nat) (s : State) : State :=
  match c.bind with
  | .stand st => commitWord st (pa + 4) (commitWord st pa s)
  | _ => s

/-- The first poisoned of the 32-bit words of n bytes from a, as a byte offset. -/
def poisonAt (m : Memory) (a n : Nat) : Option Nat :=
  ((upTo (n / 4)).find? fun k => m.poison.contains ((a + 4 * k) / 4)).map (4 * ·)

/-- Perform an atomic on the doubleword at a resolved place; host memory refuses it. -/
def amoAt (c : SeqCtx) (d : Code6) (a : W64) (fn : W64 → W64) (s : State) : SeqPlace → SeqAns
  | .local off =>
    let la := localAddr c.id off
    (match poisonAt s.lmem la 8 with
    | some k => .trap s 0x06 0 (poisonInfo (a.toNat + k))
    | none =>
      let old := BitVec.ofNat 64 (s.lmem.readN la 8)
      .done (setReg c d ⟨old, false⟩ { s with lmem := s.lmem.store la (bytesLE 8 (fn old).toNat) false }))
  | .queue k reg =>
    let q : SeqId := { c.id with ctx := k }
    let old := BitVec.ofNat 64 (queueReg s q reg)
    .stay (queueStore q reg 8 (fn old).toNat (s.updCtx c.id fun c => (c.setReg d ⟨old, false⟩).advance))
  | .mem pa =>
    if isHost pa then .trap s 0x08 0 a
    else
      let s1 := commitFor c pa s
      match poisonAt s1.mem pa 8 with
      | some k => .trap s 0x06 0 (poisonInfo (a.toNat + k))
      | none =>
        let old := BitVec.ofNat 64 (s1.mem.readN pa 8)
        .done (setReg c d ⟨old, false⟩ { s1 with mem := s1.mem.store pa (bytesLE 8 (fn old).toNat) false })

/-- SA.AMO: the operands must be clean (R171). -/
def seqAmo (i : Instr) (f : SR) (reads : List Code6) (fn : SeqCtx → W64 → W64) (s : State) : Out :=
  runSeq i (.sr f.q reads) (fun c s =>
    let a := (c.reg f.a).v
    match seqPlace s c a 8 .both with
    | .error cause => .trap s cause 0 a
    | .ok p => if seqHeld s c p then .stay s else amoAt c f.d a (fn c) (seqTouch c a s) p) s

/-- SA.AMO ADD. -/
def execSaAmoAdd (f : SR) (s : State) : Out := seqAmo (.saAmoAdd f) f [f.a, f.b] (fun c o => o + (c.reg f.b).v) s
/-- SA.AMO MIN. -/
def execSaAmoMin (f : SR) (s : State) : Out :=
  seqAmo (.saAmoMin f) f [f.a, f.b] (fun c o => if o.slt (c.reg f.b).v then o else (c.reg f.b).v) s
/-- SA.AMO MAX. -/
def execSaAmoMax (f : SR) (s : State) : Out :=
  seqAmo (.saAmoMax f) f [f.a, f.b] (fun c o => if o.slt (c.reg f.b).v then (c.reg f.b).v else o) s
/-- SA.AMO AND. -/
def execSaAmoAnd (f : SR) (s : State) : Out := seqAmo (.saAmoAnd f) f [f.a, f.b] (fun c o => o &&& (c.reg f.b).v) s
/-- SA.AMO OR. -/
def execSaAmoOr (f : SR) (s : State) : Out := seqAmo (.saAmoOr f) f [f.a, f.b] (fun c o => o ||| (c.reg f.b).v) s
/-- SA.AMO XCHG. -/
def execSaAmoXchg (f : SR) (s : State) : Out := seqAmo (.saAmoXchg f) f [f.a, f.b] (fun c _ => (c.reg f.b).v) s
/-- SA.AMO CAS: d supplies the expected value and is an operand. -/
def execSaAmoCas (f : SR) (s : State) : Out :=
  seqAmo (.saAmoCas f) f [f.a, f.b, f.d] (fun c o => if o = (c.reg f.d).v then (c.reg f.b).v else o) s

/-! ## Launch (R25, R104, R194) -/

/-- Launch the root blocks that wait for room, in order, while there is room (R104). -/
def launchWaiting (vf die : Nat) : List (BitVec 1024) → State → State
  | [], s => s.updVf vf fun v => { v with root := v.root.map fun r => { r with waiting := [] } }
  | w :: ws, s =>
    if 4096 ≤ (s.die die).recs.length then
      s.updVf vf fun v => { v with root := v.root.map fun r => { r with waiting := w :: ws } }
    else launchWaiting vf die ws (launch vf die w s).1

/-- Root blocks that wait are launched ahead of what the root program launches (R104). -/
def rootFirst (c : SeqCtx) (s : State) : State :=
  match c.bind with
  | .root v => (match (s.vf v).root with
    | some r => if r.ctx = c.id then launchWaiting v c.id.die r.waiting s else s
    | none => s)
  | _ => s

/-- Local memory as a context reads it: the trap-queue registers of a context stand over their bytes (R337). -/
def queueOver (c : SeqCtx) (k : Nat) (s : State) : Memory :=
  s.lmem.store (localAddr c.id (0x10000 * k + 0xF800))
    ((upTo 3).map fun j => bytesLE 8 (queueReg s { c.id with ctx := k } (8 * j))).flatten false

/-- SS.LNCH: reads the record whole and writes the launch's status; a poisoned word traps. -/
def execSsLnch (f : SR) (s : State) : Out :=
  runSeq (.ssLnch f) (.sr f.q [f.a]) (fun c s =>
    let a := (c.reg f.a).v
    match seqPlace s c a 128 .read with
    | .error cause => .trap s cause 0 a
    | .ok p =>
      let pm : Nat × Memory := match p with
        | .local off => (localAddr c.id off, s.lmem)
        | .queue k reg => (localAddr c.id (0x10000 * k + 0xF800 + reg), queueOver c k s)
        | .mem pa => (pa, seqView s c)
      if seqHeld s c p then .stay s
      else match poisonAt pm.2 pm.1 128 with
      | some k => .trap s 0x06 0 (poisonInfo (a.toNat + k))
      | none =>
        let r := launch (seqVf s c) c.id.die (BitVec.ofNat 1024 (pm.2.readN pm.1 128)) (rootFirst c (seqTouch c a s))
        .done (r.1.updCtx c.id fun x => x.setReg f.d ⟨BitVec.ofNat 64 r.2, false⟩)) s

end Sys2Proof.Machine
end

