-- ==== Sys2Proof/Machine/Ports.lean ====
section
/-! DEFINITION. Input queues and output ports (R14, R15, R17, R19, R20, R123, R125, R218, R348, R357, R364): where a route
leads, how many slots its queue has free, how a token joins a queue, and the graph of a kernel's cell routes with its cycles (R102). -/

namespace Sys2Proof.Machine

/-! ## Cells and their tasks -/

/-- What an instruction or event of a cell acts on: the task, its stand, weave and node. -/
structure Cell where
  key : TKey
  st : Stand
  w : Weave
  tk : Task
  n : NodeDesc
  deriving DecidableEq, Repr

/-- The cell state of a task. -/
def State.cell? (s : State) (k : TKey) : Option Cell :=
  match s.stand? k.stand with
  | none => none
  | some t =>
    match (t.weave k.pos).task? k.nid, t.kern.node? k.pos k.nid with
    | some tk, some n => some ⟨k, t, t.weave k.pos, tk, n⟩
    | _, _ => none

/-- The task of a key. -/
def State.task? (s : State) (k : TKey) : Option Task := (s.stand? k.stand).bind fun t => (t.weave k.pos).task? k.nid

/-- Lanes of the weave. -/
def Cell.lanes (c : Cell) : Nat := lanesOf c.st.g

/-- Change a weave of a stand. -/
def State.updWeave (s : State) (w : WKey) (f : Weave → Weave) : State :=
  s.updStand w.stand fun t => t.setWeave (f (t.weave w.pos))

/-- Change a task. -/
def State.updTask (s : State) (k : TKey) (f : Task → Task) : State :=
  s.updWeave k.weave fun w => match w.task? k.nid with
    | some t => w.setTask (f t)
    | none => w

/-- Input queue i of a task. -/
def Task.inq (k : Task) (i : Nat) : PortQ := nth PortQ.empty k.ports i

/-- Change input queue i of a task. -/
def Task.updIn (k : Task) (i : Nat) (f : PortQ → PortQ) : Task :=
  { k with ports := setNth PortQ.empty k.ports i (f (k.inq i)) }

/-- Replace counter i of a task's list of four. -/
def setCount (l : List Nat) (i v : Nat) : List Nat := setNth 0 l i v

/-! ## Where a route leads (R87, R88, R123) -/

/-- Length in sites of a track class (R121). -/
def trackLen (cls : Nat) : Nat := match cls with | 0 => 1 | 1 => 4 | _ => 16

/-- The input port on a channel of a node whose own slot stands at a place (R85, R123): node and port index. -/
def Stand.portAt (t : Stand) (p : WPos) (vc : Nat) : Option (NodeDesc × Nat) :=
  match t.kern.images.find? fun im => im.dcol == p.dcol && im.drow == p.drow with
  | none => none
  | some im => im.nodes.findSome? fun n =>
    if copyPos t.kern p.dcol p.drow n 0 = p then
      ((upTo 4).find? fun i => (n.port i).en && (n.port i).vc == vc).map fun i => (n, i)
    else none

/-- The destination a route names from where its stand stands. -/
def Stand.dst? (t : Stand) (route : Nat) : Option PktDst := (t.kern.routes[route]?).bind t.dstOf

/-- The resident stand whose box holds a compartment of a die. -/
def State.ownerAt (s : State) (die col row : Nat) : Option Stand :=
  s.stands.find? fun t => t.status == .resident && t.die == die && t.col ≤ col && col < t.col + t.kern.w
    && t.row ≤ row && row < t.row + t.kern.h

/-- An input queue: of a node, by its own slot and port index, or of an engine's stream port. -/
inductive QueueAt where
  | node (st : Nat) (p : WPos) (nid port : Nat)
  | eng (e : EKey)
  deriving DecidableEq, Repr

/-- The queue a destination names, none where no port is there. -/
def State.queueAt (s : State) : PktDst → Option QueueAt
  | .eng e => ((s.stand? e.stand).bind fun t => t.eng? e.eng).map fun _ => .eng e
  | .cell die cc cr col slot vc =>
    match s.ownerAt die cc cr with
    | none => none
    | some t =>
      let p : WPos := ⟨cc - t.col, cr - t.row, col, slot⟩
      (t.portAt p vc).map fun x => .node t.id p x.1.nid x.2

/-- The copies of a node: their tasks' keys, copy 0 first (R85). -/
def copies (st : Nat) (t : Stand) (p : WPos) (n : NodeDesc) : List TKey :=
  (upTo (n.rep + 1)).map fun c => ⟨st, copyPos t.kern p.dcol p.drow n c, n.nid⟩

/-- Copy 0 of the task's node. -/
def Cell.home (c : Cell) : TKey := ⟨c.key.stand, copyPos c.st.kern c.key.pos.dcol c.key.pos.drow c.n 0, c.key.nid⟩

/-- The copies of the task's node. -/
def Cell.copies (c : Cell) : List TKey := Machine.copies c.key.stand c.st c.home.pos c.n

/-- The copy whose turn it is in a rotation that starts at copy 0: the first of those with the least count (R19). -/
def turnOf (s : State) (count : Task → Nat) : List TKey → Option TKey
  | [] => none
  | k :: ks =>
    match turnOf s count ks with
    | none => some k
    | some j => if ((s.task? k).map count).getD 0 ≤ ((s.task? j).map count).getD 0 then some k else some j

/-- Tokens that wait in a queue. -/
def PortQ.size (q : PortQ) : Nat := q.q.length + q.behind.length + q.early.length

/-- Slots that a token takes in the queue that it reaches (R125): a BLAZE takes none, and needs no credit.
[DESIGN CHOICE, log 193] -/
def Tok.slots (t : Tok) : Nat := if t.kind = 7 then 0 else 1

/-- A route set holds an identifier: first identifier in [11:0], count in [24:12] (R383). -/
def routeSetHas (set : W64) (rid : Nat) : Bool :=
  bitsAt set.toNat 0 12 ≤ rid && rid < bitsAt set.toNat 0 12 + bitsAt set.toNat 12 13

/-- The guard of a compartment passes an identifier (R132): that of the route set of the compartment's owner. -/
def State.admits (s : State) (die col row rid : Nat) : Bool :=
  match s.ownerAt die col row with
  | some t => routeSetHas ((s.vf t.vf).cfg.rset.get die) rid
  | none => false

/-- A token from a stand is let through to a destination: within its own box it meets no guard. -/
def State.lets (s : State) (st : Nat) (d : PktDst) (rid : Nat) : Bool :=
  match d with
  | .eng _ => true
  | .cell die cc cr _ _ _ => (s.stand? st).any (fun t => t.dstInside d) || s.admits die cc cr rid

/-- Tokens on their way to a destination; those that a guard will drop reserve nothing there (R125).
[DEDUCED, log 103] -/
def State.inFlight (s : State) (d : PktDst) : Nat :=
  sumNat (s.fab.flights.map fun f => match s.stand? f.stand with
    | some t => if t.dst? f.route = some d ∧ s.lets f.stand d f.tok.rid then f.tok.slots else 0
    | none => 0)
  + sumNat (s.fab.packets.map fun p => if p.dst = d ∧ s.lets p.sender.stand d p.tok.rid then p.tok.slots else 0)

/-- Slots that a task holds for an output port: those its firing still reserves, and one for each token of its firings that
the gather has not taken (R14, R19). -/
def Task.owed (k : Task) (o : Nat) : Nat :=
  nth 0 k.resv o + sumNat (k.outq.map fun e => (e.toks.filter fun p => p.1 == o).length)

/-- Output slots that tasks hold at a destination (R14); those that a guard will drop hold none there. [DEDUCED, log 103] -/
def State.reservedAt (s : State) (d : PktDst) : Nat :=
  sumNat (s.stands.map fun t => sumNat (t.weaves.map fun w => sumNat (w.tasks.map fun k =>
    match t.kern.node? w.pos k.nid with
    | some n => sumNat ((upTo 4).map fun o =>
        let r := (n.port (4 + o)).route
        if (n.port (4 + o)).en && t.dst? r == some d && s.lets t.id d (t.rid r) then k.owed o else 0)
    | none => 0)))

/-- Slots and tokens of a queue. An engine that has emitted its BLAZE and waits for that of its port takes tokens off its
port without acting on them, so that no task waits for it. [DEDUCED, log 64] -/
def State.queueRoom (s : State) : QueueAt → Nat × Nat
  | .eng e =>
    (match (s.stand? e.stand).bind fun t => t.eng? e.eng with
    | some g => (if g.blazed then 2 ^ 16 else Config.streamDepth, g.port.size)
    | none => (0, 0))
  | .node st p nid port =>
    match s.stand? st with
    | none => (0, 0)
    | some t =>
      match t.kern.node? p nid with
      | none => (0, 0)
      | some n =>
        ((n.port port).depth * (n.rep + 1),
          sumNat ((copies st t p n).map fun k => match (t.weave k.pos).task? nid with
            | some tk => (tk.inq port).size
            | none => 0))

/-- Free slots at a destination (R14, R125); where there is no port the token is dropped, and takes none. -/
def State.freeSlots (s : State) (d : PktDst) : Nat :=
  match s.queueAt d with
  | none => 2 ^ 16
  | some q => (s.queueRoom q).1 - ((s.queueRoom q).2 + s.inFlight d + s.reservedAt d)

/-- The stand that a destination belongs to. -/
def State.standAt (s : State) : PktDst → Option Stand
  | .eng e => s.stand? e.stand
  | .cell die col row _ _ _ => s.ownerAt die col row

/-- A wave that moves the stand of a destination is under way: what others send it waits where it is sent (R130). -/
def State.moving (s : State) (st : Nat) (d : PktDst) : Bool :=
  (s.standAt d).any fun u => u.id != st && u.wave.any fun w => w.flags.move

/-- Free slots behind a route of a stand (R125, R132); a guard that drops a token takes it at once. -/
def State.routeSlots (s : State) (t : Stand) (route : Nat) : Nat :=
  match t.dst? route with
  | some d => if s.lets t.id d (t.rid route) then (if s.moving t.id d then 0 else s.freeSlots d) else 2 ^ 16
  | none => 2 ^ 16

/-- Slots task output o may still fill: those its firing reserved, and those free beyond (R17). -/
def State.outSlots (s : State) (c : Cell) (o : Nat) : Nat := nth 0 c.tk.resv o + s.routeSlots c.st (c.n.port (4 + o)).route

/-- The head and tail indices of the queue an output port sends to (R18, R364). [DESIGN CHOICE, log 35] -/
def State.outIndices (s : State) (c : Cell) (o : Nat) : W32 × W32 :=
  match (c.st.dst? (c.n.port (4 + o)).route).bind s.queueAt with
  | some (.eng e) =>
    (match (s.stand? e.stand).bind fun t => t.eng? e.eng with
    | some g => (g.port.head, g.port.tail)
    | none => (0, 0))
  | some (.node st p nid i) =>
    (match (s.stand? st).bind fun t => (t.weave p).task? nid with
    | some k => ((k.inq i).head, (k.inq i).tail)
    | none => (0, 0))
  | none => (0, 0)

/-! ## Joining a queue (R218, R348, R364) -/

/-- Where a token at a port comes from: a weave or engine of the port's own stand, by a number, or elsewhere. -/
inductive Origin where
  | own (src : Nat)
  | foreign
  deriving DecidableEq, Repr

/-- The number of a weave among the sources of a stand; engine contexts take 0 to 15. -/
def weaveSrc (p : WPos) : Nat := 16 + ((p.dcol * 8 + p.drow) * 8 + p.col) * 16 + p.slot

/-- Every waited route has brought its BLAZE (R348, R386); a port that no wave concerns holds none. -/
def PortQ.blazed (q : PortQ) : Bool :=
  match q.blzNeed with
  | none => false
  | some need => need.all fun r => need.count r ≤ (q.blzGot.map (· % 4096)).count r

/-- The mark a producer's BLAZE leaves: its route identifier and source. -/
def blazeMark (rid src : Nat) : Nat := rid % 4096 + 4096 * src

/-- A token stands behind the port's BLAZE (R348): its producer's BLAZE has come, or, for a token from elsewhere or a
reply, all have. -/
def PortQ.standsBehind (q : PortQ) (o : Origin) (t : Tok) : Bool :=
  match q.blzNeed with
  | none => false
  | some _ => q.blazed || (match o with
    | .own src => !t.reply && q.blzGot.contains (blazeMark t.rid src)
    | .foreign => false)

/-- A token joins a queue. -/
def PortQ.push (q : PortQ) (o : Origin) (t : Tok) : PortQ :=
  if q.standsBehind o t then { q with behind := q.behind ++ [t], tail := q.tail + 1 }
  else { q with q := q.q ++ [t], tail := q.tail + 1 }

/-- A BLAZE arrives at a port. -/
def PortQ.takeBlaze (q : PortQ) (o : Origin) (t : Tok) : PortQ :=
  match o with
  | .own src => { q with blzGot := q.blzGot ++ [blazeMark t.rid src] }
  | .foreign => q

/-- The BLAZE of a port is past: the tokens behind it follow those ahead. -/
def PortQ.openUp (q : PortQ) : PortQ := { q with q := q.q ++ q.behind, behind := [], blzNeed := none, blzGot := [] }

/-- The identifier of a CTXC that a sequencer context places at a port itself (R136); no route has it.
[DESIGN CHOICE, log 86] -/
def injectedRid : Nat := 4096

/-- A token behind the BLAZE of a port is sent again when the stand goes back to the image: it is no reply, and comes on a
route that the wave waits for. [DEDUCED, log 65] -/
def PortQ.resent (q : PortQ) (t : Tok) : Bool := !t.reply && t.rid != injectedRid && (q.blzNeed.getD []).contains t.rid

/-- A port as an image holds it (R349, R386): the tokens ahead of the BLAZE and, of those behind, the ones that no
producer of the stand sends again: replies and tokens of routes that the wave does not wait for, but for a CTXC that the
context placed there after the injection. [DEDUCED, log 65] -/
def PortQ.image (q : PortQ) : PortQ :=
  { q with
    q := q.q ++ q.behind.filter fun t => t.rid != injectedRid && !(q.resent t)
    behind := [], blzNeed := none, blzGot := [] }

/-- A token that reaches a port after its agent's snapshot belongs in the image: it comes from elsewhere or is a reply, or
the port closes a cycle and still awaits its BLAZE (R102, R348, R386). -/
def PortQ.lateToken (q : PortQ) (o : Origin) (t : Tok) : Bool := t.reply || o == .foreign || q.blzNeed.isSome

/-- Add a token to the queue of port i of a task. -/
def Weave.addToken (w : Weave) (nid i : Nat) (t : Tok) : Weave :=
  match w.task? nid with
  | some k => w.setTask { k.updIn i fun q => { q with q := q.q ++ [t] } with dealt := setCount k.dealt i (nth 0 k.dealt i + 1) }
  | none => w

/-- Put a late token into the image under way. [DEDUCED, log 71] -/
def noteLate (k : TKey) (port : Nat) (o : Origin) (tok : Tok) (s : State) : State :=
  s.updStand k.stand fun t =>
    match t.wave, (t.weave k.pos).task? k.nid with
    | some w, some tk =>
      if (t.weave k.pos).snapped && !w.committed && (tk.inq port).lateToken o tok then
        { t with wave := some { w with snaps := w.snaps.map fun x => if x.pos = k.pos then x.addToken k.nid port tok else x } }
      else t
    | _, _ => t

/-- What the producer checks of R218 say of a token: it joins, it is absorbed, or it is dropped with a cause. -/
inductive PortCheck where
  | join (q : PortQ)
  | absorbed (q : PortQ)
  | dropped (cause : Nat)
  deriving DecidableEq, Repr

/-- Merge bookkeeping of a port with np + 1 producers (R218); replies are no producers (R364). [DEDUCED, log 25] -/
def PortQ.check (q : PortQ) (np : Nat) (t : Tok) : PortCheck :=
  if t.reply then .join q
  else if !(q.seen.contains t.rid) && np + 1 ≤ q.seen.length then .dropped 0x0B
  else
    let q1 := { q with seen := if q.seen.contains t.rid then q.seen else q.seen ++ [t.rid] }
    if q.ended.contains t.rid then .dropped 0x0D
    else if t.kind = 5 then
      (if q.ended.length = np then .join { q1 with seen := [], ended := [] }
      else .absorbed { q1 with ended := q1.ended ++ [t.rid] })
    else .join q1

/-- Change copy c's queue of a port. -/
def updCopy (k : TKey) (port : Nat) (f : PortQ → PortQ) (s : State) : State := s.updTask k fun t => t.updIn port f

/-- Whole firings' worth of tokens that a copy has been dealt at a port (R19). [DEDUCED, log 23] -/
def Task.rounds (n : NodeDesc) (port : Nat) (k : Task) : Nat := nth 0 k.dealt port / max 1 (n.port port).rate

/-- A token joins the input of a node (R19, R20, R218): BLAZE and CTXC reach every copy, any other token the copy whose
turn it is; a reserved kind traps with RESIDUE. -/
def nodeInput (st : Nat) (p : WPos) (nid port : Nat) (o : Origin) (tok : Tok) (s : State) : State :=
  match s.stand? st with
  | none => s
  | some t =>
    match t.kern.node? p nid, (t.weave p).task? nid with
    | some n, some k0 =>
      let all := copies st t p n
      let k : TKey := ⟨st, p, nid⟩
      let trap (cause : Nat) (op1 op2 : W32) : State := cellTrap k cause 0 k0.pc op1 op2 0 0 s
      if tok.kind.toNat = 7 then all.foldl (fun acc x => updCopy x port (fun q =>
        let q1 := q.takeBlaze o tok
        if (t.weave x.pos).snapped && q1.blazed then q1.openUp else q1) acc) s
      else if 0xA ≤ tok.kind.toNat then trap 0x0A 0 2
      else
        match (k0.inq port).check (n.port port).np tok with
        | .dropped cause => trap cause (BitVec.ofNat 32 tok.rid) (tok.kind.setWidth 32)
        | .absorbed q => s.updTask k fun x => x.updIn port fun _ => q
        | .join q =>
          let s1 := s.updTask k fun x => x.updIn port fun _ => q
          if tok.kind.toNat = 8 then all.foldl (fun acc x => updCopy x port (fun q => q.push o tok) acc) s1
          else
            let who := (turnOf s1 (Task.rounds n port) all).getD k
            updCopy who port (fun q => q.push o tok) (noteLate who port o tok
              (s1.updTask who fun x => { x with dealt := setCount x.dealt port (nth 0 x.dealt port + 1) }))
    | _, _ => s

/-- Put a token that reaches an engine's port after the engine passed the wave into the image under way. -/
def noteLateEng (e : EKey) (o : Origin) (tok : Tok) (t : Stand) : Stand :=
  match t.wave with
  | some w =>
    if w.committed || !(tok.reply || o == .foreign) then t
    else { t with wave := some { w with engSnaps := w.engSnaps.map fun g =>
      if g.no = e.eng then { g with port := { g.port with q := g.port.q ++ [tok] } } else g } }
  | none => t

/-- A reserved kind reaches an engine's stream port (R20, R357): the token goes, and the context's error bit and a record of
the engine say so. [DESIGN CHOICE, log 165] -/
def engResidue (e : EKey) (s : State) : State :=
  let last := ((s.stand? e.stand).map (·.lastWave)).getD 0
  trapStand e.stand ⟨0x0A, 0, 2, ⟨0, 0, e.eng, 0⟩, 0, BitVec.ofNat 32 last, 0, 0, 2, 0, 0⟩ false
    (s.updStand e.stand fun t => t.updEng e.eng fun g => { g with err := true })

/-- A token joins the queue of an engine's stream port (R305). -/
def engInput (e : EKey) (o : Origin) (tok : Tok) (s : State) : State :=
  if 0xA ≤ tok.kind.toNat then engResidue e s
  else s.updStand e.stand fun t =>
    (if tok.kind.toNat = 7 then t else noteLateEng e o tok t).updEng e.eng fun g =>
      { g with port := if tok.kind.toNat = 7 then g.port.takeBlaze o tok else g.port.push o tok }

/-- A token joins a queue. [DEDUCED, log 25] -/
def State.enqueue (s : State) (q : QueueAt) (o : Origin) (tok : Tok) : State :=
  match q with
  | .eng e => engInput e o tok s
  | .node st p nid port => nodeInput st p nid port o tok s

/-- A token arrives at a cell column's input bus (R123): where no weave or port takes it, it is dropped, and the stand
whose route table holds its identifier receives a record with cause ROUTE_MISMATCH, which holds it as a switch's does. -/
def State.arriveCell (s : State) (d : PktDst) (vf : Nat) (o : Origin) (tok : Tok) : State :=
  match s.queueAt d with
  | some q => s.enqueue q o tok
  | none =>
    match d with
    | .eng _ => s
    | .cell die cc cr col slot vc =>
      match s.stands.find? fun t => t.vf == vf && t.die == die && (t.kern.rids.get die).contains tok.rid with
      | none => s
      | some t =>
        let own := s.ownerAt die cc cr
        let base := (own.map fun x => (x.col, x.row)).getD (t.col, t.row)
        trapStand t.id ⟨0x0B, 0, 4, ⟨cc - base.1, cr - base.2, col, slot⟩, 0, BitVec.ofNat 32 t.lastWave, 0,
          BitVec.ofNat 32 tok.rid, tok.kind.setWidth 32, BitVec.ofNat 32 vc, 0⟩ false s

/-! ## Output ports (R14, R19, R123, R204) -/

/-- Add a token to the newest firing that waits for the gather. -/
def addLast (p : Nat × Tok) : List OutEnt → List OutEnt
  | [] => [⟨[p], false⟩]
  | [e] => [{ e with toks := e.toks ++ [p] }]
  | e :: es => e :: addLast p es

/-- End the newest firing that waits for the gather. -/
def endLast : List OutEnt → List OutEnt
  | [] => []
  | [e] => [{ e with ended := true }]
  | e :: es => e :: endLast es

/-- Tokens that a copy of a node sends on their output ports. -/
def portSend (n : NodeDesc) (k : TKey) (toks : List (Nat × Tok)) (s : State) : State :=
  toks.foldl (fun acc p => weaveSend k.weave (n.port (4 + p.1)).vc (n.port (4 + p.1)).route p.2 acc) s

/-- Every copy of a node has snapshotted for the wave under way. -/
def Stand.allSnapped (t : Stand) (all : List TKey) : Bool := all.all fun j => (t.weave j.pos).snapped

/-- What a copy writes after its snapshot waits at the gather until the BLAZE of all copies has gone (R19). -/
def gatherHeld (s : State) (all : List TKey) (k : TKey) : Bool :=
  (s.stand? k.stand).any fun t => t.wave.any (fun x => !x.committed) && (t.weave k.pos).snapped && !(t.allSnapped all)

/-- The gather of a replicated node (R19), which sends from the weave of copy 0, the first of the list: the copy whose firing
comes next in the rotation gives what that has written, and once it has ended the next copy's follows. [DEDUCED, log 23] -/
def gather (n : NodeDesc) (all : List TKey) : Nat → State → State
  | 0, s => s
  | fuel + 1, s =>
    match turnOf s Task.turn all with
    | none => s
    | some k =>
      if gatherHeld s all k then s
      else match (s.task? k).map Task.outq with
      | some (e :: rest) =>
        if e.ended then
          gather n all fuel (portSend n (all.headD k) e.toks (s.updTask k fun x => { x with outq := rest, turn := x.turn + 1 }))
        else portSend n (all.headD k) e.toks (s.updTask k fun x => { x with outq := { e with toks := [] } :: rest })
      | _ => s

/-- Turns of the gather that the copies' firings still need. -/
def gatherFuel (s : State) (all : List TKey) : Nat :=
  sumNat (all.map fun k => ((s.task? k).map fun x => x.outq.length).getD 0) + 1

/-- Gather what the copies of a task's node have written. -/
def Cell.gather (c : Cell) (s : State) : State :=
  Machine.gather c.n c.copies (gatherFuel s c.copies) s

/-- A task sends a token on output port o (R204): it takes a slot the firing reserved, if one is left. That of a copy of a
replicated node goes by the gather (R19). -/
def sendOut (k : TKey) (o : Nat) (tok : Tok) (s : State) : State :=
  match s.cell? k with
  | none => s
  | some c =>
    let s1 := s.updTask k fun x => { x with
      resv := setCount x.resv o (nth 0 x.resv o - 1), outIdx := setCount x.outIdx o (nth 0 x.outIdx o + 1) }
    if c.n.rep = 0 then portSend c.n k [(o, tok)] s1
    else c.gather (s1.updTask k fun x => { x with outq := addLast (o, tok) x.outq })

/-- Send tokens in order. -/
def sendAll (k : TKey) (o : Nat) (toks : List Tok) (s : State) : State := toks.foldl (fun acc t => sendOut k o t acc) s

/-- A SKIP token of a count (R220). -/
def skipTok (n : Nat) : Tok := ctlTok 6 (BitVec.ofNat 32 n)

/-- The SKIP tokens that flush a count of at most 510 (R221). -/
def skipToks (n : Nat) : List Tok :=
  if n = 0 then [] else if 255 < n then [skipTok 255, skipTok (n - 255)] else [skipTok n]

/-- Flush the pending skip counts of every output port (R220). -/
def flushSkips (k : TKey) (s : State) : State :=
  match s.cell? k with
  | none => s
  | some c =>
    let s1 := (upTo 4).foldl (fun acc o => sendAll k o (skipToks (nth 0 c.tk.skips o)) acc) s
    s1.updTask k fun x => { x with skips := [0, 0, 0, 0] }

/-! ## Firebreak drops and reports (R132, R133) -/

/-- The VF that holds a route identifier on a die. -/
def holderOf (s : State) (die rid : Nat) : Option Nat :=
  (s.vfs.find? fun v => routeSetHas (v.cfg.rset.get die) rid).map (·.id)

/-- A guard: die, receiving compartment, box, side, and whether it stands at the ride port. -/
structure Guard where
  die : Nat
  ccol : Nat
  crow : Nat
  box : Nat
  side : Nat
  ridePort : Bool
  deriving DecidableEq, Repr

/-- The hdr field of a token (R133, R365). -/
def tokHdr (t : Tok) : W64 :=
  BitVec.ofNat 16 (sumNat (t.fit.lanes.zipIdx.map fun p => if p.1.poison then 2 ^ p.2 else 0))
    ++ t.kind ++ BitVec.ofNat 12 t.rid ++ (nth (⟨0, false⟩ : Lane) t.lanes 0).v

/-- A number in a 7-bit field where 0x7F is none. -/
def opt7 (n : Option Nat) : BitVec 7 := match n with | some x => BitVec.ofNat 7 x | none => 0x7F

/-- The report's 256 bits (R133). -/
def reportWord (s : State) (r : FbReport) : BitVec 256 :=
  r.hdr ++ BitVec.ofNat 16 r.count ++ BitVec.ofNat 12 r.rid ++ opt7 (holderOf s r.die r.rid) ++ opt7 r.ovf
    ++ BitVec.ofNat 2 r.die ++ BitVec.ofNat 4 r.ccol ++ BitVec.ofNat 3 r.crow ++ BitVec.ofNat 7 r.box ++ BitVec.ofNat 2 r.side
    ++ (if r.ridePort then (1 : BitVec 1) else 0) ++ (0 : BitVec 123) ++ (0x09 : BitVec 8)

/-- Send a report (R133, R382): a record to the root program of the VF that holds the identifier with a host event of type
4 on that VF, and one on the physical function. [DEDUCED, log 102] -/
def sendReport (r : FbReport) (s : State) : State :=
  let data : W64 := BitVec.ofNat 64 (r.count * 2 ^ 16 + r.rid)
  let s0 : State := { s with fab := { s.fab with reports := s.fab.reports.filter fun x => x.id != r.id } }
  match holderOf s r.die r.rid with
  | none => hostEvent .pf 4 0x09 0 r.die data s0
  | some v =>
    let s1 := match (s0.vf v).root with
      | some p => appendRecord p.ctx (reportWord s r) 0x09 0 true s0
      | none => s0
    hostEvent .pf 4 0x09 v r.die data (hostEvent (.vf v) 4 0x09 v r.die data s1)

/-- A report is the open one of a guard for an identifier. -/
def FbReport.isOf (r : FbReport) (g : Guard) (rid : Nat) : Bool :=
  r.rid == rid && r.die == g.die && r.ccol == g.ccol && r.crow == g.crow && r.box == g.box && r.side == g.side && r.ridePort == g.ridePort

/-- Count a drop of an identifier in FBDROP of the VF that holds it. -/
def countDrop (die rid : Nat) (s : State) : State :=
  match holderOf s die rid with
  | some v => s.updVf v fun x => { x with cfg := { x.cfg with fbdrop := (satInc32 (x.cfg.fbdrop.setWidth 32)).setWidth 64 } }
  | none => s

/-- A guard drops a token: it is counted, and the guard's report is opened or counts it; a full count sends it.
[DEDUCED, log 100] -/
def guardDrop (g : Guard) (rid : Nat) (hdr : W64) (s : State) : State :=
  let s1 := countDrop g.die rid s
  let now := s.cyc g.die
  match s1.fab.reports.find? fun r => r.isOf g rid with
  | some r =>
    let r1 : FbReport := { r with count := r.count + 1, last := now }
    let s2 : State := { s1 with fab := { s1.fab with reports := s1.fab.reports.map fun x => if x.id = r.id then r1 else x } }
    if r1.count = 0xFFFF then sendReport r1 s2 else s2
  | none =>
    let r : FbReport := ⟨s1.fab.nextId, g.die, g.ccol, g.crow, g.box, g.side, g.ridePort, rid, hdr, 1, now,
      (s.ownerAt g.die g.ccol g.crow).map (·.vf)⟩
    { s1 with fab := { s1.fab with nextId := s1.fab.nextId + 1, reports := s1.fab.reports ++ [r] } }

/-! ## The graph of a kernel (R102) -/

/-- A node of a kernel by its compartment offset and id. -/
structure NodeRef where
  dcol : Nat
  drow : Nat
  nid : Nat
  deriving DecidableEq, Repr

/-- The node and input port that a route entry names inside a kernel's box (R87, R123). -/
def Kernel.target? (k : Kernel) : RouteEnt → Option (NodeRef × Nat)
  | .eng _ => none
  | .cell dc dr col slot vc =>
    if dc < 0 ∨ dr < 0 then none
    else k.allNodes.findSome? fun x =>
      if x.1 == dc.toNat && x.2.1 == dr.toNat && copyPos k x.1 x.2.1 x.2.2 0 == ⟨x.1, x.2.1, col, slot⟩ then
        ((upTo 4).find? fun i => (x.2.2.port i).en && (x.2.2.port i).vc == vc).map fun i => (⟨x.1, x.2.1, x.2.2.nid⟩, i)
      else none

/-- Edges from a node: the node's enabled outputs with what they lead to. [DESIGN CHOICE, log 148] -/
def Kernel.edges (k : Kernel) (r : NodeRef) : List (NodeRef × Nat) :=
  match k.node? ⟨r.dcol, r.drow, 0, 0⟩ r.nid with
  | none => []
  | some n => (upTo 4).filterMap fun o =>
      if (n.port (4 + o)).en then (k.routes[(n.port (4 + o)).route]?).bind k.target? else none

/-- Nodes reached from a list in at most n edges. [DESIGN CHOICE, log 148] -/
def Kernel.reach (k : Kernel) : Nat → List NodeRef → List NodeRef
  | 0, seen => seen
  | n + 1, seen =>
    k.reach n (((seen.map k.edges).flatten.map (·.1)).foldl (fun acc r => if acc.contains r then acc else acc ++ [r]) seen)

/-- An input port of a node lies on a directed cycle of the rate graph. -/
def Kernel.onCycle (k : Kernel) (r : NodeRef) (port : Nat) : Bool :=
  (k.reach k.allNodes.length [r]).any fun x => (k.edges x).contains (r, port)

/-- A node's text holds a CP.MRGE that reads an input port (R102, R222). -/
def NodeDesc.merges (n : NodeDesc) (port : Nat) : Bool :=
  n.text.any fun w => bitsAt w.toNat 56 8 == 0x75 && (cgFields w).aux.getLsbD port

/-- A cycle closes through an input port of a node (R102, R348). -/
def Kernel.closesAt (k : Kernel) (dcol drow : Nat) (n : NodeDesc) (port : Nat) : Bool :=
  n.merges port && k.onCycle ⟨dcol, drow, n.nid⟩ port

end Sys2Proof.Machine
end

