-- ==== Sys2Proof/Machine/CellFrame.lean ====
section
/-! DEFINITION. How a cell instruction runs (R153 to R156, R162, R201 to R205, R240, R294, R316): operand forms, the
checks every instruction makes before its own effect, its waits, and what follows the effect. -/

namespace Sys2Proof.Machine

/-! ## Registers of a weave (R201) -/

/-- The lanes of an operand. -/
abbrev Vec := Nat → Lane

/-- A clean zero lane. -/
def Lane.zero : Lane := ⟨0, false⟩

/-- Lane l of register x`r`. -/
def Weave.lane (w : Weave) (r l : Nat) : Lane := nth Lane.zero (nth [] w.xs r) l

/-- Write lane l of register x`r`. -/
def Weave.setLane (w : Weave) (r l : Nat) (x : Lane) : Weave :=
  { w with xs := setNth [] w.xs r (setNth Lane.zero (nth [] w.xs r) l x) }

/-- Bit l of predicate p`n`; p0 is all true (R155). -/
def Weave.pbit (w : Weave) (n l : Nat) : Bool := n == 0 || nth false (nth [] w.ps n) l

/-- Write bit l of predicate p`n`; writes to p0 are ignored (R155). -/
def Weave.setPbit (w : Weave) (n l : Nat) (b : Bool) : Weave :=
  if n = 0 then w else { w with ps := setNth [] w.ps n (setNth false (nth [] w.ps n) l b) }

/-- Lane l is active under the guard of a CG word (R155). -/
def Cell.active (c : Cell) (f : CG) (l : Nat) : Bool :=
  guardLane f.gm.toNat (c.w.pbit f.gp.toNat l) (c.w.pbit f.gq.toNat l)

/-- Lane l is active under the guard of a CM word (R155). -/
def Cell.activeM (c : Cell) (f : CM) (l : Nat) : Bool := c.w.pbit f.gp.toNat l

/-- The lanes of a weave for which a test holds, in rising order. -/
def Cell.lanesWith (c : Cell) (p : Nat → Bool) : List Nat := (upTo c.lanes).filter p

/-- `LID` (R30, R138, R244, R249): logical index of the weave's lane 0, by columns eastward and rows downward; how several
rows of compartments come in is left open. [DEDUCED, log 22] -/
def Cell.lid (c : Cell) : W32 :=
  let p := c.w.pos
  let k := c.st.kern
  let col := 7 * p.dcol + p.col
  let n := if k.h = 1 then col else if Config.rowsOuter then 7 * k.w * p.drow + col else k.h * col + p.drow
  BitVec.ofNat 32 (16 * (16 * n + p.slot * c.st.g))

/-- Rounding mode of the task's FRM (R43). -/
def Cell.rm (c : Cell) : RM := RM.ofCode (c.tk.frm.toNat % 4)

/-- Flush bit of the task's FRM (R43). -/
def Cell.ftz (c : Cell) : Bool := c.tk.frm.getLsbD 2

/-! ## Operands (R154, R203) -/

/-- A field's code where its role is an ordinary source. -/
def srcOf (r : Role) (x : Code6) : Option Nat := if r = .src then some x.toNat else none

/-- A field's output port where its role is an ordinary destination. -/
def outOf (r : Role) (x : Code6) : List Nat := if r = .dst ∧ 52 ≤ x.toNat then [x.toNat - 52] else []

/-- The source fields of a cell instruction in reading order, each with its code or none (R154): a, b, c, e, then d.
[DEDUCED, log 27] -/
def cellSrcs (i : Instr) : List (Option Nat) :=
  match i.cg with
  | some (op, f) =>
    (match cgSpec op f with
    | some k => [srcOf k.a f.a, srcOf k.b f.b, srcOf k.c f.c, srcOf k.e f.e, srcOf k.d f.d]
    | none => [])
  | none =>
    match i.cm with
    | some (op, f) =>
      (match cmSpec op f with
      | some k => [srcOf k.a f.a, srcOf k.b f.b, none, none, srcOf k.d f.d]
      | none => [])
    | none => []

/-- The output ports that an instruction writes with one data token each (R204), in the order d, c, e. -/
def cellOuts (i : Instr) : List Nat :=
  match i.cg with
  | some (op, f) =>
    (match cgSpec op f with
    | some k => outOf k.d f.d ++ outOf k.c f.c ++ outOf k.e f.e
    | none => [])
  | none =>
    match i.cm with
    | some (op, f) => (match cmSpec op f with | some k => outOf k.d f.d | none => [])
    | none => []

/-- A field that names a port, as its number 0 to 7 among the node's ports. -/
def portOf (r : Role) (x : Code6) : List Nat :=
  match r with
  | .src => if 48 ≤ x.toNat ∧ x.toNat ≤ 51 then [x.toNat - 48] else []
  | .inPort => [x.toNat - 48]
  | .dst => if 52 ≤ x.toNat ∧ x.toNat ≤ 55 then [x.toNat - 48] else []
  | .outPort => [x.toNat - 48]
  | _ => []

/-- Every port an instruction's fields name; CP.FILT and CP.MRGE name those of their arm masks (R220, R222). -/
def cellPorts (i : Instr) : List Nat :=
  match i.cg with
  | some (op, f) =>
    (match cgSpec op f with
    | some k => portOf k.d f.d ++ portOf k.a f.a ++ portOf k.b f.b ++ portOf k.c f.c ++ portOf k.e f.e
        ++ (if op = 0x74 then (upTo 4).filterMap fun j => if f.aux.getLsbD j then some (4 + j) else none else [])
        ++ (if op = 0x75 then (upTo 4).filter fun j => f.aux.getLsbD j else [])
    | none => [])
  | none =>
    match i.cm with
    | some (op, f) => (match cmSpec op f with | some k => portOf k.d f.d ++ portOf k.a f.a ++ portOf k.b f.b | none => [])
    | none => []

/-- The registers a field of a role reads. -/
def regsOf (r : Role) (x : Code6) : List Nat :=
  match r with
  | .src => if x.toNat < 48 then [x.toNat] else []
  | .base => if x.toNat < 48 then [x.toNat, x.toNat + 1] else []
  | _ => []

/-- The registers an instruction reads (R263, R294). -/
def cellReads (i : Instr) : List Nat :=
  match i.cg with
  | some (op, f) =>
    (match cgSpec op f with
    | some k => regsOf k.d f.d ++ regsOf k.a f.a ++ regsOf k.b f.b ++ regsOf k.c f.c ++ regsOf k.e f.e
        ++ (match k.a with | .regs n => upFrom f.a.toNat n | _ => [])
    | none => [])
  | none =>
    match i.cm with
    | some (op, f) => (match cmSpec op f with
      | some k => regsOf k.d f.d ++ regsOf k.a f.a ++ regsOf k.b f.b ++ (if op = 0x6C then upFrom f.d.toNat 2 else [])
      | none => [])
    | none => []

/-- Tiles a CX instruction names (R252). -/
def cellTiles (i : Instr) : List Nat :=
  match i.cg with
  | some (op, f) =>
    (match op with
    | 0x40 => [f.d.toNat]
    | 0x42 => [f.d.toNat]
    | 0x43 => [f.d.toNat]
    | 0x44 => [f.a.toNat]
    | 0x45 => [f.a.toNat]
    | 0x47 => [f.d.toNat, f.d.toNat + 1]
    | 0x49 => [f.d.toNat]
    | _ => [])
  | none => []

/-- Buffers a CX instruction names. -/
def cellBufs (i : Instr) : List Nat :=
  match i.cg with
  | some (op, f) =>
    (match op with
    | 0x41 => [f.d.toNat]
    | 0x42 => [f.aux.toNat % 2]
    | 0x43 => [f.aux.toNat % 2]
    | _ => [])
  | none => []

/-- A token as an operand (R203): lanes 0 to 15 are its payload, the others are zero and clean. -/
def Tok.vec (t : Tok) : Vec := fun l => if l < 16 then nth Lane.zero t.lanes l else Lane.zero

/-- The tokens of a queue that a task may read: those ahead of a CTXC, which the cell itself takes (R15).
[DEDUCED, log 55] -/
def PortQ.avail (q : PortQ) : List Tok := q.q.takeWhile fun t => t.kind != 8

/-- The value of a source code, for its m-th reference to a port (R154). -/
def Cell.val (c : Cell) (x m : Nat) : Vec :=
  if x < 48 then c.w.lane x
  else if x < 52 then (match (c.tk.inq (x - 48)).avail[m]? with | some t => t.vec | none => fun _ => Lane.zero)
  else if x < 56 then fun _ => Lane.zero
  else fun _ => ⟨nth 0 c.n.ks (x - 56), false⟩

/-- The value of the j-th source field (0 a, 1 b, 2 c, 3 e, 4 d). -/
def Cell.opd (c : Cell) (srcs : List (Option Nat)) (j : Nat) : Vec :=
  match nth none srcs j with
  | none => fun _ => Lane.zero
  | some x => c.val x ((srcs.take j).filter fun y => y == some x).length

/-- Port references among the source fields, in order, each with its place among references to its port. -/
def portRefs (srcs : List (Option Nat)) : List (Nat × Nat) :=
  srcs.zipIdx.filterMap fun p =>
    match p.1 with
    | some x => if 48 ≤ x ∧ x < 52 then some (x - 48, ((srcs.take p.2).filter fun y => y == some x).length) else none
    | none => none

/-- Dequeue the head token of an input port. -/
def Task.dequeue (k : Task) (i : Nat) : Task := k.updIn i fun q => { q with q := q.q.drop 1, head := q.head + 1 }

/-- Dequeue one token for each reference. -/
def Task.takeRefs (k : Task) (refs : List (Nat × Nat)) : Task := refs.foldl (fun acc r => acc.dequeue r.1) k

/-- The first reference whose token is missing. -/
def Cell.missing (c : Cell) (refs : List (Nat × Nat)) : Option Nat :=
  (refs.find? fun r => (c.tk.inq r.1).avail.length ≤ r.2).map (·.1)

/-- The first reference whose token is no data token, with the references up to it (R203). -/
def Cell.badToken (c : Cell) (refs : List (Nat × Nat)) : Option (Nat × Tok × List (Nat × Nat)) :=
  refs.zipIdx.findSome? fun p =>
    match (c.tk.inq p.1.1).avail[p.1.2]? with
    | some t => if t.kind = 0 then none else some (p.1.1, t, refs.take (p.2 + 1))
    | none => none

/-- The first output port of a list without a slot (R202). -/
def Cell.fullOut (c : Cell) (s : State) (outs : List Nat) : Option Nat :=
  (outs.zipIdx.find? fun p => s.outSlots c p.1 ≤ ((outs.take p.2).filter fun o => o == p.1).length).map (·.1)

/-- The first lane of a list at which an operand is poisoned. [DESIGN CHOICE, log 42] -/
def poisonedLane (v : Vec) (lanes : List Nat) : Option Nat := lanes.find? fun l => (v l).poison

/-- Undo the dequeuing of operand tokens, for a wait that reads them again (R231). -/
def Cell.undo (c : Cell) (s : State) : State := s.updTask c.key fun _ => c.tk

/-! ## What an effect answers -/

/-- What the effect of a cell instruction answers: it is done; its results are written at completion (R240); it sets the
pc and loops; a trap; a bounded wait (queue id, limit, head and tail indices) that leaves the state or keeps what it has
dequeued, or an ordering wait that leaves the state as
it was (R17), or one that only asks for a forced wave (R328); the fault of an earlier one delivered now (R263, R294); or
the effect has set the task itself. -/
inductive CellAns where
  | done (s : State)
  | later (s : State) (p : Pend)
  | goto (s : State) (pc : Nat) (loops : List LoopEnt)
  | trap (s : State) (cause code : Nat) (op1 op2 op3 op4 : W32)
  | wait (qid limit : Nat) (head tail : W32)
  | waitIn (s : State) (qid limit : Nat) (head tail : W32)
  | hold
  | holdWave
  | deliver (d : Deferred)
  | stay (s : State)

/-- The tensor entry of an instruction of the task: the one that it has read at its issue, if it waits, or the entry as it
stands (R70). -/
def Cell.entry? (c : Cell) (s : State) (tid : Nat) : Option (BitVec 256) :=
  match c.tk.ent with
  | some w => some w
  | none => s.entry? c.st.vf tid

/-- An instruction that has read a tensor's entry waits: the entry stays with the task (R70). [DEDUCED, log 181] -/
def Cell.waitWith (c : Cell) (w : BitVec 256) (s : State) (a : CellAns) : CellAns :=
  if c.tk.ent.isSome then a else .stay ((c.undo s).updTask c.key fun x => { x with wait := none, ent := some w })

/-- The two halves of a cell word, which the record of a refused word carries (R339). -/
def wordHalves (i : Instr) : W32 × W32 :=
  let w := ((encodeCell i).getD 0)
  (w.extractLsb' 0 32, w.extractLsb' 32 32)

/-- An ILLEGAL trap with the word and a third operand (R339). -/
def CellAns.illegal (i : Instr) (s : State) (op3 op4 : W32) : CellAns :=
  .trap s 0x01 0 (wordHalves i).1 (wordHalves i).2 op3 op4

/-- A SYNC_POISON trap naming an operand code and lane (R205, R339). -/
def CellAns.poison (s : State) (code lane : Nat) : CellAns :=
  .trap s 0x06 0 (BitVec.ofNat 32 code) (BitVec.ofNat 32 lane) 0 0

/-! ## Ending a task (R17, R156, R220) -/

/-- A task ends: pending skips are flushed, reserved slots freed, and it may fire again; a copy of a replicated node leaves
its turn at the gather (R19). -/
def endTask (k : TKey) (s : State) : State :=
  let s1 := (flushSkips k s).updTask k fun x => { x with
    fired := false, pc := 0, loops := [], resv := [0, 0, 0, 0], wait := none, branches := 0, lineSince := none
    outq := endLast x.outq }
  match s1.cell? k with
  | none => s1
  | some c => if c.n.rep = 0 then s1 else c.gather s1

/-! ## Results (R204, R206, R240) -/

/-- No result. -/
def Pend.none : Pend := ⟨[], [], [], [], false⟩

/-- Two results together. -/
def Pend.join (a b : Pend) : Pend := ⟨a.regs ++ b.regs, a.preds ++ b.preds, a.recs ++ b.recs, a.toks ++ b.toks, a.endt || b.endt⟩

/-- Write lanes of destination d: the listed lanes of a register, or one data token whose other lanes are zero (R204). -/
def Cell.result (c : Cell) (d : Code6) (act : Nat → Bool) (g : Vec) : Pend :=
  if d.toNat < 48 then { Pend.none with regs := (c.lanesWith act).map fun l => (d.toNat, l, g l) }
  else { Pend.none with
    toks := [(d.toNat - 52, Tok.fit ⟨0, (upTo 16).map fun l => if act l then g l else Lane.zero, false, 0, false⟩)] }

/-- Write bits of predicate d. -/
def Cell.resultP (c : Cell) (n : Nat) (act : Nat → Bool) (g : Nat → Bool) : Pend :=
  { Pend.none with preds := (c.lanesWith act).map fun l => (n, l, g l) }

/-- Put register, predicate and record writes into a weave. -/
def Weave.write (w : Weave) (p : Pend) : Weave :=
  let w1 := p.regs.foldl (fun acc x => acc.setLane x.1 x.2.1 x.2.2) w
  let w2 := p.preds.foldl (fun acc x => acc.setPbit x.1 x.2.1 x.2.2) w1
  { w2 with recs := p.recs.foldl (fun acc x => setNth Lane.zero acc x.1 x.2) w2.recs }

/-- Write the results of an instruction. -/
def writeResult (k : TKey) (p : Pend) (s : State) : State :=
  p.toks.foldl (fun acc t => sendOut k t.1 t.2 acc) (s.updWeave k.weave fun w => w.write p)

/-- Keep an output slot for the tokens that a completion will send. [DEDUCED, log 37] -/
def keepSlots (k : TKey) (p : Pend) (s : State) : State :=
  s.updTask k fun x => { x with resv := p.toks.foldl (fun l t => setCount l t.1 (max 1 (nth 0 l t.1))) x.resv }

/-! ## Deferred faults (R263, R294) -/

/-- Record a fault that is delivered later, behind those that wait already. [DEDUCED, log 34] -/
def defer (k : TKey) (d : Deferred) (s : State) : State := s.updTask k fun x => { x with deferred := x.deferred ++ [d] }

/-- An instruction reaches a fault that waits to be delivered: it reads a register or names a tile or buffer of the fault,
is the next CM instruction after a faulting store, or ends the task. -/
def Deferred.reached (d : Deferred) (i : Instr) (sc : BitVec 4) : Bool :=
  sc.getLsbD 3 || (cellReads i).any (d.regs.contains ·) || (cellTiles i).any (d.tiles.contains ·)
    || (cellBufs i).any (d.bufs.contains ·) || (d.anyCM && i.cm.isSome)

/-- Deliver a deferred fault at the pc where the task stands. -/
def deliverFault (c : Cell) (d : Deferred) (s : State) : State :=
  cellTrap c.key d.cause 0 d.pc d.op1 d.op2 d.op3 (BitVec.ofNat 32 c.tk.pc)
    (s.updTask c.key fun x => { x with deferred := x.deferred.erase d })

/-- The end of a task (R17): once its tile operations are complete (R252) and no fault waits to be delivered; a task that
such a fault stops ends after it is resumed. -/
def closeTask (k : TKey) (s : State) : State :=
  match s.cell? k with
  | none => s
  | some c =>
    let s1 := s.updTask k fun x => { x with pend := some { Pend.none with endt := true } }
    if c.w.mults.any fun m => m.nid == k.nid then s1
    else match c.tk.deferred with
      | d :: _ => deliverFault c d s1
      | [] => endTask k (s.updTask k fun x => { x with pend := none })

/-- What follows an effect: the task's next place, its sc field (R156). [DEDUCED, log 58] -/
def finishCell (k : TKey) (sc : BitVec 4) (f : Task → Task) (s : State) : State :=
  let s1 := s.updTask k fun x => { f x with wait := none, yielded := sc.getLsbD 2 }
  if sc.getLsbD 3 then closeTask k s1 else s1

/-! ## Counters (R139) -/

/-- Add to the stand's OPS counter. -/
def addOps (st n : Nat) (s : State) : State :=
  s.updStand st fun t => { t with cop := { t.cop with ops := satAdd32 t.cop.ops n } }

/-- A packet of a stand travels on the rides (R124). -/
def ridesOf (st : Nat) (s : State) : State :=
  match s.stand? st with
  | some t => flitOn t.vf t.die s
  | none => s

/-- Add to the stand's BYTES counter; the payload travels on the rides (R124). [DEDUCED, log 41] -/
def addBytes (st n : Nat) (s : State) : State :=
  if n = 0 then s else ridesOf st (s.updStand st fun t => { t with cop := { t.cop with bytes := satAdd32 t.cop.bytes n } })

/-- Active lanes that an issue of a CV, CF, CL or CD instruction counts (R139). -/
def countedLanes (i : Instr) (c : Cell) : Nat :=
  match i.cg with
  | some (op, f) =>
    if op < 0x40 ∨ op / 16 = 5 then
      (if op = 0x19 then c.lanes else (c.lanesWith fun l => if op = 0x52 ∨ op = 0x54 then c.w.pbit f.gp.toNat l else c.active f l).length)
    else 0
  | none => 0

/-! ## One instruction of a task -/

/-- The sc field of a cell instruction, as it acts: CC.ENDT ends the task and CC.YLD yields (R232).
[DEDUCED, log 58] -/
def cellSc (i : Instr) : BitVec 4 :=
  match i.cg with
  | some (op, f) => f.sc ||| (if op = 0x8D then 8 else if op = 0x89 then 4 else 0)
  | none => match i.cm with | some (_, f) => f.sc | none => 0

/-- The checks before an instruction's own effect, in order: R162; a port that does not exist (R154); a deferred fault
(R263, R294); the waits of R202 for tokens and slots; control and FAULT tokens (R203); a task that ends waits for its tile
operations (R252) and for slots that its pending skips need (R220). [DEDUCED, log 26] -/
def cellAns (i : Instr) (body : Cell → State → CellAns) (c : Cell) (s : State) : CellAns :=
  let sc := cellSc i
  let refs := portRefs (cellSrcs i)
  if cellCheck i = some .illegal ∨ ((cellPorts i).any fun p => !(c.n.port p).en) then .illegal i s 0 0
  else if cellCheck i = some .reservedField then .trap s 0x02 0 (wordHalves i).1 (wordHalves i).2 0 0
  else match c.tk.deferred.find? fun d => d.reached i sc with
    | some d => .deliver d
    | none =>
      match c.missing refs with
      | some p => .wait (48 + p) c.n.limit (c.tk.inq p).head (c.tk.inq p).tail
      | none =>
        match c.fullOut s (cellOuts i) with
        | some o => .wait (52 + o) c.n.limit (s.outIndices c o).1 (s.outIndices c o).2
        | none =>
          match c.badToken refs with
          | some (p, t, used) =>
            let s1 := s.updTask c.key fun x => x.takeRefs used
            if t.kind = 9 then .trap s1 ((nth Lane.zero t.lanes 0).v.toNat % 256) 0 (BitVec.ofNat 32 (48 + p)) (nth Lane.zero t.lanes 0).v 0 0
            else .illegal i s1 (t.kind.setWidth 32) 0
          | none =>
            if sc.getLsbD 3 && c.w.mults.any fun m => m.nid == c.key.nid then .hold
            else match (if sc.getLsbD 3 then (upTo 4).find? fun o => s.outSlots c o < (skipToks (nth 0 c.tk.skips o)).length else none) with
              | some o => .wait (52 + o) c.n.limit (s.outIndices c o).1 (s.outIndices c o).2
              | none => body c (s.updTask c.key fun x => x.takeRefs refs)

/-- The references of the word that the task stands at, while the tokens for all of them are there. -/
def Cell.operandRefs (c : Cell) : List (Nat × Nat) :=
  match decodeCell ((c.n.text[c.tk.pc]?).getD 0) with
  | .ok i => if (c.missing (portRefs (cellSrcs i))).isNone then portRefs (cellSrcs i) else []
  | .error _ => []

/-- The tokens that an instruction has read as operands when its wait expires stay dequeued (R203, R316): those of its
references, unless it still waits for one of them or for an output slot. [DEDUCED, log 60] -/
def Cell.drawn (c : Cell) (qid : Nat) : List (Nat × Nat) := if 52 ≤ qid ∧ qid < 56 then [] else c.operandRefs

/-- A bounded wait has expired (R17, R18, R339). -/
def waitTrap (c : Cell) (qid : Nat) (head tail : W32) (s : State) : State :=
  cellTrap c.key 0x03 0 c.tk.pc (BitVec.ofNat 32 qid) head tail 0
    (s.updTask c.key fun x => x.takeRefs (c.drawn qid))

/-- A wait goes on: it is for the queue that the task waits for already, and, for a store line, for the same line.
[DESIGN CHOICE, log 163] -/
def TWait.same (w : TWait) (qid : Nat) (head : W32) : Bool := w.qid == qid && (qid != 0x3F || w.head == head)

/-- Begin or continue a bounded wait (R17, R18): a limit of 0 checks once. [DESIGN CHOICE, log 35] -/
def cellWait (c : Cell) (qid limit : Nat) (head tail : W32) (s : State) : State :=
  let fresh : TWait := ⟨qid, s.cyc c.st.die + limit, head, tail⟩
  let w : TWait := match c.tk.wait with
    | some w => if w.same qid head then { w with head := head, tail := tail } else fresh
    | none => fresh
  if limit = 0 then waitTrap c qid head tail s
  else s.updTask c.key fun x => { x with wait := some w }

/-- The mark of a task whose store waits for space in the segment (R328); such a wait has no limit and no queue id, and the
store issues again after it (R17). [DESIGN CHOICE, log 88] -/
def segmentWait : Nat := 0x100

/-- Put an answer into effect; `s` is the state before the instruction. -/
def CellAns.apply (i : Instr) (c : Cell) (s : State) : CellAns → State
  | .done s1 => finishCell c.key (cellSc i) Task.advance (addOps c.key.stand (countedLanes i c) s1)
  | .later s1 p =>
    let s2 := keepSlots c.key p (addOps c.key.stand (countedLanes i c) s1)
    s2.updTask c.key fun x => { x.advance with
      pend := some { p with endt := (cellSc i).getLsbD 3 }, yielded := (cellSc i).getLsbD 2 }
  | .goto s1 pc loops => finishCell c.key (cellSc i) (fun x => { x with pc := pc, loops := loops }) s1
  | .trap s1 cause code op1 op2 op3 op4 => cellTrap c.key cause code c.tk.pc op1 op2 op3 op4 s1
  | .wait qid limit head tail => cellWait c qid limit head tail s
  | .waitIn s1 qid limit head tail => cellWait c qid limit head tail s1
  | .hold => s.updTask c.key fun x => { x with wait := none }
  | .holdWave => requestWave c.key.stand WaveFlags.none
      (s.updTask c.key fun x => { x with wait := some ⟨segmentWait, 0, 0, 0⟩, ent := none })
  | .deliver d => deliverFault c d s
  | .stay s1 => s1

/-- The answer issues the instruction; a wait, or the delivery of an earlier fault, does not. -/
def CellAns.issues : CellAns → Bool
  | .done _ => true
  | .later _ _ => true
  | .goto _ _ _ => true
  | .trap _ _ _ _ _ _ _ => true
  | .wait _ _ _ _ => false
  | .waitIn _ _ _ _ _ => false
  | .hold => false
  | .holdWave => false
  | .deliver _ => false
  | .stay _ => true

/-- The weave's cells have issued an instruction in this cycle (R16). -/
def Cell.hasIssued (c : Cell) (s : State) : Bool := c.w.issued == some (s.cyc c.st.die)

/-- The issue stage notes the task that issues and the cycle (R16). -/
def noteIssue (c : Cell) (s : State) : State :=
  s.updWeave c.key.weave fun w => { w with lastNid := c.key.nid, issued := some (s.cyc c.st.die) }

/-- One instruction of a task; one that could issue waits for a later cycle once its weave has issued in this (R16), with no
wait of its own left (R18).
[DEDUCED, log 166] -/
def cellIssue (i : Instr) (body : Cell → State → CellAns) (c : Cell) (s : State) : State :=
  let a := cellAns i body c s
  if a.issues then
    (if c.hasIssued s then s.updTask c.key fun x => { x with wait := none } else noteIssue c (a.apply i c s))
  else a.apply i c s

/-- A task may execute its next instruction: fired, not stopped by a trap, no result outstanding, weave not halted. -/
def Cell.mayRun (c : Cell) : Bool := c.tk.fired && !c.tk.trapped && c.tk.pend.isNone && !c.w.halted

/-- Run a cell instruction for the task whose turn it is. [DESIGN CHOICE, log 10] -/
def runCell (i : Instr) (body : Cell → State → CellAns) (s : State) : Out :=
  match s.actor with
  | .task k =>
    match s.cell? k with
    | some c => if c.mayRun then .next (cellIssue i body c s) else .fault .noAgent
    | none => .fault .noAgent
  | _ => .fault .noAgent

/-- A result written when the instruction takes effect. -/
def CellAns.write (c : Cell) (p : Pend) (s : State) : CellAns := .done (writeResult c.key p s)

end Sys2Proof.Machine
end

