-- ==== Sys2Proof/Machine/L1.lean ====
section
/-! DEFINITION. What a cell's memory accesses share: the cell store with its full/empty bits (R73 to R77, R253, R284), the
classes of address (R283), the cell L1 with plain and update-only lines (R285, R286), and held writes (R326, R328). -/

namespace Sys2Proof.Machine

/-! ## The cell store -/

/-- Bytes of a weave's store (R73). -/
def storeSize (t : Stand) : Nat := 65536 * t.g

/-- Lines that n bytes from an offset touch. -/
def linesOf (off n : Nat) : List Nat := if n = 0 then [] else upFrom (off / 128) ((off + n - 1) / 128 - off / 128 + 1)

/-- A line lies in a node's declared ranges (R76). [DEDUCED, log 33] -/
def NodeDesc.declares (n : NodeDesc) (line : Nat) : Bool := n.lines.any fun r => r.1 ≤ line && line < r.1 + r.2

/-- The first empty undeclared line of a region, which stalls a read (R77). [DEDUCED, log 33] -/
def Cell.emptyLine (c : Cell) (lines : List Nat) : Option Nat :=
  lines.find? fun l => !(c.w.full.contains l) && !(c.n.declares l)

/-- The first deferred fault that names one of these lines (R294). -/
def Cell.faultOn (c : Cell) (lines : List Nat) : Option Deferred := c.tk.deferred.find? fun d => lines.any (d.lines.contains ·)

/-- The stall of a read of an empty line (R76, R77): its record has the line and no tail. [DESIGN CHOICE, log 162] -/
def CellAns.stall (c : Cell) (line : Nat) : CellAns := .wait 0x3F c.n.limit (BitVec.ofNat 32 line) 0

/-- What a read of store lines waits for: a deferred fault that names one, which is delivered, or the first that is empty
and not declared, which stalls it (R77, R294). -/
def Cell.lineWait (c : Cell) (lines : List Nat) : Option CellAns :=
  match c.faultOn lines with
  | some d => some (.deliver d)
  | none => (c.emptyLine lines).map (CellAns.stall c)

/-- Words of a store region are poisoned. -/
def Weave.storePoison (w : Weave) (off n : Nat) : Bool := w.store.anyPoison off n

/-- An element of w bits at a byte offset of the store. -/
def Weave.storeElem (w : Weave) (off bits : Nat) : Nat := w.store.readN off (ceilDiv bits 8) % 2 ^ bits

/-! ## Held operations (R326, R328) -/

/-- Hold operations in a stand's segment. -/
def holdOps (st : Nat) (src : SegSrc) (ops : List SegOp) (s : State) : State :=
  ops.foldl (fun acc o => acc.updStand st fun t => t.hold (heldDie acc t o.pa) src o) s

/-- A state in which a stand's segment has the room that it needs (R328). -/
def whileFits (st : Nat) (s : State) : Option State := if (s.stand? st).all s.segFits then some s else none

/-- Hold operations where there is room for all of them. [DEDUCED, log 31] -/
def tryHold (st : Nat) (src : SegSrc) (ops : List SegOp) (s : State) : Option State :=
  if ops.isEmpty then some s else whileFits st (holdOps st src ops s)

/-- Payload bytes of a held operation (R139). -/
def SegOp.payload : SegOp → Nat
  | .write _ bs _ => bs.length
  | .op _ ty els => els.length * l2Bytes ty.toNat
  | .away _ _ _ bs _ _ => bs.length
  | .clear _ => 0

/-- Hold operations of a weave, whose payload crosses the memory interface of its stand (R139). [DEDUCED, log 41] -/
def holdWeave (k : WKey) (ops : List SegOp) (s : State) : Option State :=
  tryHold k.stand (.weave k.pos) ops (addBytes k.stand (sumNat (ops.map SegOp.payload)) s)

/-! ## The L1 (R285, R286) -/

/-- Lines of one cell's L1: 16 KiB of 128 bytes. -/
def l1Capacity : Nat := 128

/-- Evict the lines of a weave that satisfy a test: write them back and drop them. -/
def evict (k : WKey) (p : L1Line → Bool) (s : State) : Option State :=
  match s.stand? k.stand with
  | none => some s
  | some t =>
    let ls := (t.weave k.pos).l1
    let s1 := s.updWeave k fun w => { w with l1 := w.l1.filter fun x => !(p x) }
    holdWeave k ((ls.filter p).map L1Line.ops).flatten s1

/-- A release of a weave (R285, R286): dirty lines are written back and stay, update-only lines are merged.
[DEDUCED, log 31] -/
def releaseWeave (k : WKey) (s : State) : Option State :=
  match s.stand? k.stand with
  | none => some s
  | some t =>
    let clean (x : L1Line) : L1Line :=
      match x.body with
      | .plain b p _ keep => { x with body := .plain b p (List.replicate 128 false) keep }
      | .update _ _ _ => x
    let plain (x : L1Line) : Bool := match x.body with | .plain _ _ _ _ => true | .update _ _ _ => false
    let ls := (t.weave k.pos).l1
    let s1 := s.updWeave k fun w => { w with l1 := (w.l1.filter plain).map clean }
    holdWeave k (ls.map L1Line.ops).flatten s1

/-- Memory as the agents of a stand see it. -/
def State.standMem (s : State) (st : Nat) : Memory :=
  match s.stand? st with
  | some t => standView s.mem t.seg
  | none => s.mem

/-- An acquire of a weave (R285). [DEDUCED, log 32] -/
def acquireWeave (k : WKey) (s : State) : State := s.updWeave k fun w => w.acquire (s.standMem k.stand)

/-- A line fetched clean. -/
def fetchLine (m : Memory) (cell line : Nat) (keep : Bool) : L1Line :=
  ⟨cell, line, .plain (m.bytesAt (128 * line) 128) ((upTo 32).map fun k => m.poison.contains (32 * line + k))
    (List.replicate 128 false) keep⟩

/-- The line a cell holds. -/
def Weave.l1Line (w : Weave) (cell line : Nat) : Option L1Line := w.l1.find? fun x => x.cell == cell && x.line == line

/-- Put a line into a weave's L1. -/
def Weave.putLine (w : Weave) (x : L1Line) : Weave :=
  { w with l1 := x :: w.l1.filter fun y => !(y.cell == x.cell && y.line == x.line) }

/-- Make a line ready for a plain access of a cell: copies of other cells of the weave and update-only lines are evicted;
then the line, fetched if there is room in the L1 and the hint allows it, or none where the access bypasses the L1. -/
def claimLine (k : WKey) (cell line : Nat) (ch : Nat) (s : State) : Option (State × Option L1Line) :=
  let other (x : L1Line) : Bool :=
    x.line == line && (x.cell != cell || ch == 3 || (match x.body with | .update _ _ _ => true | .plain _ _ _ _ => false))
  match evict k other s with
  | none => none
  | some s1 =>
    match (s1.stand? k.stand).map fun t => t.weave k.pos with
    | none => some (s1, none)
    | some w =>
      match w.l1Line cell line with
      | some x => some (s1, some x)
      | none =>
        if ch = 1 ∨ ch = 3 ∨ l1Capacity ≤ (w.l1.filter fun x => x.cell == cell).length then some (s1, none)
        else
          let x := fetchLine (s1.standMem k.stand) cell line (ch == 2)
          some ((addBytes k.stand 128 s1).updWeave k fun w => w.putLine x, some x)

/-- Read n bytes at a physical address through the L1 of a cell, with the poison of their word. [DEDUCED, log 29]
[DEDUCED, log 30] -/
def l1Read (k : WKey) (cell pa n ch : Nat) (s : State) : Option (State × Nat × Bool) :=
  match claimLine k cell (pa / 128) ch s with
  | none => none
  | some (s1, some ⟨_, _, .plain bytes poison _ _⟩) =>
    some (s1, natOfBytesLE ((bytes.drop (pa % 128)).take n), nth false poison (pa % 128 / 4))
  | some (s1, _) =>
    let m := s1.standMem k.stand
    some (addBytes k.stand n s1, m.readN pa n, m.anyPoison pa n)

/-- A plain line with bytes written at an offset (R334). -/
def plainWrite (off : Nat) (bs : List Byte) (p : Bool) (bytes : List Byte) (poison dirty : List Bool) (keep : Bool) : L1Body :=
  let w := off / 4
  let pw := if bs.length = 4 then p else p || nth false poison w
  .plain ((bs.zipIdx).foldl (fun acc x => setNth 0 acc (off + x.2) x.1) bytes) (setNth false poison w pw)
    ((upFrom off bs.length).foldl (fun acc j => setNth false acc j true) dirty) keep

/-- Write up to four aligned bytes at a physical address through the L1 of a cell; none where the segment is full.
[DEDUCED, log 29] [DEDUCED, log 30] -/
def l1Write (k : WKey) (cell pa ch : Nat) (bs : List Byte) (p : Bool) (s : State) : Option State :=
  match claimLine k cell (pa / 128) ch s with
  | none => none
  | some (s1, some ⟨c, l, .plain bytes poison dirty keep⟩) =>
    whileFits k.stand (s1.updWeave k fun w => w.putLine ⟨c, l, plainWrite (pa % 128) bs p bytes poison dirty keep⟩)
  | some (s1, _) => holdWeave k [.write pa bs p] s1

/-- The combination of an update with what an update-only line holds for the element (R59, R300); poison joins. -/
def joinUpdate (op : Nat) (ty : BitVec 4) (pa : Nat) (x : Lane) (els : List (Nat × Lane)) : List (Nat × Lane) :=
  match lookupNat pa els with
  | some y => storeNat pa ⟨BitVec.ofNat 32 (combine op ty.toNat .rne false y.v.toNat x.v.toNat), x.poison || y.poison⟩ els
  | none => storeNat pa x els

/-- Apply an update to the update-only line of a cell (R286, R300): a line of another kind, operation or type is written
back or merged first; where the cell's L1 is full the update is merged at once. [DEDUCED, log 30] -/
def l1Update (k : WKey) (cell pa op : Nat) (ty : BitVec 4) (x : Lane) (s : State) : Option State :=
  let line := pa / 128
  let same (y : L1Line) : Bool := match y.body with | .update o t _ => o == op && t == ty | .plain _ _ _ _ => false
  match evict k (fun y => y.line == line && !(y.cell == cell && same y)) s with
  | none => none
  | some s1 =>
    match (s1.stand? k.stand).map fun t => t.weave k.pos with
    | none => some s1
    | some w =>
      match w.l1Line cell line with
      | some ⟨_, _, .update _ _ els⟩ =>
        whileFits k.stand (s1.updWeave k fun w => w.putLine ⟨cell, line, .update op ty (joinUpdate op ty pa x els)⟩)
      | _ =>
        if l1Capacity ≤ (w.l1.filter fun y => y.cell == cell).length then holdWeave k [.op op ty [(pa, x.v, x.poison)]] s1
        else whileFits k.stand (s1.updWeave k fun w => w.putLine ⟨cell, line, .update op ty [(pa, x)]⟩)

/-! ## Addresses of cell accesses (R283, R295) -/

/-- Where a cell access goes: a byte of its store, or a physical address. -/
inductive CellPlace where
  | self (off : Nat)
  | mem (p : Phys)
  deriving DecidableEq, Repr

/-- The TLB unit of a weave's compartment (R293). -/
def Cell.unit (c : Cell) : Nat := 128 * c.st.die + 16 * (c.st.row + c.w.pos.drow) + c.st.col + c.w.pos.dcol

/-- The TLB unit of cell k of a weave (R293, R137). -/
def Cell.cellUnit (c : Cell) (k : Nat) : Nat := 65536 + 128 * c.unit + 16 * c.w.pos.col + c.w.pos.slot * c.st.g + k

/-- Resolve an access of n bytes by a cell of the weave, or the cause of its fault: bits [63:57] are checked first, then alignment, then the
class of the address. -/
def cellPlace (s : State) (c : Cell) (cell a n : Nat) (acc : Access) : Except Nat CellPlace :=
  if 2 ^ 57 ≤ a then .error 0x07
  else if a % n ≠ 0 then .error 0x0F
  else match classify a with
    | .self off => if off + n ≤ storeSize c.st then .ok (.self off) else .error 0x08
    | .virt va =>
      (match translate s.mem s.svc.memtop (s.vf c.st.vf).mem (c.cellUnit cell) va acc with
      | some p => .ok (.mem p)
      | none => .error 0x07)
    | .storeHole => .error 0x07
    | .bad => .error 0x07
    | .localMem _ => .error 0x08
    | .storeSpace _ => .error 0x08

/-- The 64-bit base of lane l: registers a and a + 1, or two constant slots (R295). -/
def Cell.base (c : Cell) (a : Code6) (l : Nat) : Nat :=
  (c.val a.toNat 0 l).v.toNat + 2 ^ 32 * (c.val (a.toNat + 1) 0 l).v.toNat

/-- The first active lane whose base is poisoned, with the operand code (R295). -/
def Cell.poisonedBase (c : Cell) (a : Code6) (lanes : List Nat) : Option (Nat × Nat) :=
  lanes.findSome? fun l =>
    if (c.val a.toNat 0 l).poison then some (a.toNat, l)
    else if (c.val (a.toNat + 1) 0 l).poison then some (a.toNat + 1, l) else none

end Sys2Proof.Machine
end

