-- ==== Sys2Proof/Machine/Tiles.lean ====
section
/-! DEFINITION. Tiles as they travel between memory and cell stores (R66, R67, R299, R305), pins (R290), digit reversal
(R268). -/

namespace Sys2Proof.Machine

/-! ## Reading a tile -/

/-- An element on its way: encoding and poison. -/
structure TileEl where
  v : Nat
  poison : Bool
  deriving DecidableEq, Repr

/-- One element of a tensor in global memory, or the address that does not translate; zero beyond the extents. -/
def readTileEl (tr : Nat → Option Phys) (m : Memory) (e : TEnt) (ix : List Nat) : Except Nat TileEl :=
  if e.inExt ix = false then .ok ⟨0, false⟩
  else match tr (e.addr ix) with
    | none => .error (e.addr ix)
    | some p => .ok ⟨e.pick ix (m.readN p.pa e.bytes), m.poisoned p.pa⟩

/-- Elements in order, up to the first fault. -/
def readTileEls (tr : Nat → Option Phys) (m : Memory) (e : TEnt) : List (List Nat) → Except Nat (List TileEl)
  | [] => .ok []
  | ix :: rest =>
    match readTileEl tr m e ix with
    | .error a => .error a
    | .ok x =>
      match readTileEls tr m e rest with
      | .error a => .error a
      | .ok xs => .ok (x :: xs)

/-- A tile of a tensor in global memory. -/
def readTile (tr : Nat → Option Phys) (m : Memory) (e : TEnt) (co : List Nat) : Except Nat (List TileEl) :=
  readTileEls tr m e (e.tileElems co)

/-- Bytes that elements within the extents make. -/
def elBytes (e : TEnt) (ixs : List (List Nat)) : Nat := ceilDiv (e.width * (ixs.filter e.inExt).length) 8

/-! ## Packed tiles in a store (R299) -/

/-- Bytes of n packed elements. -/
def packedBytes (w n : Nat) : Nat := ceilDiv (w * n) 8

/-- One word of a packed tile put into a store: bits beyond the elements keep their value. -/
def packWord (w a : Nat) (xs : List TileEl) (m : Memory) : Memory :=
  let n := packedBytes w xs.length
  m.store a (bytesLE n (putBits (m.readN a n) 0 (w * xs.length) (packElems w (xs.map (·.v))))) (xs.any (·.poison))

/-- Put packed elements into a store from an offset. -/
def packStore (w off : Nat) (xs : List TileEl) (m : Memory) : Memory :=
  (chunks (32 / w) xs.length xs).zipIdx.foldl (fun acc p => packWord w (off + 4 * p.2) p.1 acc) m

/-- Read n packed elements from a store. -/
def packLoad (w off n : Nat) (m : Memory) : List TileEl :=
  (upTo n).map fun k =>
    let a := off + w * k / 8
    ⟨m.readN a (ceilDiv (w * k % 8 + w) 8) / 2 ^ (w * k % 8) % 2 ^ w, m.poisoned a⟩

/-- The lines that n bytes from the start of a line touch, all zero and clean: what a load into whole lines starts from. -/
def zeroLines (off n : Nat) (m : Memory) : Memory := m.store off (List.replicate (128 * ceilDiv n 128) 0) false

/-! ## Writing a tile to memory -/

/-- The part of an aligned word that a tile writes: bits, values, poison. -/
structure WordPart where
  mask : Nat
  val : Nat
  poison : Bool
  deriving DecidableEq, Repr

/-- Add an element of width w at a bit address to the parts by word. -/
def addPart (w bit v : Nat) (p : Bool) (l : List (Nat × WordPart)) : List (Nat × WordPart) :=
  let old := (lookupNat (bit / 32) l).getD ⟨0, 0, false⟩
  storeNat (bit / 32) ⟨putBits old.mask (bit % 32) w (2 ^ w - 1), putBits old.val (bit % 32) w v, old.poison || p⟩ l

/-- The words that elements of a tensor cover, by virtual word address; elements beyond the extents are discarded. -/
def tileParts (e : TEnt) (ixs : List (List Nat)) (xs : List TileEl) : List (Nat × WordPart) :=
  (ixs.zip xs).foldl (fun acc p =>
    if e.inExt p.1 then addPart e.width (8 * e.base + e.off p.1) p.2.v p.2.poison acc else acc) []

/-- The writes of a word part at a physical address: the whole word, or the bytes it touches. -/
def WordPart.ops (x : WordPart) (m : Memory) (pa : Nat) : List SegOp :=
  if x.mask = 2 ^ 32 - 1 then [.write pa (bytesLE 4 x.val) x.poison]
  else (upTo 4).filterMap fun j =>
    let b := bitsAt x.mask (8 * j) 8
    if b = 0 then none
    else some (.write (pa + j) [(m.byte (pa + j) &&& ~~~(BitVec.ofNat 8 b)) ||| BitVec.ofNat 8 (bitsAt x.val (8 * j) 8)] x.poison)

/-- The writes of word parts, or the first address that does not translate. -/
def partOps (tr : Nat → Option Phys) (m : Memory) : List (Nat × WordPart) → Except Nat (List SegOp)
  | [] => .ok []
  | (wa, x) :: rest =>
    match tr (4 * wa) with
    | none => .error (4 * wa)
    | some p =>
      match partOps tr m rest with
      | .error a => .error a
      | .ok l => .ok (x.ops m p.pa ++ l)

/-! ## Pins (R290) -/

/-- Lines of every VF that are pinned in the set of a slice. [DESIGN CHOICE, log 51] -/
def setPins (s : State) (home : SliceId) (line : Nat) : Nat :=
  sumNat (s.vfs.map fun v =>
    (v.mem.pins.filter fun l => homeSlice v.mem.part (128 * l) == home && Config.sliceSet l == Config.sliceSet line).length)

/-- A line is pinned by some VF. -/
def State.isPinned (s : State) (line : Nat) : Bool := s.vfs.any fun v => v.mem.pins.contains line

/-- Resident lines with room for one more of its set of 16 ways: the oldest unpinned line of a full set goes.
[DESIGN CHOICE, log 176] -/
def makeWay (s : State) (line : Nat) (ls : List Nat) : List Nat :=
  let set := ls.filter fun l => Config.sliceSet l == Config.sliceSet line
  if set.length < 16 then ls
  else match set.find? fun l => !(s.isPinned l) with
    | some v => removeNat v ls
    | none => ls

/-- A line becomes resident in its slice. -/
def fillSlice (home : SliceId) (line : Nat) (s : State) : State :=
  let x := s.slice home
  if x.lines.contains line then s else s.setSlice { x with lines := makeWay s line x.lines ++ [line] }

/-- A slice allocates no line while it is retired or under test (R374). -/
def State.sliceBarred (s : State) (i : SliceId) : Bool :=
  (s.die i.die).retired.contains (true, i.idx) || (s.svc.ift.current.any fun x => x.1 == i.die && x.2.1 && x.2.2 == i.idx)

/-- Ask for a pin of a line: state and status. [DESIGN CHOICE, log 178] -/
def pinLine (vf : Nat) (p : Phys) (s : State) : State × Nat :=
  let v := s.vf vf
  let line := p.pa / 128
  let home := homeSlice v.mem.part (128 * line)
  if v.mem.pins.contains line then (s, 0)
  else if isHost p.pa ∨ p.nc ∨ s.sliceBarred home then (s, 3)
  else if v.cfg.lockq.toNat % 2 ^ 32 ≤ v.mem.pins.length then (s, 1)
  else if 12 ≤ setPins s home line then (s, 2)
  else (fillSlice home line (s.updVf vf fun v => { v with mem := { v.mem with pins := insertNat line v.mem.pins } }), 0)

/-- Unpin a line: state and status. -/
def unpinLine (vf : Nat) (pa : Nat) (s : State) : State × Nat :=
  let line := pa / 128
  if (s.vf vf).mem.pins.contains line then
    (s.updVf vf fun v => { v with mem := { v.mem with pins := removeNat line v.mem.pins } }, 0)
  else (s, 1)

/-! ## Digit reversal (R268) -/

/-- Radices of a digit list, none where it is malformed. -/
def digitList (x : W32) : Option (List Nat) :=
  let c := bitsAt x.toNat 0 4
  if c = 0 ∨ 14 < c ∨ 2 ^ (2 * c + 4) ≤ x.toNat then none
  else some ((upTo c).map fun i => bitsAt x.toNat (2 * i + 4) 2 + 2)

/-- The digit reversal of an index. -/
def drev : List Nat → Nat → Nat
  | [], _ => 0
  | r :: rs, n => n % r * prodNat rs + drev rs (n / r)

end Sys2Proof.Machine
end

