-- ==== Sys2Proof/Machine/CellM.lean ====
section
/-! DEFINITION. The memory instructions of a cell (R294 to R303, R317). -/

namespace Sys2Proof.Machine

/-! ## Lane by lane (R294, R295) -/

/-- What one lane's access gives: a value, a fault at an address, or an answer for the whole instruction. -/
inductive LaneStep where
  | val (s : State) (x : Lane)
  | bad (cause addr : Nat)
  | stop (a : CellAns)

/-- What the lanes of an instruction give: all values, or those below the faulting lane. -/
inductive LaneRun where
  | go (s : State) (out : List (Nat × Lane))
  | bad (s : State) (out : List (Nat × Lane)) (cause addr lane : Nat)
  | stop (a : CellAns)

/-- Perform lanes in increasing order until one faults. -/
def eachLane (one : State → Nat → LaneStep) : List Nat → State → List (Nat × Lane) → LaneRun
  | [], s, out => .go s out
  | l :: ls, s, out =>
    match one s l with
    | .val s1 x => eachLane one ls s1 (out ++ [(l, x)])
    | .bad cause addr => .bad s out cause addr l
    | .stop a => .stop a

/-- The first poisoned base, or operand, of active lanes (R295): operand code and lane. [DESIGN CHOICE, log 42] -/
def cmPoison (c : Cell) (a : Code6) (lanes : List Nat) (ops : List (Code6 × Vec)) : Option (Nat × Nat) :=
  match c.poisonedBase a lanes with
  | some p => some p
  | none => ops.findSome? fun o => (poisonedLane o.2 lanes).map fun l => (o.1.toNat, l)

/-- A fault delivered later (R294). [DEDUCED, log 34] -/
def cmFault (c : Cell) (cause addr lane : Nat) (regs lines : List Nat) (anyCM : Bool) : Deferred :=
  ⟨cause, c.tk.pc, BitVec.ofNat 32 addr, BitVec.ofNat 32 (addr / 2 ^ 32), BitVec.ofNat 32 lane, regs, [], [], lines, anyCM⟩

/-- Registers written by a load to d. -/
def dReg (d : Code6) : List Nat := if d.toNat < 48 then [d.toNat] else []

/-- The lanes of d that a load wrote; a port receives its token only from a load without a fault. -/
def laneResult (c : Cell) (d : Code6) (out : List (Nat × Lane)) : Pend :=
  c.result d (fun l => (lookupNat l out).isSome) fun l => (lookupNat l out).getD Lane.zero

/-- Finish a load. [DEDUCED, log 49] -/
def finishLoad (c : Cell) (d : Code6) : LaneRun → CellAns
  | .stop a => a
  | .go s out => .write c (laneResult c d out) s
  | .bad s out cause addr lane =>
    .write c (if d.toNat < 48 then laneResult c d out else Pend.none) (defer c.key (cmFault c cause addr lane (dReg d) [] false) s)

/-- Finish a store. -/
def finishStore (c : Cell) : LaneRun → CellAns
  | .stop a => a
  | .go s _ => .done s
  | .bad s _ cause addr lane => .done (defer c.key (cmFault c cause addr lane [] [] true) s)

/-! ## Element loads and stores (R297, R317) -/

/-- Bytes of an element access. -/
def cmBytes (ty : BitVec 4) : Nat := if tyWidth ty.toNat = 8 then 1 else if tyWidth ty.toNat = 16 then 2 else 4

/-- The lane a loaded element fills. -/
def cmExtend (ty : BitVec 4) (v : Nat) : W32 :=
  if isSignedTy ty.toNat then BitVec.ofNat 32 (wrapInt 32 (toSigned (8 * cmBytes ty) v)) else BitVec.ofNat 32 v

/-- The cell of a lane. -/
def laneCell (l : Nat) : Nat := l / 16

/-- The cell of a lane has used the translation of an address (R293). -/
def Cell.touch (c : Cell) (l a : Nat) (s : State) : State := s.tlbFill c.st.vf (c.cellUnit (laneCell l)) a

/-- An access of a cell of the weave to a physical address waits (R288, R315): one that the cell's L1 answers needs no slot of
a slice's queue. [DESIGN CHOICE, log 182] -/
def Cell.held (c : Cell) (s : State) (cell pa : Nat) : Bool :=
  s.memHeld c.st.vf || (s.accessHeld c.st.vf c.st.die pa && (c.w.l1Line cell (pa / 128)).isNone)

/-- One lane's load. -/
def loadLane (c : Cell) (ty : BitVec 4) (ch : Nat) (addr : Nat → Nat) (s : State) (l : Nat) : LaneStep :=
  let n := cmBytes ty
  match cellPlace s c (laneCell l) (addr l) n .read with
  | .error cause => .bad cause (addr l)
  | .ok (.self off) =>
    (match c.faultOn [off / 128] with
    | some d => .stop (.deliver d)
    | none =>
      match c.emptyLine [off / 128] with
      | some x => .stop (CellAns.stall c x)
      | none => .val s ⟨cmExtend ty (c.w.store.readN off n), c.w.store.poisoned off⟩)
  | .ok (.mem p) =>
    if c.held s (laneCell l) p.pa then .stop .hold
    else match l1Read c.key.weave (laneCell l) p.pa n ch (c.touch l (addr l) s) with
      | none => .stop .holdWave
      | some (s1, v, po) => .val s1 ⟨cmExtend ty v, po⟩

/-- One lane's store. -/
def storeLane (c : Cell) (ty : BitVec 4) (ch : Nat) (addr : Nat → Nat) (x : Vec) (s : State) (l : Nat) : LaneStep :=
  let n := cmBytes ty
  let bs := bytesLE n (x l).v.toNat
  match cellPlace s c (laneCell l) (addr l) n .write with
  | .error cause => .bad cause (addr l)
  | .ok (.self off) =>
    (match c.faultOn [off / 128] with
    | some d => .stop (.deliver d)
    | none => .val (s.updWeave c.key.weave fun w => { w with store := w.store.store off bs (x l).poison }) (x l))
  | .ok (.mem p) =>
    if c.held s (laneCell l) p.pa then .stop .hold
    else match l1Write c.key.weave (laneCell l) p.pa ch bs (x l).poison (c.touch l (addr l) s) with
      | none => .stop .holdWave
      | some s1 => .val s1 (x l)

/-- Loads and stores of elements: addresses by lane, and the trap of an index where there is one.
[DESIGN CHOICE, log 178] -/
def cmElem (i : Instr) (f : CM) (store : Bool) (addr : Cell → Vec → Nat → Nat)
    (check : Cell → Vec → List Nat → Option (W32 × W32)) (s : State) : Out :=
  runCell i (fun c s =>
    let srcs := cellSrcs i
    let b := c.opd srcs 1
    let lanes := c.lanesWith (c.activeM f)
    match cmPoison c f.a lanes [(f.b, b)] with
    | some p => .poison s p.1 p.2
    | none =>
      match check c b lanes with
      | some (x, y) => .illegal i s x y
      | none =>
        if store then finishStore c (eachLane (storeLane c f.ty f.ch.toNat (addr c b) (c.opd srcs 4)) lanes s [])
        else finishLoad c f.d (eachLane (loadLane c f.ty f.ch.toNat (addr c b)) lanes s [])) s

/-- The address of CM.LD and CM.ST: wrap64(base + b). -/
def plainAddr (f : CM) (c : Cell) (b : Vec) (l : Nat) : Nat := (c.base f.a l + (b l).v.toNat) % 2 ^ 64

/-- The digit list of the task, in constant slot 7. -/
def Cell.digits (c : Cell) : Option (List Nat) := digitList (nth 0 c.n.ks 7)

/-- The address of CM.LDBR and CM.STBR: base + n·drev(b). -/
def revAddr (f : CM) (c : Cell) (b : Vec) (l : Nat) : Nat :=
  (c.base f.a l + cmBytes f.ty * drev (c.digits.getD []) (b l).v.toNat) % 2 ^ 64

/-- The trap of a digit-reversed access: a malformed list, or the lowest active lane whose index is beyond N. -/
def revCheck (c : Cell) (b : Vec) (lanes : List Nat) : Option (W32 × W32) :=
  match c.digits with
  | none => some (nth 0 c.n.ks 7, 0)
  | some rs => (lanes.find? fun l => prodNat rs ≤ (b l).v.toNat).map fun l => ((b l).v, BitVec.ofNat 32 l)

/-- CM.LD. -/
def execCmLd (f : CM) (s : State) : Out := cmElem (.cmLd f) f false (plainAddr f) (fun _ _ _ => none) s
/-- CM.ST. -/
def execCmSt (f : CM) (s : State) : Out := cmElem (.cmSt f) f true (plainAddr f) (fun _ _ _ => none) s
/-- CM.LDBR. -/
def execCmLdbr (f : CM) (s : State) : Out := cmElem (.cmLdbr f) f false (revAddr f) revCheck s
/-- CM.STBR. -/
def execCmStbr (f : CM) (s : State) : Out := cmElem (.cmStbr f) f true (revAddr f) revCheck s

/-! ## Reply loads (R298, R125) -/

/-- Reply token k of a load: its sixteen lanes, or a FAULT token where an active lane of it, or of an earlier one,
faulted (R294). -/
def replyTok (c : Cell) (f : CM) (out : List (Nat × Lane)) (bad : Option Nat) (k : Nat) : Tok :=
  let lanes := upFrom (16 * k) 16
  let fault := match bad with | some l => lanes.any fun x => l ≤ x && c.activeM f x | none => false
  if fault then { ctlTok 9 7 with reply := true }
  else Tok.fit ⟨0, lanes.map fun l => (lookupNat l out).getD Lane.zero, false, 0, true⟩

/-- Send the reply tokens of a weave on a route. -/
def sendReplies (k : WKey) (route : Nat) (toks : List Tok) (s : State) : State :=
  toks.foldl (fun acc tok =>
    match acc.stand? k.stand with
    | none => acc
    | some t =>
      match t.dst? route with
      | some d =>
        let w := t.weave k.pos
        let s1 := acc.setStand (t.setWeave { w with ldxOut := w.ldxOut + 1, ldxSeq := seqBump w.ldxSeq route })
        launchPacket t.die t.vf (.ldx k route) (seqNext w.ldxSeq route) d { tok with rid := t.rid route } s1
      | none => acc) s

/-- CM.LDX. [DEDUCED, log 49] -/
def execCmLdx (f : CM) (s : State) : Out :=
  runCell (.cmLdx f) (fun c s =>
    let i := Instr.cmLdx f
    let route := f.b.toNat
    let lanes := c.lanesWith (c.activeM f)
    let g := c.st.g
    let send (s1 : State) (out : List (Nat × Lane)) (bad : Option Nat) : CellAns :=
      .done (sendReplies c.key.weave route ((upTo g).map (replyTok c f out bad)) s1)
    match c.st.kern.routes[route]? with
    | some (.cell _ _ _ _ _) =>
      (match cmPoison c f.a lanes [] with
      | some p => .poison s p.1 p.2
      | none =>
        let room := s.routeSlots c.st route
        if room < g then .wait 0x3C c.n.limit (BitVec.ofNat 32 room) (BitVec.ofNat 32 g)
        else match eachLane (loadLane c f.ty 3 (c.base f.a)) lanes s [] with
          | .stop a => a
          | .go s1 out => send s1 out none
          | .bad s1 out _ _ l => send s1 out (some l))
    | _ => .illegal i s 0 0) s

/-! ## Tile loads and stores (R299) -/

/-- What a tile instruction of a cell names: the tensor, coordinates and the store region. -/
structure TileArgs where
  word : BitVec 256
  e : TEnt
  co : List Nat
  off : Nat
  deriving DecidableEq, Repr

/-- The checks of a tile instruction before it moves anything. [DEDUCED, log 50] [DESIGN CHOICE, log 178] -/
def tileArgs (c : Cell) (f : CM) (srcs : List (Option Nat)) (write : Bool) (s : State) : Except CellAns TileArgs :=
  let a := c.opd srcs 0
  let b := c.opd srcs 1
  let tid := (a 0).v.toNat % 65536
  let off := (c.opd srcs 4 0).v.toNat
  let co := (upTo 4).map fun k => (b k).v.toNat
  let half (k : Nat) : Nat := nth 0 co k % 65536
  let poison : Option (Nat × Nat) :=
    if (a 0).poison then some (f.a.toNat, 0)
    else match poisonedLane b (upTo 4) with
      | some l => some (f.b.toNat, l)
      | none => if (c.opd srcs 4 0).poison then some (f.d.toNat, 0) else none
  match poison with
  | some p => .error (.poison s p.1 p.2)
  | none =>
    match c.entry? s tid with
    | none => .error (.trap s 0x08 0 (BitVec.ofNat 32 tid) 0 0 0)
    | some raw =>
      let e := tensorEntry raw
      if (if write then e.w else e.r) = false then .error (.trap s 0x08 0 (BitVec.ofNat 32 tid) 0 0 0)
      else if e.inGrid co = false then
        .error (.trap s 0x08 0 (BitVec.ofNat 32 tid) (BitVec.ofNat 32 (half 1 * 65536 + half 0))
          (BitVec.ofNat 32 (half 3 * 65536 + half 2)) 0)
      else if off % 128 ≠ 0 then .error (.trap s 0x0F 0 (BitVec.ofNat 32 off) 0 0 0)
      else if storeSize c.st < off + packedBytes e.width e.tileSize then .error (.trap s 0x08 0 (BitVec.ofNat 32 off) 0 0 0)
      else .ok ⟨raw, e, co, off⟩

/-- Translation of a tensor's address for a cell: store space and the self window are not reached so. -/
def cellTrans (s : State) (c : Cell) (acc : Access) (a : Nat) : Option Phys :=
  match classify a with
  | .virt va => translate s.mem s.svc.memtop (s.vf c.st.vf).mem c.unit va acc
  | _ => none

/-- The cause of a tensor address that does not translate: PROTECTION for another class of address.
[DEDUCED, log 50] -/
def tileCause (a : Nat) : Nat :=
  match classify a with
  | .virt _ => 0x07
  | .bad => 0x07
  | .storeHole => 0x07
  | _ => 0x08

/-- Lines of memory that a tile's elements touch, as the weave's L1 numbers them. [DESIGN CHOICE, log 28] -/
def tileLines (tr : Nat → Option Phys) (e : TEnt) (co : List Nat) : List Nat :=
  ((e.tileElems co).filter e.inExt).foldl (fun acc ix =>
    match tr (e.addr ix) with | some p => insertNat (p.pa / 128) acc | none => acc) []

/-- The TLBs take the pages of a tile's elements, which the weave's first cell reads or writes (R293). [DESIGN CHOICE, log 28] -/
def Cell.touchTile (c : Cell) (x : TileArgs) (s : State) : State :=
  ((x.e.tileElems x.co).filter x.e.inExt).foldl (fun acc ix => c.touch 0 (x.e.addr ix) acc) s

/-- CM.LDT: whole lines are written, and become full. [DESIGN CHOICE, log 28] -/
def execCmLdt (f : CM) (s : State) : Out :=
  runCell (.cmLdt f) (fun c s =>
    match tileArgs c f (cellSrcs (.cmLdt f)) false s with
    | .error a => a
    | .ok x =>
      let n := packedBytes x.e.width x.e.tileSize
      let ls := linesOf x.off n
      let tr := cellTrans s c .read
      let lines := tileLines tr x.e x.co
      match c.faultOn ls with
      | some d => .deliver d
      | none =>
        if s.memHeld c.st.vf || (lines.any fun l => s.accessHeld c.st.vf c.st.die (128 * l)) then c.waitWith x.word s .hold
        else match evict c.key.weave (fun y => lines.contains y.line) s with
          | none => .holdWave
          | some s1 =>
            match readTile tr (s1.standMem c.key.stand) x.e x.co with
            | .error a => .done (defer c.key (cmFault c (tileCause a) a 0 [] ls false) s1)
            | .ok els => .done (c.touchTile x (addBytes c.key.stand (elBytes x.e (x.e.tileElems x.co)) (s1.updWeave c.key.weave fun w =>
                { w with store := packStore x.e.width x.off els (zeroLines x.off n w.store)
                         full := ls.foldl (fun acc l => insertNat l acc) w.full })))) s

/-- CM.STT: the writes go through the segment. -/
def execCmStt (f : CM) (s : State) : Out :=
  runCell (.cmStt f) (fun c s =>
    match tileArgs c f (cellSrcs (.cmStt f)) true s with
    | .error a => a
    | .ok x =>
      let ls := linesOf x.off (packedBytes x.e.width x.e.tileSize)
      let tr := cellTrans s c .write
      let lines := tileLines tr x.e x.co
      match c.faultOn ls, c.emptyLine ls with
      | some d, _ => .deliver d
      | none, some l => c.waitWith x.word s (CellAns.stall c l)
      | none, none =>
        if s.memHeld c.st.vf || (lines.any fun l => s.accessHeld c.st.vf c.st.die (128 * l)) then c.waitWith x.word s .hold
        else match evict c.key.weave (fun y => lines.contains y.line) s with
          | none => .holdWave
          | some s1 =>
            let els := packLoad x.e.width x.off x.e.tileSize c.w.store
            match partOps tr (s1.standMem c.key.stand) (tileParts x.e (x.e.tileElems x.co) els) with
            | .error a => .done (defer c.key (cmFault c (tileCause a) a 0 [] [] true) s1)
            | .ok ops =>
              match tryHold c.key.stand (.weave c.key.pos) ops s1 with
              | none => .holdWave
              | some s2 => .done (c.touchTile x (addBytes c.key.stand (elBytes x.e (x.e.tileElems x.co)) s2))) s

/-! ## Updates and atomics (R300, R301) -/

/-- One lane's update. -/
def updLane (c : Cell) (f : CM) (x : Vec) (s : State) (l : Nat) : LaneStep :=
  let a := c.base f.a l
  match cellPlace s c (laneCell l) a (cmBytes f.ty) .both with
  | .error cause => .bad cause a
  | .ok (.self _) => .bad 0x08 a
  | .ok (.mem p) =>
    if c.held s (laneCell l) p.pa then .stop .hold
    else match l1Update c.key.weave (laneCell l) p.pa f.b.toNat f.ty (x l) (c.touch l a s) with
      | none => .stop .holdWave
      | some s1 => .val s1 (x l)

/-- CM.UPD. -/
def execCmUpd (f : CM) (s : State) : Out :=
  runCell (.cmUpd f) (fun c s =>
    let lanes := c.lanesWith (c.activeM f)
    match cmPoison c f.a lanes [] with
    | some p => .poison s p.1 p.2
    | none => finishStore c (eachLane (updLane c f (c.opd (cellSrcs (.cmUpd f)) 4)) lanes s [])) s

/-- The new word of an atomic: operations 0 to 4 as R300, 5 XCHG, 6 CAS. -/
def atomNew (op : Nat) (ty : BitVec 4) (old x y : W32) : W32 :=
  match op with
  | 5 => x
  | 6 => if old = y then x else old
  | _ => BitVec.ofNat 32 (combine op ty.toNat .rne false old.toNat x.toNat)

/-- One lane's atomic, performed at once on committed memory (R331); its request carries one word, or two for CAS, and its reply
one (R139). [DEDUCED, log 52] [DEDUCED, log 41] -/
def atomLane (c : Cell) (f : CM) (s : State) (l : Nat) : LaneStep :=
  let a := c.base f.a l
  match cellPlace s c (laneCell l) a 4 .both with
  | .error cause => .bad cause a
  | .ok (.self _) => .bad 0x08 a
  | .ok (.mem p) =>
    if isHost p.pa then .bad 0x08 a
    else if c.held s (laneCell l) p.pa then .stop .hold
    else match evict c.key.weave (fun y => y.line == p.pa / 128) (c.touch l a s) with
      | none => .stop .holdWave
      | some s1 =>
        let s2 := commitWord c.key.stand p.pa s1
        if s2.mem.poisoned p.pa then .bad 0x06 a
        else
          let old : W32 := BitVec.ofNat 32 (s2.mem.readN p.pa 4)
          let new := atomNew f.b.toNat f.ty old (c.w.lane f.d.toNat l).v (c.w.lane (f.d.toNat + 1) l).v
          .val (addBytes c.key.stand (if f.b = 6 then 12 else 8) { s2 with mem := s2.mem.store p.pa (bytesLE 4 new.toNat) false }) ⟨old, false⟩

/-- CM.ATOM: a poisoned target traps at its lane; the lanes below keep their effects. -/
def execCmAtom (f : CM) (s : State) : Out :=
  runCell (.cmAtom f) (fun c s =>
    let lanes := c.lanesWith (c.activeM f)
    let ops := if f.b = 6 then [(f.d, c.w.lane f.d.toNat), (f.d + 1, c.w.lane (f.d.toNat + 1))] else [(f.d, c.w.lane f.d.toNat)]
    match cmPoison c f.a lanes ops with
    | some p => .poison s p.1 p.2
    | none =>
      match eachLane (atomLane c f) lanes s [] with
      | .bad s1 out 0x06 _ l => .poison (writeResult c.key (laneResult c f.d out) s1) f.a.toNat l
      | r => finishLoad c f.d r) s

/-! ## Pins, prefetches and full bits (R302, R303, R290) -/

/-- A line holds poison as the stand sees it. -/
def State.linePoison (s : State) (st line : Nat) : Bool := (s.standMem st).anyPoison (128 * line) 128

/-- One lane's pin or unpin, which bypasses the L1 (R285); its reply is the status, and that of store space is 3.
[DEDUCED, log 52] -/
def lockLane (c : Cell) (f : CM) (lock : Bool) (s : State) (l : Nat) : LaneStep :=
  let a := c.base f.a l
  match cellPlace s c (laneCell l) a 1 .read with
  | .error cause => .bad cause a
  | .ok (.self _) => .val s ⟨3, false⟩
  | .ok (.mem p) =>
    if c.held s (laneCell l) p.pa then .stop .hold
    else match evict c.key.weave (fun y => y.line == p.pa / 128) (c.touch l a s) with
      | none => .stop .holdWave
      | some s1 =>
        if lock ∧ s1.linePoison c.key.stand (p.pa / 128) then .bad 0x06 a
        else
          let r := if lock then pinLine c.st.vf p s1 else unpinLine c.st.vf p.pa s1
          .val (addBytes c.key.stand 4 r.1) ⟨BitVec.ofNat 32 r.2, false⟩

/-- CM.LOCK and CM.UNLK. -/
def cmLockForm (i : Instr) (f : CM) (lock : Bool) (s : State) : Out :=
  runCell i (fun c s =>
    let lanes := c.lanesWith (c.activeM f)
    match cmPoison c f.a lanes [] with
    | some p => .poison s p.1 p.2
    | none =>
      match eachLane (lockLane c f lock) lanes s [] with
      | .bad s1 out 0x06 _ l =>
        .poison (writeResult c.key (if f.d.toNat < 48 then laneResult c f.d out else Pend.none) s1) f.a.toNat l
      | r => finishLoad c f.d r) s

/-- CM.LOCK. -/
def execCmLock (f : CM) (s : State) : Out := cmLockForm (.cmLock f) f true s
/-- CM.UNLK. -/
def execCmUnlk (f : CM) (s : State) : Out := cmLockForm (.cmUnlk f) f false s

/-- One lane's prefetch; an access that would fault, or a line that finds no room, is dropped (R294). -/
def prefetchLane (c : Cell) (f : CM) (b : Vec) (s : State) (l : Nat) : State :=
  match cellPlace s c (laneCell l) (plainAddr f c b l) 1 .read with
  | .ok (.mem p) =>
    let s1 := c.touch l (plainAddr f c b l) s
    let home := homeSlice (s.vf c.st.vf).mem.part p.pa
    if f.ch = 3 then (if p.nc || s.sliceBarred home then s1 else fillSlice home (p.pa / 128) s1)
    else (match claimLine c.key.weave (laneCell l) (p.pa / 128) f.ch.toNat s1 with
      | some (s2, _) => s2
      | none => s1)
  | _ => s

/-- CM.PFT. -/
def execCmPft (f : CM) (s : State) : Out :=
  runCell (.cmPft f) (fun c s =>
    let b := c.opd (cellSrcs (.cmPft f)) 1
    let lanes := c.lanesWith (c.activeM f)
    match cmPoison c f.a lanes [(f.b, b)] with
    | some p => .poison s p.1 p.2
    | none => if s.memHeld c.st.vf then .hold else .done (lanes.foldl (prefetchLane c f b) s)) s

/-- CM.FILL: sets (1) or clears (0) the F bits of a range of store lines. -/
def execCmFill (f : CM) (s : State) : Out :=
  runCell (.cmFill f) (fun c s =>
    let srcs := cellSrcs (.cmFill f)
    let a := c.opd srcs 0 0
    let b := c.opd srcs 1 0
    if a.poison then .poison s f.a.toNat 0
    else if b.poison then .poison s f.b.toNat 0
    else if b.v = 0 then .done s
    else if 512 * c.st.g < a.v.toNat + b.v.toNat then .trap s 0x08 0 a.v 0 0 0
    else match c.faultOn (upFrom a.v.toNat b.v.toNat) with
      | some d => .deliver d
      | none => .done (s.updWeave c.key.weave fun w =>
          { w with full := (upFrom a.v.toNat b.v.toNat).foldl (fun acc l => flagNat l (f.d == 1) acc) w.full })) s

end Sys2Proof.Machine
end

