-- ==== Sys2Proof/Machine/SeqSync.lean ====
section
/-! DEFINITION. Sequencer waits, fences, barriers, tags and timelines (R185 to R192). -/

namespace Sys2Proof.Machine

/-! ## Timelines and queues (R185, R192, R193, R311) -/

/-- The R counter (R311): the number of the last command before the first that has not passed R. -/
def Eng.rCount (e : Eng) : Nat := match e.cmds.find? fun c => !c.passR with | some c => c.seq - 1 | none => e.nextSeq - 1

/-- The V counter (R311). -/
def Eng.vCount (e : Eng) : Nat := match e.cmds.find? fun c => !c.passV with | some c => c.seq - 1 | none => e.nextSeq - 1

/-- The counter a timeline names. -/
def Eng.count (e : Eng) (v : Bool) : Nat := if v then e.vCount else e.rCount

/-- Commands waiting in an engine context's queue. -/
def Eng.queued (e : Eng) : Nat := (e.cmds.filter fun c => !c.started).length

/-- Slots of a command queue (R185). -/
def queueSlots : Nat := 16

/-- An engine context of the stand a context is bound to; a root program has none (R193). -/
def seqEng? (s : State) (c : SeqCtx) (n : Nat) : Option Eng :=
  match c.bind with
  | .stand st => (s.stand? st).bind fun t => t.eng? n
  | _ => none

/-! ## Wait conditions (R185) -/

/-- The query of a wait for a tag, with the entry read when the wait was issued (R70); the tensor's generation, which advances
move (R114), is the current one. [DEDUCED, log 181] -/
def waitQuery (s : State) (vf : Nat) (ref : W64) (ent : BitVec 256) : Option Nat :=
  let now := tensorEntry ((lookupNat (refTid ref) (s.vf vf).tens.table).getD ent)
  if (tensorEntry ent).v then queryEnt s vf { tensorEntry ent with gen := now.gen } ref else none

/-- Whether a wait's condition holds: `some` is a trap's cause for a tag that is stale or no longer valid. -/
def waitNow (s : State) (c : SeqCtx) : SeqWait → Except Nat Bool
  | .queue e need => match seqEng? s c e with | some x => .ok (need + x.queued ≤ queueSlots) | none => .error 0x08
  | .trapq need => .ok (need ≤ (c.tqtail - c.tqhead).toNat)
  | .timeline e v target => match seqEng? s c e with | some x => .ok (target ≤ x.count v) | none => .error 0x08
  | .tag ref ent =>
    (match waitQuery s (seqVf s c) ref ent with
    | none => .error 0x08
    | some 2 => .error 0x05
    | some r => .ok (r == 1))
  | .scmd e => match seqEng? s c e with | some x => .ok (x.queued < queueSlots) | none => .error 0x08
  | .barrier done => .ok done.isSome
  | .switch =>
    (match c.bind with
    | .stand st => .ok ((s.stand? st).all fun t => t.switchTo.all fun x => t.weaves.all fun w => w.actx == x)
    | _ => .ok true)
  | .segment =>
    (match c.bind with
    | .stand st => .ok ((s.stand? st).all fun t => t.wave.isNone && t.waveReq.isNone)
    | _ => .ok true)

/-- Weaves of a stand: every weave slot of its box (R137). -/
def Stand.slots (t : Stand) : Nat := t.kern.w * t.kern.h * 7 * (16 / t.g)

/-- Weaves of a stand that have the context to which it switches; a slot that holds no node has the stand's own (R136). -/
def Stand.switched (t : Stand) : Nat :=
  let ready (n : Nat) : Bool := t.switchTo.all fun x => n == x
  (t.weaves.filter fun w => ready w.actx).length + (if ready t.actx then t.slots - t.weaves.length else 0)

/-- TINFO of the expiry of a wait (R186). -/
def expiryInfo (s : State) (c : SeqCtx) : SeqWait → W64
  | .queue e _ => match seqEng? s c e with | some x => waitInfo e x.qhead (x.nextSeq - 1) | none => 0
  | .trapq _ => waitInfo 0x10 c.tqhead.toNat c.tqtail.toNat
  | .timeline e v target =>
    (match seqEng? s c e with
    | some x => waitInfo ((if v then 0x50 else 0x40) + e) (x.count v) target
    | none => 0)
  | .tag ref _ => waitInfo 0x60 0 (refTile ref)
  | .scmd e => match seqEng? s c e with | some x => waitInfo e x.qhead (x.nextSeq - 1) | none => 0
  | .barrier _ =>
    let b := s.fab.barriers.find? fun b => b.arrived.any fun a => sameMember a.1 (.seq c.id)
    (match b with
    | some b => waitInfo (barrierObject b.scope) b.size
        (match c.bind with
        | .stand st => (match s.stand? st with
          | some t => (match b.scope with
            | 3 => (t.bars.idxOf? b.id).elim 0 fun i => 1 + (t.barrierWeaves 3 i false).length
            | _ => ((wideKey s t.vf b.scope b.id).map (·.count)).getD 0)
          | none => 0)
        | _ => ((wideKey s (seqVf s c) b.scope b.id).map (·.count)).getD 0)
    | none => 0)
  | .switch =>
    (match c.bind with
    | .stand st => (match s.stand? st with
      | some t => waitInfo 0x64 t.switched t.slots
      | none => 0)
    | _ => 0)
  | .segment => 0

/-- Wait for a condition up to a limit in cycles (R185): one that holds ends the wait at once, a limit of 0 checks once. -/
def seqWait (w : SeqWait) (limit : Nat) (info : W64) (c : SeqCtx) (s : State) : SeqAns :=
  match waitNow s c w with
  | .error cause => .trap s cause 0 info
  | .ok true => .done s
  | .ok false => if limit = 0 then .trap s 0x03 0 (expiryInfo s c w) else .wait s w (s.cyc c.id.die + limit)

/-- SR.WAIT QUEUE: free slots of a command queue, or records of the trap queue. -/
def execSrWaitQueue (f : SR) (s : State) : Out :=
  runSeq (.srWaitQueue f) (.sr f.q [f.a, f.b, f.d]) (fun c s =>
    let a := (c.reg f.a).v
    let need := (c.reg f.b).v.toNat
    let limit := (c.reg f.d).v.toNat
    if a = 0x10 then seqWait (.trapq need) limit a c s
    else if 16 ≤ a.toNat ∨ (seqEng? s c a.toNat).isNone then .trap s 0x08 0 a
    else seqWait (.queue a.toNat need) limit a c s) s

/-- SR.WAIT TIMELINE: an engine's R or V counter reaches b, an acquire of those commands. -/
def execSrWaitTimeline (f : SR) (s : State) : Out :=
  runSeq (.srWaitTimeline f) (.sr f.q [f.a, f.b, f.d]) (fun c s =>
    let a := (c.reg f.a).v
    let e := a.toNat % 256
    if 512 ≤ a.toNat ∨ (seqEng? s c e).isNone then .trap s 0x08 0 a
    else seqWait (.timeline e (a.toNat / 256 % 2 == 1) (c.reg f.b).v.toNat) (c.reg f.d).v.toNat a c s) s

/-- SR.WAIT TAG: the query of a reference gives 1, an acquire of the publication. -/
def execSrWaitTag (f : SR) (s : State) : Out :=
  runSeq (.srWaitTag f) (.sr f.q [f.a, f.d]) (fun c s =>
    let ref := (c.reg f.a).v
    seqWait (.tag ref ((s.entry? (seqVf s c) (refTid ref)).getD 0)) (c.reg f.d).v.toNat ref c s) s

/-- SX.FENCE (R187): the model performs a context's operations in order and a sequencer has no cache, so the fence only
advances the pc. -/
def execSxFence (f : SX) (s : State) : Out := runSeq (.sxFence f) (.bare []) (fun _ s => .done s) s

/-! ## Barriers (R188) -/

/-- The barrier a context names, none where the id is not granted. -/
def seqBarKey (s : State) (c : SeqCtx) (scope id : Nat) : Option BarKey :=
  match c.bind with
  | .stand st => (s.stand? st).bind fun t => standKey s t ⟨0, 0, 0, 0⟩ scope id
  | .root v => if scope = 3 then none else wideKey s v scope id
  | .none => none

/-- SX.BAR: arrive with bit 0 of d and wait, for at most 2^24 cycles; on completion d receives the result. -/
def execSxBar (f : SX) (s : State) : Out :=
  runSeq (.sxBar f) (.bare [f.d]) (fun c s =>
    let id := f.sel12.toNat / 8
    match seqBarKey s c (f.sel12.toNat % 8) id with
    | none => .trap s 0x08 0 (BitVec.ofNat 64 id)
    | some k =>
      let dl := s.cyc c.id.die + barrierLimit
      let s1 := s.setCtx { c with wait := some (.barrier none, dl) }
      let s2 := arrive k (.seq c.id) ((c.reg f.d).v.getLsbD 0) s1
      match (s2.ctx c.id).wait with
      | some (.barrier (some b), _) => .done (s2.updCtx c.id fun x => x.setReg f.d ⟨if b then 1 else 0, false⟩)
      | _ => .wait s2 (.barrier none) dl) s

/-! ## Tags (R189 to R191) -/

/-- Hold a publication or advance for the block being fed (R111): TAGCTL counts it, and a publication makes its outcome 5.
[DEDUCED, log 18] -/
def holdPub (st : Nat) (p : HeldPub) (c : SeqCtx) (s : State) : State :=
  let n := min 255 (bitsAt c.tagctl.toNat 8 8 + 1)
  (s.updStand st fun t => { t with held := t.held ++ [p] }).setCtx
    { c with tagctl := BitVec.ofNat 64 (n * 256 + (if p.advance then bitsAt c.tagctl.toNat 0 3 else 5)) }

/-- A publication or advance requested by a sequencer instruction within block `blk`. -/
def seqPub (c : SeqCtx) (blk : Nat) (adv : Bool) (ref : W64) (scope : Nat) : HeldPub :=
  ⟨adv, ref, scope, blk, 1, c.pc, 0, ⟨0, 0, 0, 0⟩, 0, 0⟩

/-- The stand and block that a context feeds; a root program and a handler entered from idle feed none (R111, R342). -/
def SeqCtx.feeding (c : SeqCtx) : Option (Nat × Nat) :=
  match c.bind, c.block with
  | .stand st, some b => some (st, b)
  | _, _ => none

/-- The stand of a context. -/
def SeqCtx.stand? (c : SeqCtx) : Option Nat := match c.bind with | .stand st => some st | _ => none

/-- TINFO of the trap of a publication outside a block (R200): the reference, or the address of the poisoned word.
[DEDUCED, log 187] -/
def PubOut.info (ref : W64) : PubOut → W64
  | .refused 0x06 word => poisonInfo word
  | _ => ref

/-- SR.TAGP (R189): outside a block it publishes at once and TAGCTL receives the outcome, or a refused or stale one traps with
the cause that R111 gives it; a context that feeds a block holds it. [DEDUCED, log 187] -/
def execSrTagp (f : SR) (scope : BitVec 3) (s : State) : Out :=
  runSeq (.srTagp f scope) (.sr f.q [f.a]) (fun c s =>
    let ref := (c.reg f.a).v
    match c.feeding with
    | some (st, blk) => .done (holdPub st (seqPub c blk false ref scope.toNat) c s)
    | none =>
      let r := publish (seqVf s c) c.stand? ref s
      match r.2.cause with
      | some cause => .trap s cause 0 (r.2.info ref)
      | none => .done (r.1.updCtx c.id fun x => { x with
          tagctl := BitVec.ofNat 64 (putBits x.tagctl.toNat 0 3 r.2.code) })) s

/-- SR.TAGQ (R190): an invalid tid or tile traps; a result of 1 acquires. -/
def execSrTagq (f : SR) (s : State) : Out :=
  runSeq (.srTagq f) (.sr f.q [f.a]) (fun c s =>
    let ref := (c.reg f.a).v
    match query s (seqVf s c) ref with
    | none => .trap s 0x08 0 ref
    | some r => .done (setReg c f.d ⟨BitVec.ofNat 64 r, false⟩ s)) s

/-- SR.TAGG (R191): at once outside a block, held by a context that feeds one. -/
def execSrTagg (f : SR) (s : State) : Out :=
  runSeq (.srTagg f) (.sr f.q [f.a]) (fun c s =>
    let a := (c.reg f.a).v
    if 4096 ≤ a.toNat then .trap s 0x08 0 a
    else
      match c.feeding with
      | some (st, blk) =>
        (match s.tensor? (seqVf s c) a.toNat with
        | some e => if e.p then .done (holdPub st (seqPub c blk true (a <<< 48) 0) c s) else .trap s 0x08 0 a
        | none => .trap s 0x08 0 a)
      | none =>
        let r := advance (seqVf s c) a.toNat s
        match r.2 with
        | some cause => .trap r.1 cause 0 a
        | none => .done r.1) s

/-! ## Timeline reads (R192) -/

/-- SR.TLRD: a counter, or with a[8] the rejection flag, which the read clears. [DEDUCED, log 16] -/
def seqTlrd (i : Instr) (f : SR) (v : Bool) (s : State) : Out :=
  runSeq i (.sr f.q []) (fun c s =>
    let a := (c.reg f.a).v
    let n := a.toNat % 256
    if 512 ≤ a.toNat then .trap s 0x08 0 a
    else match c.bind, seqEng? s c n with
      | .stand st, some e =>
        if a.toNat / 256 % 2 = 1 then
          .done (setReg c f.d ⟨if e.err then 1 else 0, false⟩ (s.updStand st fun t => t.updEng n fun e => { e with err := false }))
        else .done (setReg c f.d ⟨BitVec.ofNat 64 (e.count v), false⟩ s)
      | _, _ => .trap s 0x08 0 a) s

/-- SR.TLRD R. -/
def execSrTlrdR (f : SR) (s : State) : Out := seqTlrd (.srTlrdR f) f false s
/-- SR.TLRD V. -/
def execSrTlrdV (f : SR) (s : State) : Out := seqTlrd (.srTlrdV f) f true s

end Sys2Proof.Machine
end

