-- ==== Sys2Proof/Machine/Engine.lean ====
section
/-! DEFINITION. Engine contexts (R164, R165, R193, R304 to R314, R320, R328, R348, R350): the sides of a command, its
acceptance, moving elements, its end or failure, line requests, and the passing of a wave. -/

namespace Sys2Proof.Machine

/-! ## The sides of a command (R304, R305) -/

/-- One side of a command: the tensor as read at issue, its tid, the tile, and for a store-space tensor where it stands. -/
structure Side where
  e : TEnt
  tid : Nat
  co : List Nat
  store : Option StoreAddr
  deriving DecidableEq, Repr

/-- The side that a tensor gives (R304): a cell-store side always uses tile 0. -/
def sideOf (w : BitVec 256) (tid : Nat) (co : List Nat) : Side :=
  let e := tensorEntry w
  match classify e.base with
  | .storeSpace a => ⟨e, tid, [0, 0, 0, 0], some a⟩
  | _ => ⟨e, tid, co, none⟩

/-- The tile coordinates of a command; a copy at scope pod keeps the rank in t3[15:9] (R305). -/
def cmdCo (op : Nat) (f : Skid) : List Nat :=
  [f.t0.toNat, f.t1.toNat, f.t2.toNat, if op = 3 ∧ f.scope = 5 then f.t3.toNat % 512 else f.t3.toNat]

/-- A command names one tile; GATH, SCAT, DISP and CMBN work on the whole tensor, BLAZ and NOPC on none. -/
def usesTile (op : Nat) : Bool := !([4, 5, 6, 7, 0x10, 0x11].contains op)

/-- A command reads the tensor stid names. -/
def readsSrc (op : Nat) : Bool := [1, 2, 3, 4, 6, 8, 0xA, 0xB, 0xC, 0xD, 0xE].contains op

/-- A command reads elements of its source; the commands that act on lines do not. -/
def readsElems (op : Nat) : Bool := [1, 2, 3, 4, 6, 8, 0xD, 0xE].contains op

/-- A command reads the elements of its destination: an L2 operation does (R293, R309). -/
def readsDst (op : Nat) : Bool := op == 8

/-- A command writes the tensor dtid names. -/
def writesDst (op : Nat) : Bool := [1, 2, 3, 5, 7, 8, 9, 0xD, 0xF].contains op

/-- The source side of a command. -/
def Cmd.srcSide (c : Cmd) : Option Side :=
  c.src.map fun w => sideOf w (skidFields c.word).stid.toNat (cmdCo (cmdOp c.word) (skidFields c.word))

/-- The destination side of a command. -/
def Cmd.dstSide (c : Cmd) : Option Side :=
  c.dst.map fun w => sideOf w (skidFields c.word).dtid.toNat (cmdCo (cmdOp c.word) (skidFields c.word))

/-- The command writes global memory, whose writes pass V at a commit (R311). -/
def Cmd.writesGlobal (c : Cmd) : Bool := c.dstSide.any fun d => d.store.isNone

/-- The rank of another package that a copy at scope pod names (R305). -/
def Cmd.awayRank (s : State) (vf : Nat) (c : Cmd) : Option Nat :=
  let f := skidFields c.word
  let r := f.t3.toNat / 512
  if cmdOp c.word = 3 ∧ f.scope = 5 ∧ r ≠ (s.vf vf).mem.pkrank.toNat % 128 then some r else none

/-! ## Acceptance (R65, R69, R165, R283, R304, R305, R309) -/

/-- The place of a side is one that a command may use (R283, R304): no sequencer local memory, no self window; a store of
the box that holds the tile whole. -/
def Side.placeOk (t : Stand) (x : Side) : Bool :=
  match classify x.e.base with
  | .localMem _ => false
  | .self _ => false
  | .storeSpace a =>
    a.pos.col < 7 && a.pos.slot < 16 / t.g && a.pos.dcol < t.kern.w && a.pos.drow < t.kern.h
      && a.off + ceilDiv (x.e.off ((upTo 4).map fun k => x.e.t k - 1) + x.e.width) 8 ≤ 65536 * t.g
  | _ => true

/-- A side's tile lies in the grid (R67). -/
def Side.tileOk (op : Nat) (x : Side) : Bool := !(usesTile op) || x.e.inGrid x.co

/-- The route checks of a streaming command (R165). -/
def routesOk (t : Stand) (op : Nat) (f : Skid) : Bool :=
  match op with
  | 4 => f.route.toNat < t.kern.routes.length
  | 0xE => f.route.toNat < t.kern.routes.length
  | 6 => f.route.toNat + f.t0.toNat ≤ t.kern.routes.length
  | _ => true

/-- The checks on a command's tensors by its kind: a store side agrees with the tensor it exchanges with (R304); operations of R59 on the format
(R309, R308); the value of a ternary fill (R305); the format of a combination (R307). [DEDUCED, log 67] -/
def kindOk (op : Nat) (f : Skid) (src dst : Option Side) : Bool :=
  (match src, dst with
    | some a, some b => (a.store.isNone && b.store.isNone) || (a.e.fmt == b.e.fmt && a.e.es == b.e.es)
    | _, _ => true)
  && (match dst with
    | some b =>
      (op != 8 || !(isFloatTy b.e.fmt) || !([1, 4, 5].contains f.l2op.toNat))
      && (op != 0xD || !(isFloatTy b.e.fmt) || !([4, 5].contains f.l2op.toNat))
      && (op != 9 || b.e.fmt != 0xD || f.stid.toNat % 4 != 2)
      && (op != 7 || b.e.fmt == 0xA || b.e.fmt == 8)
    | none => true)

/-- The entries a command reads at issue, none where it is rejected (R165). [DEDUCED, log 67] [DEDUCED, log 76] -/
def acceptCmd (s : State) (t : Stand) (w : W128) : Option (Option (BitVec 256) × Option (BitVec 256)) :=
  let op := cmdOp w
  let f := skidFields w
  let src := if readsSrc op then s.entry? t.vf f.stid.toNat else none
  let dst := if writesDst op then s.entry? t.vf f.dtid.toNat else none
  let a := src.map fun e => sideOf e f.stid.toNat (cmdCo op f)
  let b := dst.map fun e => sideOf e f.dtid.toNat (cmdCo op f)
  if skidOk op f && routesOk t op f && (!(readsSrc op) || src.isSome) && (!(writesDst op) || dst.isSome)
      && (a.all fun x => x.placeOk t && x.tileOk op && (!(readsElems op) || x.e.r))
      && (b.all fun x => x.placeOk t && x.tileOk op && x.e.w && (!(readsDst op) || x.e.r) && (f.pub == 0 || x.e.p))
      && kindOk op f a b
  then some (src, dst) else none

/-! ## Commands in their context -/

/-- What a command acts on: its engine context, its stand, and itself. -/
structure EngAt where
  key : EKey
  st : Stand
  g : Eng
  c : Cmd
  deriving DecidableEq, Repr

/-- The oldest unfinished command of an engine context. -/
def State.engAt? (s : State) (k : EKey) : Option EngAt :=
  match s.stand? k.stand with
  | none => none
  | some t =>
    match t.eng? k.eng with
    | none => none
    | some g => (g.cmds.find? fun c => !c.finished).map fun c => ⟨k, t, g, c⟩

/-- Change an engine context. -/
def updEngine (k : EKey) (f : Eng → Eng) (s : State) : State := s.updStand k.stand fun t => t.updEng k.eng f

/-- Change a command of an engine context. -/
def updCmd (k : EKey) (seq : Nat) (f : Cmd → Cmd) (s : State) : State :=
  updEngine k (fun g => { g with cmds := g.cmds.map fun c => if c.seq = seq then f c else c }) s

/-- Commands that have passed both phases leave the record (R350), up to the first that has not. -/
def dropPassed : List Cmd → List Cmd
  | [] => []
  | c :: cs => if c.finished && c.passR && c.passV then dropPassed cs else c :: cs

/-- Withdraw the line requests of a command. -/
def dropRequests (k : EKey) (seq : Nat) (s : State) : State :=
  let keep (r : SliceReq) : Bool := !(r.eng == k && r.seq == seq)
  { s with
    slices := s.slices.map fun x => { x with queue := x.queue.filter keep, filling := x.filling.filter keep }
    fab := { s.fab with reqs := s.fab.reqs.filter keep } }

/-- The BLAZE that an engine emits after a command (R369). -/
def lateBlaze (k : EKey) (seq : Nat) (s : State) : State :=
  match (s.stand? k.stand).bind fun t => t.wave with
  | none => s
  | some w =>
    match w.emit.find? fun x => x.1 == k.eng && x.2.1 == seq with
    | none => s
    | some x => emitBlaze k.stand w.num w.flags k.eng x.2.2
        (s.updStand k.stand fun t => { t with wave := some { w with emit := w.emit.filter fun y => y.1 != k.eng } })

/-- A command ends: it has passed R; it passes V at once unless its global writes are still held (R311). -/
def endCmd (k : EKey) (c : Cmd) (s : State) : State :=
  let s1 := updCmd k c.seq (fun x => { x with finished := true, passR := true, passV := !c.writesGlobal, paused := false }) s
  lateBlaze k c.seq (updEngine k (fun g => { g with cmds := dropPassed g.cmds }) s1)

/-- The reference that a command's pub flag publishes (R111, R305), with the entry read at issue. -/
def Side.ref (x : Side) : W64 :=
  BitVec.ofNat 64 (x.tid * 2 ^ 48 + x.e.gen * 2 ^ 40 + x.e.tileIndex x.co)

/-- The publication that a command's pub flag requests (R111). -/
def Cmd.pub? (k : EKey) (c : Cmd) : Option HeldPub :=
  let f := skidFields c.word
  if f.pub = 1 then c.dstSide.map fun d => ⟨false, d.ref, f.scope.toNat, c.block, 2, 0, 0, ⟨0, 0, k.eng, 0⟩, c.seq, 0⟩ else none

/-- A held publication is that of a command's pub flag. -/
def HeldPub.ofCmd (k : EKey) (seq : Nat) (p : HeldPub) : Bool := p.src == 2 && p.pos.col == k.eng && p.seq == seq

/-- The publication of a command is requested: it takes its place among those held for the block (R111). -/
def requestPub (k : EKey) (c : Cmd) (s : State) : State :=
  match c.pub? k with
  | none => s
  | some p => s.updStand k.stand fun t => if t.held.any (·.ofCmd k c.seq) then t else { t with held := t.held ++ [p] }

/-- A command that fails publishes nothing: R310 is silent on it. [DESIGN CHOICE, log 191] -/
def withdrawPub (k : EKey) (c : Cmd) (s : State) : State :=
  s.updStand k.stand fun t => { t with held := t.held.filter fun p => !(p.ofCmd k c.seq) }

/-- A command ends well; its publication, requested when it was received, stays held for its block (R111). -/
def finishCmd (k : EKey) (c : Cmd) (s : State) : State := endCmd k c (requestPub k c s)

/-- Tokens of an engine context are on the rides. [DEDUCED, log 134] -/
def State.sending (s : State) (k : EKey) : Bool := s.fab.packets.any fun p => p.sender == .eng k

/-- A command that moves only tokens has sent its last one: it ends once that has entered its queue (R311).
[DEDUCED, log 134] -/
def endStream (k : EKey) (c : Cmd) (s : State) : State :=
  if s.sending k then updCmd k c.seq (fun x => { x with todo := some [] }) s else finishCmd k c s

/-- The part of a collective that a command has not taken the result of goes with the command. -/
def dropPart (k : EKey) (c : Cmd) (s : State) : State :=
  if cmdOp c.word = 0xD then updColls (fun l => l.filter fun p => p.cmd != some (k, c.seq) || p.stage == .joined) s else s

/-- A command fails (R310): the context's error bit, a record that holds the stand, and the end of the command with the
writes it has made; the rows that a CMBN has not completed go with it (R307). -/
def failCmd (k : EKey) (c : Cmd) (cause : Nat) (s : State) : State :=
  let last := ((s.stand? k.stand).map (·.lastWave)).getD 0
  let s1 := updEngine k (fun g => { g with err := true, rows := if cmdOp c.word = 7 then [] else g.rows })
    (endCmd k c (withdrawPub k c (dropPart k c (dropRequests k c.seq s))))
  trapStand k.stand ⟨cause, 0, 2, ⟨0, 0, k.eng, 0⟩, 0, BitVec.ofNat 32 last, 0, c.word.extractLsb' 64 32,
    c.word.extractLsb' 96 32, BitVec.ofNat 32 c.seq, 0⟩ false s1

/-- A command that should not have been accepted passes at once with the error bit set (R165). -/
def rejectCmd (k : EKey) (c : Cmd) (s : State) : State :=
  withdrawPub k c (updEngine k (fun g => { g with err := true, cmds := dropPassed (g.cmds.map fun x =>
    if x.seq = c.seq then { x with finished := true, passR := true, passV := true } else x) }) s)

/-! ## Reading and writing elements (R304, R309, R326) -/

/-- Translation for an engine context of a stand, through its island's TLB (R293); only virtual addresses are reached so.
[DEDUCED, log 76] -/
def engTrans (s : State) (t : Stand) (acc : Access) (a : Nat) : Option Phys :=
  match classify a with
  | .virt va => translate s.mem s.svc.memtop (s.vf t.vf).mem (islandUnit t.isl) va acc
  | _ => none

/-- A command has used the translations of elements of a side: the island's TLB holds their pages (R293). -/
def touchEls (t : Stand) (x : Side) (ixs : List (List Nat)) (s : State) : State :=
  match x.store with
  | some _ => s
  | none => ((ixs.filter x.e.inExt).foldl (fun acc ix => if acc.contains (x.e.addr ix / 65536) then acc else x.e.addr ix / 65536 :: acc) []).foldl
      (fun acc a => acc.tlbFill t.vf (islandUnit t.isl) (65536 * a)) s

/-- One element of a store-space tensor. -/
def storeEl (m : Memory) (e : TEnt) (off : Nat) (ix : List Nat) : TileEl :=
  if e.inExt ix = false then ⟨0, false⟩
  else
    let a := off + e.off ix / 8
    ⟨e.pick ix (m.readN a e.bytes), m.poisoned a⟩

/-- Elements of a side, or the first address that does not translate (R304: no full/empty test; R326: with the segment). -/
def readEls (s : State) (t : Stand) (x : Side) (ixs : List (List Nat)) : Except Nat (List TileEl) :=
  match x.store with
  | some a => .ok (ixs.map (storeEl (t.weave a.pos).store x.e a.off))
  | none => readTileEls (engTrans s t .read) (standView s.mem t.seg) x.e ixs

/-- What a write of elements gives: done, an address that does not translate, or no room in the segment. -/
inductive WriteAns where
  | ok (s : State)
  | fault
  | full
  deriving DecidableEq, Repr

/-- Change the store of a weave of a stand. [DEDUCED, log 41] -/
def updStore (st : Nat) (p : WPos) (f : Memory → Memory) (s : State) : State :=
  s.updWeave ⟨st, p⟩ fun w => { w with store := f w.store }

/-- Hold operations of an engine. -/
def holdEng (k : EKey) (ops : List SegOp) (s : State) : WriteAns :=
  match tryHold k.stand (.eng k.eng) ops s with
  | some s1 => .ok s1
  | none => .full

/-- Write elements to a side: a store at once, global memory through the segment. -/
def writeEls (k : EKey) (x : Side) (ixs : List (List Nat)) (els : List TileEl) (s : State) : WriteAns :=
  match x.store, s.stand? k.stand with
  | some a, _ =>
    .ok (addBytes k.stand (elBytes x.e ixs) (updStore k.stand a.pos (fun m =>
      (tileParts { x.e with base := a.off } ixs els).foldl (fun acc p =>
        (p.2.ops acc (4 * p.1)).foldl Memory.applyOp acc) m) s))
  | none, some t =>
    (match partOps (engTrans s t .write) (standView s.mem t.seg) (tileParts x.e ixs els) with
    | .error _ => .fault
    | .ok ops => holdEng k ops (touchEls t x ixs s))
  | none, none => .fault

/-- The writes to another package of the pod that word parts make: whole words, or bytes with their masks.
[DEDUCED, log 69] -/
def awayOps (rank vf : Nat) (parts : List (Nat × WordPart)) : List SegOp :=
  (parts.map fun p =>
    if p.2.mask = 2 ^ 32 - 1 then [SegOp.away rank vf (4 * p.1) (bytesLE 4 p.2.val) 0xFF p.2.poison]
    else (upTo 4).filterMap fun j =>
      let b := bitsAt p.2.mask (8 * j) 8
      if b = 0 then none
      else some (SegOp.away rank vf (4 * p.1 + j) [BitVec.ofNat 8 (bitsAt p.2.val (8 * j) 8)] (BitVec.ofNat 8 b) p.2.poison)).flatten

/-- The operand of an L2 operation on an element: a digit acts on its byte, with a mask of the digit in bits [15:8]. -/
def l2Operand (e : TEnt) (ix : List Nat) (v : Nat) : W32 :=
  if e.fmt = 0xD then BitVec.ofNat 32 (4 ^ (e.off ix % 8 / 2) * (v + 3 * 256)) else BitVec.ofNat 32 v

/-- The elements of L2 operations by physical line, or none where an address does not translate. -/
def l2Groups (tr : Nat → Option Phys) (e : TEnt) :
    List (List Nat × TileEl) → Option (List (Nat × List (Nat × W32 × Bool)))
  | [] => some []
  | (ix, x) :: rest =>
    match l2Groups tr e rest with
    | none => none
    | some l =>
      if e.inExt ix = false then some l
      else match tr (e.addr ix) with
        | none => none
        | some p => some (storeNat (p.pa / 128) ((p.pa, l2Operand e ix x.v, x.poison) :: (lookupNat (p.pa / 128) l).getD []) l)

/-- Apply an L2 operation of elements to a side (R309): to a store at once, to global memory at commit. -/
def reduceEls (k : EKey) (code : Nat) (x : Side) (ixs : List (List Nat)) (els : List TileEl) (s : State) : WriteAns :=
  match x.store, s.stand? k.stand with
  | some a, _ =>
    .ok (addBytes k.stand (elBytes x.e ixs) (updStore k.stand a.pos (fun m =>
      (ixs.zip els).foldl (fun acc p =>
        if x.e.inExt p.1 then
          acc.applyEl code (BitVec.ofNat 4 x.e.fmt) (a.off + x.e.off p.1 / 8, l2Operand x.e p.1 p.2.v, p.2.poison)
        else acc) m) s))
  | none, some t =>
    (match l2Groups (engTrans s t .both) x.e (ixs.zip els) with
    | none => .fault
    | some l => holdEng k (l.map fun p => SegOp.op code (BitVec.ofNat 4 x.e.fmt) p.2) s)
  | none, none => .fault

/-- Put elements into a command's destination as its kind requires. -/
def putEls (k : EKey) (c : Cmd) (x : Side) (ixs : List (List Nat)) (els : List TileEl) (s : State) : WriteAns :=
  if cmdOp c.word = 8 then reduceEls k ((skidFields c.word).l2op.toNat - 1) x ixs els s
  else
    let vf := ((s.stand? k.stand).map (·.vf)).getD 0
    match c.awayRank s vf with
    | some r => holdEng k (awayOps r vf (tileParts x.e ixs els)) s
    | none => writeEls k x ixs els s

/-- A write that found no room: the context pauses and a wave is forced (R328). [DEDUCED, log 64] -/
def pauseCmd (k : EKey) (c : Cmd) (s : State) : State :=
  requestWave k.stand WaveFlags.none (updCmd k c.seq (fun x => { x with paused := true }) s)

/-- Go on after a write. -/
def afterWrite (k : EKey) (c : Cmd) (s : State) (next : State → State) : WriteAns → State
  | .ok s1 => next (updCmd k c.seq (fun x => { x with paused := false }) s1)
  | .fault => failCmd k c 0x07 s
  | .full => pauseCmd k c s

/-! ## Tiles by lines (R305, R313, R314) -/

/-- Append a number that a list does not hold. -/
def addOnce (l : List Nat) (x : Nat) : List Nat := if l.contains x then l else l ++ [x]

/-- The virtual line of an element. -/
def Side.vline (x : Side) (ix : List Nat) : Nat := x.e.addr ix / 128

/-- The lines of global memory that a tile touches, in the order of the first element each carries (R313). -/
def Side.lines (x : Side) : List Nat :=
  ((x.e.tileElems x.co).filter x.e.inExt).foldl (fun acc ix => addOnce acc (x.vline ix)) []

/-- The store line of an element. -/
def storeLine (e : TEnt) (off : Nat) (ix : List Nat) : Nat := (off + e.off ix / 8) / 128

/-- Set the full bits of store lines. -/
def setFull (st : Nat) (p : WPos) (ls : List Nat) (s : State) : State :=
  s.updWeave ⟨st, p⟩ fun w => { w with full := ls.foldl (fun acc l => insertNat l acc) w.full }

/-- The pairs of elements that a copy moves, in tile order (R67, R304). [DEDUCED, log 68] -/
def movePairs (a b : Side) : List (List Nat × List Nat) := (a.e.tileElems a.co).zip (b.e.tileElems b.co)

/-- The line whose request carries a pair (R313): that of the source, or, of a reduction from a store, that of the
destination; none for elements beyond the extents. -/
def pairLine (a b : Side) (q : List Nat × List Nat) : Option Nat :=
  if a.store.isSome then (if b.e.inExt q.2 then some (b.vline q.2) else none)
  else if a.e.inExt q.1 then some (a.vline q.1) else none

/-- Store lines that a line still to arrive covers (R74, R313). -/
def awaitedLines (a b : Side) (off : Nat) (todo : List Nat) : List Nat :=
  ((movePairs a b).filter fun q => b.e.inExt q.2 && (pairLine a b q).any fun l => todo.contains l).map fun q => storeLine b.e off q.2

/-- Set F on the store lines of moved elements, all of whose elements have moved (R74). -/
def markFull (k : EKey) (c : Cmd) (b : Side) (moved : List (List Nat × List Nat)) (s : State) : State :=
  match b.store with
  | none => s
  | some p =>
    if (skidFields c.word).fe = 0 then s
    else setFull k.stand p.pos ((moved.filter fun q => b.e.inExt q.2).foldl (fun acc q => addOnce acc (storeLine b.e p.off q.2)) []) s

/-- Move elements of a copy or reduction, those beyond the source's extents as zeros. [DEDUCED, log 68] -/
def moveEls (k : EKey) (c : Cmd) (a b : Side) (ps : List (List Nat × List Nat)) (s : State) : WriteAns :=
  match s.stand? k.stand with
  | none => .fault
  | some t =>
    match readEls s t a (ps.map (·.1)) with
    | .error _ => .fault
    | .ok els =>
      let s1 := if a.store.isSome then addBytes k.stand (elBytes a.e (ps.map (·.1))) s else touchEls t a (ps.map (·.1)) s
      putEls k c b (ps.map (·.2)) els s1

/-- A context that a wave or a hold has stopped. -/
def State.engHalted (s : State) (k : EKey) : Bool := ((s.stand? k.stand).bind fun t => t.eng? k.eng).any (·.halted)

/-- A reply that would fail its command: of a stopped context the command stays, and requests the line again when it goes on. -/
def failReply (k : EKey) (c : Cmd) (cause line : Nat) (s : State) : State :=
  if s.engHalted k then updCmd k c.seq (fun x => { x with asked := removeNat line x.asked }) s else failCmd k c cause s

/-- A command takes elements from its source, with the lines still to come: they wait with it until they are written (R313). -/
def takeEls (k : EKey) (c : Cmd) (a b : Side) (ps : List (List Nat × List Nat)) (todo : List Nat) (fail : State → State)
    (s : State) : State :=
  match s.stand? k.stand with
  | none => s
  | some t =>
    match readEls s t a (ps.map (·.1)) with
    | .error _ => fail s
    | .ok els =>
      let got := (ps.zip (els.map fun e => (BitVec.ofNat 32 e.v, e.poison))).filter fun x => b.e.inExt x.1.2
      let s1 := if a.store.isSome then addBytes k.stand (elBytes a.e (ps.map (·.1))) s else s
      updCmd k c.seq (fun y => { y with todo := some todo, kept := y.kept ++ got }) s1

/-- Of the elements that wait with a command, those that it writes next, and the rest: in a store, all whose store line awaits no
other reply (R313); in global memory, those of one line, so that a full segment holds back no more than that (R328). -/
def Cmd.due (c : Cmd) (a b : Side) :
    List ((List Nat × List Nat) × (W32 × Bool)) × List ((List Nat × List Nat) × (W32 × Bool)) :=
  match b.store, c.kept with
  | some p, l =>
    let waiting := awaitedLines a b p.off (c.todo.getD [])
    l.partition fun x => !(waiting.contains (storeLine b.e p.off x.1.2))
  | none, [] => ([], [])
  | none, x :: l => (x :: l).partition fun y => b.vline y.1.2 == b.vline x.1.2

/-- A command writes the elements that are due. -/
def writeDue (k : EKey) (c : Cmd) (a b : Side) (s : State) : State :=
  let x := c.due a b
  afterWrite k c s (fun s2 => markFull k c b (x.1.map (·.1)) (updCmd k c.seq (fun y => { y with kept := x.2 }) s2))
    (putEls k c b (x.1.map (·.1.2)) (x.1.map fun y => ⟨y.2.1.toNat, y.2.2⟩) s)

/-! ## Line requests on the rides (R124, R288, R313 to R315) -/

/-- A slice belongs to a partition. -/
def Part.has (p : Part) (i : SliceId) : Bool := (upTo p.psize).any fun k => (lookupNat k p.ents).getD ⟨0, 0⟩ == i

/-- The guard of a slice's ride port (R134): slices 2n and 2n + 1 stand at compartment n. [DESIGN CHOICE, log 180] -/
def sliceGuard (i : SliceId) : Guard := ⟨i.die, i.idx / 2 % 16, i.idx / 32, 0x7F, 0, true⟩

/-- A slice drops a request of a VF whose partition it is not in (R134); the header bits of such a packet are left open.
[DESIGN CHOICE, log 108] -/
def dropForeign (i : SliceId) (s : State) : State :=
  guardDrop (sliceGuard i) 0 (Config.freeWord s.free) { s with free := s.free + 1 }

/-- A request at the head of its ride (R134, R288, R315), with the rides of dies that a full queue holds back so far: it enters
its slice's queue, or waits where that is full or another waits ahead of it, or a PCMD of its VF holds it, which holds back no
other; one of a VF to whose partition the slice does not belong is dropped. [DEDUCED, log 106] -/
def admitReq (x : State × List (Nat × Nat)) (r : SliceReq) : State × List (Nat × Nat) :=
  let h := r.home x.1
  let vf := (((x.1.stand? r.eng.stand).map (·.vf)).getD 0)
  if x.1.memHeld vf || x.2.contains (h.die, r.ride) then x
  else
    let s1 : State := { x.1 with fab := { x.1.fab with reqs := x.1.fab.reqs.filter fun y => y.id != r.id } }
    if (x.1.vf vf).mem.part.has h = false then (dropForeign h s1, x.2)
    else if x.1.queueRoomAt h r.ride then
      (s1.setSlice { s1.slice h with queue := (s1.slice h).queue ++ [r] }, x.2)
    else (x.1, x.2 ++ [(h.die, r.ride)])

/-- Requests that wait on the rides enter their slices' queues, oldest first (R288, R314, R315). -/
def admitReqs (s : State) : State := injectWaiting (s.fab.reqs.foldl admitReq (s, [])).1

/-- Issue the request of the first line not yet requested, one for each line (R313), on the ride that R124 chooses: one that does
not translate fails the command, or for PFMC is dropped; full injection buffers hold it back (R288). -/
def issueLine (k : EKey) (c : Cmd) (t : Stand) (todo : List Nat) (s : State) : State :=
  match todo.find? fun l => !(c.asked.contains l) with
  | none => s
  | some l =>
    match engTrans s t (if cmdOp c.word = 8 ∧ (c.srcSide.any fun a => a.store.isSome) then .both else .read) (128 * l) with
    | none =>
      if cmdOp c.word = 0xA then updCmd k c.seq (fun x => { x with todo := some (removeNat l todo) }) s
      else failCmd k c 0x07 s
    | some p =>
      match rideFor s t.vf t.die (s.injected t.die (.eng k)) with
      | none => s
      | some ride =>
        let s1 := updCmd k c.seq (fun x => { x with asked := x.asked ++ [l] })
          (touchRide t.die ride (s.tlbFill t.vf (islandUnit t.isl) (128 * l)))
        admitReqs { s1 with fab := { s1.fab with
          nextId := s1.fab.nextId + 1, reqs := s1.fab.reqs ++ [⟨s1.fab.nextId, k, c.seq, p.pa / 128, l, ride⟩] } }

/-- The command that a reply belongs to. -/
def replyCmd? (s : State) (r : SliceReq) : Option Cmd :=
  match (s.stand? r.eng.stand).bind fun t => t.eng? r.eng.eng with
  | none => none
  | some g => g.cmds.find? fun c => c.seq == r.seq && !c.finished && (c.todo.getD []).contains r.vline

/-- A refused pin counts in LKREF (R289, R305). [DEDUCED, log 81] -/
def countRefused (vf n : Nat) (s : State) : State :=
  s.updVf vf fun v => { v with mem := { v.mem with lkref := (satAdd32 (v.mem.lkref.setWidth 32) n).setWidth 64 } }

/-- The elements of one line arrive (R313): the command takes them, or the line is pinned or unpinned as it says. -/
def moveLine (r : SliceReq) (s0 : State) : State :=
  match replyCmd? s0 r, s0.stand? r.eng.stand with
  | some c, some t =>
    let k := r.eng
    let s := touchRide t.die r.ride s0
    let todo := removeNat r.vline (c.todo.getD [])
    let drop (s1 : State) : State := updCmd k c.seq (fun x => { x with todo := some todo }) s1
    (match cmdOp c.word, c.srcSide, c.dstSide with
    | 0xA, _, _ => drop s
    | 0xB, _, _ =>
      if (standView s.mem t.seg).anyPoison (128 * r.line) 128 then failReply k c 0x06 r.vline s
      else
        (match engTrans s t .read (128 * r.vline) with
        | none => failReply k c 0x07 r.vline s
        | some p =>
          let q := pinLine t.vf p s
          drop (if q.2 = 0 then q.1 else countRefused t.vf 1 q.1))
    | 0xC, _, _ => drop (unpinLine t.vf (128 * r.line) s).1
    | _, some a, some b =>
      takeEls k c a b ((movePairs a b).filter fun q => pairLine a b q == some r.vline) todo (failReply k c 0x07 r.vline) s
    | _, _, _ => s)
  | _, _ => s0

/-- The lines that a copy or reduction requests (R313): those of a source in global memory, or those of the destination that
a reduction from a store reads. -/
def moverLines (op : Nat) (a b : Side) : List Nat :=
  if a.store.isNone then a.lines else if op = 8 ∧ b.store.isNone then b.lines else []

/-- A copy from a store to global memory, one line of the destination a step, so that a full segment holds back no more than
that (R328). -/
def copyOut (k : EKey) (c : Cmd) (a b : Side) (s : State) : State :=
  match c.todo with
  | none => updCmd k c.seq (fun y => { y with todo := some b.lines }) s
  | some [] => finishCmd k c s
  | some (l :: rest) =>
    afterWrite k c s (updCmd k c.seq fun y => { y with todo := some rest })
      (moveEls k c a b ((movePairs a b).filter fun q => pairLine a b q == some l) s)

/-- A copy or reduction (CPYGL, CPYLG, CPYGG, REDC): between stores it moves whole; a copy out of a store goes line by line;
any other requests its lines and writes what their replies bring, with what belongs to no line (R67). -/
def moverStep (x : EngAt) (s : State) : State :=
  let k := x.key
  let c := x.c
  match c.srcSide, c.dstSide with
  | some a, some b =>
    if a.store.isSome ∧ b.store.isSome then
      afterWrite k c s (fun s1 => finishCmd k c (markFull k c b (movePairs a b) s1)) (moveEls k c a b (movePairs a b) s)
    else if a.store.isSome ∧ cmdOp c.word ≠ 8 then copyOut k c a b s
    else
      (match c.todo with
      | none =>
        takeEls k c a b ((movePairs a b).filter fun q => (pairLine a b q).isNone) (moverLines (cmdOp c.word) a b) (failCmd k c 0x07) s
      | some todo =>
        if (c.due a b).1.isEmpty = false then writeDue k c a b s
        else if todo.isEmpty then finishCmd k c s
        else issueLine k c x.st todo s)
  | _, _ => rejectCmd k c s

/-- A command on the lines of a tile (PFMC, LKMC, ULMC); a tile in a store has no line to fetch or pin, and every line
of it is refused (R290). -/
def lineStep (x : EngAt) (s : State) : State :=
  let k := x.key
  let c := x.c
  match c.srcSide with
  | none => rejectCmd k c s
  | some a =>
    match a.store with
    | some p =>
      let n := (((a.e.tileElems a.co).filter a.e.inExt).foldl (fun acc ix => addOnce acc (storeLine a.e p.off ix)) []).length
      finishCmd k c (if cmdOp c.word = 0xB then countRefused x.st.vf n s else s)
    | none =>
      match c.todo with
      | none => updCmd k c.seq (fun y => { y with todo := some a.lines }) s
      | some [] => finishCmd k c s
      | some todo => issueLine k c x.st todo s

/-! ## Stream ports (R305 to R307) -/

/-- Take the head token off an engine's stream port. [DEDUCED, log 64] -/
def takeToken (k : EKey) (s : State) : State :=
  addBytes k.stand 64 (updEngine k (fun g => { g with port := { g.port with q := g.port.q.drop 1, head := g.port.head + 1 } }) s)

/-- Send a token on a route of the stand (R305). [DEDUCED, log 80] -/
def sendTok (k : EKey) (route : Nat) (tok : Tok) (s : State) : State := addBytes k.stand 64 (engineSend k.stand k.eng route tok s)

/-- The FAULT token of a cause (R294). [DEDUCED, log 80] -/
def faultTok (cause : Nat) : Tok := ctlTok 9 (BitVec.ofNat 32 cause)

/-- The cause a FAULT token carries. -/
def Tok.cause (t : Tok) : Nat := (nth (⟨0, false⟩ : Lane) t.lanes 0).v.toNat % 256

/-- Data lanes that hold packed elements, and the rest zero. -/
def lanesOfEls (w : Nat) (xs : List TileEl) : List Lane :=
  (chunks (32 / w) xs.length xs).map fun c => ⟨BitVec.ofNat 32 (packElems w (c.map (·.v))), c.any (·.poison)⟩

/-- A data token of packed elements. -/
def dataTok (w : Nat) (xs : List TileEl) : Tok := Tok.fit ⟨0, lanesOfEls w xs, false, 0, false⟩

/-- n packed elements of a token. -/
def elsOfTok (w n : Nat) (t : Tok) : List TileEl :=
  (upTo n).map fun j =>
    let l := nth (⟨0, false⟩ : Lane) t.lanes (w * j / 32)
    ⟨bitsAt l.v.toNat (w * j % 32) w, l.poison⟩

/-- Tokens that n elements fill. -/
def tokensFor (w n : Nat) : Nat := ceilDiv (w * n) 512

/-- The elements of token number n of a list. -/
def tokenPart {α : Type} (w n : Nat) (l : List α) : List α := (l.drop (512 / w * n)).take (512 / w)

/-! ## Passing a wave (R320, R341, R348, R350, R369) -/

/-- A command cannot go on: it waits for tokens, for other members of a collective, or for room in the segment. -/
def Eng.stuck (g : Eng) (c : Cmd) : Bool :=
  c.paused || cmdOp c.word == 0xD || ([4, 5, 6, 7, 0xF].contains (cmdOp c.word) && g.port.q.isEmpty)

/-- A closing wave waits for the commands received before the feeding ended, as long as they can go on. -/
def Eng.owes (g : Eng) (w : Wave) : Bool :=
  w.flags.close && (match g.cmds.find? fun c => !c.finished with
    | some c => c.seq ≤ w.flags.bound g.no && !(g.stuck c)
    | none => false)

/-- The wave under way that has not passed an engine. -/
def waveBefore (t : Stand) (g : Eng) : Option Wave :=
  match t.wave with
  | some w => if w.committed || (w.engSnaps.any fun x => x.no == g.no) then none else some w
  | none => none

/-- The wave can pass an engine: it has emitted its BLAZE and that of its port has come. -/
def passDue (t : Stand) (g : Eng) : Option Wave :=
  match waveBefore t g with
  | some w => if g.blazed && g.port.blazed && !(g.owes w) then some w else none
  | none => none

/-- An engine as a wave records it: what it received since the injection is not part of it, since the context's snapshot
issues it again (R350); a halt wave, which snapshots no context, keeps all. [DEDUCED, log 74] [DEDUCED, log 135] -/
def Eng.record (w : Wave) (g : Eng) : Eng :=
  let g1 : Eng := { g with port := g.port.image, blazed := false, cmds := g.cmds.map fun c => { c with asked := [] } }
  match lookupNat g.no w.inj with
  | some n => if w.flags.halt then g1 else { g1 with cmds := g1.cmds.filter fun c => c.seq ≤ n, nextSeq := min g1.nextSeq (n + 1), qhead := min g1.qhead n }
  | none => g1

/-- The wave passes an engine (R348, R350): it is recorded, its held writes are covered; a halt stops it, and so
does a wave of a grain change, a move or a pre-emption until it is done. -/
def enginePass (k : EKey) (w : Wave) (g : Eng) (s : State) : State :=
  s.updStand k.stand fun t =>
    let t1 : Stand := { t with
      wave := some { w with engSnaps := w.engSnaps ++ [g.record w] }
      seg := if w.flags.halt then t.seg else sealSeg (.eng k.eng) t.seg
      held := if w.flags.halt then t.held
        else sealHeld (fun p => p.src == 2 && p.pos.col == k.eng && p.seq ≤ (lookupNat k.eng w.inj).getD p.seq) t.held }
    t1.updEng k.eng fun x =>
      if w.flags.halt then { x with halted := true }
      else if w.flags.stops then { x with halted := true, blazed := false, port := x.port.openUp }
      else { x with blazed := false, port := x.port.openUp }

/-- A closing wave is requested that has still to be injected, and the command came after the feeding that it closes: its
tokens follow the closing BLAZE (R369). -/
def closeAhead (t : Stand) (g : Eng) (c : Cmd) : Bool := t.waveReq.any fun fl => fl.close && fl.bound g.no < c.seq

/-- An engine may work on a command now: not stream ahead of a closing BLAZE; before a wave has passed it, not on one received after the injection (R347), nor
send tokens once it has emitted its BLAZE. A stream received after the injection starts only when every weave has taken its
snapshot, since no port waits for a BLAZE on its route (R386) and the context's snapshot issues it again.
[DEDUCED, log 70] [DEDUCED, log 74] -/
def mayWork (t : Stand) (g : Eng) (c : Cmd) : Bool :=
  let streams := !(cmdRoutes c.word).isEmpty
  if streams && closeAhead t g c then false
  else match t.wave with
  | none => true
  | some w =>
    let before := c.seq ≤ (lookupNat g.no w.inj).getD c.seq
    if w.committed then true
    else if w.engSnaps.any fun x => x.no == g.no then before || !streams || t.weaves.all (·.snapped)
    else before && !(g.blazed && streams)

end Sys2Proof.Machine
end

