-- ==== Sys2Proof/Machine/Fetch.lean ====
section
/-! DEFINITION. Fetching the next instruction of an agent (R17, R145, R149, R151, R153, R162, R179), and the states that
hold one instruction to be fetched next. -/

namespace Sys2Proof.Machine

/-- What an agent's turn brings: nothing to execute (with the state that leaves), or an instruction. -/
inductive Fetched where
  | idle (s : State)
  | run (i : Instr) (s : State)

/-- Some context of the sequencer has issued an instruction in this cycle (R168). -/
def State.seqIssued (s : State) (q : SeqId) : Bool :=
  s.seqs.any fun c => sameSequencer c.id q && c.issued == some (s.cyc q.die)

/-- A context's sequencer issues in this cycle (R168). -/
def noteSeq (q : SeqId) (s : State) : State := s.updCtx q fun c => { c with issued := some (s.cyc q.die) }

/-- The next word of a running context, at most one a cycle of its sequencer (R168): past the last word, or a word that R151
refuses, traps with ILLEGAL. [DEDUCED, log 14] [DEDUCED, log 179] -/
def fetchSeq (q : SeqId) (s : State) : Fetched :=
  let c := s.ctx q
  let s1 := noteSeq q s
  if c.run ≠ .running ∨ s.seqIssued q = true then .idle s
  else if c.pc % 4 ≠ 0 then .idle (seqTrap q 0x01 0 s1)
  else match c.text[c.pc / 4]? with
    | none => .idle (seqTrap q 0x01 0 s1)
    | some w =>
      match decodeSeq w with
      | .ok i => .run i { s1 with actor := .seq q }
      | .error _ => .idle (seqTrap q 0x01 (w.setWidth 64) s1)

/-- A task may issue: fired, not stopped by a trap, with no result outstanding, in a weave that a halt has not stopped. -/
def Task.mayIssue (w : Weave) (k : Task) : Bool := k.fired && !k.trapped && k.pend.isNone && !w.halted && !k.yielded

/-- The cause of a refused cell word (R162). -/
def DecodeCause.code : DecodeCause → Nat
  | .illegal => 0x01
  | .reservedField => 0x02

/-- The cause of a refused cell word of a node: a port that the node does not have comes before a reserved field (R154, R162). -/
def refusedCause (n : NodeDesc) (x : W64) (c : DecodeCause) : Nat :=
  match parseCell x with
  | some i => if (cellPorts i).any fun p => !(n.port p).en then 0x01 else DecodeCause.code c
  | none => DecodeCause.code c

/-- The next word of a task: beyond the text it traps with ILLEGAL (R17), a word that R162 refuses with its cause. A
task that gave up its next issue slot (R156 YLD) is passed over once. [DEDUCED, log 179] -/
def fetchTask (k : TKey) (s : State) : Fetched :=
  match s.stand? k.stand with
  | none => .idle s
  | some t =>
    let w := t.weave k.pos
    match w.task? k.nid, t.kern.node? k.pos k.nid with
    | some tk, some n =>
      if tk.yielded then .idle (s.setStand (t.setWeave (w.setTask { tk with yielded := false })))
      else if Task.mayIssue w tk = false then .idle s
      else match n.text[tk.pc]? with
        | none => .idle (cellTrap k 0x01 0 tk.pc 0 0 0 0 s)
        | some x =>
          match decodeCell x with
          | .ok i => .run i { s with actor := .task k }
          | .error c =>
            .idle (cellTrap k (refusedCause n x c) 0 tk.pc (x.extractLsb' 0 32) (x.extractLsb' 32 32) 0 0 s)
    | _, _ => .idle s

/-- What an engine context does next: a wave passes it, or it works on its oldest unfinished command, which leaves the
queue when it starts. [DEDUCED, log 70] -/
def fetchEngine (e : EKey) (s : State) : Fetched :=
  match s.stand? e.stand with
  | none => .idle s
  | some t =>
    match t.eng? e.eng with
    | none => .idle s
    | some g =>
      if g.halted then .idle s
      else match passDue t g with
        | some w => .idle (enginePass e w g s)
        | none =>
          match g.cmds.find? fun c => !c.finished with
          | none => .idle s
          | some c =>
            match decodeSkid c.word with
            | none => .idle s
            | some i =>
              if mayWork t g c = false then .idle s
              else
                let s1 := if c.started then s else s.setStand (t.updEng e.eng fun g => { g with
                  qhead := g.qhead + 1, cmds := g.cmds.map fun x => if x.seq = c.seq then { x with started := true } else x })
                .run i { s1 with actor := .engine e }

/-! ## One instruction in place -/

/-- A kernel of one compartment with one node at column 0, slot 0 and the given texts. -/
def bareKernel (text : List W32) (cell : List W64) (neng : Nat) : Kernel :=
  { kid := 1, w := 1, h := 1, gmin := 0, gmax := 0, nbar := 0, neng := neng
    images := [⟨0, 0, [⟨1, 0, 0, 0, 0, 0, 0, List.replicate 8 PortDesc.none, [], [], cell⟩], []⟩]
    routes := [], rids := PerDie.all [], carries := [], tags := [], text := text, entry := 0, fits := [0] }

/-- The coppice state of placement (R140). -/
def Coppice.placed (now : Nat) : Coppice :=
  ⟨0, 0, 0, false, 0, false, 0, 16, 16, 0x0100, 0x0400, 0x1000, 0x4000, 0, 0, now⟩

/-- A stand of a kernel as placement makes it (R128). [DEDUCED, log 142] -/
def Stand.placed (id vf die col row g isl : Nat) (k : Kernel) (ctx : SeqId) (bars : List Nat) (agns : List Nat) (now : Nat)
    (mode : W32) : Stand :=
  let t : Stand :=
    { id := id, vf := vf, die := die, col := col, row := row, g := g, kern := k, status := .resident, since := now
      lastDispatch := now, isl := isl, ctx := ctx, bars := bars, actx := 0, switchTo := none, lastCond := none, mode := mode
      retry := 3, weaves := [], engs := agns.zipIdx.map fun p => Eng.placed p.2 p.1, seg := [], blocks := []
      nextBlk := 1, held := [], cop := Coppice.placed now, wave := none, waveReq := none, nextWave := 1, lastWave := 0
      lastWaveAt := now, image := none, haltImage := none, isHeld := none, target := .none }
  { t with weaves := placedWeaves t }

/-- The stand that holds one cell word, or one skid command, to be executed next. -/
def oneStand (s : State) (cell : List W64) (cmds : List Cmd) (fired : Bool) : State :=
  let q : SeqId := ⟨0, 0, 0⟩
  let t := Stand.placed s.nextStand 0 0 0 0 1 0 (bareKernel [] cell cmds.length) q [] ((upTo cmds.length)) 0 0
  let t1 := { t with
    engs := t.engs.map fun e => { e with cmds := cmds, nextSeq := 2 }
    weaves := t.weaves.map fun w => { w with tasks := w.tasks.map fun k => { k with fired := fired } } }
  { s with nextStand := s.nextStand + 1, stands := s.stands ++ [t1] }.setCtx (placedCtx q t1)

/-- A state whose next step fetches a sequencer word, a cell word or a skid command. [DESIGN CHOICE, log 4] -/
def placeWord (s : State) (nbits w : Nat) : State :=
  if nbits = 32 then
    let q : SeqId := ⟨0, 0, 0⟩
    let s1 : State := { s with agenda := .seq q :: s.agenda, seqs := s.seqs.map fun c => { c with issued := none } }
    s1.setCtx { SeqCtx.unbound q with
      bind := .root 0, run := .running, text := [BitVec.ofNat 32 (natOfBytesLE (bytesLE 4 w))] }
  else if nbits = 64 then
    { oneStand s [BitVec.ofNat 64 (natOfBytesLE (bytesLE 8 w))] [] true with
      agenda := .task ⟨s.nextStand, ⟨0, 0, 0, 0⟩, 1⟩ :: s.agenda }
  else
    let c : Cmd := ⟨1, BitVec.ofNat 128 (natOfBytesLE (bytesLE 16 w)), none, none, false, 0, none, [], false, false, false, false, 0, [], 0, false, []⟩
    { oneStand s [] [c] false with agenda := .engine ⟨s.nextStand, 0⟩ :: s.agenda }

end Sys2Proof.Machine
end

