-- ==== Sys2Proof/Machine/Cycle.lean ====
section
/-! DEFINITION. A cycle of the module (R1, R27, R172): every die's CYC advances, the watchdogs count, and the turns of the
cycle are listed anew. -/

namespace Sys2Proof.Machine

/-- The priority class of a task. -/
def Stand.classOf (t : Stand) (w : Weave) (k : Task) : Nat := ((t.kern.node? w.pos k.nid).map (·.cls)).getD 0

/-- The order in which the issue stage considers the tasks of a weave (R16): class 0 first, and within a class in rotation from
the task that issued last. The first that can issue does; it is the only one of this cycle (log 166). -/
def issueOrder (t : Stand) (w : Weave) : List Task :=
  let ks := (w.tasks.filter fun k => w.lastNid < k.nid) ++ w.tasks.filter fun k => k.nid ≤ w.lastNid
  ([0, 1, 2, 3].map fun c => ks.filter fun k => t.classOf w k == c).flatten

/-- Turns of the agents of one stand. -/
def standTurns (t : Stand) : List Turn :=
  (t.weaves.map fun w => (issueOrder t w).map fun k => Turn.task ⟨t.id, w.pos, k.nid⟩).flatten
    ++ t.engs.map fun e => Turn.engine ⟨t.id, e.no⟩

/-- Events of a task that take place as soon as their conditions hold. -/
def taskEvents (k : TKey) : List Due :=
  [.instructionCompletion k, .taskWaitExpired k, .backwardBranchLimit k, .inputLineWaitExpired k, .barrierExpired (.task k), .taskFire k]

/-- Events of a weave; a chunk of every multiply under way completes without an error. -/
def weaveEvents (t : Stand) (w : Weave) : List Due :=
  (w.mults.map fun m => Due.matrixChunkComplete ⟨t.id, w.pos⟩ m.tile)
    ++ (w.tasks.map fun k => taskEvents ⟨t.id, w.pos, k.nid⟩).flatten
    ++ [.ctxcSwitch ⟨t.id, w.pos⟩, .weaveSnapshot ⟨t.id, w.pos⟩]

/-- Events of a stand in its box. -/
def standEvents (t : Stand) : List Due :=
  (t.weaves.map (weaveEvents t)).flatten ++ [.waveComplete t.id, .coppiceWindowEnd t.id, .periodicBlaze t.id, .blockDispatch t.die t.id]

/-- Events of a sequencer context. -/
def ctxEvents (q : SeqId) : List Due :=
  [.seqWaitSatisfied q, .seqWaitExpired q, .scmdQueueStallExpired q, .ctxSwitchWaitExpired q, .barrierExpired (.seq q),
   .trapEventDelivery q]

/-- Events of a slice: a request is served, and lines return. -/
def sliceEvents (x : Slice) : List Due :=
  (x.filling.map fun r => if isHost (128 * r.line) then Due.hostMemoryReply r.eng r.line else .gddrFillReturn x.id r.line)
    ++ [.sliceService x.id]

/-- Events of a VF. -/
def vfEvents (v : Nat) : List Due :=
  [.loaderCommandComplete v, .rootBlockLaunch v, .tlbInvalidationComplete v, .pcmdComplete v, .attestationReportComplete v,
   .vfWatchdogExpiry v]

/-- Events of a die. -/
def dieEvents (d : Nat) : List Due :=
  [.publication d, .generationAdvance d, .tagNotification d, .bitmapPoll d, .classPromotion d, .suspendedStandReplace d,
   .standPlacement d, .preemptStarvation d, .errorWindowReset d]
    ++ ((upFrom 1 3).map fun k => [Due.ridePowerUp d k, .ridePowerDown d k]).flatten

/-- Events of the tokens on tracks and rides, and of the open reports. -/
def fabricEvents (f : Fabric) : List Due :=
  (f.flights.map fun x => [Due.trackSegmentHop x.id, .inputBusDelivery x.id]).flatten
    ++ (f.packets.map fun p => Due.ridePacketArrival p.id) ++ (f.reports.map fun r => Due.firebreakReport r.id)

/-- Events of the module outside the dies. -/
def moduleEvents (s : State) : List Due :=
  [.iftStart, .channelMigrationComplete, .firmwareWriteComplete, .vfKeyCommandComplete] ++ s.svc.linkTraining.map .linkTrainingComplete

/-- All turns of a cycle (log 91): what the loader and the VFs have pending, the agents, then the events. What comes from outside, or at a time or with
an outcome that the manual leaves open, stands in the agenda only where it is put there. [DESIGN CHOICE, log 9]
[DESIGN CHOICE, log 146] -/
def dueTurns (s : State) : List Turn :=
  let here := s.stands.filter fun t => t.status == .resident
  ((s.vfs.map fun v => vfEvents v.id).flatten).map Turn.due
    ++ s.seqs.map (fun c => Turn.seq c.id) ++ (here.map standTurns).flatten
    ++ ((here.map standEvents).flatten ++ fabricEvents s.fab ++ (s.slices.map sliceEvents).flatten
      ++ (s.seqs.map fun c => ctxEvents c.id).flatten ++ ([0, 1, 2, 3].map dieEvents).flatten ++ moduleEvents s).map Turn.due

/-- A watchdog counts while its VF holds a record that is not removed and is not suspended (R27, R352). -/
def tickTimer (s : State) (v : Vf) : Vf :=
  if (s.recsOf v.id).isEmpty ∨ s.pf.vfsusp.getLsbD v.id then v else { v with timer := v.timer + 1 }

/-- Ride k of a die has an input buffer more than three-quarters full, with all the packets it holds (R124, R314): one that
requests for some slice wait in. -/
def State.rideFull (s : State) (die k : Nat) : Bool :=
  s.fab.reqs.any fun r => (r.home s).die == die && r.ride == k && rideBuffer ≤ (s.waitsAt k (r.home s)).length

/-- A die with the cycle since which each of its rides has such a buffer. -/
def noteFull (s : State) (die : Nat) : Die :=
  let d := s.die die
  { d with rides := d.rides.zipIdx.map fun p =>
      { p.1 with fullSince := if s.rideFull die p.2 then some (p.1.fullSince.getD d.cyc.toNat) else none } }

/-- The next cycle. The dies' CYC advance together and start alike, a phase that the manual leaves open. [DESIGN CHOICE, log 9]
[DESIGN CHOICE, log 164] -/
def newCycle (s : State) : State :=
  let s1 : State := { s with dies := s.dies.map fun d => { d with cyc := d.cyc + 1 }, vfs := s.vfs.map (tickTimer s) }
  let s2 : State := { s1 with dies := ⟨noteFull s1 0, noteFull s1 1, noteFull s1 2, noteFull s1 3⟩ }
  { s2 with agenda := dueTurns s2 }

end Sys2Proof.Machine
end

