-- ==== Sys2Proof/Machine/CellV.lean ====
section
/-! DEFINITION. The vector integer instructions of a cell (R205 to R212). -/

namespace Sys2Proof.Machine

/-! ## Frames (R205 to R207, R234) -/

/-- Poison of the lanes that the sources of an instruction read for a lane. -/
def srcPoison (c : Cell) (srcs : List (Option Nat)) (l : Nat) : Bool :=
  (c.opd srcs 0 l).poison || (c.opd srcs 1 l).poison || (c.opd srcs 2 l).poison || (c.opd srcs 3 l).poison

/-- The value of source field j (0 a, 1 b, 2 c, 3 e) at a lane. -/
def srcWord (c : Cell) (srcs : List (Option Nat)) (l j : Nat) : W32 := (c.opd srcs j l).v

/-- The lanes that a lane-by-lane instruction writes: a function of the lane's source words, poisoned with them. -/
def lanePend (i : Instr) (f : CG) (g : Cell → Nat → (Nat → W32) → W32) (c : Cell) : Pend :=
  c.result f.d (c.active f) fun l => ⟨g c l (srcWord c (cellSrcs i) l), srcPoison c (cellSrcs i) l⟩

/-- A lane-by-lane instruction (R206). -/
def laneWise (i : Instr) (f : CG) (g : Cell → Nat → (Nat → W32) → W32) (s : State) : Out :=
  runCell i (fun c s => .write c (lanePend i f g c) s) s

/-- A function of elements of width w as a function of lanes: element e of a, b and c gives element e of d. -/
def byElem (w : Nat) (g : Cell → Nat → Nat → Nat → Nat) (c : Cell) (_ : Nat) (x : Nat → W32) : W32 :=
  laneOf w fun e => g c (elemAt w e (x 0)) (elemAt w e (x 1)) (elemAt w e (x 2))

/-- An elementwise integer instruction of type ty (R206). -/
def elementwise (i : Instr) (f : CG) (g : Nat → Nat → Nat → Nat → Nat) (s : State) : Out :=
  laneWise i f (byElem (tyWidth f.ty.toNat) fun _ => g f.ty.toNat) s

/-- The first poisoned source lane among active lanes, with its operand code. -/
def poisonedSrc (c : Cell) (srcs : List (Option Nat)) (act : Nat → Bool) : Option (Nat × Nat) :=
  (upTo 4).findSome? fun j =>
    match nth none srcs j with
    | none => none
    | some x => (poisonedLane (c.opd srcs j) (c.lanesWith act)).map fun l => (x, l)

/-- A predicate producer (R205, R207): a poisoned source lane of an active lane traps before any effect. -/
def predWise (i : Instr) (f : CG) (traps : Bool) (g : Cell → Nat → (Nat → W32) → Bool) (s : State) : Out :=
  runCell i (fun c s =>
    match (if traps then poisonedSrc c (cellSrcs i) (c.active f) else none) with
    | some p => .poison s p.1 p.2
    | none => .write c (c.resultP f.d.toNat (c.active f) fun l => g c l (srcWord c (cellSrcs i) l)) s) s

/-- A condition on the elements of two lanes, combined as aux[3] says (R207). -/
def elemCond (f : CG) (g : Nat → Nat → Bool) (_ : Cell) (_ : Nat) (x : Nat → W32) : Bool :=
  let w := tyWidth f.ty.toNat
  laneBit (f.aux.toNat / 8 % 2 == 0) ((upTo (32 / w)).map fun e => g (elemAt w e (x 0)) (elemAt w e (x 1)))

/-! ## Elementwise instructions (R206) -/

/-- CV.ADD. -/
def execCvAdd (f : CG) (s : State) : Out := elementwise (.cvAdd f) f (fun ty x y _ => intWrap ty (intOf ty x + intOf ty y)) s
/-- CV.SUB. -/
def execCvSub (f : CG) (s : State) : Out := elementwise (.cvSub f) f (fun ty x y _ => intWrap ty (intOf ty x - intOf ty y)) s
/-- CV.MUL. -/
def execCvMul (f : CG) (s : State) : Out := elementwise (.cvMul f) f (fun ty x y _ => intWrap ty (intOf ty x * intOf ty y)) s
/-- CV.MULH: the high half of the exact product. -/
def execCvMulh (f : CG) (s : State) : Out :=
  elementwise (.cvMulh f) f (fun ty x y _ => intWrap ty (intOf ty x * intOf ty y / ((2 ^ tyWidth ty : Nat) : Int))) s
/-- CV.MAD. -/
def execCvMad (f : CG) (s : State) : Out :=
  elementwise (.cvMad f) f (fun ty x y z => intWrap ty (intOf ty x * intOf ty y + intOf ty z)) s
/-- CV.ADDS (R34). -/
def execCvAdds (f : CG) (s : State) : Out := elementwise (.cvAdds f) f (fun ty x y _ => intSat ty (intOf ty x + intOf ty y)) s
/-- CV.SUBS (R34). -/
def execCvSubs (f : CG) (s : State) : Out := elementwise (.cvSubs f) f (fun ty x y _ => intSat ty (intOf ty x - intOf ty y)) s
/-- CV.MIN. -/
def execCvMin (f : CG) (s : State) : Out :=
  elementwise (.cvMin f) f (fun ty x y _ => if intOf ty x ≤ intOf ty y then x else y) s
/-- CV.MAX. -/
def execCvMax (f : CG) (s : State) : Out :=
  elementwise (.cvMax f) f (fun ty x y _ => if intOf ty x ≤ intOf ty y then y else x) s
/-- CV.ABS: the most negative value stays itself. -/
def execCvAbs (f : CG) (s : State) : Out :=
  elementwise (.cvAbs f) f (fun ty x _ _ => intWrap ty ((intOf ty x).natAbs : Int)) s
/-- CV.NEG. -/
def execCvNeg (f : CG) (s : State) : Out := elementwise (.cvNeg f) f (fun ty x _ _ => intWrap ty (-(intOf ty x))) s
/-- CV.AND on whole lanes. -/
def execCvAnd (f : CG) (s : State) : Out := laneWise (.cvAnd f) f (fun _ _ x => x 0 &&& x 1) s
/-- CV.OR. -/
def execCvOr (f : CG) (s : State) : Out := laneWise (.cvOr f) f (fun _ _ x => x 0 ||| x 1) s
/-- CV.XOR. -/
def execCvXor (f : CG) (s : State) : Out := laneWise (.cvXor f) f (fun _ _ x => x 0 ^^^ x 1) s
/-- CV.ANDN. -/
def execCvAndn (f : CG) (s : State) : Out := laneWise (.cvAndn f) f (fun _ _ x => x 0 &&& ~~~(x 1)) s
/-- CV.SEL: the selector is the predicate aux[3:0], whatever the guard. [DEDUCED, log 43] -/
def execCvSel (f : CG) (s : State) : Out :=
  laneWise (.cvSel f) f (fun c l x => if c.w.pbit (f.aux.toNat % 16) l then x 0 else x 1) s
/-- CV.SHL: by b[log2 W − 1 : 0]. -/
def execCvShl (f : CG) (s : State) : Out :=
  elementwise (.cvShl f) f (fun ty x y _ => x * 2 ^ (y % tyWidth ty) % 2 ^ tyWidth ty) s
/-- CV.SHR. -/
def execCvShr (f : CG) (s : State) : Out := elementwise (.cvShr f) f (fun ty x y _ => x / 2 ^ (y % tyWidth ty)) s
/-- CV.SRA: filled with bit W − 1, whatever the signedness. -/
def execCvSra (f : CG) (s : State) : Out :=
  elementwise (.cvSra f) f (fun ty x y _ =>
    wrapInt (tyWidth ty) (toSigned (tyWidth ty) x / ((2 ^ (y % tyWidth ty) : Nat) : Int))) s
/-- CV.ROT. -/
def execCvRot (f : CG) (s : State) : Out :=
  elementwise (.cvRot f) f (fun ty x y _ =>
    (x * 2 ^ (y % tyWidth ty) + x / 2 ^ (tyWidth ty - y % tyWidth ty)) % 2 ^ tyWidth ty) s
/-- CV.CLZ. -/
def execCvClz (f : CG) (s : State) : Out := elementwise (.cvClz f) f (fun ty x _ _ => leadZeros (tyWidth ty) x) s
/-- CV.POPC. -/
def execCvPopc (f : CG) (s : State) : Out := elementwise (.cvPopc f) f (fun ty x _ _ => popCount (tyWidth ty) x) s
/-- CV.MOV. -/
def execCvMov (f : CG) (s : State) : Out := laneWise (.cvMov f) f (fun _ _ x => x 0) s
/-- CV.BITR. -/
def execCvBitr (f : CG) (s : State) : Out := elementwise (.cvBitr f) f (fun ty x _ _ => revBits (tyWidth ty) x) s

/-! ## Predicates (R207, R212) -/

/-- CV.CMP. -/
def execCvCmp (f : CG) (s : State) : Out :=
  predWise (.cvCmp f) f true (elemCond f fun x y =>
    intCond (f.aux.toNat % 8) (intOf f.ty.toNat x) (intOf f.ty.toNat y)) s

/-- CV.TEST: 0 NZ, 1 Z. -/
def execCvTest (f : CG) (s : State) : Out :=
  predWise (.cvTest f) f true (elemCond f fun x y =>
    if f.aux.toNat % 8 = 0 then Nat.land x y != 0 else Nat.land x y == 0) s

/-- The bit of a mode of CV.PSET: 0 BIT, 1 BELOW, 2 LBELOW, 3 ALL. -/
def psetBit (mode : Nat) (c : Cell) (l : Nat) (a : W32) : Bool :=
  match mode with
  | 0 => a.getLsbD 0
  | 1 => l < a.toNat
  | 2 => c.lid.toNat + l < a.toNat
  | _ => true

/-- CV.PSET: only BIT traps on poison (R205). [DEDUCED, log 132] -/
def execCvPset (f : CG) (s : State) : Out :=
  predWise (.cvPset f) f (f.aux == 0) (fun c l x => psetBit f.aux.toNat c l (x 0)) s

/-! ## Immediate, dot products, conversions, counts (R208 to R211) -/

/-- imm24 of a CG word: bits [33:10] (R159). -/
def imm24 (f : CG) : BitVec 24 := f.c ++ f.e ++ f.gp ++ f.gq ++ f.gm ++ f.ch

/-- CV.MOVK: every lane, clean, no guard. -/
def execCvMovk (f : CG) (s : State) : Out :=
  runCell (.cvMovk f) (fun c s => .write c (c.result f.d (fun _ => true) fun _ => ⟨(imm24 f).signExtend 32, false⟩) s) s

/-- The saturation of an exact total to i32 (R54). -/
def satI32 (x : Int) : W32 := BitVec.ofNat 32 (intSat 4 x)

/-- The exact total of CV.DOT4: bytes of type ty and the accumulator. -/
def dot4 (ty : Nat) (a b c : W32) : Int :=
  (upTo 4).foldl (fun t e => t + intOf ty (elemAt 8 e a) * intOf ty (elemAt 8 e b)) (intOf 4 c.toNat)

/-- CV.DOT4. -/
def execCvDot4 (f : CG) (s : State) : Out :=
  laneWise (.cvDot4 f) f (fun _ _ x => satI32 (dot4 f.ty.toNat (x 0) (x 1) (x 2))) s

/-- The value of a t2 code (R38): the reserved code reads as 0. -/
def t2Val (code : Nat) : Int :=
  match code with
  | 1 => 1
  | 3 => -1
  | _ => 0

/-- The exact total of CV.TDOT: digits 4g to 4g + 3 of a. -/
def tdot (g : Nat) (a b c : W32) : Int :=
  (upTo 4).foldl (fun t e => t + t2Val (elemAt 2 (4 * g + e) a) * intOf 0 (elemAt 8 e b)) (intOf 4 c.toNat)

/-- Set the sticky flag T2BAD of the weave's DXST (R38, R273). -/
def markT2 (k : WKey) (bad : Bool) (s : State) : State := if bad then s.updWeave k fun w => { w with dxst := w.dxst ||| 1 } else s

/-- CV.TDOT. -/
def execCvTdot (f : CG) (s : State) : Out :=
  runCell (.cvTdot f) (fun c s =>
    let srcs := cellSrcs (.cvTdot f)
    let g := f.aux.toNat % 4
    let bad := (c.lanesWith (c.active f)).any fun l => (upTo 4).any fun e => elemAt 2 (4 * g + e) (srcWord c srcs l 0) == 2
    .write c (lanePend (.cvTdot f) f (fun _ _ x => satI32 (tdot g (x 0) (x 1) (x 2))) c) (markT2 c.key.weave bad s)) s

/-- The source element of destination element j in CV.CVTI (R210). -/
def cvtiSrc (f : CG) (x : Nat → W32) (j : Nat) : Nat :=
  let wd := tyWidth f.ty.toNat
  let ws := tyWidth (f.aux.toNat % 16)
  if ws < wd then elemAt ws (j + 32 / wd * f.b.toNat) (x 0)
  else elemAt ws (j % (32 / ws)) (x (j / (32 / ws)))

/-- CV.CVTI: a widening names its part in b; clamped or wrapped by aux[4]. -/
def execCvCvti (f : CG) (s : State) : Out :=
  laneWise (.cvCvti f) f (fun _ _ x =>
    laneOf (tyWidth f.ty.toNat) fun j =>
      let v := intOf (f.aux.toNat % 16) (cvtiSrc f x j)
      if f.aux.getLsbD 4 then intSat f.ty.toNat v else intWrap f.ty.toNat v) s

/-- An element tests as nonzero: only ±0 of a float type is zero (R56). -/
def nonzeroElem (ty x : Nat) : Bool := if isFloatTy ty then x % 2 ^ (tyWidth ty - 1) != 0 else x != 0

/-- CV.NZC: bitmap and count of the nonzero elements. -/
def execCvNzc (f : CG) (s : State) : Out :=
  laneWise (.cvNzc f) f (fun _ _ x =>
    let w := tyWidth f.ty.toNat
    let nz := (upTo (32 / w)).filter fun e => nonzeroElem f.ty.toNat (elemAt w e (x 0))
    BitVec.ofNat 32 (sumNat (nz.map (2 ^ ·)) * 256 + nz.length)) s

end Sys2Proof.Machine
end

