-- ==== Sys2Proof/Machine/Trans.lean ====
section
/-! DEFINITION. The correctly rounded special functions of R50, R51 and the twiddle factors of R265. A result is
enclosed between two fixed-point numbers of 400 fraction bits; where both ends round to one encoding, that encoding is
the correctly rounded result, since rounding is monotonic. Where they do not (log 12), the result is one of the two
encodings, chosen by a free value. -/

namespace Sys2Proof.Machine

/-- Fraction bits of the fixed-point numbers. -/
def fixBits : Nat := 400

/-- π · 2^420, rounded down: the mathematical constant. -/
def piFix420 : Nat :=
  0x3243f6a8885a308d313198a2e03707344a4093822299f31d0082efa98ec4e6c89452821e638d01377be5466cf34e90c6cc0ac29b7c

/-- ln 2 · 2^420, rounded down: the mathematical constant. -/
def ln2Fix420 : Nat :=
  0xb17217f7d1cf79abc9e3b39803f2f6af40f343267298b62d8a0d175b8baafa2be7b876206debac98559552fb4afa1b10ed2eae35c

/-- π · 2^400, within one unit below. -/
def piFix : Nat := piFix420 / 2 ^ 20

/-- ln 2 · 2^400, within one unit below. -/
def ln2Fix : Nat := ln2Fix420 / 2 ^ 20

/-- 1 in fixed point. -/
def oneFix : Nat := 2 ^ fixBits

/-- Half-width of every enclosure, in units of 2^(−400): far above the rounding of the series below (at most a few
hundred units). -/
def slack : Nat := 2 ^ 16

/-- Sum of t^n / n! from term n on, `t` below 1 in fixed point, truncating at each step. -/
def expSeries (t : Nat) : Nat → Nat → Nat → Nat
  | 0, _, _ => 0
  | fuel + 1, n, term => if term = 0 then 0 else term + expSeries t fuel (n + 1) (term * t / oneFix / (n + 1))

/-- e^t for 0 ≤ t < 1 in fixed point. -/
def expFix (t : Nat) : Nat := expSeries t 120 0 oneFix

/-- 2^f for 0 ≤ f < 1 in fixed point. -/
def exp2Fix (f : Nat) : Nat := expFix (f * ln2Fix / oneFix)

/-- Sum of z^(2n+1) / (2n + 1). -/
def atanhSeries (z2 : Nat) : Nat → Nat → Nat → Nat
  | 0, _, _ => 0
  | fuel + 1, n, p => if p = 0 then 0 else p / (2 * n + 1) + atanhSeries z2 fuel (n + 1) (p * z2 / oneFix)

/-- log2 of y for 1 ≤ y < 2 in fixed point: ln y = 2 artanh((y − 1)/(y + 1)). -/
def log2Fix (y : Nat) : Nat :=
  let z := (y - oneFix) * oneFix / (y + oneFix)
  2 * atanhSeries (z * z / oneFix) 160 0 z * oneFix / ln2Fix

/-- Alternating sum of θ^k/k! over every second k. -/
def trigSeries (th2 : Nat) : Nat → Nat → Nat → Bool → Int
  | 0, _, _, _ => 0
  | fuel + 1, k, term, neg =>
    if term = 0 then 0
    else (if neg then -(term : Int) else (term : Int))
      + trigSeries th2 fuel (k + 2) (term * th2 / oneFix / ((k + 1) * (k + 2))) (!neg)

/-- cos θ for 0 ≤ θ ≤ 1 in fixed point. -/
def cosFix (th : Nat) : Nat := (trigSeries (th * th / oneFix) 80 0 oneFix false).toNat

/-- sin θ for 0 ≤ θ ≤ 1 in fixed point. -/
def sinFix (th : Nat) : Nat := (trigSeries (th * th / oneFix) 80 1 th false).toNat

/-- Integer square root from below, bit by bit: the largest r with r² ≤ n among r below 2^bits. -/
def isqrt (n : Nat) : Nat → Nat → Nat
  | 0, r => r
  | b + 1, r => let c := r + 2 ^ b; isqrt n b (if c * c ≤ n then c else r)

/-- A result enclosed strictly between two fixed-point magnitudes (units of 2^scale), rounded once; where the two ends
round apart, the encoding is one of the two. [DEDUCED, log 12] -/
def roundBetween (f : FFmt) (rm : RM) (ftz : Bool) (key : Nat × Nat × Nat) (neg : Bool) (lo hi : Nat) (scale : Int) : Nat :=
  let a := f.write rm ftz (.fin neg lo scale)
  let b := f.write rm ftz (.fin neg hi scale)
  if a = b then a else if Config.specialTie key.1 key.2.1 key.2.2 then a else b

/-- An enclosure around a fixed-point approximation. -/
def around (f : FFmt) (rm : RM) (ftz : Bool) (key : Nat × Nat × Nat) (neg : Bool) (x : Nat) (scale : Int) : Nat :=
  roundBetween f rm ftz key neg (x - slack) (x + slack) scale

/-- A magnitude known to lie just below m · 2^e, nearer to it than any rounding boundary (R50: no result is exact). -/
def justBelow (f : FFmt) (rm : RM) (ftz : Bool) (neg : Bool) (m : Nat) (e : Int) : Nat :=
  f.write rm ftz (.fin neg (m * 2 ^ 200 - 1) (e - 200))

/-- A positive magnitude below every rounding boundary of the format. -/
def tinyRes (f : FFmt) (rm : RM) (ftz : Bool) (neg : Bool) : Nat := f.write rm ftz (.fin neg 1 (-2000))

/-- A magnitude above every finite value of the format. -/
def hugeRes (f : FFmt) (rm : RM) (ftz : Bool) (neg : Bool) : Nat := f.write rm ftz (.fin neg 1 2000)

/-- Fixed-point reading of a finite magnitude, truncated. -/
def fixOf (m : Nat) (e : Int) : Nat :=
  let k := e + (fixBits : Int)
  if 0 ≤ k then m * 2 ^ k.toNat else m / 2 ^ (-k).toNat

/-- 2^x for finite nonzero x (R50): the integral part is the exponent, the fraction goes through the series. -/
def exp2Fin (f : FFmt) (rm : RM) (ftz : Bool) (key : Nat × Nat × Nat) (neg : Bool) (m : Nat) (e : Int) : Nat :=
  if 20 < e + (Nat.log2 m : Int) then (if neg then tinyRes f rm ftz false else hugeRes f rm ftz false)
  else
    let x : Int := if neg then -(fixOf m e : Int) else (fixOf m e : Int)
    let n : Int := x / (oneFix : Int)
    let fr := (x % (oneFix : Int)).toNat
    if fr = 0 ∧ (0 ≤ e ∨ m % 2 ^ (-e).toNat = 0) then f.write rm ftz (.fin false 1 n)
    else around f rm ftz key false (exp2Fix fr) (n - (fixBits : Int))

/-- log2 of a positive finite value (R50). -/
def log2Fin (f : FFmt) (rm : RM) (ftz : Bool) (key : Nat × Nat × Nat) (m : Nat) (e : Int) : Nat :=
  let k := Nat.log2 m
  let n : Int := e + (k : Int)
  if m = 2 ^ k then f.write rm ftz (if n = 0 then .fin false 0 0 else FVal.ofInt n)
  else
    let fr := log2Fix (m * 2 ^ (fixBits - k))
    let x : Int := n * (oneFix : Int) + (fr : Int)
    around f rm ftz key (x < 0) x.natAbs (-(fixBits : Int))

/-- 1/x of a finite nonzero value, exactly rounded by a quotient with a sticky bit (R50). -/
def rcpFin (f : FFmt) (rm : RM) (ftz : Bool) (neg : Bool) (m : Nat) (e : Int) : Nat :=
  let q := 2 ^ 200 / m
  let s := if 2 ^ 200 % m = 0 then 2 * q else 2 * q + 1
  f.write rm ftz (.fin neg s (-e - 201))

/-- 1/√x of a positive finite value, by an integer square root with a sticky bit (R50). -/
def rsqFin (f : FFmt) (rm : RM) (ftz : Bool) (m : Nat) (e : Int) : Nat :=
  let m2 := if e % 2 = 0 then m else 2 * m
  let e2 := if e % 2 = 0 then e else e - 1
  let n := 2 ^ 240 / m2
  let r := isqrt n 121 0
  let s := if r * r * m2 = 2 ^ 240 then 2 * r else 2 * r + 1
  f.write rm ftz (.fin false s (-(e2 / 2) - 121))

/-- e^(−t) for t > 0 given as m · 2^e below 2^9, in fixed point with its binary exponent: 2^n · frac. -/
def expNeg (m : Nat) (e : Int) : Nat × Int :=
  let y := fixOf m e * oneFix / ln2Fix
  let x : Int := -(y : Int)
  (exp2Fix (x % (oneFix : Int)).toNat, x / (oneFix : Int))

/-- 1/(1 + e^(−x)) of a finite nonzero value (R50). -/
def sigFin (f : FFmt) (rm : RM) (ftz : Bool) (key : Nat × Nat × Nat) (neg : Bool) (m : Nat) (e : Int) : Nat :=
  if 7 ≤ e + (Nat.log2 m : Int) then (if neg then tinyRes f rm ftz false else justBelow f rm ftz false 1 0)
  else
    let t := expNeg m e
    let big := t.1
    let q := big / 2 ^ (-t.2).toNat
    if neg then
      let s := big * oneFix / (oneFix + q)
      around f rm ftz key false s (t.2 - (fixBits : Int))
    else around f rm ftz key false (oneFix * oneFix / (oneFix + q)) (-(fixBits : Int))

/-- tanh of a finite nonzero value (R50). -/
def tanhFin (f : FFmt) (rm : RM) (ftz : Bool) (key : Nat × Nat × Nat) (neg : Bool) (m : Nat) (e : Int) : Nat :=
  let ex := e + (Nat.log2 m : Int)
  if 6 ≤ ex then justBelow f rm ftz neg 1 0
  else if ex < -40 then justBelow f rm ftz neg m e
  else
    let t := expNeg m (e + 1)
    let q := t.1 / 2 ^ (-t.2).toNat
    around f rm ftz key neg ((oneFix - q) * oneFix / (oneFix + q)) (-(fixBits : Int))

/-- cos(2π n/d) for d > 0, as sign and enclosure or exact value: `none` in the second place marks an exact half-integer
multiple, given in the first as twice the value. -/
def cosTurn (n d : Nat) : Int × Option Nat :=
  let r := n % d
  let r := if 2 * r > d then d - r else r
  let neg := 4 * r > d
  let r2 := if neg then d - 2 * r else 2 * r
  if r2 = 0 then (if neg then -2 else 2, none)
  else if 2 * r2 = d then (0, none)
  else if 3 * r2 = d then (if neg then -1 else 1, none)
  else
    let v :=
      if 4 * r2 ≤ d then cosFix (r2 * piFix / d)
      else sinFix ((d - 2 * r2) * piFix / (2 * d))
    (if neg then -1 else 1, some v)

/-- cos(2π n/d), correctly rounded; an exact zero is +0 (R51, R265). -/
def cosTurnEnc (f : FFmt) (rm : RM) (ftz : Bool) (key : Nat × Nat × Nat) (n d : Nat) : Nat :=
  match cosTurn n d with
  | (t, none) => f.write rm ftz (.fin (t < 0) t.natAbs (-1))
  | (t, some v) => around f rm ftz key (t < 0) v (-(fixBits : Int))

/-- sin(2π n/d) = cos(2π (n/d − 1/4)). -/
def sinTurnEnc (f : FFmt) (rm : RM) (ftz : Bool) (key : Nat × Nat × Nat) (n d : Nat) : Nat :=
  cosTurnEnc f rm ftz key (4 * n + 3 * d) (4 * d)

/-- A finite magnitude as a fraction. -/
def fracOf (m : Nat) (e : Int) : Nat × Nat := if 0 ≤ e then (m * 2 ^ e.toNat, 1) else (m, 2 ^ (-e).toNat)

/-- sin πx of a finite nonzero value (R50, R51). -/
def sinpiFin (f : FFmt) (rm : RM) (ftz : Bool) (key : Nat × Nat × Nat) (neg : Bool) (m : Nat) (e : Int) : Nat :=
  if 0 ≤ e ∨ m % 2 ^ (-e).toNat = 0 then f.write rm ftz (.fin neg 0 0)
  else
    let q := fracOf m e
    let mag := cosTurnEnc f (if neg then (match rm with | .rup => .rdn | .rdn => .rup | r => r) else rm) ftz key
      (2 * q.1 + 3 * q.2) (4 * q.2)
    if neg then (if mag < f.signBit then mag + f.signBit else mag - f.signBit) else mag

/-- cos πx of a finite value (R50, R51). -/
def cospiFin (f : FFmt) (rm : RM) (ftz : Bool) (key : Nat × Nat × Nat) (m : Nat) (e : Int) : Nat :=
  let q := fracOf m e
  cosTurnEnc f rm ftz key q.1 (2 * q.2)

/-- The special functions of R50, in opcode order from 0x2C. -/
inductive SpecFn where
  | rcp
  | rsq
  | exp2
  | log2
  | sig
  | tanh
  | sinp
  | cosp
  deriving DecidableEq, Repr

/-- Number of a function, the first argument of the free choice. -/
def SpecFn.no : SpecFn → Nat
  | .rcp => 0 | .rsq => 1 | .exp2 => 2 | .log2 => 3 | .sig => 4 | .tanh => 5 | .sinp => 6 | .cosp => 7

/-- The special functions with the operands of R51. -/
def special (fn : SpecFn) (ty : Nat) (rm : RM) (ftz : Bool) (x : Nat) : Nat :=
  let f := fmtOf ty
  let key := (fn.no, ty, x)
  match fn, f.readIn ftz x with
  | _, .nan => f.nanEnc
  | .rcp, .inf n => f.write rm ftz (.fin n 0 0)
  | .rcp, .fin n m e => if m = 0 then f.write rm ftz (.inf n) else rcpFin f rm ftz n m e
  | .rsq, .inf n => if n then f.nanEnc else f.write rm ftz (.fin false 0 0)
  | .rsq, .fin n m e => if m = 0 then f.write rm ftz (.inf n) else if n then f.nanEnc else rsqFin f rm ftz m e
  | .exp2, .inf n => f.write rm ftz (if n then .fin false 0 0 else .inf false)
  | .exp2, .fin n m e => if m = 0 then f.write rm ftz (FVal.ofInt 1) else exp2Fin f rm ftz key n m e
  | .log2, .inf n => if n then f.nanEnc else f.write rm ftz (.inf false)
  | .log2, .fin n m e => if m = 0 then f.write rm ftz (.inf true) else if n then f.nanEnc else log2Fin f rm ftz key m e
  | .sig, .inf n => f.write rm ftz (if n then .fin false 0 0 else FVal.ofInt 1)
  | .sig, .fin n m e => if m = 0 then f.write rm ftz (.fin false 1 (-1)) else sigFin f rm ftz key n m e
  | .tanh, .inf n => f.write rm ftz (.fin n 1 0)
  | .tanh, .fin n m e => if m = 0 then f.write rm ftz (.fin n 0 0) else tanhFin f rm ftz key n m e
  | .sinp, .inf _ => f.nanEnc
  | .sinp, .fin n m e => if m = 0 then f.write rm ftz (.fin n 0 0) else sinpiFin f rm ftz key n m e
  | .cosp, .inf _ => f.nanEnc
  | .cosp, .fin _ m e => cospiFin f rm ftz key m e

/-- Real part of W(N, k): cos(2πk/N) rounded RNE to f32 (R265). -/
def twRe (n k : Nat) : Nat := cosTurnEnc f32fmt .rne false (8, n, k) k n

/-- sin(2πk/N) rounded RNE to f32 (R265). -/
def twSin (n k : Nat) : Nat := sinTurnEnc f32fmt .rne false (9, n, k) k n

/-- N is a valid transform length (R264): 1 to 65,536 with no prime factor but 2, 3 and 5. -/
def stripFactor (p : Nat) : Nat → Nat → Nat
  | 0, n => n
  | k + 1, n => if n % p = 0 then stripFactor p k (n / p) else n

/-- R264's validity of N. -/
def twValid (n : Nat) : Bool :=
  1 ≤ n && n ≤ 65536 && stripFactor 5 7 (stripFactor 3 11 (stripFactor 2 17 n)) == 1

end Sys2Proof.Machine
end

