-- ==== Sys2Proof/Machine/CellX.lean ====
section
/-! DEFINITION. Matrix weaves and butterflies (R250 to R267): tiles, resident buffers, chains, multiplies, drains, the
twiddle generator and the butterfly stage. -/

namespace Sys2Proof.Machine

/-! ## Matrix state (R250) -/

/-- A zero element. -/
def Elt.zero : Elt := ⟨0, false⟩

/-- A tile as CX.MZERO leaves it (R254). -/
def Tile.zeroed (int : Bool) : Tile := ⟨int, [], [], [], 0⟩

/-- Tile n of a weave. -/
def Weave.tile (w : Weave) (n : Nat) : Tile := nth (Tile.zeroed false) w.tiles n

/-- Replace tile n. -/
def Weave.setTile (w : Weave) (n : Nat) (t : Tile) : Weave := { w with tiles := setNth (Tile.zeroed false) w.tiles n t }

/-- Buffer n of a weave. -/
def Weave.buf (w : Weave) (n : Nat) : BBuf := nth ⟨0, 0, []⟩ w.bufs n

/-- Replace buffer n. -/
def Weave.setBuf (w : Weave) (n : Nat) (b : BBuf) : Weave := { w with bufs := setNth ⟨0, 0, []⟩ w.bufs n b }

/-- Element (i, j) of a tile. -/
def Tile.el (t : Tile) (i j : Nat) : Elt := nth Elt.zero (nth [] t.els i) j

/-- Replace element (i, j). -/
def Tile.setEl (t : Tile) (i j : Nat) (x : Elt) : Tile := { t with els := setNth [] t.els i (setNth Elt.zero (nth [] t.els i) j x) }

/-- Every element of a tile of so many rows by a function of its place. -/
def Tile.fill (t : Tile) (rows : Nat) (g : Nat → Nat → Elt) : Tile :=
  { t with els := (upTo rows).map fun i => (upTo 32).map fun j => g i j }

/-- An element is delivered as NaN (R55). -/
def Tile.flagged (t : Tile) (i j : Nat) : Bool := nth false t.rowF i || nth false t.colF j

/-- Rows of a tile at grain G. -/
def tileRows (g : Nat) : Nat := 32 * g

/-- Row of lane l in half h (R258). -/
def laneRow (l h : Nat) : Nat := 32 * (l / 16) + 16 * h + l % 16

/-- A multiply into a tile has not completed (R252). -/
def Weave.busyTile (w : Weave) (n : Nat) : Bool := w.mults.any fun m => m.tile == n

/-! ## Store regions (R253) -/

/-- The traps of a region of rows: alignment, pitch, reach. [DESIGN CHOICE, log 178] -/
def regionTrap (i : Instr) (c : Cell) (s : State) (off pitch rows size : Nat) : Option CellAns :=
  if off % 4 ≠ 0 then some (.trap s 0x0F 0 (BitVec.ofNat 32 off) 0 0 0)
  else if pitch % 4 ≠ 0 then some (.trap s 0x0F 0 (BitVec.ofNat 32 pitch) 0 0 0)
  else if pitch < size then some (.illegal i s 0 0)
  else if storeSize c.st < off + (rows - 1) * pitch + size then some (.trap s 0x08 0 (BitVec.ofNat 32 off) 0 0 0)
  else none

/-- Lines of the rows of a region. -/
def regionLines (off pitch rows size : Nat) : List Nat :=
  (upTo rows).foldl (fun acc i => (linesOf (off + i * pitch) size).foldl (fun a l => insertNat l a) acc) []

/-- The waits of a read of a region: a deferred fault that names a line, an empty undeclared line (R77, R294). -/
def regionWait (c : Cell) (off pitch rows size : Nat) : Option CellAns :=
  c.lineWait (regionLines off pitch rows size)

/-- Element of a bit width at a bit offset from a store offset. -/
def Weave.storeBits (w : Weave) (off bit width : Nat) : Lane :=
  let a := off + bit / 8
  ⟨BitVec.ofNat 32 (w.store.readN a (ceilDiv (bit % 8 + width) 8) / 2 ^ (bit % 8) % 2 ^ width), w.store.poisoned a⟩

/-- Rows of n elements. -/
def Weave.storeRows (w : Weave) (off pitch rows n width : Nat) : List (List Lane) :=
  (upTo rows).map fun i => (upTo n).map fun j => w.storeBits (off + i * pitch) (width * j) width

/-- Lane 0 of source field j, as a number. -/
def Cell.scalar (c : Cell) (srcs : List (Option Nat)) (j : Nat) : Nat := (c.opd srcs j 0).v.toNat

/-- Change the weave of the task. -/
def Cell.weave (c : Cell) (g : Weave → Weave) (s : State) : State := s.updWeave c.key.weave g

/-! ## Zeroing and B loads (R254, R255) -/

/-- CX.MZERO. -/
def execCxMzero (f : CG) (s : State) : Out :=
  runCell (.cxMzero f) (fun c s =>
    if c.w.busyTile f.d.toNat then .hold
    else .done (c.weave (fun w => w.setTile f.d.toNat (Tile.zeroed (f.aux.toNat == 1))) s)) s

/-- CX.MLDB. -/
def execCxMldb (f : CG) (s : State) : Out :=
  runCell (.cxMldb f) (fun c s =>
    let i := Instr.cxMldb f
    let off := c.scalar (cellSrcs i) 0
    let kb := c.scalar (cellSrcs i) 1
    let pitch := c.scalar (cellSrcs i) 2
    let wd := tyWidth f.ty.toNat
    if kb = 0 ∨ 64 < kb then .illegal i s 0 0
    else match regionTrap i c s off pitch kb (4 * wd) with
      | some a => a
      | none =>
        match regionWait c off pitch kb (4 * wd) with
        | some a => a
        | none => .done (c.weave (fun w => w.setBuf f.d.toNat ⟨f.ty, kb, w.storeRows off pitch kb 32 wd⟩) s)) s

/-! ## Multiplies (R53 to R56, R256, R257) -/

/-- Element (i, k) of a captured operand. -/
def opElem (m : List (List Lane)) (i k : Nat) : Lane := nth Lane.zero (nth [] m i) k

/-- Integer value of an A element: a ternary digit or an 8-bit integer. -/
def multA (ty : BitVec 4) (x : W32) : Int := if ty = 0xD then t2Val x.toNat else intOf ty.toNat x.toNat

/-- Integer value of a B element: i8 against ternary digits, otherwise the type of A. -/
def multB (ty : BitVec 4) (x : W32) : Int := if ty = 0xD then intOf 0 x.toNat else intOf ty.toNat x.toNat

/-- The k indices of chunk q (R53). -/
def chunkIdx (k q : Nat) : List Nat := (upFrom (8 * q) 8).filter fun x => x < k

/-- One chunk of a float element: exact sum with the accumulator, one rounding; ±∞ and NaN are kept; zero is +0. -/
def chunkF32 (ff : FFmt) (acc : Nat) (ps : List (Nat × Nat)) : Nat :=
  match f32fmt.read acc with
  | .nan => f32fmt.nanEnc
  | .inf n => f32fmt.signed n f32fmt.infEnc
  | v =>
    let sum := ps.foldl (fun a p => FVal.add .rne a (FVal.mul (ff.read p.1) (ff.read p.2))) v
    match sum with
    | .fin n m e => if m = 0 then 0 else f32fmt.write .rne false (.fin n m e)
    | x => f32fmt.write .rne false x

/-- One chunk of an integer element, wrapped to 48 bits (R54). -/
def chunkInt (ty : BitVec 4) (acc : BitVec 48) (ps : List (W32 × W32)) : BitVec 48 :=
  ps.foldl (fun a p => a + BitVec.ofInt 48 (multA ty p.1 * multB ty p.2)) acc

/-- The element of a tile after chunk q of a multiply. -/
def chunkElem (m : Mult) (int : Bool) (x : Elt) (i j q : Nat) : Elt :=
  let ks := chunkIdx m.k q
  let p := ks.any fun k => (opElem m.a i k).poison || (opElem m.b k j).poison
  let v := if int then chunkInt m.ty x.v (ks.map fun k => ((opElem m.a i k).v, (opElem m.b k j).v))
    else BitVec.ofNat 48 (chunkF32 (fmtOf m.ty.toNat) x.v.toNat
      (ks.map fun k => ((opElem m.a i k).v.toNat, (opElem m.b k j).v.toNat)))
  ⟨v, x.poison || p⟩

/-- A tile after the next chunk of a multiply. -/
def Tile.chunk (t : Tile) (rows : Nat) (m : Mult) : Tile :=
  { t.fill rows fun i j => chunkElem m t.int (t.el i j) i j m.done with count := t.count + 1 }

/-- Flags that the operands of a float multiply set (R55). -/
def Tile.flag (t : Tile) (rows : Nat) (m : Mult) : Tile :=
  if t.int then t
  else
    let sp (x : Lane) : Bool := ((fmtOf m.ty.toNat).read x.v.toNat).isSpecial
    { t with
      rowF := (upTo rows).map fun i => nth false t.rowF i || ((nth [] m.a i).any sp)
      colF := (upTo 32).map fun j => nth false t.colF j || ((m.b.take m.k).any fun r => sp (nth Lane.zero r j)) }

/-- Whether types agree (R257). -/
def multTypes (w : Weave) (f : CG) (tern : Bool) : Bool :=
  let b := w.buf (f.aux.toNat % 2)
  let t := w.tile f.d.toNat
  b.kb != 0 && (if tern then b.ty == 0 && t.int else b.ty == f.ty && (t.int == (f.ty.toNat < 8)))

/-- A multiply whose operands are in hand counts: its OPS, T2BAD, and the flags of its tile (R55, R139, R256). -/
def countMult (k : WKey) (g : Nat) (m : Mult) (s : State) : State :=
  let rows := tileRows g
  let bad := m.ty == 0xD && (m.a.any fun r => r.any fun x => x.v == 2)
  addOps k.stand (2 * rows * 32 * m.k) (markT2 k bad (s.updWeave k fun w => w.setTile m.tile ((w.tile m.tile).flag rows m)))

/-- The multiply that an instruction issues, on captured operands (R256). [DEDUCED, log 46] -/
def Cell.mult (c : Cell) (f : CG) (k : Nat) (a : List (List Lane)) (link : Option LinkWait) (s : State) : Mult :=
  let n := f.aux.toNat % 2
  ⟨c.key.nid, c.tk.pc, f.d.toNat, n, f.ty, k, a, (c.w.buf n).els, 0, link, s.cyc c.st.die + c.n.limit⟩

/-- A multiply joins those under way. -/
def pushMult (k : WKey) (m : Mult) (s : State) : State := s.updWeave k fun w => { w with mults := w.mults ++ [m] }

/-- A multiply of a weave waits for the link so. -/
def Weave.linkWaits (w : Weave) (x : LinkWait) : Bool := w.mults.any fun m => m.link == some x

/-- The operand that a weave's chain link offers it (R262): its leader's, which it has not taken; a weave that a wave has passed
takes none that the wave has still to find in the link. [DEDUCED, log 183] -/
def linkOffer (t : Stand) (w : Weave) : Option Link :=
  w.leader.bind fun p =>
    let lw := t.weave p
    if w.snapped && !lw.snapped && t.wave.isSome then none else lw.link.filter fun x => !(x.taken.contains w.pos)

/-- A leader's or lone multiply (R256): the leader's waits in the background while the link holds an operand (R263).
[DESIGN CHOICE, log 178] [DEDUCED, log 183] -/
def multLead (i : Instr) (f : CG) (tern lead : Bool) (c : Cell) (s : State) : CellAns :=
  let off := c.scalar (cellSrcs i) 0
  let k := c.scalar (cellSrcs i) 1
  let pitch := c.scalar (cellSrcs i) 2
  let rows := tileRows c.st.g
  let wd := tyWidth f.ty.toNat
  let size := 4 * ceilDiv (k * wd) 32
  if lead ∧ c.w.chain = 0 then .illegal i s 0 0
  else if multTypes c.w f tern = false then .illegal i s 0 0
  else if k = 0 ∨ (c.w.buf (f.aux.toNat % 2)).kb < k then .illegal i s (BitVec.ofNat 32 k) 0
  else match regionTrap i c s off pitch rows size with
    | some a => a
    | none =>
      match regionWait c off pitch rows size with
      | some a => a
      | none =>
        let a := c.w.storeRows off pitch rows k wd
        if lead ∧ (c.w.link.isSome ∨ c.w.linkWaits .place) then .done (pushMult c.key.weave (c.mult f k a (some .place) s) s)
        else
          let m := c.mult f k a none s
          let s1 := pushMult c.key.weave m (countMult c.key.weave c.st.g m s)
          .done (if lead then c.weave (fun w => { w with link := some ⟨f.ty, k, a, []⟩ }) s1 else s1)

/-- A member takes the link's operand; the last one empties it. -/
def takeLink (n : Nat) (p : WPos) (w : Weave) : Weave :=
  match w.link with
  | none => w
  | some x =>
    let t := x.taken ++ [p]
    { w with link := if n ≤ t.length + 1 then none else some { x with taken := t } }

/-- A member takes the operand from its leader's link; ahead of a wave that has passed the leader, from the leader's snapshot
too, which holds the link (R262). [DEDUCED, log 183] -/
def Stand.takeFrom (t : Stand) (lead me : WPos) : Stand :=
  let lw := t.weave lead
  let t1 := t.setWeave (takeLink lw.chain me lw)
  if lw.snapped && !(t.weave me).snapped then
    { t1 with wave := t1.wave.map fun x => { x with
        snaps := x.snaps.map fun y => if y.pos = lead then takeLink lw.chain me y else y } }
  else t1

/-- A follower's multiply: its own buffer and tile must agree at issue (R257), and the link's operand when it is taken; while
there is none it waits in the background (R262, R263). [DEDUCED, log 183] -/
def multFollow (i : Instr) (f : CG) (tern : Bool) (c : Cell) (s : State) : CellAns :=
  if multTypes c.w f tern = false ∨ (c.w.leader.isNone ∧ c.w.chain = 0) then .illegal i s 0 0
  else match (if c.w.linkWaits .take then none else linkOffer c.st c.w) with
  | none => .done (pushMult c.key.weave (c.mult f 0 [] (some .take) s) s)
  | some x =>
    if x.ty ≠ f.ty then .illegal i s 0 0
    else if (c.w.buf (f.aux.toNat % 2)).kb < x.k then .illegal i s (BitVec.ofNat 32 x.k) 0
    else
      let m := c.mult f x.k x.a none s
      .done ((pushMult c.key.weave m (countMult c.key.weave c.st.g m s)).updStand c.key.stand fun t =>
        t.takeFrom (c.w.leader.getD c.key.pos) c.key.pos)

/-- The multiply forms, by chain role (R256). [DEDUCED, log 46] -/
def multBody (i : Instr) (f : CG) (tern : Bool) (c : Cell) (s : State) : CellAns :=
  match f.aux.toNat / 2 with
  | 2 => multFollow i f tern c s
  | r => multLead i f tern (r == 1) c s

/-- CX.MMA. -/
def execCxMma (f : CG) (s : State) : Out := runCell (.cxMma f) (multBody (.cxMma f) f false) s

/-- CX.MMAT. -/
def execCxMmat (f : CG) (s : State) : Out := runCell (.cxMmat f) (multBody (.cxMmat f) f true) s

/-! ## Reads, drains, scaling (R258 to R260) -/

/-- The f32 value of an element as it is delivered: NaN where flagged, an exact zero as +0 (R55). -/
def Tile.deliver (t : Tile) (i j : Nat) : Nat :=
  let v := (t.el i j).v.toNat % 2 ^ 32
  if t.flagged i j then f32fmt.nanEnc else if v % 2 ^ 31 = 0 then 0 else v

/-- CX.MRD: with aux[0] = 0 it reads the boundary of the chunks complete now. [DEDUCED, log 147] -/
def execCxMrd (f : CG) (s : State) : Out :=
  runCell (.cxMrd f) (fun c s =>
    let i := Instr.cxMrd f
    let t := c.w.tile f.a.toNat
    let b := c.opd (cellSrcs i) 1 0
    let h := bitsAt b.v.toNat 5 1
    let j := bitsAt b.v.toNat 0 5
    if t.int ≠ (f.ty.toNat = 4) then .illegal i s 0 0
    else if f.aux.getLsbD 0 ∧ c.w.busyTile f.a.toNat then .hold
    else
      let v (l : Nat) : Lane :=
        let r := laneRow l h
        let x := t.el r j
        ⟨if t.int then BitVec.ofNat 32 (intSat 4 x.v.toInt) else BitVec.ofNat 32 (t.deliver r j), x.poison || b.poison⟩
      let e := if f.aux.getLsbD 1 then c.result f.e (fun _ => true) fun _ => ⟨t.count, false⟩ else Pend.none
      .write c ((c.result f.d (c.active f) v).join e) s) s

/-- The value of an element that a drain converts, before scaling: NaN where flagged. -/
def drainIn (t : Tile) (i j : Nat) : FVal :=
  if t.int then FVal.ofInt (t.el i j).v.toInt else f32fmt.read (t.deliver i j)

/-- The encoding a drain writes, none where policy 0b11 traps (R259). -/
def drainOut (int : Bool) (ty policy : Nat) (v : FVal) : Option Nat :=
  let v := match v with | .fin _ 0 _ => .fin false 0 0 | x => x
  if isFloatTy ty then cvtFloat (fmtOf ty) .rne false policy v
  else cvtInt ty .rne (if int then 0 else policy) v

/-- What the row exponents of a drain give: the scales, a wait (R288, R315), or the address of the first that does not
translate (R68). -/
inductive ScaleRead where
  | ok (s : State) (l : List Int)
  | held
  | bad (addr : Nat)

/-- Read the exponent of one row as a load of the task (R68, R293); it is one byte at the memory interface (R139). -/
def drainScale (c : Cell) (e : TEnt) (row : Nat) (s : State) (l : List Int) : ScaleRead :=
  let a := rowExpAddr (s.vf c.st.vf).tens.tside e row
  match translate s.mem s.svc.memtop (s.vf c.st.vf).mem c.unit a .read with
  | none => .bad a
  | some p =>
    if s.accessHeld c.st.vf c.st.die p.pa then .held
    else .ok (addBytes c.key.stand 1 (s.tlbFill c.st.vf c.unit a))
      (l ++ [e.sbase + toSigned 8 ((s.standMem c.key.stand).byte p.pa).toNat])

/-- The scales of the tile rows (R41, R68). -/
def drainScales (c : Cell) (e : TEnt) (row0 rows : Nat) (s : State) : ScaleRead :=
  if e.rsoff = 0xFFFF then .ok s ((upTo rows).map fun _ => e.sbase)
  else (upTo rows).foldl (fun acc i =>
    match acc with
    | .ok s1 l => drainScale c e (row0 + i) s1 l
    | x => x) (.ok s [])

/-- The low 32 bits of a value as an integer, what lies below the binary point cut off. -/
def FVal.low32 : FVal → W32
  | .fin n m e =>
    let k := if 0 ≤ e then (if e < 32 then m * 2 ^ e.toNat else 0) else roundMagInt .rdn n m e
    BitVec.ofInt 32 (if n then -(k : Int) else k)
  | _ => 0

/-- The source value that the record of a drain's overflow carries: the low 32 bits of the scaled value, as an integer of an
integer tile and as an f32 of an f32 tile. [DEDUCED, log 27] -/
def drainSource (int : Bool) (v : FVal) : W32 := if int then v.low32 else BitVec.ofNat 32 (f32fmt.write .rne false v)

/-- Write the rows of a drain into the store, word by word, each poisoned with its elements. -/
def drainStore (t : Tile) (ty off pitch rows : Nat) (enc : Nat → Nat → Nat) (m : Memory) : Memory :=
  let w := tyWidth ty
  let n := 32 / w
  (upTo rows).foldl (fun acc i => (upTo w).foldl (fun a k =>
    a.store (off + i * pitch + 4 * k) (bytesLE 4 (laneOf w fun e => enc i (n * k + e)).toNat)
      ((upTo n).any fun e => (t.el i (n * k + e)).poison)) acc) m

/-- A drain once its region is checked. -/
def drainBody (f : CG) (c : Cell) (off pitch : Nat) (scale : Nat → Int) (s : State) : State :=
  let t := c.w.tile f.a.toNat
  let rows := tileRows c.st.g
  let ty := f.ty.toNat
  let v (i j : Nat) : FVal := (drainIn t i j).scale (scale i)
  let out (i j : Nat) : Option Nat := drainOut t.int ty (f.aux.toNat / 16) (v i j)
  match (upTo rows).findSome? fun i => ((upTo 32).find? fun j => (out i j).isNone).map fun j => (i, j) with
  | some (i, j) =>
    defer c.key ⟨0x0C, c.tk.pc, BitVec.ofNat 32 i, BitVec.ofNat 32 j, drainSource t.int (v i j), [], [f.a.toNat], [], [], false⟩ s
  | none => c.weave (fun w =>
      let w1 := { w with store := drainStore t ty off pitch rows (fun i j => (out i j).getD 0) w.store }
      if f.aux.getLsbD 3 then w1.setTile f.a.toNat (Tile.zeroed t.int) else w1) s

/-- CX.MDRN. [DEDUCED, log 27] -/
def execCxMdrn (f : CG) (s : State) : Out :=
  runCell (.cxMdrn f) (fun c s =>
    let i := Instr.cxMdrn f
    let off := c.scalar (cellSrcs i) 1
    let pitch := c.scalar (cellSrcs i) 2
    let rows := tileRows c.st.g
    let tid := c.scalar (cellSrcs i) 4
    let refuse : CellAns := .trap s 0x08 0 (BitVec.ofNat 32 tid) 0 0 0
    match regionTrap i c s off pitch rows (4 * tyWidth f.ty.toNat) with
    | some a => a
    | none =>
      if f.aux.getLsbD 2 = false then
        (if c.w.busyTile f.a.toNat then .hold else .done (drainBody f c off pitch (fun _ => 0) s))
      else match c.entry? s (tid % 65536) with
        | none => refuse
        | some raw =>
          if (tensorEntry raw).r = false then refuse
          else if c.w.busyTile f.a.toNat then c.waitWith raw s .hold
          else match drainScales c (tensorEntry raw) (c.scalar (cellSrcs i) 3) rows s with
            | .bad a => .trap s 0x07 0 (BitVec.ofNat 32 a) (BitVec.ofNat 32 (a / 2 ^ 32)) 0 0
            | .held => c.waitWith raw s .hold
            | .ok s1 l => .done (drainBody f c off pitch (fun r => nth 0 l r) s1)) s

/-- An f32 encoding times a power of two, rounded RNE. -/
def scaleF32 (x : Nat) (k : Int) : Nat := f32fmt.write .rne false ((f32fmt.read x).scale k)

/-- Row r of a tile with every element scaled. -/
def Tile.scaleRow (t : Tile) (r : Nat) (k : Int) (p : Bool) : Tile :=
  (upTo 32).foldl (fun a j => a.setEl r j ⟨BitVec.ofNat 48 (scaleF32 ((t.el r j).v.toNat % 2 ^ 32) k), (t.el r j).poison || p⟩) t

/-- CX.MSCL: SCALE with aux[0] = 0, SET with aux[0] = 1. -/
def execCxMscl (f : CG) (s : State) : Out :=
  runCell (.cxMscl f) (fun c s =>
    let i := Instr.cxMscl f
    let srcs := cellSrcs i
    let n := f.d.toNat
    let h := bitsAt (c.scalar srcs 2) 5 1
    let j := bitsAt (c.scalar srcs 2) 0 5
    let one (t : Tile) (l : Nat) : Tile :=
      let a := c.opd srcs 0 l
      let b := c.opd srcs 1 l
      if f.aux.getLsbD 0 then t.setEl (laneRow l h) j ⟨BitVec.ofNat 48 (scaleF32 a.v.toNat b.v.toInt), a.poison || b.poison⟩
      else t.scaleRow (laneRow l h) b.v.toInt b.poison
    if (c.w.tile n).int then .illegal i s 0 0
    else if c.w.busyTile n then .hold
    else .done (c.weave (fun w => w.setTile n ((c.lanesWith (c.active f)).foldl one (w.tile n))) s)) s

/-! ## Chains (R138, R261, R262) -/

/-- The weave k places after a weave in the stand's column order (R138). -/
def chainPos (p : WPos) (k : Nat) : WPos := { p with dcol := (7 * p.dcol + p.col + k) / 7, col := (7 * p.dcol + p.col + k) % 7 }

/-- Members of a chain of n weaves that a weave leads. -/
def chainMembers (p : WPos) (n : Nat) : List WPos := (upTo n).map (chainPos p)

/-- A weave belongs to a chain that another weave leads. -/
def Weave.inOther (w : Weave) (lead : WPos) : Bool :=
  (w.leader.any fun x => x != lead) || (w.pos != lead && w.chain != 0)

/-- CX.MCHN. -/
def execCxMchn (f : CG) (s : State) : Out :=
  runCell (.cxMchn f) (fun c s =>
    let i := Instr.cxMchn f
    let n := c.scalar (cellSrcs i) 0
    let p := c.key.pos
    let ms := chainMembers p n
    if n = 0 ∨ 8 < n then .illegal i s 0 0
    else if ms.any fun m => c.st.kern.w ≤ m.dcol then .trap s 0x08 0 (BitVec.ofNat 32 n) 0 0 0
    else if ms.any fun m => (c.st.weave m).inOther p then .illegal i s 0 0
    else if c.w.link.isSome ∨ c.w.linkWaits .place then .hold
    else
      let old := (chainMembers p c.w.chain).drop 1
      let s1 := old.foldl (fun acc m => acc.updWeave ⟨c.key.stand, m⟩ fun w => { w with leader := none }) s
      let s2 := (ms.drop 1).foldl (fun acc m => acc.updWeave ⟨c.key.stand, m⟩ fun w => { w with leader := some p }) s1
      .done (c.weave (fun w => { w with chain := if n = 1 then 0 else n }) s2)) s

/-! ## Twiddles and butterflies (R264 to R267) -/

/-- The imaginary part of W(N, k), or of its conjugate: an exact zero is +0 (R265). -/
def twIm (n k : Nat) (conj : Bool) : Nat :=
  let x := twSin n k
  if conj ∨ x % 2 ^ 31 = 0 then x else if x < 2 ^ 31 then x + 2 ^ 31 else x - 2 ^ 31

/-- CX.TWG. -/
def execCxTwg (f : CG) (s : State) : Out :=
  runCell (.cxTwg f) (fun c s =>
    let i := Instr.cxTwg f
    let a := c.opd (cellSrcs i) 0
    let b := c.opd (cellSrcs i) 1 0
    let n := b.v.toNat
    if twValid n = false then .illegal i s 0 0
    else
      let k (l : Nat) : Nat := (a l).v.toNat % n
      let p (l : Nat) : Bool := (a l).poison || b.poison
      .write c ((c.result f.d (c.active f) fun l => ⟨BitVec.ofNat 32 (twRe n (k l)), p l⟩).join
        (c.result (f.d + 1) (c.active f) fun l => ⟨BitVec.ofNat 32 (twIm n (k l) (f.aux.getLsbD 0)), p l⟩))
        (c.weave (fun w => { w with twst := BitVec.ofNat 32 n }) s)) s

/-- A complex number of exact parts. -/
structure Cplx where
  re : FVal
  im : FVal
  deriving DecidableEq, Repr

/-- Exact complex product. -/
def Cplx.mul (x y : Cplx) : Cplx :=
  ⟨FVal.add .rne (FVal.mul x.re y.re) (FVal.mul x.im y.im).neg, FVal.add .rne (FVal.mul x.re y.im) (FVal.mul x.im y.re)⟩

/-- Exact complex sum. -/
def Cplx.add (x y : Cplx) : Cplx := ⟨FVal.add .rne x.re y.re, FVal.add .rne x.im y.im⟩

/-- W(N, k) with its parts rounded (R265). -/
def twiddle (n k : Nat) (conj : Bool) : Cplx := ⟨f32fmt.read (twRe n k), f32fmt.read (twIm n k conj)⟩

/-- A part of an output: one rounding of the scaled exact sum, an exact zero as +0 (R266). -/
def partOut (shift : Nat) (v : FVal) : Nat :=
  match v.scale (-(shift : Int)) with
  | .fin _ 0 _ => 0
  | x => f32fmt.write .rne false x

/-- Point p of a tile pair: row p mod 32G, column ⌊p / 32G⌋. -/
def pairPoint (re im : Tile) (rows p : Nat) : Cplx × Bool :=
  let a := re.el (p % rows) (p / rows)
  let b := im.el (p % rows) (p / rows)
  (⟨f32fmt.read (a.v.toNat % 2 ^ 32), f32fmt.read (b.v.toNat % 2 ^ 32)⟩, a.poison || b.poison)

/-- The operands of a stage (R266). -/
structure Stage where
  r : Nat
  m : Nat
  q : Nat
  t : Nat
  n : Nat
  shift : Nat
  conj : Bool
  deriving DecidableEq, Repr

/-- Output point o of a stage, with its parts and poison (R266, R267). -/
def stageOut (g : Stage) (pt : Nat → Cplx × Bool) (o : Nat) : Nat × Nat × Bool :=
  let bf := o / (g.r * g.q) * g.q + o % g.q
  let u := bf % g.q
  let base := bf / g.q * g.r * g.q + u
  let m := (o - base) / g.q
  let ins := (upTo g.r).map fun j => pt (base + j * g.q)
  let poison := ins.any fun x => x.2
  if ins.any fun x => x.1.re.isSpecial || x.1.im.isSpecial then (f32fmt.nanEnc, f32fmt.nanEnc, poison)
  else
    let term (j : Nat) : Cplx :=
      (((pt (base + j * g.q)).1.mul (twiddle g.n (j * u * g.t % g.n) g.conj)).mul (twiddle g.r (j * m % g.r) g.conj))
    let v := (upTo g.r).foldl (fun (acc : Cplx) j => acc.add (term j)) ⟨.fin false 0 0, .fin false 0 0⟩
    (partOut g.shift v.re, partOut g.shift v.im, poison)

/-- A butterfly waits for its tiles: the value of TWST that it has read at issue stays with the task (R318). -/
def stageWait (c : Cell) (s : State) : CellAns :=
  if c.tk.twn.isSome then .hold
  else .stay ((c.undo s).updTask c.key fun x => { x with wait := none, twn := some c.w.twst })

/-- CX.MBFY: it reads TWST once, when it issues (R318). -/
def execCxMbfy (f : CG) (s : State) : Out :=
  runCell (.cxMbfy f) (fun c s =>
    let i := Instr.cxMbfy f
    let srcs := cellSrcs i
    let d := f.d.toNat
    let rows := tileRows c.st.g
    let g : Stage := ⟨f.aux.toNat % 4 + 2, c.scalar srcs 0, c.scalar srcs 1, c.scalar srcs 2,
      (c.tk.twn.getD c.w.twst).toNat % 2 ^ 17,
      f.aux.toNat / 4 % 4, f.aux.getLsbD 4⟩
    let re := c.w.tile d
    let im := c.w.tile (d + 1)
    if re.int ∨ im.int ∨ g.n = 0 ∨ g.q = 0 ∨ g.m = 0 ∨ 1024 * c.st.g < g.m ∨ g.m % (g.r * g.q) ≠ 0 then .illegal i s 0 0
    else if c.w.busyTile d ∨ c.w.busyTile (d + 1) then stageWait c s
    else
      let out := stageOut g (pairPoint re im rows)
      let put (t : Tile) (part : Nat × Nat × Bool → Nat) : Tile :=
        (upTo g.m).foldl (fun a o => a.setEl (o % rows) (o / rows) ⟨BitVec.ofNat 48 (part (out o)), (out o).2.2⟩) t
      .done (addOps c.key.stand (2 * g.r * g.m)
        (c.weave (fun w => (w.setTile d (put re fun x => x.1)).setTile (d + 1) (put im fun x => x.2.1)) s))) s

/-! ## Completion of chunks (R252, R262, R263) -/

/-- A leader's multiply that waits puts its operand into an empty link, and its chunks begin (R262). -/
def placeStep (k : WKey) (g : Nat) (m : Mult) (s : State) : State :=
  let m1 : Mult := { m with link := none }
  countMult k g m1 (s.updWeave k fun w => { w with
    link := some ⟨m.ty, m.k, m.a, []⟩, mults := replaceFirst (fun x => x == m) m1 w.mults })

/-- The fault of a chained multiply that waits, delivered at the next use of its tile or buffer (R263): it has no effect. -/
def dropMult (k : WKey) (m : Mult) (cause : Nat) (op1 op2 op3 : W32) (s : State) : State :=
  defer ⟨k.stand, k.pos, m.nid⟩ ⟨cause, m.pc, op1, op2, op3, [], [m.tile], [m.buf], [], false⟩
    (s.updWeave k fun w => { w with mults := dropFirst (fun x => x == m) w.mults })

/-- The word at a pc of a node of a weave. -/
def Stand.wordAt (t : Stand) (p : WPos) (nid pc : Nat) : W64 :=
  (((t.kern.node? p nid).map fun n => (n.text[pc]?).getD 0).getD 0)

/-- A follower's multiply that waits takes the operand that its link offers, and its chunks begin; one that does not agree with
it (R257, R262) ends with ILLEGAL. -/
def takeStep (k : WKey) (t : Stand) (w : Weave) (m : Mult) (x : Link) (s : State) : State :=
  let word := t.wordAt k.pos m.nid m.pc
  let refuse (op3 : W32) : State := dropMult k m 0x01 (word.extractLsb' 0 32) (word.extractLsb' 32 32) op3 s
  if x.ty ≠ m.ty then refuse 0
  else if m.b.length < x.k then refuse (BitVec.ofNat 32 x.k)
  else
    let m1 : Mult := { m with link := none, k := x.k, a := x.a }
    (countMult k t.g m1 (s.updWeave k fun w => { w with mults := replaceFirst (fun x => x == m) m1 w.mults })).updStand k.stand
      fun t => t.takeFrom (w.leader.getD k.pos) k.pos

/-- A multiply that waits for the link goes on where it can, in the order in which the weave issued those that wait (R262).
[DEDUCED, log 183] -/
def linkStep (k : WKey) (t : Stand) (w : Weave) (m : Mult) (s : State) : State :=
  if (w.mults.find? fun x => x.link == m.link) != some m then s
  else match m.link with
    | some .place => if w.link.isSome then s else placeStep k t.g m s
    | some .take => (match linkOffer t w with | some x => takeStep k t w m x s | none => s)
    | none => s

/-- A chunk of the oldest multiply on a tile completes, or the multiply goes on from its wait for the link (R262); after attempts that failed, each an error of its compartment (R360);
once its repeats are used up the multiply ends with RESIDUE, delivered at the next use of the tile or buffer (R263). -/
def execMatrixChunkComplete (k : WKey) (tile : Nat) (badTries : Nat) (row : Nat) (s : State) : Out :=
  match s.stand? k.stand with
  | none => .next s
  | some t =>
    let w := t.weave k.pos
    match w.mults.find? fun m => m.tile == tile with
    | none => .next s
    | some m =>
      if m.link.isSome then .next (linkStep k t w m s)
      else
      let s1 := if badTries = 0 then s else countError t.die 0 (t.compOf k.pos) s
      if t.retry < badTries then
        .next (defer ⟨k.stand, k.pos, m.nid⟩ ⟨0x0A, m.pc, BitVec.ofNat 32 row, 6, 0, [], [tile], [m.buf], [], false⟩
          (s1.updWeave k fun w => { w with mults := dropFirst (fun x => x.tile == tile) w.mults }))
      else
        let m1 := { m with done := m.done + 1 }
        .next (s1.updWeave k fun w => { (w.setTile tile ((w.tile tile).chunk (tileRows t.g) m)) with
          mults := if m.k ≤ 8 * m1.done then dropFirst (fun x => x.tile == tile) w.mults
            else replaceFirst (fun x => x.tile == tile) m1 w.mults })

end Sys2Proof.Machine
end

