-- ==== Sys2Proof/Machine/CellEvents.lean ====
section
/-! DEFINITION. Events of cells: firing (R14, R15, R19, R76), completion of an instruction (R240), the limits of a task's
waits (R17, R18, R77, R231), and evictions from the L1 (R285, R286). -/

namespace Sys2Proof.Machine

/-! ## Firing (R14, R19, R76) -/

/-- Every input port holds at least its rate in tokens that a task may read (R14, R15). -/
def Cell.inputsReady (c : Cell) : Bool :=
  (upTo 4).all fun i => !(c.n.port i).en || (c.n.port i).rate ≤ (c.tk.inq i).avail.length

/-- Slots that one firing takes where output o leads. -/
def Cell.rateTo (c : Cell) (o : Nat) : Nat :=
  sumNat ((upTo 4).map fun p =>
    if (c.n.port (4 + p)).en && c.st.dst? (c.n.port (4 + p)).route == c.st.dst? (c.n.port (4 + o)).route then (c.n.port (4 + p)).rate
    else 0)

/-- Every output port has at least its rate in free slots downstream; ports that lead to one place share its slots. -/
def Cell.outputsReady (c : Cell) (s : State) : Bool :=
  (upTo 4).all fun o => !(c.n.port (4 + o)).en || c.rateTo o ≤ s.routeSlots c.st (c.n.port (4 + o)).route

/-- The first empty line of a node's declared ranges (R76). -/
def Cell.emptyInput (c : Cell) : Option Nat :=
  ((c.n.lines.map fun r => upFrom r.1 r.2).flatten).find? fun l => !(c.w.full.contains l)

/-- A task is ready to fire but for its declared lines: its stand is resident and its node of the active context. -/
def Cell.ready (c : Cell) (s : State) : Bool :=
  c.st.status == .resident && !c.tk.fired && !c.tk.trapped && c.tk.pend.isNone && !c.w.halted && c.n.ctx == c.w.actx
    && c.inputsReady && c.outputsReady s

/-- The earliest block of the stand whose closing blaze has not passed the weave (R111). [DEDUCED, log 39] -/
def Stand.blockAt (t : Stand) (w : Weave) : Nat :=
  let passed (b : Blk) : Bool := t.wave.any fun x => w.snapped && x.flags.closes.any fun y => y.1 == b.no
  ((t.blocks.find? fun b => !(passed b)).map (·.no)).getD t.nextBlk

/-- What a task takes on when it fires (R14, R17, R43). [DEDUCED, log 38] -/
def Cell.fire (c : Cell) (x : Task) : Task :=
  { x with
    fired := true, pc := 0, loops := [], frm := c.w.mode, skips := [0, 0, 0, 0], branches := 0
    resv := (upTo 4).map fun o => if (c.n.port (4 + o)).en then (c.n.port (4 + o)).rate else 0
    wait := none, twn := none, lineSince := none, yielded := false, block := c.st.blockAt c.w
    outq := if c.n.rep = 0 then [] else x.outq ++ [⟨[], false⟩] }

/-- A token among those that the firing counts towards a port's rate carries the release mark (R217). -/
def Cell.firesOnMark (c : Cell) : Bool :=
  (upTo 4).any fun i => (c.n.port i).en && ((c.tk.inq i).avail.take (c.n.port i).rate).any (·.release)

/-- TASK_FIRE: dequeues nothing; a firing that counts a marked token is an acquire (R217). A firing that an empty declared line
alone blocks notes since when (R76). -/
def execTaskFire (k : TKey) (s : State) : Out :=
  match s.cell? k with
  | none => .next s
  | some c =>
    if c.ready s = false then .next (if c.tk.lineSince.isSome then s.updTask k fun x => { x with lineSince := none } else s)
    else match c.emptyInput with
      | some _ => .next (s.updTask k fun x => { x with lineSince := some (x.lineSince.getD (s.cyc c.st.die)) })
      | none =>
        let s1 := s.updTask k c.fire
        .next (if c.firesOnMark then acquireWeave k.weave s1 else s1)

/-! ## Completion (R240, R17) -/

/-- INSTRUCTION_COMPLETION: the destinations are written, those of a task that has trapped since too; a task that ends does so
once its tile operations are complete and no fault waits to be delivered, a trapped one only once it is resumed. -/
def execInstructionCompletion (k : TKey) (s : State) : Out :=
  match s.cell? k with
  | none => .next s
  | some c =>
    match c.tk.pend with
    | none => .next s
    | some p =>
      let rest : Option Pend := if c.tk.trapped && p.endt then some { Pend.none with endt := true } else none
      let s1 := writeResult k p (s.updTask k fun x => { x with pend := rest })
      .next (if p.endt && !c.tk.trapped then closeTask k s1 else s1)

/-! ## Limits (R17, R18, R76, R77) -/

/-- The wait of a task has reached its limit. -/
def Cell.expired (c : Cell) (s : State) (w : TWait) : Bool := w.deadline ≤ s.cyc c.st.die && c.tk.fired && !c.tk.trapped && !c.w.halted

/-- The input ports on which a waiting task waits: for a merge the arms without credit, for a join both sides (R215), and for any
other instruction the first that it misses in its order of reading. [DEDUCED, log 97] [DESIGN CHOICE, log 198] -/
def Cell.waitPorts (c : Cell) (cr : List Nat) (qid : Nat) : List Nat :=
  let w := (c.n.text[c.tk.pc]?).getD 0
  let f := cgFields w
  match bitsAt w.toNat 56 8 with
  | 0x75 => (upTo 4).filter fun j => f.aux.getLsbD j && nth 0 cr j == 0
  | 0x73 => [f.a.toNat - 48, f.b.toNat - 48]
  | _ => [qid - 48]

/-- Every enabled input port of a weave's nodes, in every context, holds BLAZE or closes a cycle (R348). -/
def blazeHere (t : Stand) (w : Weave) : Bool :=
  w.tasks.all fun k => match t.kern.node? w.pos k.nid with
    | some n => (upTo 4).all fun i => !(n.port i).en || (k.inq i).blazed || t.kern.closesAt w.pos.dcol w.pos.drow n i
    | none => true

/-- A blaze ends the wait (R215, R312, R328): one on a port with no token ahead of its BLAZE, one on a timeline once BLAZE has
reached the weave, or one for room in the segment while a wave is on its way to the weave. [DEDUCED, log 97] -/
def Cell.blazeEnds (c : Cell) (s : State) (w : TWait) : Bool :=
  c.st.wave.isSome && !c.w.snapped &&
    (if 48 ≤ w.qid ∧ w.qid < 52 then
      (c.waitPorts (((s.task? c.home).map (·.cr)).getD []) w.qid).any fun p => (c.tk.inq p).blazed && (c.tk.inq p).avail.isEmpty
    else (0x40 ≤ w.qid && w.qid < 0x60 && blazeHere c.st c.w) || w.qid == segmentWait)

/-- Waits with an event of their own, and the store wait, which has no limit. -/
def ownLimit (qid : Nat) : Bool := qid == 0x3D || (0x61 ≤ qid && qid ≤ 0x63) || qid == 0x65 || qid == segmentWait

/-- A multiply of the task whose wait for the chain link has reached its limit (R262). -/
def Cell.lateMult (c : Cell) (s : State) : Option Mult :=
  if c.w.halted then none
  else c.w.mults.find? fun m => m.nid == c.key.nid && m.link.isSome && m.deadline ≤ s.cyc c.st.die

/-- TASK_WAIT_EXPIRED: that of a chained multiply is delivered at the next use of its tile or buffer (R263), with no queue whose
indices it could give. [DESIGN CHOICE, log 162] -/
def execTaskWaitExpired (k : TKey) (s : State) : Out :=
  match s.cell? k with
  | none => .next s
  | some c =>
    match c.lateMult s with
    | some m => .next (dropMult k.weave m 0x03 0x3E 0 0 s)
    | none =>
    match c.tk.wait with
    | none => .next s
    | some w =>
      if c.expired s w ∧ ownLimit w.qid = false ∧ c.blazeEnds s w = false then
        .next (waitTrap c w.qid w.head w.tail s)
      else .next s

/-- BACKWARD_BRANCH_LIMIT: the firing has taken as many backward branches as its limit allows and would take another. -/
def execBackwardBranchLimit (k : TKey) (s : State) : Out :=
  match s.cell? k with
  | none => .next s
  | some c =>
    match c.tk.wait with
    | none => .next s
    | some w =>
      if w.qid = 0x3D ∧ c.tk.fired ∧ c.tk.trapped = false ∧ c.w.halted = false then
        .next (cellTrap k 0x03 0 c.tk.pc 0x3D (BitVec.ofNat 32 c.tk.branches) 0 0 s)
      else .next s

/-- INPUT_LINE_WAIT_EXPIRED: the task has not fired and traps at its first word. -/
def execInputLineWaitExpired (k : TKey) (s : State) : Out :=
  match s.cell? k with
  | none => .next s
  | some c =>
    match c.tk.lineSince, c.emptyInput with
    | some since, some line =>
      if c.ready s ∧ since + c.n.limit ≤ s.cyc c.st.die then
        .next (cellTrap k 0x03 0 c.tk.pc 0x3F (BitVec.ofNat 32 line) 0 0 (s.updTask k fun x => { x with lineSince := none }))
      else .next s
    | _, _ => .next s

/-! ## Barriers (R188, R231) -/

/-- A context made ready again after a trap that ends its wait. -/
def wakeTrapped (q : SeqId) (s : State) : State :=
  if (s.ctx q).run = .running then makeReady q (s.updCtx q fun c => { c with run := .ready }) else s

/-- A task's wait at a barrier expires: its arrival is withdrawn. -/
def taskBarrierExpired (k : TKey) (s : State) : State :=
  match s.cell? k with
  | none => s
  | some c =>
    match c.tk.wait, s.fab.barriers.find? fun b => b.holds (.task k) with
    | some w, some b =>
      if c.expired s w ∧ w.qid = barrierObject b.scope then
        waitTrap c w.qid (BitVec.ofNat 32 b.size) w.tail (withdraw (.task k) s)
      else s
    | _, _ => s

/-- BARRIER_EXPIRED, for a task or a context; `info` is the TINFO of a context's expiry (R186). -/
def barrierTimeout (m : BarMember) (info : SeqCtx → W64) (s : State) : State :=
  match m with
  | .task k => taskBarrierExpired k s
  | .seq q =>
    let c := s.ctx q
    match c.run, c.wait with
    | .waiting, some (.barrier none, dl) =>
      if dl ≤ s.cyc q.die then wakeTrapped q (seqTrap q 0x03 (info c) (withdraw m s)) else s
    | _, _ => s

/-! ## The L1 (R285, R286) -/

/-- L1_EVICTION: a line is written back or merged and dropped; where the segment has no room a wave is forced (R328).
[DESIGN CHOICE, log 109] -/
def execL1Eviction (w : WKey) (cell line : Nat) (s : State) : Out :=
  match evict w (fun x => x.cell == cell && x.line == line) s with
  | some s1 => .next s1
  | none => .next (requestWave w.stand WaveFlags.none s)

end Sys2Proof.Machine
end

