-- ==== Sys2Proof/Machine/Carry.lean ====
section
/-! DEFINITION. The places of carried state (R89, R144) and re-sharding (R143). -/

namespace Sys2Proof.Machine

/-! ## Places of carried state (R89, R144) -/

/-- Lines that an array takes in each copy of its node at grain g, with r copies (R89). -/
def CarryDecl.lines (a : CarryDecl) (g r : Nat) : Nat := ceilDiv (ceilDiv a.n (16 * g * r) * g * a.d) 2

/-- Arrays of a node in order, each with its first line, from a line on. -/
def carryFrom (g r : Nat) : Nat → List CarryDecl → List (CarryDecl × Nat)
  | _, [] => []
  | first, a :: as => (a, first) :: carryFrom g r (first + a.lines g r) as

/-- Arrays of a node with their first lines at grain g (R144). -/
def Kernel.carryAt (k : Kernel) (n : NodeDesc) (g : Nat) : List (CarryDecl × Nat) :=
  let as := k.carries.filter fun a => a.nid == n.nid
  let r := n.rep + 1
  carryFrom g r (512 * g - sumNat (as.map fun a => a.lines g r)) as

/-- Copy and 32-bit word that hold word w of logical lane L (R144). -/
def carryPlace (a : CarryDecl) (first g r lane w : Nat) : Nat × Nat :=
  let blk := lane / (16 * g)
  (blk % r, 32 * first + (blk / r * a.d + w) * 16 * g + lane % (16 * g))

/-- The lines that hold a node's carried state. -/
def Kernel.carryLines (k : Kernel) (n : NodeDesc) (g : Nat) : List Nat :=
  ((k.carryAt n g).map fun x => upFrom x.2 (x.1.lines g (n.rep + 1))).flatten

/-! ## Re-sharding (R31, R73, R143, R201, R250, R269) -/

/-- Copy one word with its poison bit from one store to another. -/
def moveWord (src : Memory) (a : Nat) (m : Memory) (b : Nat) : Memory := m.store (4 * b) (src.bytesAt (4 * a) 4) (src.poison.contains a)

/-- The carried words of one array that copy c of a node takes at the new grain. -/
def reshardArray (k : Kernel) (ws : List Weave) (n : NodeDesc) (p : WPos) (c g g' : Nat) (x y : CarryDecl × Nat) (m : Memory) : Memory :=
  let r := n.rep + 1
  (upTo x.1.n).foldl (fun m1 lane => (upTo x.1.d).foldl (fun m2 w =>
    let old := carryPlace x.1 x.2 g r lane w
    let new := carryPlace x.1 y.2 g' r lane w
    if new.1 = c then
      let from' := copyPos k p.dcol p.drow n old.1
      (match ws.find? fun v => v.pos == from' with
      | some v => moveWord v.store old.2 m2 new.2
      | none => m2)
    else m2) m1) m

/-- A task after re-sharding: its queues, credits and counters stay; a firing that waited is discarded with its
task-local state. [DEDUCED, log 89] -/
def Task.regrained (k : Task) : Task :=
  { k with
    fired := false, pc := 0, loops := [], skips := [0, 0, 0, 0], branches := 0, resv := [0, 0, 0, 0], wait := none
    twn := none, pend := none, deferred := [], lineSince := none, trapped := false, yielded := false, outq := [] }

/-- A weave at the new grain: the carried state of its nodes, full lines where it stands, and everything else as placed.
[DEDUCED, log 89] -/
def reshardWeave (k : Kernel) (ws : List Weave) (g g' : Nat) (w : Weave) : Weave :=
  let nodes := w.tasks.filterMap fun t => (k.node? w.pos t.nid).map fun n => (t, n)
  { Weave.fresh w.pos with
    blzn := w.blzn, mode := w.mode, actx := w.actx, lastNid := w.lastNid
    ldxSeq := w.ldxSeq
    tasks := w.tasks.map Task.regrained
    full := ((nodes.map fun x => k.carryLines x.2 g').flatten).foldl (fun acc l => insertNat l acc) []
    store := nodes.foldl (fun m x =>
      ((k.carryAt x.2 g).zip (k.carryAt x.2 g')).foldl (fun m1 y =>
        reshardArray k ws x.2 w.pos x.1.copy g g' y.1 y.2 m1) m) Memory.empty }

/-- All weaves of a stand at the new grain. -/
def reshardAll (k : Kernel) (g g' : Nat) (ws : List Weave) : List Weave := ws.map (reshardWeave k ws g g')

end Sys2Proof.Machine
end

