-- ==== Sys2Proof/Machine/Place.lean ====
section
/-! DEFINITION. The block scheduler (R115 to R119), publications and advances as events (R110, R111, R114), the page
allocator (R126 to R131, R352), and moving a context with its stand. -/

namespace Sys2Proof.Machine

/-! ## Publications and advances performed (R110, R111, R114) -/

/-- The record of a held publication or advance that is refused or stale (R111, R339). -/
def pubRecord (t : Stand) (p : HeldPub) (cause : Nat) : TrapRec :=
  let cell := p.src == 0
  { cause := cause, code := 0, src := p.src, pos := p.pos, tidx := p.tidx
    blzn := if cell then (t.weave p.pos).blzn else BitVec.ofNat 32 t.lastWave
    pc := p.pc
    op1 := if p.advance then BitVec.ofNat 32 (refTid p.ref) else p.ref.setWidth 32
    op2 := if p.advance then 0 else p.ref.extractLsb' 32 32
    op3 := if 2 ≤ p.src then BitVec.ofNat 32 p.seq else 0
    op4 := 0 }

/-- Report a refused publication to the stand (R111): the record holds nothing and its act is ignored; the host is told where
the stand is held and cannot take the event (R382). [DEDUCED, log 85] -/
def reportPub (st : Nat) (p : HeldPub) (cause : Nat) (s : State) : State :=
  match s.stand? st with
  | none => s
  | some t =>
    let c := s.ctx t.ctx
    let s1 := appendRecord t.ctx (pubRecord t p cause).word cause 0 true s
    let s2 := s1.updCtx t.ctx fun x => if x.tqtail = c.tqtail then x else { x with tqnote := x.tqnote ++ [c.tqtail.toNat] }
    if t.isHeld.isSome ∧ (c.tvec = 0 ∨ c.h = true) then hostEvent (.vf t.vf) 3 cause t.vf t.die (BitVec.ofNat 64 t.kern.kid) s2 else s2

/-- Perform the oldest operation at a die, if it is of the kind given (R110: in the order in which it receives them). -/
def homeStep (die : Nat) (adv : Bool) (s : State) : State :=
  match (s.die die).homeq with
  | [] => s
  | h :: rest =>
    if h.op.advance ≠ adv then s
    else
      let s1 := s.updDie die fun d => { d with homeq := rest }
      let r : State × Option Nat :=
        if adv then advance h.vf (refTid h.op.ref) s1
        else let q := publish h.vf (some h.stand) h.op.ref s1; (q.1, q.2.cause)
      match r.2 with
      | some cause => reportPub h.stand h.op cause r.1
      | none => r.1

/-- PUBLICATION. -/
def execPublication (die : Nat) (s : State) : Out := .next (homeStep die false s)
/-- GENERATION_ADVANCE. -/
def execGenerationAdvance (die : Nat) (s : State) : Out := .next (homeStep die true s)

/-- LWPUB (R106, R107): behind the writes of the VF that a PCMD holds back. [DEDUCED, log 186] -/
def execLwpub (vf : Nat) (ref : W64) (s : State) : Out :=
  .next (if s.memHeld vf then holdHost vf (.publish ref) s else hostPublish vf ref s)

/-- LWQREF (R106, R113): the register holds the reference, whose reserved bits [39:32] (R24) read as zero, and the query is
made in the order of the host's accesses. [DEDUCED, log 186] -/
def execLwqref (vf : Nat) (ref : W64) (s : State) : Out :=
  let s1 := s.updVf vf fun v => { v with win := { v.win with lwqref := ref &&& ~~~(0xFF00000000 : W64) } }
  .next (if s.memHeld vf then holdHost vf (.query ref) s1 else hostQuery vf ref s1)

/-! ## Waiting records (R112, R115, R117) -/

/-- Satisfy the inputs of a record that name a tag. -/
def Rec.satisfy (now : Nat) (r : Rec) (vf tid gen tile : Nat) : Rec :=
  if r.vf = vf ∧ r.st = .waiting then
    Rec.settle now { r with sat := ((recIns r.word).zip r.sat).map fun p =>
      p.2 || (refTid p.1 == tid && refGen p.1 == gen && refTile p.1 == tile) }
  else r

/-- TAG_NOTIFICATION: the oldest notification reaches the scheduler. -/
def execTagNotification (die : Nat) (s : State) : Out :=
  match (s.die die).notes with
  | [] => .next s
  | n :: rest => .next (s.updDie die fun d => { d with
      notes := rest, recs := d.recs.map fun r => r.satisfy (s.cyc die) n.vf n.tid n.gen.toNat n.tile.toNat })

/-- The bit that a poll reads for an input: of a current reference to a tensor with its fallback mark set. -/
def pollInput (s : State) (vf : Nat) (ref : W64) : Bool :=
  match s.tensor? vf (refTid ref) with
  | none => false
  | some e => (s.die e.home).marks.contains (vf, refTid ref) && e.gen == refGen ref && refTile ref < e.tiles
      && s.bitmapBit vf e (refTile ref)

/-- A waiting record after a poll. -/
def pollRec (s : State) (die : Nat) (r : Rec) : Rec :=
  if r.st = .waiting then
    Rec.settle (s.cyc die) { r with sat := ((recIns r.word).zip r.sat).map fun p => p.2 || pollInput s r.vf p.1 }
  else r

/-- BITMAP_POLL: every 2,048 cycles of the die (R115). -/
def execBitmapPoll (die : Nat) (s : State) : Out :=
  if s.cyc die % 2048 ≠ 0 then .next s
  else .next (s.updDie die fun d => { d with recs := d.recs.map (pollRec s die) })

/-- A record moves one class lower for each full 2^20 cycles since its acceptance (R118). -/
def Rec.promote (now : Nat) (r : Rec) : Rec :=
  let n := (now - r.since) / 2 ^ 20
  if r.st = .dispatched ∨ n ≤ r.promotions then r
  else { r with cls := r.cls - (n - r.promotions), promotions := n }

/-- CLASS_PROMOTION. -/
def execClassPromotion (die : Nat) (s : State) : Out :=
  .next (s.updDie die fun d => { d with recs := d.recs.map (Rec.promote d.cyc.toNat) })

/-! ## Dispatch (R22, R118) -/

/-- A stand can run a record (R118). -/
def Stand.canRun (t : Stand) (r : Rec) : Bool :=
  r.vf == t.vf && recKid r.word == t.kern.kid && recGmin r.word ≤ grainOf t.g && grainOf t.g ≤ recGmax r.word
where
  /-- log2 of a grain. -/
  grainOf (g : Nat) : Nat := Nat.log2 g

/-- A stand can accept a block now (R22, R129, R141, R142, R341). -/
def Stand.accepts (t : Stand) (c : SeqCtx) : Bool :=
  t.status == .resident && t.isHeld.isNone && c.run == .idle && !t.cop.pend && t.target == .none
    && !(t.wave.any fun w => w.flags.stops) && !(t.blocks.any fun b => b.feed == .queued)

/-- The better of two records: the lower class, then the earlier (R118). -/
def betterRec (a b : Rec) : Rec := if b.cls < a.cls then b else a

/-- The record a list's order of acceptance and classes puts first. -/
def bestRec : List Rec → Option Rec
  | [] => none
  | r :: rs => match bestRec rs with | none => some r | some b => some (betterRec r b)

/-- A launch on tags is an acquire by the stand's tasks (R117, R325). -/
def acquireStand (t : Stand) (s : State) : State := t.weaves.foldl (fun acc w => acquireWeave ⟨t.id, w.pos⟩ acc) s

/-- BLOCK_DISPATCH: the best eligible record that the stand can run goes to it. -/
def execBlockDispatch (die stand : Nat) (s : State) : Out :=
  match s.stand? stand with
  | none => .next s
  | some t =>
    if t.die ≠ die ∨ t.accepts (s.ctx t.ctx) = false then .next s
    else match bestRec ((s.die die).recs.filter fun r => r.st == .eligible && t.canRun r) with
      | none => .next s
      | some r =>
        let b : Blk := ⟨r.id, t.nextBlk, recT r.word 0, recT r.word 1, recT r.word 2, recT r.word 3, recOuts r.word, .queued⟩
        let s1 := s.updDie die fun d => { d with recs := d.recs.map fun x => if x.id = r.id then { x with st := .dispatched } else x }
        .next (feedBlk stand b (acquireStand t (s1.setStand { t with blocks := t.blocks ++ [b], nextBlk := t.nextBlk + 1 })))

/-! ## The page allocator (R126 to R130) -/

/-- Compartments of a box, row by row. -/
def boxComps (col row w h : Nat) : List Nat :=
  ((upFrom row h).map fun r => (upFrom col w).map fun c => 16 * r + c).flatten

/-- Resident stands of a die. -/
def State.residents (s : State) (die : Nat) : List Stand := s.stands.filter fun t => t.status == .resident && t.die == die

/-- The stand that owns a compartment. -/
def State.owner? (s : State) (die n : Nat) : Option Stand := (s.residents die).find? fun t => t.comps.contains n

/-- A compartment that has no owner is not placed while it is retired, suspect, under test or requested for one. -/
def State.barred (s : State) (die n : Nat) : Bool :=
  (s.die die).retired.contains (false, n) || (s.die die).suspects.contains (false, n)
    || (s.svc.ift.current.any fun x => x.1 == die && !x.2.1 && x.2.2 == n)
    || (s.svc.ift.queue.any fun x => x.1 == die && !x.2.1 && x.2.2 == n)

/-- A compartment can be given to a new stand. -/
def State.vacant (s : State) (die n : Nat) : Bool := (s.owner? die n).isNone && !(s.barred die n)

/-- Engine contexts of an island that no resident stand has, lowest first. -/
def freeAgns (s : State) (isl : Nat) : List Nat :=
  let used := (s.stands.filter fun t => t.status == .resident && t.isl == isl).map fun t => t.engs.map (·.agn)
  (upTo 16).filter fun n => !(used.flatten.contains n)

/-- Contexts of a sequencer that are bound (R367). -/
def boundOn (s : State) (isl q : Nat) : Nat := ((upTo 4).filter fun c => (s.ctx ⟨isl, q, c⟩).bind != .none).length

/-- The context that an island gives (R367): the lowest free one of the sequencer with fewer bound contexts, sequencer 0
on a tie. -/
def freeCtx (s : State) (isl : Nat) : Option SeqId :=
  let q := if boundOn s isl 1 < boundOn s isl 0 then 1 else 0
  ((upTo 4).map fun c => (⟨isl, q, c⟩ : SeqId)).find? fun q => (s.ctx q).bind == .none

/-- Free die barrier ids, lowest first (R11, R12). -/
def freeBars (s : State) (die : Nat) : List Nat :=
  let used := ((s.residents die).map (·.bars)).flatten
  (upTo 64).filter fun n => !(used.contains n)

/-- What placement binds (R128). -/
structure Site where
  col : Nat
  row : Nat
  isl : Nat
  ctx : SeqId
  agns : List Nat
  bars : List Nat
  deriving DecidableEq, Repr

/-- The islands of a row, the one on the nearer edge first (R126). -/
def rowIslands (die col row : Nat) : List Nat :=
  if col < 8 then [16 * die + row, 16 * die + 8 + row] else [16 * die + 8 + row, 16 * die + row]

/-- The resources of an island for a kernel, if it has them free. -/
def islandSite (s : State) (die col row : Nat) (k : Kernel) (isl : Nat) : Option Site :=
  let agns := freeAgns s isl
  let bars := freeBars s die
  match freeCtx s isl with
  | some q =>
    if k.neng ≤ agns.length ∧ k.nbar ≤ bars.length then some ⟨col, row, isl, q, agns.take k.neng, bars.take k.nbar⟩ else none
  | none => none

/-- A box at a corner, if it is free outside the compartments to avoid, its row has the resources, and the kernel has a route
identifier of the die for every route (R88). -/
def siteAt (s : State) (die : Nat) (k : Kernel) (avoid : List Nat) (col row : Nat) : Option Site :=
  if 16 < col + k.w ∨ 8 < row + k.h ∨ (k.rids.get die).length < k.routes.length then none
  else if (boxComps col row k.w k.h).all fun n => s.vacant die n && !(avoid.contains n) then
    (rowIslands die col row).findSome? (islandSite s die col row k)
  else none

/-- The corners of a die in row-major order. -/
def corners : List (Nat × Nat) := ((upTo 8).map fun r => (upTo 16).map fun c => (c, r)).flatten

/-- The first box in row-major order that fits a kernel. -/
def findSite (s : State) (die : Nat) (k : Kernel) (avoid : List Nat) : Option Site :=
  corners.findSome? fun p => siteAt s die k avoid p.1 p.2

/-- Compartments a VF owns on a die (R127 CUSED). -/
def State.cused (s : State) (vf die : Nat) : Nat :=
  sumNat ((s.residents die).map fun t => if t.vf = vf then t.kern.w * t.kern.h else 0)

/-- The quota of a VF on a die (R127). -/
def State.quota (s : State) (vf die : Nat) : Nat := min 128 (bitsAt (s.vf vf).cfg.cquota.toNat (8 * die) 8)

/-- A kernel's box is within the VF's quota. -/
def withinQuota (s : State) (vf die : Nat) (k : Kernel) : Bool := s.cused vf die + k.w * k.h ≤ s.quota vf die

/-- MiB of the two save areas of a box (R349, R383). [DEDUCED, log 105] -/
def saveMiB (k : Kernel) : Nat := 2 * 16 * (k.w * k.h)

/-- The save areas of a fresh stand fit in the VF's save region beside those of its other stands (R383).
[DEDUCED, log 105] -/
def saveFits (s : State) (vf : Nat) (k : Kernel) : Bool :=
  sumNat (s.stands.map fun t => if t.vf = vf then saveMiB t.kern else 0) + saveMiB k ≤ (s.vf vf).cfg.savesz.toNat % 2 ^ 32

/-- Place a fresh stand (R128). -/
def placeFresh (vf die : Nat) (k : Kernel) (g : Nat) (x : Site) (s : State) : State :=
  let t := Stand.placed s.nextStand vf die x.col x.row g x.isl k x.ctx x.bars x.agns (s.cyc die) 0
  { s with nextStand := s.nextStand + 1, stands := s.stands ++ [t] }.setCtx (placedCtx x.ctx t)

/-! ### A context and its local memory in another place (R130, R350) -/

/-- Base of a context's 64 KiB of local memory. -/
def regionBase (q : SeqId) : Nat := localAddr q (0x10000 * q.ctx)

/-- The contents of a context's local memory, by offset. -/
def regionOf (m : Memory) (base : Nat) : Memory :=
  ⟨(m.bytes.filter fun c => base ≤ c.1 && c.1 < base + 65536).map fun c => (c.1 - base, c.2),
   (m.poison.filter fun w => base / 4 ≤ w && w < base / 4 + 16384).map fun w => w - base / 4⟩

/-- Put contents into a context's local memory. -/
def putRegion (m : Memory) (base : Nat) (r : Memory) : Memory :=
  let m1 : Memory := ⟨m.bytes.filter fun c => !(base ≤ c.1 && c.1 < base + 65536),
    m.poison.filter fun w => !(base / 4 ≤ w && w < base / 4 + 16384)⟩
  let m2 := r.bytes.foldl (fun acc c => acc.setByte (base + c.1) c.2) m1
  r.poison.foldl (fun acc w => acc.setPoison (base / 4 + w) true) m2

/-- A local offset in the corresponding place of another context. [DESIGN CHOICE, log 83] -/
def rebase (a b : SeqId) (x : W64) : W64 := x - BitVec.ofNat 64 (0x10000 * a.ctx) + BitVec.ofNat 64 (0x10000 * b.ctx)

/-- A context taken to another place: what it waited for issues again (R350, R352). [DESIGN CHOICE, log 83] -/
def SeqCtx.carried (c : SeqCtx) (q : SeqId) : SeqCtx :=
  { c.snapshot with
    id := q, wsp := rebase c.id q c.wsp, wlim := rebase c.id q c.wlim, wait := none
    run := match c.run with | .running => .idle | .waiting => .idle | .ready => .idle | r => r }

/-- A context was at work. -/
def RunState.active (r : RunState) : Bool := r == .running || r == .waiting || r == .ready

/-- Bind a carried context with its local memory. -/
def bindCarried (c : SeqCtx) (region : Memory) (q : SeqId) (s : State) : State :=
  let s1 := { s with lmem := putRegion s.lmem (regionBase q) region }.setCtx (c.carried q)
  if c.run.active then makeReady q s1 else s1

/-- Give a stand the resources of a site. -/
def Stand.at (t : Stand) (x : Site) : Stand :=
  { t with
    col := x.col, row := x.row, isl := x.isl, ctx := x.ctx, bars := x.bars, status := .resident, target := .none
    engs := t.engs.zipIdx.map fun p => { p.1 with agn := nth 0 x.agns p.2 } }

/-- A stand's weaves and engines go on, unless it is held. -/
def Stand.unstop (t : Stand) : Stand :=
  if t.isHeld.isSome then t
  else { t with
    weaves := t.weaves.map fun w => { w with halted := false }
    engs := t.engs.map fun e => { e with halted := false } }

/-- Place a suspended or set-aside stand again (R129, R352): its ports count anew (R364), and it has no image to roll back to
until a wave completes (R353). [DESIGN CHOICE, log 171] -/
def placeAgain (t : Stand) (x : Site) (s : State) : State :=
  let c := ((t.haltImage.bind (·.ctx))).getD (SeqCtx.unbound t.ctx)
  let region := ((t.haltImage.map (·.lmem))).getD Memory.empty
  let t1 : Stand := { (t.at x).unstop.recount with
    image := none, haltImage := if t.isHeld.isSome then t.haltImage else none, since := s.cyc t.die, cop := { t.cop with winStart := s.cyc t.die } }
  feedNext t.id (bindCarried c region x.ctx (s.setStand t1))

/-- A stand leaves its box and keeps its state, with its context and local memory (R129, R352). -/
def putAside (t : Stand) (status : Status) (s : State) : State :=
  let c := s.ctx t.ctx
  let base : StandImage := t.haltImage.getD ⟨0, t.g, t.actx, [], [], none, [], Memory.empty, []⟩
  let t1 : Stand := { t with
    status := status, target := .none, since := s.cyc t.die
    engs := t.engs.map fun e => { e with cmds := e.cmds.map fun c => { c with asked := [] } }
    haltImage := some { base with ctx := some c, lmem := regionOf s.lmem (regionBase t.ctx) } }
  let s1 := withdrawRequests t s
  schedule t.ctx (leaveBox t ((s1.setStand t1).setCtx (SeqCtx.unbound t.ctx)))

/-- Move a stand to a box of its die (R130); it stays where it is when the place is no longer to be had. Its ports count anew
(R364), and it has no image to roll back to until a wave completes (R353). [DESIGN CHOICE, log 171] -/
def moveStand (t : Stand) (col row : Nat) (s : State) : State :=
  let c := s.ctx t.ctx
  let away : Stand := { t with status := .suspended, target := .none }
  let s1 := (s.setStand away).setCtx (SeqCtx.unbound t.ctx)
  match siteAt s1 t.die t.kern [] col row with
  | none => s.setStand { t.unstop with target := .none }
  | some x =>
    let region := regionOf s.lmem (regionBase t.ctx)
    let s2 : State := { s1 with fab := { s1.fab with
      barriers := s1.fab.barriers.map fun b => { b with arrived := b.arrived.filter fun a => !(BarMember.ofStand t a.1) } } }
    bindCarried c region x.ctx (schedule t.ctx (leaveBox t (s2.setStand { (away.at x).unstop.recount with image := none })))

/-! ### Requests (R118, R128, R129, R352) -/

/-- Records of a die that no resident stand can run, best first: each asks for a stand, but for those of a suspended VF
(R352). -/
def requests (s : State) (die : Nat) : List Rec :=
  let rs := (s.die die).recs.filter fun r => r.st == .eligible && !(s.pf.vfsusp.getLsbD r.vf) && !((s.residents die).any fun t => t.canRun r)
  let byClass (c : Nat) : List Rec := rs.filter fun r => r.cls == c
  byClass 0 ++ byClass 1 ++ byClass 2 ++ byClass 3

/-- The set-aside stand of a record's kernel on a die (R129). [DEDUCED, log 84] -/
def asideFor (s : State) (die : Nat) (r : Rec) : Option Stand :=
  s.stands.find? fun t => t.status == .setAside && t.die == die && t.vf == r.vf && t.kern.kid == recKid r.word

/-- A suspended stand that may be placed again. -/
def Stand.resumable (s : State) (die : Nat) (t : Stand) : Bool :=
  t.status == .suspended && t.die == die && !(s.pf.vfsusp.getLsbD t.vf)

/-- The stand of a list that was suspended first. [DESIGN CHOICE, log 171] -/
def earliestStand : List Stand → Option Stand
  | [] => none
  | t :: ts => match earliestStand ts with
    | none => some t
    | some u => if t.since ≤ u.since then some t else some u

/-- Suspended stands of a die that a box fits now. [DESIGN CHOICE, log 171] -/
def fittingSuspended (s : State) (die : Nat) : Option (Stand × Site) :=
  match earliestStand (s.stands.filter fun t => t.resumable s die && withinQuota s t.vf die t.kern && (findSite s die t.kern []).isSome) with
  | some t => (findSite s die t.kern []).map fun x => (t, x)
  | none => none

/-- SUSPENDED_STAND_REPLACE: the stand suspended first whose box fits is placed again. -/
def execSuspendedStandReplace (die : Nat) (s : State) : Out :=
  match fittingSuspended s die with
  | some (t, x) => .next (placeAgain t x s)
  | none => .next s

/-- A request that a free box satisfies: for a set-aside stand, or a fresh one at the least grain (R128).
[DEDUCED, log 84] -/
def satisfyRequest (die : Nat) (r : Rec) (s : State) : Option State :=
  match s.kernel? r.vf (recKid r.word) with
  | none => none
  | some k =>
    match asideFor s die r with
    | some t =>
      if withinQuota s r.vf die t.kern then (findSite s die t.kern []).map fun x => placeAgain t x s else none
    | none =>
      match grainsFor k (recGmin r.word) (recGmax r.word) with
      | [] => none
      | g :: _ =>
        if withinQuota s r.vf die k && saveFits s r.vf k then (findSite s die k []).map fun x => placeFresh r.vf die k (2 ^ g) x s else none

/-- A stand is idle (R129). -/
def Stand.isIdle (t : Stand) (s : State) : Bool :=
  t.blocks.isEmpty && t.isHeld.isNone && t.target == .none && !t.cop.pend
    && !((s.die t.die).recs.any fun r => r.st != .dispatched && t.canRun r)

/-- The stand of a list dispatched to least recently. [DESIGN CHOICE, log 171] -/
def leastRecent : List Stand → Option Stand
  | [] => none
  | t :: ts => match leastRecent ts with
    | none => some t
    | some u => if t.lastDispatch ≤ u.lastDispatch then some t else some u

/-- Remove an idle stand (R129): one without carried state is discarded, another is set aside by a wave. -/
def removeIdle (t : Stand) (s : State) : State :=
  if t.kern.carries.isEmpty then freeStand t.id s
  else requestWave t.id { WaveFlags.none with preempt := true } (s.setStand { t with target := .aside })

/-- Remove idle stands, the least recently dispatched first, until the request is satisfied, one must first be set aside,
or none is left; the flag tells whether the request is served or will be. -/
def removeUntil (die : Nat) (r : Rec) : Nat → State → State × Bool
  | 0, s => (s, false)
  | n + 1, s =>
    match leastRecent ((s.residents die).filter fun t => t.isIdle s) with
    | none => (s, false)
    | some t =>
      let s1 := removeIdle t s
      match satisfyRequest die r s1 with
      | some s2 => (s2, true)
      | none => if t.kern.carries.isEmpty then removeUntil die r n s1 else (s1, true)

/-- Places outside a box for its occupants, first fit in row-major order (R129). -/
def relocate (die : Nat) : List Stand → State → List Nat → Option (List (Stand × Nat × Nat))
  | [], _, _ => some []
  | t :: ts, s, avoid =>
    match findSite s die t.kern avoid with
    | none => none
    | some x => (relocate die ts s (avoid ++ boxComps x.col x.row t.kern.w t.kern.h)).map fun l => (t, x.col, x.row) :: l

/-- The moves that would make room for a kernel in a box, none where they cannot: a held occupant moves once it is serviced
(R345). [DESIGN CHOICE, log 171] -/
def boxMoves (s : State) (die : Nat) (k : Kernel) (col row : Nat) : Option (List (Stand × Nat × Nat)) :=
  let box := boxComps col row k.w k.h
  if 16 < col + k.w ∨ 8 < row + k.h then none
  else if box.any fun n => (s.die die).suspects.contains (false, n) || ((s.owner? die n).isNone && s.barred die n) then none
  else
    let occ := (s.residents die).filter fun t => t.comps.any (box.contains ·)
    let s1 := occ.foldl (fun acc t => (acc.setStand { t with status := .suspended }).setCtx (SeqCtx.unbound t.ctx)) s
    if (occ.any fun t => t.target != .none) || (siteAt s1 die k [] col row).isNone then none else relocate die occ s1 box

/-- Compaction (R129): the occupants of the first box that can be freed are moved; the flag tells whether there is one. -/
def compact (die : Nat) (k : Kernel) (s : State) : State × Bool :=
  match corners.findSome? fun p => boxMoves s die k p.1 p.2 with
  | none => (s, false)
  | some moves => (moves.foldl (fun acc m =>
      requestWave m.1.id { WaveFlags.none with move := true } (acc.updStand m.1.id fun t => { t with target := .move m.2.1 m.2.2 })) s, true)

/-- A request of a kernel is within its VF's quota and save region; a set-aside stand has its save areas already. -/
def grantable (s : State) (die : Nat) (r : Rec) (k : Kernel) : Bool :=
  withinQuota s r.vf die k && ((asideFor s die r).isSome || saveFits s r.vf k)

/-- The allocator's remedies for a request within its quota (R129), while no earlier one is under way; the flag tells whether
one serves it or is under way. [DESIGN CHOICE, log 171] -/
def remedy (die : Nat) (r : Rec) (s : State) : State × Bool :=
  match s.kernel? r.vf (recKid r.word) with
  | none => (s, false)
  | some k =>
    if grantable s die r k = false then (s, false)
    else if (s.residents die).any fun t => t.target != .none then (s, true)
    else
      let x := removeUntil die r 128 s
      if x.2 then x else compact die k x.1

/-- The remedies for each request in turn, up to the first that one serves: one that none serves holds back no other (R118). -/
def remedies (die : Nat) : List Rec → State → State
  | [], s => s
  | r :: rs, s =>
    let x := remedy die r s
    if x.2 then x.1 else remedies die rs x.1

/-- STAND_PLACEMENT: after the suspended stands that a box fits, the first request that a box satisfies is placed; where
none is, the remedies are tried. -/
def execStandPlacement (die : Nat) (s : State) : Out :=
  match fittingSuspended s die with
  | some _ => .next s
  | none =>
    let rs := requests s die
    match rs.findSome? fun r => satisfyRequest die r s with
    | some s1 => .next s1
    | none => .next (remedies die rs s)

/-! ## Pre-emption (R352) -/

/-- Request that a stand be suspended. -/
def preempt (t : Stand) (s : State) : State :=
  if t.isHeld.any fun h => h.haltDone then putAside t .suspended s
  else if t.isHeld.isSome then s.setStand { t with target := .suspend }
  else requestWave t.id { WaveFlags.none with preempt := true } (s.setStand { t with target := .suspend })

/-- A box that a stand's removal would leave fits a kernel. -/
def fitsWithout (s : State) (t : Stand) (k : Kernel) : Bool :=
  (findSite ((s.setStand { t with status := .suspended }).setCtx (SeqCtx.unbound t.ctx)) t.die k []).isSome

/-- What a starving record pre-empts (R352): where no box or remedy serves it, the least recently dispatched stand of another kid
with a dispatched record of class 1 to 3 whose box fits. [DESIGN CHOICE, log 171] -/
def victimFor (s : State) (die : Nat) (r : Rec) : Option Stand :=
  match s.kernel? r.vf (recKid r.word) with
  | none => none
  | some k =>
    if grantable s die r k = false ∨ (findSite s die k []).isSome ∨ (corners.any fun p => (boxMoves s die k p.1 p.2).isSome) then none
    else
      let low (t : Stand) : Bool := t.blocks.any fun b => (s.die die).recs.any fun x => x.id == b.recId && 1 ≤ x.cls
      leastRecent ((s.residents die).filter fun t =>
        (t.kern.kid != k.kid || t.vf != r.vf) && low t && t.isHeld.isNone && fitsWithout s t k)

/-- PREEMPT_STARVATION: for the first eligible record of class 0 that has waited 2^20 cycles since it became eligible and that
can, while no removal or move is under way or to be had, a stand is pre-empted. -/
def execPreemptStarvation (die : Nat) (s : State) : Out :=
  if (s.residents die).any fun t => t.target != .none || t.isIdle s then .next s
  else match ((requests s die).filter fun r => r.cls == 0 && 2 ^ 20 ≤ s.cyc die - r.elig).findSome? (victimFor s die) with
    | some t => .next (preempt t s)
    | none => .next s

/-- A stand of a suspended VF leaves at its next complete wave; a held one at its halt image (R351, R352).
[DEDUCED, log 94] -/
def suspendVf (vf : Nat) (s : State) : State :=
  s.stands.foldl (fun acc t =>
    if t.vf = vf ∧ t.status = .resident ∧ t.target ≠ .suspend then preempt t acc else acc) s

/-- VFSUSP: every stand of a VF whose bit is set is pre-empted; a clear bit lets them be placed again. While a channel is
being retired every VF stays suspended and the write takes effect afterwards (R375). [DEDUCED, log 116] -/
def execVfsusp (value : W64) (s : State) : Out :=
  let s1 : State := { s with pf := { s.pf with vfsusp := value } }
  if s.svc.chMigrating.isSome then .next { s with svc := { s.svc with chSusp := value } }
  else .next ((upTo 64).foldl (fun acc v => if value.getLsbD v then suspendVf v acc else acc) s1)

end Sys2Proof.Machine
end

