-- ==== Sys2Proof/Machine/Skid.lean ====
section
/-! DEFINITION. The skid commands (R305 to R310): one step of each for the engine context whose turn it is. -/

namespace Sys2Proof.Machine

/-- A command that accesses global memory itself, or writes there what its replies brought, waits while a PCMD of its VF is under
way (R315); what goes by lines holds its requests. [DEDUCED, log 106] -/
def Cmd.isHeld (c : Cmd) (s : State) (t : Stand) : Bool :=
  s.memHeld t.vf && [2, 3, 4, 5, 6, 7, 8, 9, 0xD, 0xE, 0xF].contains (cmdOp c.word)
    && ((c.srcSide.any fun x => x.store.isNone) || (c.dstSide.any fun x => x.store.isNone))

/-- One step of a command for the engine context whose turn it is: its oldest unfinished command must be this one. -/
def runSkid (i : Instr) (body : EngAt → State → State) (s : State) : Out :=
  match s.actor with
  | .engine k =>
    (match s.engAt? k with
    | some x =>
      if x.g.halted = false ∧ decodeSkid x.c.word = some i then .next (if x.c.isHeld s x.st then s else body x s)
      else .fault .noAgent
    | none => .fault .noAgent)
  | _ => .fault .noAgent

/-! ## Tiles -/

/-- SK.CPYGL: a global tile to a store; fe sets F on each line written. -/
def execSkCpygl (f : Skid) (s : State) : Out := runSkid (.skCpygl f) moverStep s
/-- SK.CPYLG: a store tile to a global tile. -/
def execSkCpylg (f : Skid) (s : State) : Out := runSkid (.skCpylg f) moverStep s
/-- SK.CPYGG: a global tile to a global tile, of another package at scope pod. -/
def execSkCpygg (f : Skid) (s : State) : Out := runSkid (.skCpygg f) moverStep s
/-- SK.REDC: an L2 operation of a source tile on a destination tile. -/
def execSkRedc (f : Skid) (s : State) : Out := runSkid (.skRedc f) moverStep s
/-- SK.PFMC: the lines of a tile are fetched into their slices. -/
def execSkPfmc (f : Skid) (s : State) : Out := runSkid (.skPfmc f) lineStep s
/-- SK.LKMC: the lines of a tile are pinned. [DEDUCED, log 81] -/
def execSkLkmc (f : Skid) (s : State) : Out := runSkid (.skLkmc f) lineStep s
/-- SK.ULMC: the lines of a tile are unpinned. -/
def execSkUlmc (f : Skid) (s : State) : Out := runSkid (.skUlmc f) lineStep s

/-- The element that FILL writes: the low bits of v, or v twice in 32 bits (R305). -/
def fillValue (w v : Nat) : Nat := if w = 32 then v * 65537 else v % 2 ^ w

/-- Write the elements of a tile, those of a tile in global memory one line a step, so that a full segment holds back no more
than that (R328); the command ends with the last. -/
def writeTile (k : EKey) (c : Cmd) (b : Side) (el : List Nat → TileEl) (s : State) (done : State → State) : State :=
  let ixs := b.e.tileElems b.co
  if b.store.isSome then afterWrite k c s done (writeEls k b ixs (ixs.map el) s)
  else match b.lines[c.pos]? with
    | none => done s
    | some l =>
      let here := ixs.filter fun ix => b.e.inExt ix && b.vline ix == l
      afterWrite k c s (updCmd k c.seq fun y => { y with pos := y.pos + 1 }) (writeEls k b here (here.map el) s)

/-- SK.FILL: every element of the tile takes the value stid holds. -/
def execSkFill (f : Skid) (s : State) : Out :=
  runSkid (.skFill f) (fun x s =>
    match x.c.dstSide with
    | none => rejectCmd x.key x.c s
    | some b =>
      let ixs := b.e.tileElems b.co
      let el : TileEl := ⟨fillValue b.e.width f.stid.toNat, false⟩
      let full (s1 : State) : State :=
        match b.store with
        | some p =>
          if f.fe = 1 then setFull x.key.stand p.pos ((ixs.filter b.e.inExt).foldl (fun acc ix => addOnce acc (storeLine b.e p.off ix)) []) s1
          else s1
        | none => s1
      writeTile x.key x.c b (fun _ => el) s fun s1 => finishCmd x.key x.c (full s1)) s

/-! ## Streams -/

/-- SK.STRM: the tile's elements fill consecutive data tokens, one token a step; a value that faults travels as a FAULT
token (R294). -/
def execSkStrm (f : Skid) (s : State) : Out :=
  runSkid (.skStrm f) (fun x s =>
    match x.c.srcSide with
    | none => rejectCmd x.key x.c s
    | some a =>
      let n := tokensFor a.e.width a.e.tileSize
      if x.c.todo.isSome then endStream x.key x.c s
      else if s.routeSlots x.st f.route.toNat = 0 then s
      else
        let ixs := tokenPart a.e.width x.c.pos (a.e.tileElems a.co)
        let tok := match readEls s x.st a ixs with
          | .ok els => dataTok a.e.width els
          | .error _ => faultTok 0x07
        let s1 := sendTok x.key f.route.toNat tok (touchEls x.st a ixs s)
        if n ≤ x.c.pos + 1 then endStream x.key x.c s1
        else updCmd x.key x.c.seq (fun c => { c with pos := c.pos + 1 }) s1) s

/-- SK.SINK: data tokens are written as the tile's elements; FAULT fails the command, other kinds are discarded. -/
def execSkSink (f : Skid) (s : State) : Out :=
  runSkid (.skSink f) (fun x s =>
    let k := x.key
    match x.c.dstSide, x.g.port.q with
    | none, _ => rejectCmd k x.c s
    | some _, [] => s
    | some b, t :: _ =>
      if t.kind = 9 then failCmd k x.c t.cause (takeToken k s)
      else if t.kind ≠ 0 then takeToken k s
      else
        let ixs := tokenPart b.e.width x.c.pos (b.e.tileElems b.co)
        let next (s1 : State) : State :=
          let s2 := takeToken k s1
          if tokensFor b.e.width b.e.tileSize ≤ x.c.pos + 1 then finishCmd k x.c s2
          else updCmd k x.c.seq (fun c => { c with pos := c.pos + 1 }) s2
        afterWrite k x.c s next (writeEls k b ixs (elsOfTok b.e.width ixs.length t) s)) s

/-- The coordinates of an element linear index (R306), none beyond the tensor. -/
def linearIx (e : TEnt) (n : Nat) : Option (List Nat) :=
  if n < e.x 0 * e.x 1 * e.x 2 * e.x 3 then
    some [n % e.x 0, n / e.x 0 % e.x 1, n / (e.x 0 * e.x 1) % e.x 2, n / (e.x 0 * e.x 1 * e.x 2)]
  else none

/-- The index that names no element (R306, R307). -/
def noIndex : W32 := 0xFFFFFFFF

/-- The value of one index lane, or the cause of the token's fault (R306). -/
def gatherLane (s : State) (t : Stand) (a : Side) (l : Lane) : Except Nat Lane :=
  if l.poison then .error 0x06
  else if l.v = noIndex then .ok ⟨0, false⟩
  else match linearIx a.e l.v.toNat with
    | none => .error 0x08
    | some ix =>
      match readEls s t a [ix] with
      | .ok [el] => .ok ⟨cmExtend (BitVec.ofNat 4 a.e.fmt) el.v, el.poison⟩
      | .ok _ => .ok ⟨0, false⟩
      | .error _ => .error 0x07

/-- The values of index lanes up to the first bad one. [DEDUCED, log 78] -/
def gatherLanes (s : State) (t : Stand) (a : Side) : List Lane → Except Nat (List Lane)
  | [] => .ok []
  | l :: ls =>
    match gatherLane s t a l with
    | .error c => .error c
    | .ok x =>
      match gatherLanes s t a ls with
      | .error c => .error c
      | .ok xs => .ok (x :: xs)

/-- SK.GATH: a token of indices is answered by a token of values; control tokens are forwarded in order; FAULT fails the
command and EOS ends it. [DEDUCED, log 77] -/
def execSkGath (f : Skid) (s : State) : Out :=
  runSkid (.skGath f) (fun x s =>
    let k := x.key
    let r := f.route.toNat
    if x.c.todo.isSome then endStream k x.c s
    else match x.c.srcSide, x.g.port.q with
    | none, _ => rejectCmd k x.c s
    | some _, [] => s
    | some a, t :: _ =>
      if t.kind = 9 then failCmd k x.c t.cause (takeToken k s)
      else if s.routeSlots x.st r = 0 then s
      else if t.kind = 5 then endStream k x.c (sendTok k r (ctlTok 5 0) (takeToken k s))
      else if t.kind ≠ 0 then sendTok k r t (takeToken k s)
      else
        let ls := fitLen ⟨0, false⟩ 16 t.lanes
        let tok := match gatherLanes s x.st a ls with
          | .ok vs => Tok.fit ⟨0, vs, false, 0, false⟩
          | .error c => faultTok c
        sendTok k r tok (takeToken k (touchEls x.st a (ls.filterMap fun l => linearIx a.e l.v.toNat) s))) s

/-- The elements that a pair of tokens writes, below the first bad coordinate, and that coordinate's cause.
[DEDUCED, log 78] -/
def scatterLanes (e : TEnt) : List (Lane × Lane) → List (List Nat × TileEl) × Option Nat
  | [] => ([], none)
  | (i, v) :: rest =>
    if i.poison then ([], some 0x06)
    else if i.v = noIndex then scatterLanes e rest
    else match linearIx e i.v.toNat with
      | none => ([], some 0x08)
      | some ix =>
        let r := scatterLanes e rest
        ((ix, ⟨bitsAt v.v.toNat 0 e.width, v.poison⟩) :: r.1, r.2)

/-- Write elements one after another, so that a later lane wins (R306), up to the first that does not translate, which the
flag tells; none where the segment has no room. -/
def scatterAll (k : EKey) (b : Side) : List (List Nat × TileEl) → State → Option (State × Bool)
  | [], s => some (s, false)
  | (ix, el) :: rest, s =>
    match writeEls k b [ix] [el] s with
    | .ok s1 => scatterAll k b rest s1
    | .fault => some (s, true)
    | .full => none

/-- SK.SCAT: a coordinate token, then a value token. -/
def execSkScat (f : Skid) (s : State) : Out :=
  runSkid (.skScat f) (fun x s =>
    let k := x.key
    match x.c.dstSide, x.g.port.q with
    | none, _ => rejectCmd k x.c s
    | some _, [] => s
    | some b, t :: _ =>
      if t.kind = 9 then failCmd k x.c t.cause (takeToken k s)
      else if t.kind = 5 then finishCmd k x.c (takeToken k s)
      else match x.c.pairHalf with
        | [] =>
          if t.kind ≠ 0 then takeToken k s
          else updCmd k x.c.seq (fun c => { c with pairHalf := [t] }) (takeToken k s)
        | i :: _ =>
          if t.kind ≠ 0 then failCmd k x.c 0x01 (takeToken k s)
          else
            let r := scatterLanes b.e ((fitLen ⟨0, false⟩ 16 i.lanes).zip (fitLen ⟨0, false⟩ 16 t.lanes))
            (match scatterAll k b r.1 s with
            | none => pauseCmd k x.c s
            | some (s1, bad) =>
              let s2 := updCmd k x.c.seq (fun c => { c with pairHalf := [], paused := false }) (takeToken k s1)
              match (if bad then some 0x07 else r.2) with
              | some cause => failCmd k x.c cause s2
              | none => s2)) s

/-! ## Experts (R307) -/

/-- The elements of a row, in order of dimension 0 (R68). -/
def rowIxs (e : TEnt) (r : Nat) : List (List Nat) :=
  (upTo (e.x 0)).map fun i => [i, r % e.x 1, r / e.x 1 % e.x 2, r / (e.x 1 * e.x 2)]

/-- One step of an entry lane of DISP: skip it, send token `sub` of its row, or fail. -/
def dispLane (x : EngAt) (f : Skid) (a : Side) (per : Nat) (l : Lane) (sub : Nat) (s : State) : State :=
  let k := x.key
  let c := x.c
  let row := bitsAt l.v.toNat 0 24
  let ex := bitsAt l.v.toNat 24 4
  let skip : State := updCmd k c.seq (fun y => { y with pos := (y.pos / per + 1) * per }) s
  if l.poison then failCmd k c 0x06 s
  else if l.v = noIndex then skip
  else if bitsAt l.v.toNat 28 4 ≠ 0 then failCmd k c 0x01 s
  else if f.t0.toNat ≤ ex then updEngine k (fun g => { g with err := true }) skip
  else if a.e.rows ≤ row then failCmd k c 0x08 s
  else
    let route := f.route.toNat + ex
    if s.routeSlots x.st route = 0 then s
    else
      let tok :=
        if sub + 1 = per then ctlTok 1 0
        else match readEls s x.st a (tokenPart a.e.width sub (rowIxs a.e row)) with
          | .ok els => dataTok a.e.width els
          | .error _ => faultTok 0x07
      updCmd k c.seq (fun y => { y with pos := y.pos + 1 })
        (sendTok k route tok (touchEls x.st a (tokenPart a.e.width sub (rowIxs a.e row)) s))

/-- SK.DISP: the rows that entry lanes name are sent to their experts, each ended by EOD1; EOS is sent to every expert. -/
def execSkDisp (f : Skid) (s : State) : Out :=
  runSkid (.skDisp f) (fun x s =>
    let k := x.key
    if x.c.todo.isSome then endStream k x.c s
    else match x.c.srcSide, x.g.port.q with
    | none, _ => rejectCmd k x.c s
    | some _, [] => s
    | some a, t :: _ =>
      let per := tokensFor a.e.width (a.e.x 0) + 1
      if t.kind = 9 then failCmd k x.c t.cause (takeToken k s)
      else if t.kind = 5 then
        (if f.t0.toNat ≤ x.c.ends then endStream k x.c (takeToken k s)
        else if s.routeSlots x.st (f.route.toNat + x.c.ends) = 0 then s
        else updCmd k x.c.seq (fun c => { c with ends := c.ends + 1 }) (sendTok k (f.route.toNat + x.c.ends) (ctlTok 5 0) s))
      else if t.kind ≠ 0 then takeToken k s
      else if 16 ≤ x.c.pos / per then updCmd k x.c.seq (fun c => { c with pos := 0 }) (takeToken k s)
      else dispLane x f a per (nth ⟨0, false⟩ t.lanes (x.c.pos / per)) (x.c.pos % per) s) s

/-- acc + w·v, rounded once (R307). -/
def cmbStep (acc w v : Nat) : Nat :=
  f32fmt.write .rne false (FVal.add .rne (FVal.mul (f32fmt.read w) (f32fmt.read v)) (f32fmt.read acc))

/-- Contributions in increasing order of expert. -/
def insertPart (p : Nat × Lane × List Lane) : List (Nat × Lane × List Lane) → List (Nat × Lane × List Lane)
  | [] => [p]
  | q :: qs => if p.1 < q.1 then p :: q :: qs else q :: insertPart p qs

/-- Element i of a complete row (R307), with the poison of every weight and value it is made of. -/
def cmbEl (e : TEnt) (parts : List (Nat × Lane × List Lane)) (i : Nat) : TileEl :=
  let v (p : Nat × Lane × List Lane) : Lane := nth ⟨0, false⟩ p.2.2 i
  let acc := parts.foldl (fun acc p => cmbStep acc p.2.1.v.toNat (v p).v.toNat) f32fmt.signBit
  let out := if e.fmt = 0xA then acc else (cvtFloat (fmtOf e.fmt) .rne false 0 (f32fmt.read acc)).getD 0
  ⟨out, parts.any fun p => p.2.1.poison || (v p).poison⟩

/-- A complete record of a producer: its header and values. [DEDUCED, log 79] -/
def cmbRecord (x : EngAt) (b : Side) (hd : Tok) (vals : List Lane) (rest : List Tok) (s : State) : State :=
  let k := x.key
  let l (i : Nat) : Lane := nth ⟨0, false⟩ hd.lanes i
  let row := (l 0).v.toNat
  let ex := (l 1).v.toNat
  let old := (x.g.rows.find? fun r => r.row == row).getD ⟨row, (l 3).v.toNat, []⟩
  let others := x.g.rows.filter fun r => r.row != row
  let s1 := updCmd k x.c.seq (fun c => { c with pairHalf := rest }) (takeToken k s)
  if old.got.any fun p => p.1 == ex then updEngine k (fun g => { g with err := true }) s1
  else
    let new : CmbRow := { old with got := insertPart (ex, l 2, vals) old.got }
    if new.got.length < new.need then updEngine k (fun g => { g with rows := others ++ [new] }) s1
    else
      let ixs := rowIxs b.e row
      afterWrite k x.c s (fun s2 => updEngine k (fun g => { g with rows := others })
          (updCmd k x.c.seq (fun c => { c with pairHalf := rest }) (takeToken k s2)))
        (writeEls k b ixs ((upTo (b.e.x 0)).map (cmbEl b.e new.got)) s)

/-- The fault of a header token (R307, R310): a poisoned row, expert or count, a row beyond the tensor, or a count outside
1 to 16. [DEDUCED, log 79] -/
def headerFault (b : Side) (t : Tok) : Option Nat :=
  let l (i : Nat) : Lane := nth ⟨0, false⟩ t.lanes i
  if (l 0).poison || (l 1).poison || (l 3).poison then some 0x06
  else if b.e.rows ≤ (l 0).v.toNat then some 0x08
  else if (l 3).v.toNat = 0 ∨ 16 < (l 3).v.toNat then some 0x01
  else none

/-- The incomplete rows that an engine holds (R307): those with a contribution, and those whose header it has taken. -/
def rowsHeld (g : Eng) (c : Cmd) : List Nat :=
  let heads := c.pairHalf.zipIdx.filter fun p => !((c.pairHalf.take p.2).any fun u => u.rid == p.1.rid)
  (heads.map fun p => (nth (⟨0, false⟩ : Lane) p.1.lanes 0).v.toNat).foldl addOnce (g.rows.map (·.row))

/-- SK.CMBN: records of weighted rows, one producer's apart from another's, are combined in order of expert.
[DEDUCED, log 79] -/
def execSkCmbn (f : Skid) (s : State) : Out :=
  runSkid (.skCmbn f) (fun x s =>
    let k := x.key
    match x.c.dstSide, x.g.port.q with
    | none, _ => rejectCmd k x.c s
    | some _, [] => s
    | some b, t :: _ =>
      let mine := x.c.pairHalf.filter fun u => u.rid == t.rid
      let rest := x.c.pairHalf.filter fun u => u.rid != t.rid
      let keep : State := updCmd k x.c.seq (fun c => { c with pairHalf := c.pairHalf ++ [t] }) (takeToken k s)
      let bad (cause : Nat) : State := failCmd k x.c cause (takeToken k s)
      match t.kind.toNat with
      | 0 =>
        (match mine with
        | [] =>
          (match headerFault b t with
          | some cause => bad cause
          | none =>
            let row := (nth (⟨0, false⟩ : Lane) t.lanes 0).v.toNat
            if 256 ≤ (rowsHeld x.g x.c).length ∧ !((rowsHeld x.g x.c).contains row) then s else keep)
        | _ :: _ => keep)
      | 1 =>
        (match mine with
        | [] => bad 0x01
        | hd :: vs =>
          if vs.length = ceilDiv (b.e.x 0) 16 then cmbRecord x b hd ((vs.map fun u => fitLen ⟨0, false⟩ 16 u.lanes).flatten) rest s
          else bad 0x01)
      | 5 =>
        if !mine.isEmpty then bad 0x01
        else if x.c.ends + 1 < f.t0.toNat then updCmd k x.c.seq (fun c => { c with ends := c.ends + 1 }) (takeToken k s)
        else
          finishCmd k x.c (updEngine k (fun g => { g with err := g.err || !(rowsHeld x.g x.c).isEmpty, rows := [] }) (takeToken k s))
      | 9 => bad t.cause
      | _ => takeToken k s) s

/-! ## Collectives (R57, R308) -/

/-- Members of a collective: dies at scope pkg, packages of the pod at scope pod. -/
def collSize (s : State) (vf scope : Nat) : Nat := if scope = 4 then 4 else bitsAt (s.vf vf).mem.pkrank.toNat 8 7 + 1

/-- The result of a reduction on elements of one place, by rank (R57); on t2 and dg elements the manual gives none. -/
def collJoin (code ty : Nat) (xs : List Nat) : Nat :=
  if ty = 0xD then treeReduce (digitOp code) 0 (ceilLog2 xs.length) (xs.map digitIn)
  else if ty = 0xE then
    treeReduce (fun a b => (Config.l2String code (BitVec.ofNat 32 a) (BitVec.ofNat 32 b)).toNat) 0 (ceilLog2 xs.length) xs
  else reduceTree code ty false xs

/-- The result of a collective from its members' elements, rank 0 first: rank 0's for a copy. -/
def collResult (l2op ty : Nat) (parts : List (List (W32 × Bool))) : List (W32 × Bool) :=
  match parts with
  | [] => []
  | first :: _ =>
    if l2op = 0 then first
    else first.zipIdx.map fun p =>
      let col := parts.map fun q => nth ((0 : W32), false) q p.2
      (BitVec.ofNat 32 (collJoin (l2op - 1) ty (col.map fun x => x.1.toNat)), col.any (·.2))

/-- A part holds the elements that its rank contributes; at scope pod they have gone to the others. -/
def CollPart.ready (p : CollPart) : Bool := if p.scope = 5 then p.stage == .sent else p.stage == .contributed

/-- The first part that satisfies a test takes the result. -/
def markPart (r : CollPart → Bool) (els : List (W32 × Bool)) : List CollPart → List CollPart
  | [] => []
  | p :: ps => if r p then { p with els := els, stage := .joined } :: ps else p :: markPart r els ps

/-- When the oldest command of every rank has contributed, their elements give the result, which becomes each one's; those
of other packages are answered there. [DESIGN CHOICE, log 175] -/
def settleColl (vf scope dtid tile l2op ty : Nat) (s : State) : State :=
  let n := collSize s vf scope
  let waits (r : Nat) (p : CollPart) : Bool := p.matches vf scope dtid tile && p.rank == r && p.stage != .joined
  let parts := ((upTo n).filterMap fun r => s.fab.colls.find? (waits r)).filter (·.ready)
  if parts.length < n then s
  else
    let res := collResult l2op ty (parts.map (·.els))
    let colls := (upTo n).foldl (fun acc r => markPart (waits r) res acc) s.fab.colls
    { s with fab := { s.fab with colls := colls.filter fun p => !(p.stage == .joined && p.cmd.isNone) } }

/-- The part of a command. -/
def myPart? (s : State) (k : EKey) (seq : Nat) : Option CollPart := s.fab.colls.find? fun p => p.cmd == some (k, seq)

/-- A command contributes its elements (R308). -/
def contribute (k : EKey) (c : Cmd) (els : List (W32 × Bool)) (s : State) : State :=
  updColls (fun l => l.map fun p => if p.cmd = some (k, c.seq) then { p with els := els, stage := .contributed } else p)
    (updCmd k c.seq (fun c => { c with todo := some [], passR := true }) s)

/-- SK.COLL: contribute the source tile, wait for every member, write the result. -/
def execSkColl (f : Skid) (s : State) : Out :=
  runSkid (.skColl f) (fun x s =>
    let k := x.key
    match x.c.srcSide, x.c.dstSide, myPart? s k x.c.seq with
    | some a, some b, some p =>
      (match p.stage with
      | .issued =>
        (match readEls s x.st a (a.e.tileElems a.co) with
        | .error _ => failCmd k x.c 0x07 s
        | .ok els =>
          let s1 := if a.store.isSome then addBytes k.stand (elBytes a.e (a.e.tileElems a.co)) s else s
          contribute k x.c (els.map fun e => (BitVec.ofNat 32 e.v, e.poison)) s1)
      | .joined =>
        let ixs := b.e.tileElems b.co
        let el (ix : List Nat) : TileEl :=
          match (ixs.zip p.els).find? fun q => q.1 == ix with
          | some q => ⟨q.2.1.toNat, q.2.2⟩
          | none => ⟨0, false⟩
        writeTile k x.c b el s (finishCmd k x.c)
      | _ => settleColl x.st.vf f.scope.toNat b.tid (b.e.tileIndex b.co) f.l2op.toNat b.e.fmt s)
    | _, _, _ => rejectCmd k x.c s) s

/-! ## Waves and nothing -/

/-- SK.BLAZ: a wave is requested, and the command passes both phases when it completes (R305, R311, R320).
[DEDUCED, log 61] -/
def execSkBlaz (f : Skid) (s : State) : Out :=
  runSkid (.skBlaz f) (fun x s =>
    requestWave x.key.stand { WaveFlags.none with blaz := [(x.key.eng, x.c.seq)] }
      (updCmd x.key x.c.seq (fun c => { c with finished := true }) s)) s

/-- SK.NOPC: passes each phase once every earlier command of the context has (R311). -/
def execSkNopc (f : Skid) (s : State) : Out := runSkid (.skNopc f) (fun x s => finishCmd x.key x.c s) s

end Sys2Proof.Machine
end

