-- ==== Sys2Proof/Machine/Blaze.lean ====
section
/-! DEFINITION. The blaze protocol as events (R111, R327, R346 to R354, R369, R372): a weave's snapshot, the completion of
a wave, and the periodic wave. -/

namespace Sys2Proof.Machine

/-! ## When a weave switches contexts (R136) -/

/-- The head of an input port is a CTXC. [DEDUCED, log 55] -/
def PortQ.ctxcHead (q : PortQ) : Option Nat :=
  match q.q.head? with
  | some t => if t.kind = 8 then some ((nth (⟨0, false⟩ : Lane) t.lanes 0).v.toNat % 4) else none
  | none => none

/-- CTXC tokens in a queue. -/
def PortQ.ctxcs (q : PortQ) : Nat := (q.q.filter fun t => t.kind == 8).length

/-- Tasks of a weave whose node is of a context, each with its node. -/
def tasksOf (t : Stand) (w : Weave) (ctx : Nat) : List (Task × NodeDesc) :=
  w.tasks.filterMap fun k => match t.kern.node? w.pos k.nid with
    | some n => if n.ctx = ctx then some (k, n) else none
    | none => none

/-- The contexts that the heads of the active nodes' enabled input ports name, none for a head that is no CTXC. -/
def ctxcHeads (l : List (Task × NodeDesc)) : List (Option Nat) :=
  (l.map fun x => ((upTo 4).filter fun i => (x.2.port i).en).map fun i => (x.1.inq i).ctxcHead).flatten

/-- The context to which a weave without nodes of the old context switches: that of every weave that has some.
[DEDUCED, log 98] -/
def followCtx (t : Stand) : Option Nat :=
  let holders := t.weaves.filter fun w => !(tasksOf t w t.actx).isEmpty
  match holders with
  | [] => t.switchTo
  | h :: hs => if h.actx ≠ t.actx ∧ hs.all fun w => w.actx == h.actx then some h.actx else none

/-- The context to which a weave can switch now: a weave with nodes of its context to the one that CTXC at every head of theirs
names, once none is fired; one without such nodes to that of the others. -/
def switchDue (t : Stand) (w : Weave) : Option Nat :=
  match tasksOf t w w.actx with
  | [] => followCtx t
  | act =>
    match ctxcHeads act with
    | some n :: rest => if rest.all (·.isSome) && act.all fun x => !x.1.fired then some n else none
    | _ => none

/-! ## A weave's snapshot (R240, R252, R282, R348, R349, R364) -/

/-- A task stands in the way of a snapshot: it is fired and neither waits as R215, R312 or R328 allow nor has trapped, or a
result of its is outstanding, but for the end of a task that has trapped (R240). -/
def Task.blocksSnap (s : State) (key : TKey) (k : Task) : Bool :=
  (!k.trapped && k.fired && (match k.wait, s.cell? key with
    | some w, some c => !(c.blazeEnds s w)
    | _, _ => true))
  || k.pend.any fun p => !k.trapped || p != { Pend.none with endt := true }

/-- An engine context holds an unfinished command, received before the injection of the wave, that sets full bits.
[DEDUCED, log 133] -/
def fillOwed (t : Stand) : Bool :=
  t.engs.any fun g => g.cmds.any fun c => !c.finished && (skidFields c.word).fe == 1
    && c.seq ≤ ((t.wave.bind fun w => lookupNat g.no w.inj).getD c.seq)

/-- Input ahead of the BLAZE makes up a firing that has still to take place (R348), unless it waits for a declared line that
nothing ahead of the wave fills; a halt wave does not wait for it (R341). [DEDUCED, log 133] -/
def Task.stillToFire (s : State) (key : TKey) (k : Task) : Bool :=
  !k.trapped && match s.cell? key with
    | some c => c.st.status == .resident && c.n.ctx == c.w.actx && !c.w.halted && c.inputsReady
        && (c.emptyInput.isNone || fillOwed c.st)
    | none => false

/-- Tokens of a copy's ended firings wait for those of another copy, which comes first in the rotation and can still go on
ahead of the wave (R19). [DEDUCED, log 23] -/
def Task.awaitsGather (s : State) (key : TKey) (k : Task) : Bool :=
  !k.outq.isEmpty && match s.cell? key with
    | some c => c.copies.any fun j => j != key && !(c.st.weave j.pos).snapped && (s.task? j).any fun x =>
        x.blocksSnap s j || x.stillToFire s j
    | none => false

/-- A weave can snapshot for the wave under way: a CTXC ahead of the BLAZE takes effect first (R136). -/
def snapDue (s : State) (t : Stand) (w : Weave) : Bool :=
  (t.wave.any fun x => !x.committed) && !w.snapped && blazeHere t w && w.mults.isEmpty && w.ldxOut == 0
    && (switchDue t w).all (fun n => n == w.actx && (tasksOf t w n).isEmpty)
    && !(w.tasks.any fun k => k.awaitsGather s ⟨t.id, w.pos, k.nid⟩)
    && !(w.tasks.any fun k => k.blocksSnap s ⟨t.id, w.pos, k.nid⟩
      || (!(t.wave.any fun x => x.flags.halt) && k.stillToFire s ⟨t.id, w.pos, k.nid⟩))

/-- Write a weave's L1 back for its snapshot, beyond the capacity of the segment if it must be. [DEDUCED, log 87] -/
def flushL1 (k : WKey) (s : State) : State :=
  match releaseWeave k s with
  | some s1 => s1
  | none =>
    let ls := (((s.stand? k.stand).map fun t => (t.weave k.pos).l1).getD [])
    holdOps k.stand (.weave k.pos) ((ls.map L1Line.ops).flatten) (s.updWeave k fun w => { w with l1 := [] })

/-- A task as an image holds it; tokens that are sent again are dealt again (R19). -/
def Task.image (k : Task) : Task :=
  { k with
    ports := k.ports.map PortQ.image, wait := none, lineSince := none
    dealt := k.dealt.zipIdx.map fun p => p.1 - ((k.inq p.2).behind.filter fun t => (k.inq p.2).resent t && t.kind != 8).length }

/-- A task after its weave has passed a wave: a port whose BLAZE has come gives its tokens again, a wait starts afresh. -/
def Task.passed (k : Task) : Task :=
  { k with ports := k.ports.map fun q => if q.blazed then q.openUp else q, wait := none }

/-- One BLAZE on every enabled output port of a node, from copy 0; what its copies have written since their snapshots follows
(R19, R348). -/
def nodeBlaze (n : NodeDesc) (all : List TKey) (home : TKey) (tok : Tok) (s : State) : State :=
  let s1 := portSend n home (((upTo 4).filter fun o => (n.port (4 + o)).en).map fun o => (o, tok)) s
  if n.rep = 0 then s1 else gather n all (gatherFuel s1 all) s1

/-- A weave that has snapshotted forwards BLAZE (R348): of a replicated node, the last of its copies to snapshot (R19). -/
def forwardBlaze (t : Stand) (p : WPos) (tok : Tok) (s : State) : State :=
  (t.weave p).tasks.foldl (fun acc k => match t.kern.node? p k.nid with
    | some n =>
      let home := copyPos t.kern p.dcol p.drow n 0
      if t.allSnapped (copies t.id t home n) then nodeBlaze n (copies t.id t home n) ⟨t.id, home, n.nid⟩ tok acc else acc
    | none => acc) s

/-- A weave takes the wave: its image joins the wave's, what it wrote before is covered, and BLAZE goes on.
[DEDUCED, log 87] -/
def snapWeave (t : Stand) (x : Wave) (w : Weave) (s : State) : State :=
  let w1 : Weave := { w with blzn := BitVec.ofNat 32 x.num, mode := if x.flags.close then x.mode else w.mode, snapped := true }
  let img : Weave := { w1 with l1 := [], tasks := w.tasks.map Task.image }
  let live : Weave := { w1 with
    halted := w.halted || x.flags.halt || x.flags.stops
    tasks := if x.flags.halt then w.tasks else w.tasks.map Task.passed }
  let t1 : Stand := { t with
    wave := some { x with snaps := x.snaps ++ [img] }
    seg := if x.flags.halt then t.seg else sealSeg (.weave w.pos) t.seg
    held := if x.flags.halt then t.held else sealHeld (fun p => p.src == 0 && p.pos == w.pos) t.held }
  forwardBlaze (t1.setWeave live) w.pos (blazeTok x.num x.flags) (s.setStand (t1.setWeave live))

/-- WEAVE_SNAPSHOT. -/
def execWeaveSnapshot (k : WKey) (s : State) : Out :=
  match s.stand? k.stand with
  | none => .next s
  | some t =>
    if t.weaves.any fun w => w.pos == k.pos && snapDue s t w then
      let s1 := flushL1 k s
      match (s1.stand? k.stand), (s1.stand? k.stand).bind fun t => t.wave with
      | some t1, some x => .next (snapWeave t1 x (t1.weave k.pos) s1)
      | _, _ => .next s
    else .next s

/-! ## The completion of a wave (R351, R369) -/

/-- Every weave has snapshotted and the BLAZE has passed every engine. -/
def waveWhole (t : Stand) (x : Wave) : Bool :=
  (t.weaves.all fun w => x.snaps.any fun y => y.pos == w.pos) && (t.engs.all fun e => x.engSnaps.any fun y => y.no == e.no)
    && x.emit.isEmpty

/-- A finished command passes R and V with the wave; an SK.BLAZ only with the wave that it requested. -/
def Cmd.passes (fl : WaveFlags) (eng : Nat) (c : Cmd) : Bool :=
  c.finished && (cmdOp c.word != 0x10 || fl.blaz.contains (eng, c.seq))

/-- Mark a command as passed. -/
def Cmd.pass (c : Cmd) : Cmd := { c with passR := true, passV := true }

/-- An engine as the complete image holds it: commands that have passed V are not recorded. -/
def Eng.committed (fl : WaveFlags) (e : Eng) : Eng :=
  { e with cmds := dropPassed (e.cmds.map fun c => if c.passes fl e.no then c.pass else c) }

/-- The commands of an engine that pass at the commit of a wave: those finished in its snapshot, and every SK.BLAZ merged into
the wave (R346). -/
def passedSeqs (x : Wave) (eng : Nat) : List Nat :=
  ((x.engSnaps.filter fun e => e.no == eng).map fun e => (e.cmds.filter fun c => c.passes x.flags eng).map (·.seq)).flatten
    ++ (x.flags.blaz.filter fun b => b.1 == eng).map (·.2)

/-- A running engine after a commit. -/
def Eng.afterCommit (x : Wave) (e : Eng) : Eng :=
  { e with cmds := dropPassed (e.cmds.map fun c => if (passedSeqs x e.no).contains c.seq then c.pass else c) }

/-- The image that a complete wave leaves. -/
def Wave.image (x : Wave) (t : Stand) : StandImage :=
  { num := x.num, g := t.g, actx := t.actx, weaves := x.snaps, engs := x.engSnaps.map (Eng.committed x.flags), ctx := x.ctxSnap
    spilled := x.spillSnap, lmem := Memory.empty, blocks := x.blks }

/-- Entries that a commit applies. -/
def sealedOps (l : List SegEnt) : List SegEnt := l.filter (·.isSealed)

/-- The packet of a held write to another package. -/
def SegOp.packet : SegOp → Option Output
  | .away rank vf va bs mask p => some (.pod rank (.copy vf va bs mask p))
  | _ => none

/-- Commit the covered part of a segment, in its order (R324, R327): bytes change, and writes to other packages leave. -/
def commitOps (l : List SegEnt) (s : State) : State :=
  (sealedOps l).foldl (fun acc e => match e.op.packet with
    | some o => acc.emit o
    | none => { acc with mem := acc.mem.applyOp e.op }) s

/-- Bytes of a held operation at a physical address: those of a write, or of the elements of an L2 operation. -/
def SegOp.covers (o : SegOp) (a : Nat) : Bool :=
  match o with
  | .write pa bs _ => pa ≤ a && a < pa + bs.length
  | .op _ ty els => els.any fun e => e.1 ≤ a && a < e.1 + l2Bytes ty.toNat
  | .away _ _ _ _ _ _ => false
  | .clear _ => false

/-- A held operation leaves poison in a word. -/
def SegOp.poisons (o : SegOp) (word : Nat) : Bool :=
  match o with
  | .write pa bs p => p && pa / 4 ≤ word && 4 * word < pa + bs.length
  | .op _ _ els => els.any fun e => e.2.2 && e.1 / 4 == word
  | .away _ _ _ _ _ _ => false
  | .clear _ => false

/-- The runs of a write's bytes that later committed writes leave, from an address; a byte that a later committed L2 operation
changes takes the value that the stand sees. -/
def writeRuns (ops : List SegOp) (view : Memory) : Nat → List Byte → List (Nat × List Byte)
  | _, [] => []
  | a, b :: bs =>
    let rest := writeRuns ops view (a + 1) bs
    if ops.any fun o => o.isWrite && o.covers a then rest
    else
      let x := if ops.any fun o => o.covers a then view.byte a else b
      match rest with
      | (c, r) :: more => if c = a + 1 then (a, x :: r) :: more else (a, [x]) :: (c, r) :: more
      | [] => [(a, [x])]

/-- The words that a clean write covered whole and of which later committed writes, all clean, have left it a part: their poison
bits still go with it (R334). -/
def clearedWords (ops : List SegOp) (pa n : Nat) : List Nat :=
  (upFrom (ceilDiv pa 4) ((pa + n) / 4 - ceilDiv pa 4)).filter fun w =>
    let taken (a : Nat) : Bool := ops.any fun o => o.isWrite && o.covers a
    (upFrom (4 * w) 4).any taken && !((upFrom (4 * w) 4).all taken) && !(ops.any fun o => o.poisons w)

/-- What stays of a held operation that a commit does not cover, after the operations that follow it and are committed: what
they have overwritten is older than what memory holds now (R324). [DEDUCED, log 145] -/
def SegOp.after (o : SegOp) (ops : List SegOp) (view : Memory) : List SegOp :=
  match o with
  | .write pa bs p => ((writeRuns ops view pa bs).map fun r => SegOp.write r.1 r.2 p)
      ++ (if p then [] else (clearedWords ops pa bs.length).map .clear)
  | .op code ty els => [.op code ty (els.filter fun e => !(ops.any fun x => x.isWrite && x.covers e.1))]
  | .away rank vf va bs mask p => [.away rank vf va bs mask p]
  | .clear w => if ops.any fun o => o.poisons w then [] else [.clear w]

/-- The part of a segment that stays held after a commit. -/
def heldAfter (view : Memory) : List SegEnt → List SegEnt
  | [] => []
  | e :: es =>
    let rest := heldAfter view es
    if e.isSealed then rest
    else (e.op.after ((sealedOps es).map (·.op)) view).map (fun o => { e with op := o }) ++ rest

/-- Commit a stand's segment (R324, R327). [DEDUCED, log 145] -/
def commitSeg (t : Stand) (s : State) : State :=
  let view := standView s.mem t.seg
  (commitOps t.seg s).updStand t.id fun t => { t with seg := heldAfter view t.seg }

/-- The last block that a wave closes. -/
def WaveFlags.lastClosed (fl : WaveFlags) : Nat := maxNat (fl.closes.map (·.1))

/-- A held publication can be performed: that of a pub flag once its command has ended (R111). -/
def HeldPub.ready (x : Wave) (p : HeldPub) : Bool :=
  p.src != 2 || !(x.engSnaps.any fun g => g.no == p.pos.col && g.cmds.any fun c => c.seq == p.seq && !c.finished)

/-- A held publication is performed at a wave: it was made ahead of it, for a block that the wave closes or an earlier one.
[DEDUCED, log 40] -/
def HeldPub.dueAt (fl : WaveFlags) (p : HeldPub) : Bool := fl.close && p.stage == 2 && p.block ≤ fl.lastClosed

/-- The output publications of a block (R22, R369). -/
def Blk.outPubs (b : Blk) : List HeldPub :=
  b.outs.zipIdx.map fun p => ⟨false, p.1, 6, b.no, 3, 0, 0, ⟨0, 0, 0, 0⟩, p.2, 2⟩

/-- The publications and advances that a wave performs, in order: for each block that it closes what was held for it or an
earlier one, then the block's outputs. [DEDUCED, log 40] -/
def duePubs (t : Stand) (fl : WaveFlags) (held : List HeldPub) : List HeldPub :=
  ((fl.closes.foldl (fun (acc : List HeldPub × Nat) b =>
    let mine := held.filter fun p => p.stage == 2 && acc.2 ≤ p.block && p.block ≤ b.1
    let outs := ((t.blocks.filter fun x => x.no == b.1).map Blk.outPubs).flatten
    (acc.1 ++ mine ++ outs, b.1 + 1)) ([], 0))).1

/-- The home die of a publication: that of its tensor, or the stand's where there is none. -/
def homeOf (s : State) (t : Stand) (p : HeldPub) : Nat :=
  match s.tensor? t.vf (refTid p.ref) with
  | some e => e.home
  | none => t.die

/-- Hand an operation to its home die, over the rides (R110, R124). -/
def handOver (t : Stand) (p : HeldPub) (s : State) : State :=
  (flitOn t.vf t.die s).updDie (homeOf s t p) fun d => { d with homeq := d.homeq ++ [⟨t.vf, t.id, p⟩] }

/-- A suspect-log entry (R372). -/
def logWord (ref : W64) (cyc : W32) (vf kind comp : Nat) : W128 :=
  ref ++ cyc ++ BitVec.ofNat 6 vf ++ BitVec.ofNat 2 kind ++ (0 : BitVec 17) ++ BitVec.ofNat 7 comp

/-- Append to a die's suspect log of 4,096 entries: a full log loses its oldest, and SLLOST counts it.
[DEDUCED, log 92] -/
def appendLog (die : Nat) (w : W128) (s : State) : State :=
  if (s.die die).log.length < 4096 then s.updDie die fun d => { d with log := d.log ++ [w] }
  else
    let s1 := s.updDie die fun d => { d with log := d.log.drop 1 ++ [w] }
    { s1 with pf := { s1.pf with sllost := (satInc32 (s1.pf.sllost.setWidth 32)).setWidth 64 } }

/-- The commands of a wave that pass V at its commit and write to another package. -/
def outboundCmds (x : Wave) : List W128 :=
  ((x.engSnaps.map fun e => (e.cmds.filter fun c =>
    c.passes x.flags e.no && !c.passV && [3, 0xD].contains (cmdOp c.word) && (skidFields c.word).scope == 5).map (·.word)).flatten)

/-- The entries of a commit: for each compartment, one for each publication, but for no advance, and each outbound command.
[DEDUCED, log 92] -/
def logCommit (t : Stand) (x : Wave) (ps : List HeldPub) (s : State) : State :=
  let cyc : W32 := BitVec.ofNat 32 (s.cyc t.die)
  t.comps.foldl (fun acc n =>
    let a2 := (ps.filter fun p => !p.advance).foldl (fun a p => appendLog t.die (logWord p.ref cyc t.vf 0 n) a) acc
    (outboundCmds x).foldl (fun a w => appendLog t.die (logWord (w.extractLsb' 64 64) cyc t.vf 1 n) a) a2) s

/-- A contribution to a collective whose command has passed V is no longer kept. -/
def dropColls (t : Stand) (x : Wave) (s : State) : State :=
  { s with fab := { s.fab with colls := s.fab.colls.filter fun p => match p.cmd with
      | some (e, n) => !(p.stage == .joined && e.stand == t.id && (passedSeqs x e.eng).contains n)
      | none => true } }

/-- The first half of a completion (R351): the image, the commit of the segment, the passing of V, and the list of
the publications that follow. [DEDUCED, log 145] -/
def commitWave (t : Stand) (x : Wave) (s : State) : State :=
  let held := t.held.map fun p => if p.stage = 1 then { p with stage := 2 } else p
  let ps := if x.flags.close then duePubs t x.flags (held.filter (·.ready x)) else []
  let t1 : Stand := { t with
    image := some (x.image t)
    held := held.filter fun p => !(p.dueAt x.flags && p.ready x)
    lastWave := x.num
    wave := some { x with committed := true, pubs := ps } }
  let s1 := logCommit t x ps (commitSeg t (s.setStand t1))
  dropColls t x (s1.updStand t.id fun u => { u with engs := u.engs.map (Eng.afterCommit x) })

/-- The halt wave has reached every weave and engine (R341, R344, R351): nothing commits; a held stand that is to be
suspended leaves, and one that is serviced leaves the held state. [DEDUCED, log 94] -/
def haltComplete (t : Stand) (x : Wave) (s : State) : State :=
  let t1 : Stand := { t with
    wave := none
    haltImage := some { x.image t with ctx := none, engs := x.engSnaps }
    isHeld := t.isHeld.map fun h => { h with haltDone := true } }
  if t.target = .suspend then putAside t1 .suspended (s.setStand t1) else tryLeave t.id (s.setStand t1)

/-- A publication of the stand waits at a home die. -/
def pubsLeft (s : State) (st : Nat) : Bool :=
  [0, 1, 2, 3].any fun d => (s.die d).homeq.any fun h => h.stand == st

/-- A closed block's record is removed and the watchdog restarts (R369, R27). [DEDUCED, log 71] -/
def closeBlocks (t : Stand) (fl : WaveFlags) (s : State) : State :=
  if fl.close = false then s
  else
    let nos := fl.closes.map (·.1)
    let gone := t.blocks.filter fun b => nos.contains b.no
    let s1 := gone.foldl (fun acc b => removeRec t.die b.recId acc) s
    (s1.updStand t.id fun u => { u with blocks := u.blocks.filter fun b => !(nos.contains b.no) }).updVf t.vf fun v =>
      { v with timer := 0 }

/-- The grain change of a wave (R142, R143). -/
def Stand.regrain (t : Stand) (now : Nat) : Stand :=
  let g' := t.cop.target
  { t with
    g := g'
    weaves := reshardAll t.kern t.g g' t.weaves
    image := t.image.map fun i => { i with g := g', weaves := reshardAll t.kern i.g g' i.weaves }
    cop := { t.cop with pend := false, h := 0, ops := 0, bytes := 0, winStart := now, wcur := t.cop.wexp } }

/-- What is left of a wave's flags for a stand that has become held since (R345, R346). [DEDUCED, log 93] -/
def WaveFlags.leftOver (fl : WaveFlags) : Option WaveFlags :=
  if fl.grain || fl.move || fl.preempt then some { WaveFlags.none with grain := fl.grain, move := fl.move, preempt := fl.preempt }
  else none

/-- A stand with no wave under way: its weaves await the next. -/
def Stand.endWave (t : Stand) : Stand :=
  { t with wave := none, weaves := t.weaves.map fun w => { w with snapped := false } }

/-- Where the stand goes at the end of a wave (R129, R130, R352). [DEDUCED, log 73] [DEDUCED, log 82] -/
def afterWave (t : Stand) (fl : WaveFlags) (s : State) : State :=
  match t.target with
  | .move c r => if fl.move then moveStand t c r s else s.setStand t.unstop
  | .aside => if fl.preempt then putAside t .setAside s else s.setStand t.unstop
  | .suspend => if fl.preempt then putAside t .suspended s else s.setStand t.unstop
  | .none => s.setStand t.unstop

/-- The wave that follows: the halt of a stand held meanwhile, the one requested, or none. -/
def nextWave (st : Nat) (s : State) : State :=
  match s.stand? st with
  | none => s
  | some t =>
    if t.status ≠ .resident ∨ t.wave.isSome then s
    else match t.isHeld with
      | some _ => injectWave st { WaveFlags.none with halt := true } s
      | none =>
        match t.waveReq with
        | some fl => feedNext st (requestWave st fl (s.setStand { t with waveReq := none }))
        | none => feedNext st s

/-- The second half of a completion, once the publications are performed (R351, R369): blocks close, and the grain change,
move or pre-emption takes place; those of a stand held meanwhile wait. -/
def endWave (t : Stand) (x : Wave) (s : State) : State :=
  let s1 := closeBlocks t x.flags s
  match s1.stand? t.id with
  | none => s1
  | some u =>
    let u1 := { u.endWave with mode := if x.flags.close then x.mode else u.mode }
    match u1.isHeld with
    | some h =>
      let left := match x.flags.leftOver with
        | some fl => some ((h.withdrawn.getD WaveFlags.none).join fl)
        | none => h.withdrawn
      nextWave t.id (s1.setStand { ({ u1 with isHeld := none } : Stand).unstop with isHeld := some { h with withdrawn := left } })
    | none =>
      let u2 := if x.flags.grain && u1.cop.pend then u1.regrain (s.cyc t.die) else u1
      nextWave t.id (afterWave u2 x.flags (s1.setStand u2))

/-- Tokens of others are on their way to a stand. -/
def State.inbound (s : State) (t : Stand) : Bool :=
  (s.fab.flights.any fun f => f.stand != t.id && (((s.stand? f.stand).bind fun u => u.dst? f.route).any fun d => t.dstInside d))
    || s.fab.packets.any fun p => p.sender.stand != t.id && t.dstInside p.dst

/-- What follows a commit: the publications in order, each once the one before it is performed, then the end of the wave; a
stand that moves is left by no token sent to it before (R130). -/
def afterCommit (t : Stand) (x : Wave) (s : State) : State :=
  if pubsLeft s t.id then s
  else match x.pubs with
    | p :: rest => handOver t p (s.setStand { t with wave := some { x with pubs := rest } })
    | [] => if x.flags.move && s.inbound t then s else endWave t x s

/-- WAVE_COMPLETE. -/
def execWaveComplete (st : Nat) (s : State) : Out :=
  match s.stand? st with
  | none => .next s
  | some t =>
    match t.wave with
    | none => .next s
    | some x =>
      if x.committed then .next (afterCommit t x s)
      else if waveWhole t x = false then .next s
      else if x.flags.halt then .next (haltComplete t x s)
      else .next (commitWave t x s)

/-! ## The periodic wave (R347) -/

/-- The exponent that BLZPER selects: 1 to 15 act as 16, 0 is none. -/
def blazePeriod (v : W64) : Option Nat :=
  let k := v.toNat % 32
  if k = 0 then none else some (max 16 k)

/-- PERIODIC_BLAZE. -/
def execPeriodicBlaze (st : Nat) (s : State) : Out :=
  match s.stand? st with
  | none => .next s
  | some t =>
    match blazePeriod (s.vf t.vf).cfg.blzper with
    | none => .next s
    | some k =>
      if t.status = .resident ∧ t.wave.isNone ∧ t.waveReq.isNone ∧ t.isHeld.isNone ∧ t.lastWaveAt + 2 ^ k ≤ s.cyc t.die then
        .next (requestWave st WaveFlags.none s)
      else .next s

end Sys2Proof.Machine
end

