-- ==== Sys2Proof/Machine/CellC.lean ====
section
/-! DEFINITION. The control instructions of a cell (R225 to R233): loops, branches, publications, waits on timelines,
fences, barriers and special registers. -/

namespace Sys2Proof.Machine

/-- disp12 of a CG word: bits [33:22]. -/
def disp12 (f : CG) : BitVec 12 := f.c ++ f.e

/-- Two lanes of an operand as one number. -/
def twoLanes (v : Vec) : Nat := (v 0).v.toNat + 2 ^ 32 * (v 1).v.toNat

/-- Operand j of the instruction. -/
def Cell.arg (c : Cell) (i : Instr) (j : Nat) : Vec := c.opd (cellSrcs i) j

/-! ## Loops and branches (R225, R226) -/

/-- CC.LOOP: the count is latched from lanes 0 and 1 of a. -/
def execCcLoop (f : CG) (s : State) : Out :=
  runCell (.ccLoop f) (fun c s =>
    let i := Instr.ccLoop f
    let v := c.arg i 0
    match poisonedLane v [0, 1] with
    | some l => .poison s f.a.toNat l
    | none =>
      let n := twoLanes v % 2 ^ 40
      let last := c.tk.pc + (disp12 f).toNat
      if (disp12 f).toInt ≤ 0 ∨ c.n.text.length ≤ last
          ∨ c.tk.loops.any (fun l => l.start ≤ c.tk.pc && c.tk.pc ≤ l.last && l.last < last) then .illegal i s 0 0
      else if n = 0 then .goto s (reachEnd 1 c.tk.loops last).2 (reachEnd 1 c.tk.loops last).1
      else if 4 ≤ c.tk.loops.length then .illegal i s 0 0
      else .goto s (c.tk.pc + 1) (⟨c.tk.pc + 1, last, n, n⟩ :: c.tk.loops)) s

/-- CC.LBRK. -/
def execCcLbrk (f : CG) (s : State) : Out :=
  runCell (.ccLbrk f) (fun c s =>
    match c.tk.loops with
    | [] => .illegal (.ccLbrk f) s 0 0
    | l :: ls => .goto s (l.last + 1) ls) s

/-- A taken branch: a target outside the text is illegal; a backward branch beyond the node's limit waits for its trap
(R17). [DEDUCED, log 11] -/
def cellBranch (i : Instr) (f : CG) (c : Cell) (s : State) : CellAns :=
  let t := (c.tk.pc : Int) + (disp12 f).toInt
  let back := (disp12 f).toInt ≤ 0
  if t < 0 ∨ (c.n.text.length : Int) ≤ t then .illegal i s 0 0
  else if back ∧ c.n.limit ≤ c.tk.branches then .wait 0x3D 1 (BitVec.ofNat 32 c.tk.branches) 0
  else .goto (s.updTask c.key fun x => { x with branches := if back then x.branches + 1 else x.branches }) t.toNat
    (leaveLoops t.toNat c.tk.loops)

/-- CC.BRA. -/
def execCcBra (f : CG) (s : State) : Out :=
  runCell (.ccBra f) (fun c s =>
    if braTaken f.aux.toNat ((upTo c.lanes).map (c.active f)) then cellBranch (.ccBra f) f c s else .done s) s

/-- CC.JMP. -/
def execCcJmp (f : CG) (s : State) : Out := runCell (.ccJmp f) (fun c s => cellBranch (.ccJmp f) f c s) s

/-! ## Values of the machine (R227, R233) -/

/-- Every lane of d takes a clean value. -/
def Cell.fillLanes (c : Cell) (d : Code6) (x : W32) : Pend := c.result d (fun _ => true) fun _ => ⟨x, false⟩

/-- CC.GRAIN. -/
def execCcGrain (f : CG) (s : State) : Out :=
  runCell (.ccGrain f) (fun c s => .write c (c.fillLanes f.d (BitVec.ofNat 32 c.st.g)) s) s

/-- A 40-bit count over even and odd lanes. -/
def splitCount (n l : Nat) : W32 := if l % 2 = 0 then BitVec.ofNat 32 n else BitVec.ofNat 32 (n / 2 ^ 32 % 256)

/-- Special register n as lane l reads it. -/
def Cell.special (c : Cell) (n l : Nat) : W32 :=
  match n with
  | 0 => BitVec.ofNat 32 c.st.g
  | 1 => BitVec.ofNat 32 c.lanes
  | 2 => c.lid
  | 3 => BitVec.ofNat 32 (tidxOf c.n c.tk.copy)
  | 4 => (match c.tk.loops with | [] => 0 | x :: _ => splitCount (x.total - x.count) l)
  | 5 => (match c.tk.loops with | [] => 0 | x :: _ => splitCount x.count l)
  | 6 => c.tk.frm
  | 7 => c.w.dxst
  | 8 => c.w.twst
  | _ => c.w.blzn

/-- CC.RDSR. -/
def execCcRdsr (f : CG) (s : State) : Out :=
  runCell (.ccRdsr f) (fun c s =>
    .write c (c.result f.d (c.active f) fun l => ⟨c.special f.aux.toNat l, false⟩) s) s

/-- CC.WRSR: `FRM` of the task, `DXST` and `TWST` of the weave; an invalid N stores 0 in `TWST` (R264). -/
def execCcWrsr (f : CG) (s : State) : Out :=
  runCell (.ccWrsr f) (fun c s =>
    let x := c.arg (.ccWrsr f) 0 0
    if x.poison then .poison s f.a.toNat 0
    else match f.aux.toNat with
      | 6 => .done (s.updTask c.key fun k => { k with frm := x.v &&& 7 })
      | 7 => .done (s.updWeave c.key.weave fun w => { w with dxst := x.v &&& 3 })
      | _ =>
        let n := x.v.toNat % 2 ^ 17
        .done (s.updWeave c.key.weave fun w => { w with twst := if twValid n then BitVec.ofNat 32 n else 0 })) s

/-! ## Synchronisation (R228 to R231) -/

/-- The held publication that a task requests. -/
def Cell.pub (c : Cell) (ref : W64) (scope : Nat) : HeldPub :=
  ⟨false, ref, scope, c.tk.block, 0, c.tk.pc, tidxOf c.n c.tk.copy, c.key.pos, 0, 0⟩

/-- CC.TAGP: the request is held until the block's closing blaze commits (R111). -/
def execCcTagp (f : CG) (s : State) : Out :=
  runCell (.ccTagp f) (fun c s =>
    let v := c.arg (.ccTagp f) 0
    match poisonedLane v [0, 1] with
    | some l => .poison s f.a.toNat l
    | none => .done (s.updStand c.key.stand fun t => { t with held := t.held ++ [c.pub (BitVec.ofNat 64 (twoLanes v)) f.aux.toNat] })) s

/-- The first poisoned lane that CC.TLW reads, with the operand code. -/
def tlwPoison (f : CG) (c : Cell) : Option (Nat × Nat) :=
  let i := Instr.ccTlw f
  if (c.arg i 0 0).poison then some (f.a.toNat, 0)
  else match poisonedLane (c.arg i 1) [0, 1] with
    | some l => some (f.b.toNat, l)
    | none => if (c.arg i 2 0).poison then some (f.c.toNat, 0) else none

/-- CC.TLW: ends as an acquire once the counter is at least the target. [DESIGN CHOICE, log 178] -/
def execCcTlw (f : CG) (s : State) : Out :=
  runCell (.ccTlw f) (fun c s =>
    let i := Instr.ccTlw f
    let a := (c.arg i 0 0).v
    let target := twoLanes (c.arg i 1)
    match tlwPoison f c with
    | some p => .poison s p.1 p.2
    | none =>
      match (if 512 ≤ a.toNat then none else c.st.eng? (a.toNat % 256)) with
      | none => .trap s 0x08 0 a 0 0 0
      | some e =>
        let v := a.toNat / 256 % 2 == 1
        if target ≤ e.count v then .done (acquireWeave c.key.weave s)
        else .wait ((if v then 0x50 else 0x40) + e.no) (c.arg i 2 0).v.toNat
          (BitVec.ofNat 32 (e.count v % 2 ^ 28)) (BitVec.ofNat 32 (target % 2 ^ 28))) s

/-- CC.FENC: a release writes back the weave's dirty lines, an acquire invalidates its clean ones, a full fence does
both. Scopes change nothing here: the model performs a task's operations in order. -/
def execCcFenc (f : CG) (s : State) : Out :=
  runCell (.ccFenc f) (fun c s =>
    let kind := f.aux.toNat / 8
    if kind = 2 then .done (acquireWeave c.key.weave s)
    else match releaseWeave c.key.weave s with
      | none => .holdWave
      | some s1 => .done (if kind = 0 then acquireWeave c.key.weave s1 else s1)) s

/-- The wait of a task at a barrier. -/
def barrWait (k : BarKey) (s : State) : CellAns :=
  .waitIn s (barrierObject k.scope) barrierLimit (BitVec.ofNat 32 (s.barrier k).size) (BitVec.ofNat 32 k.count)

/-- A task arrives at a barrier (R231), a release; its operand is dequeued when the barrier completes, which writes d, or when
the wait expires. [DEDUCED, log 60] -/
def cellArrive (f : CG) (c : Cell) (k : BarKey) (bit : Bool) (s : State) : CellAns :=
  match releaseWeave c.key.weave s with
  | none => .holdWave
  | some s1 =>
    let m := BarMember.task c.key
    let s2 := arrive k m bit (keepSlots c.key (c.fillLanes f.d 0) s1)
    if (s2.barrier k).holds m then barrWait k s2 else .stay s2

/-- CC.BARR. [DEDUCED, log 60] [DESIGN CHOICE, log 178] -/
def execCcBarr (f : CG) (s : State) : Out :=
  runCell (.ccBarr f) (fun c s =>
    let x := c.arg (.ccBarr f) 0 0
    let s0 := c.undo s
    match standKey s c.st c.key.pos f.aux.toNat f.e.toNat with
    | none => .trap s 0x08 0 (f.e.setWidth 32) 0 0 0
    | some k =>
      if (s.barrier k).holds (.task c.key) then barrWait k s0
      else if x.poison then .poison s f.a.toNat 0
      else cellArrive f c k (x.v.getLsbD 0) s0) s

/-! ## The rest (R232) -/

/-- CC.YLD: the issue stage passes over the task once. -/
def execCcYld (f : CG) (s : State) : Out := runCell (.ccYld f) (fun _ s => .done s) s

/-- CC.TRAP: a software trap; the task stands at the next instruction, where it goes on when it is resumed (R344). -/
def execCcTrap (f : CG) (s : State) : Out :=
  runCell (.ccTrap f) (fun c s =>
    .trap (s.updTask c.key fun x => { x.advance with
      pend := if f.sc.getLsbD 3 then some { Pend.none with endt := true } else none }) 0 f.aux.toNat 0 0 0 0) s

/-- CC.ENDT: the task ends. -/
def execCcEndt (f : CG) (s : State) : Out := runCell (.ccEndt f) (fun _ s => .done s) s

end Sys2Proof.Machine
end

