-- ==== Sys2Proof/Machine/CellD.lean ====
section
/-! DEFINITION. Digit transducers (R39, R269 to R282): table images, their checks, and the passes. -/

namespace Sys2Proof.Machine

/-! ## Slots (R269 to R271) -/

/-- Slot n of a weave; an empty slot has w = 0. -/
def Weave.slot (w : Weave) (n : Nat) : Slot := nth ⟨0, [], false⟩ w.slots n

/-- Replace slot n. -/
def Weave.setSlot (w : Weave) (n : Nat) (x : Slot) : Weave := { w with slots := setNth ⟨0, [], false⟩ w.slots n x }

/-- Start state of a header. -/
def hdrStart (h : W128) : Nat := bitsAt h.toNat 27 5
/-- Number of states. -/
def hdrStates (h : W128) : Nat := bitsAt h.toNat 22 5 + 1
/-- Digit width. -/
def hdrWidth (h : W128) : Nat := bitsAt h.toNat 20 2
/-- MSD-first. -/
def hdrDir (h : W128) : Bool := bitsAt h.toNat 19 1 == 1
/-- One-operand table. -/
def hdrOne (h : W128) : Bool := bitsAt h.toNat 18 1 == 1
/-- Final class of a state. -/
def hdrClass (h : W128) (st : Nat) : Nat := bitsAt h.toNat (2 * st + 64) 2

/-- Entry fields (R271). -/
def entNext (e : BitVec 16) : Nat := bitsAt e.toNat 11 5
/-- Output digit. -/
def entOut (e : BitVec 16) : Nat := bitsAt e.toNat 8 3
/-- Transition defined. -/
def entValid (e : BitVec 16) : Bool := bitsAt e.toNat 7 1 == 1
/-- Mark. -/
def entCls (e : BitVec 16) : Nat := bitsAt e.toNat 5 2

/-! ## Image checks (R272, R275) -/

/-- Offending byte offsets of a header. -/
def hdrBad (h : W128) : List Nat :=
  (upTo 8).filter (fun k =>
    let res := if k < 2 then bitsAt h.toNat (8 * k) 8 else if k = 2 then bitsAt h.toNat 16 2
      else if 4 ≤ k then bitsAt h.toNat (8 * k) 8 else 0
    res != 0 || (k == 2 && hdrWidth h == 0) || (k == 3 && hdrStates h ≤ hdrStart h))

/-- The offending byte offset of entry number n, if any. -/
def entBad (h : W128) (n : Nat) (e : BitVec 16) : Option Nat :=
  let w := hdrWidth h
  let out := 2 ^ w ≤ n / 8 % 8 || 2 ^ w ≤ n % 8
  let lo := e.toNat % 256
  if lo % 32 ≠ 0 ∨ (out ∧ lo ≠ 0) then some (16 + 2 * n)
  else if (out ∧ e.toNat / 256 ≠ 0) ∨ (entValid e ∧ (hdrStates h ≤ entNext e ∨ 2 ^ w ≤ entOut e)) then some (17 + 2 * n)
  else none

/-- The entries in the bytes of an image. -/
def imageEntries (bs : List Byte) : List (BitVec 16) :=
  (upTo ((bs.length - 16) / 2)).map fun n => BitVec.ofNat 16 (natOfBytesLE ((bs.drop (16 + 2 * n)).take 2))

/-- The header in the bytes of an image. -/
def imageHdr (bs : List Byte) : W128 := BitVec.ofNat 128 (natOfBytesLE (bs.take 16))

/-- The first offending byte offset of an image. -/
def imageBad (bs : List Byte) : Option Nat :=
  let h := imageHdr bs
  match hdrBad h with
  | k :: _ => some k
  | [] => (imageEntries bs).zipIdx.findSome? fun p => entBad h p.2 p.1

/-! ## Reading an image (R275) -/

/-- What a read of a region of memory gives: bytes with the poison of some word, a fault at an address, no room in the
segment for the lines it writes back, or a wait: for lines of the weave's own store, or of a load of the task (R288, R315). -/
inductive BlockRead where
  | ok (s : State) (bs : List Byte) (poison : Bool)
  | bad (cause addr : Nat)
  | full
  | stalls (a : CellAns)

/-- Read n bytes as 16-byte blocks for a task (R285): the weave's lines are written back first. -/
def readBlocks (c : Cell) (addr n : Nat) (s : State) : BlockRead :=
  (upTo (n / 16)).foldl (fun acc k =>
    match acc with
    | .ok s bs p =>
      let a := addr + 16 * k
      (match cellPlace s c 0 a 16 .read with
      | .error e => .bad e a
      | .ok (.self off) =>
        match c.lineWait (linesOf off 16) with
        | some x => .stalls x
        | none => .ok s (bs ++ c.w.store.bytesAt off 16) (p || c.w.store.anyPoison off 16)
      | .ok (.mem x) =>
        if s.accessHeld c.st.vf c.st.die x.pa then .stalls .hold
        else (match evict c.key.weave (fun y => y.line == x.pa / 128) s with
        | none => .full
        | some s1 =>
          let m := s1.standMem c.key.stand
          .ok (addBytes c.key.stand 16 (c.touch 0 a s1)) (bs ++ m.bytesAt x.pa 16) (p || m.anyPoison x.pa 16)))
    | x => x) (.ok s [] false)

/-- A pass of some task of the weave has not completed. -/
def passPending (w : Weave) : Bool := w.tasks.any fun k => k.pend.any fun p => !p.recs.isEmpty

/-- Put a read image into a slot, or the trap that refuses it. -/
def installImage (i : Instr) (f : CG) (c : Cell) (src : Nat) (bs : List Byte) (poison : Bool) (s : State) : CellAns :=
  if poison then .poison s f.a.toNat 0
  else match imageBad bs with
    | some off => .trap s 0x01 0 (BitVec.ofNat 32 src) (BitVec.ofNat 32 off) (wordHalves i).1 (wordHalves i).2
    | none => .done (s.updWeave c.key.weave fun w => w.setSlot f.d.toNat ⟨imageHdr bs, imageEntries bs, false⟩)

/-- Length of an image from its first bytes. -/
def imageLen (bs : List Byte) : Nat := 16 + 128 * hdrStates (imageHdr bs)

/-- A load of an image from the store. -/
def dxldStore (i : Instr) (f : CG) (c : Cell) (src : Nat) (s : State) : CellAns :=
  let refuse : CellAns := .trap s 0x08 0 (BitVec.ofNat 32 src) 0 0 0
  if storeSize c.st < src + 16 then refuse
  else match c.lineWait (linesOf src 16) with
    | some a => a
    | none =>
      let n := imageLen (c.w.store.bytesAt src 16)
      if storeSize c.st < src + n then refuse
      else match c.lineWait (linesOf src n) with
        | some a => a
        | none => installImage i f c src (c.w.store.bytesAt src n) (c.w.storePoison src n) s

/-- A load of an image from memory. [DESIGN CHOICE, log 47] -/
def dxldMem (i : Instr) (f : CG) (c : Cell) (src : Nat) (s : State) : CellAns :=
  let fault (cause a : Nat) : CellAns := .trap s cause 0 (BitVec.ofNat 32 a) (BitVec.ofNat 32 (a / 2 ^ 32)) 0 0
  match readBlocks c src 16 s with
  | .bad cause a => fault cause a
  | .full => .holdWave
  | .stalls x => x
  | .ok _ hd p =>
    if p then .poison s f.a.toNat 0
    else match readBlocks c src (imageLen hd) s with
      | .bad cause a => fault cause a
      | .full => .holdWave
      | .stalls x => x
      | .ok s1 bs q => installImage i f c src bs q s1

/-- CD.DXLD: the slot is written once the passes issued before have completed (R282). [DESIGN CHOICE, log 47]
[DESIGN CHOICE, log 178] -/
def execCdDxld (f : CG) (s : State) : Out :=
  runCell (.cdDxld f) (fun c s =>
    let i := Instr.cdDxld f
    let a := c.opd (cellSrcs i) 0
    let store := f.aux.getLsbD 0
    let src := if store then (a 0).v.toNat else (a 0).v.toNat + 2 ^ 32 * (a 1).v.toNat
    match poisonedLane a (if store then [0] else [0, 1]) with
    | some l => .poison s f.a.toNat l
    | none =>
      if src % 16 ≠ 0 ∧ src < 2 ^ 57 then .trap s 0x0F 0 (BitVec.ofNat 32 src) (BitVec.ofNat 32 (src / 2 ^ 32)) 0 0
      else if passPending c.w then .hold
      else if store then dxldStore i f c src s else dxldMem i f c src s) s

/-- A header with one attribute changed (R276): 0 DIR, 1 START, 2 ONE, 3 CMAP. -/
def hdrSet (h : W128) (attr lo hi : Nat) : W128 :=
  BitVec.ofNat 128 (match attr with
    | 0 => putBits h.toNat 19 1 lo
    | 1 => putBits h.toNat 27 5 lo
    | 2 => putBits h.toNat 18 1 lo
    | _ => putBits h.toNat 64 64 (hi * 2 ^ 32 + lo))

/-- CD.DXCF: the slot is written once the passes issued before have completed (R282). [DESIGN CHOICE, log 178] -/
def execCdDxcf (f : CG) (s : State) : Out :=
  runCell (.cdDxcf f) (fun c s =>
    let i := Instr.cdDxcf f
    let a := c.opd (cellSrcs i) 0
    let attr := f.aux.toNat
    let x := c.w.slot f.d.toNat
    match poisonedLane a (if attr = 3 then [0, 1] else [0]) with
    | some l => .poison s f.a.toNat l
    | none =>
      if hdrWidth x.hdr = 0 ∨ (attr = 1 ∧ hdrStates x.hdr ≤ (a 0).v.toNat % 32) then .illegal i s 0 0
      else if passPending c.w then .hold
      else .done (s.updWeave c.key.weave fun w =>
        w.setSlot f.d.toNat { x with hdr := hdrSet x.hdr attr (a 0).v.toNat (a 1).v.toNat })) s

/-! ## Passes (R277 to R280) -/

/-- Where a pass is undefined: position, state, digits. -/
structure Undef where
  pos : Nat
  st : Nat
  x : Nat
  y : Nat
  deriving DecidableEq, Repr

/-- What a pass leaves: result lane, final state, marks. -/
structure PassOut where
  r : Nat
  st : Nat
  marks : Nat
  deriving DecidableEq, Repr

/-- The steps of a pass over digit positions. -/
def passDigits (t : Slot) (one : Bool) (a b : Nat) : List Nat → PassOut → Except Undef PassOut
  | [], p => .ok p
  | i :: is, p =>
    let w := hdrWidth t.hdr
    let x := bitsAt a (w * i) w
    let y := if one then 0 else bitsAt b (w * i) w
    let e := nth 0 t.ents (64 * p.st + 8 * x + y)
    if entValid e = false then .error ⟨i, p.st, x, y⟩
    else passDigits t one a b is
      ⟨p.r + entOut e * 2 ^ (w * i), entNext e, if entCls e = 0 then p.marks else Nat.lor p.marks (2 ^ (entCls e - 1))⟩

/-- One pass of a lane: `rev` is the direction of CD.DXCH, whose y digit is 0. -/
def passLane (t : Slot) (rev : Bool) (start : Option Nat) (a b : Nat) : Except Undef PassOut :=
  let h := t.hdr
  let w := hdrWidth h
  let one := rev || hdrOne h
  let s0 := start.getD (hdrStart h)
  let order := upTo (32 / w)
  if w = 3 ∧ (2 ^ 30 ≤ a ∨ (one = false ∧ 2 ^ 30 ≤ b)) then .error ⟨0x3E, hdrStart h, 0, 0⟩
  else if hdrStates h ≤ s0 then .error ⟨0x3F, s0, 0, 0⟩
  else passDigits t one a b (if hdrDir h = rev then order else order.reverse) ⟨0, s0, 0⟩

/-- The record of a pass (R269). -/
def passRec (h : W128) (p : PassOut) : W32 := BitVec.ofNat 32 (p.st + hdrClass h p.st * 2 ^ 5 + p.marks * 2 ^ 8)

/-- What a pass reads for a lane is poisoned (R280); words of the slot that a check left poisoned (R356) poison every lane.
[DESIGN CHOICE, log 167] -/
def passPoison (c : Cell) (srcs : List (Option Nat)) (t : Slot) (l : Nat) : Bool :=
  t.bad || (c.opd srcs 0 l).poison || (c.opd srcs 1 l).poison || (c.opd srcs 2 l).poison

/-- The results of a pass that is defined in every active lane. -/
def passPend (f : CG) (c : Cell) (srcs : List (Option Nat)) (t : Slot) (out : Nat → PassOut) : Pend :=
  let act := c.active f
  let rc (l : Nat) : Lane := ⟨passRec t.hdr (out l), passPoison c srcs t l⟩
  let e := if f.aux.getLsbD 4 then c.result f.e act rc else Pend.none
  let q := if f.gq = 0 then Pend.none
    else c.resultP f.gq.toNat act fun l => hdrClass t.hdr (out l).st == f.aux.toNat / 4 % 4
  ((((c.result f.d act fun l => ⟨BitVec.ofNat 32 (out l).r, passPoison c srcs t l⟩).join e).join q)).join
    { Pend.none with recs := (c.lanesWith act).map fun l => (l, rc l) }

/-- The first active lane whose pass is undefined. -/
def passFail (c : Cell) (f : CG) (run : Nat → Except Undef PassOut) : Option (Nat × Undef) :=
  (c.lanesWith (c.active f)).findSome? fun l => match run l with | .error u => some (l, u) | .ok _ => none

/-- One transducer pass in every active lane. [DESIGN CHOICE, log 48] -/
def passBody (i : Instr) (f : CG) (rev : Bool) (c : Cell) (s : State) : CellAns :=
  let srcs := cellSrcs i
  let t := c.w.slot (f.aux.toNat % 4)
  let run (l : Nat) : Except Undef PassOut :=
    passLane t rev (if f.aux.getLsbD 5 then some ((c.opd srcs 2 l).v.toNat % 32) else none)
      (c.opd srcs 0 l).v.toNat (c.opd srcs 1 l).v.toNat
  if hdrWidth t.hdr = 0 then .illegal i s 0 0
  else match (if f.gq = 0 then none else poisonedSrc c srcs (c.active f)) with
    | some p => .poison s p.1 p.2
    | none =>
      if passPending c.w then .hold
      else match passFail c f run with
        | some (l, u) =>
          .trap (s.updWeave c.key.weave fun w => { w with dxst := w.dxst ||| 2 }) 0x04 0 (c.lid + BitVec.ofNat 32 l)
            (BitVec.ofNat 32 (u.pos * 2 ^ 16 + u.st * 2 ^ 8 + u.x * 2 ^ 4 + u.y)) (c.opd srcs 0 l).v (c.opd srcs 1 l).v
        | none => .later s (passPend f c srcs t fun l => match run l with | .ok p => p | .error _ => ⟨0, 0, 0⟩)

/-- CD.DXRN. [DESIGN CHOICE, log 48] -/
def execCdDxrn (f : CG) (s : State) : Out := runCell (.cdDxrn f) (passBody (.cdDxrn f) f false) s

/-- CD.DXCH. -/
def execCdDxch (f : CG) (s : State) : Out := runCell (.cdDxch f) (passBody (.cdDxch f) f true) s

/-- CD.DXFN: 0 LAST, 1 HDR, 2 CMAPLO, 3 CMAPHI. -/
def execCdDxfn (f : CG) (s : State) : Out :=
  runCell (.cdDxfn f) (fun c s =>
    let h := (c.w.slot (f.aux.toNat % 4)).hdr
    let view := f.aux.toNat / 4
    let word : W32 := match view with | 1 => h.extractLsb' 0 32 | 2 => h.extractLsb' 64 32 | _ => h.extractLsb' 96 32
    if view = 0 ∧ passPending c.w then .hold
    else .write c (c.result f.d (c.active f) fun l => if view = 0 then nth Lane.zero c.w.recs l else ⟨word, false⟩) s) s

end Sys2Proof.Machine
end

