-- ==== Sys2Proof/Machine/CellF.lean ====
section
/-! DEFINITION. The floating-point instructions of a cell (R234 to R242). -/

namespace Sys2Proof.Machine

/-! ## The frame of the CF group (R234) -/

/-- An elementwise floating-point instruction: in(), the function of exact values, out(). -/
def floatWise (i : Instr) (f : CG) (g : RM → FVal → FVal → FVal → FVal) (s : State) : Out :=
  let m := fmtOf f.ty.toNat
  laneWise i f (byElem m.width fun c x y z =>
    m.write c.rm c.ftz (g c.rm (m.readIn c.ftz x) (m.readIn c.ftz y) (m.readIn c.ftz z))) s

/-- An instruction that acts on encodings, with neither in() nor out(). -/
def encWise (i : Instr) (f : CG) (g : FFmt → Nat → Nat) (s : State) : Out :=
  let m := fmtOf f.ty.toNat
  laneWise i f (byElem m.width fun _ x _ _ => g m x) s

/-! ## Arithmetic (R235, R236) -/

/-- CF.FADD. -/
def execCfFadd (f : CG) (s : State) : Out := floatWise (.cfFadd f) f (fun rm x y _ => FVal.add rm x y) s
/-- CF.FSUB. -/
def execCfFsub (f : CG) (s : State) : Out := floatWise (.cfFsub f) f (fun rm x y _ => FVal.add rm x y.neg) s
/-- CF.FMUL. -/
def execCfFmul (f : CG) (s : State) : Out := floatWise (.cfFmul f) f (fun _ x y _ => FVal.mul x y) s
/-- CF.FFMA: one rounding (R52). -/
def execCfFfma (f : CG) (s : State) : Out := floatWise (.cfFfma f) f (fun rm x y z => FVal.add rm (FVal.mul x y) z) s
/-- CF.FMIN. -/
def execCfFmin (f : CG) (s : State) : Out := floatWise (.cfFmin f) f (fun _ x y _ => FVal.min x y) s
/-- CF.FMAX. -/
def execCfFmax (f : CG) (s : State) : Out := floatWise (.cfFmax f) f (fun _ x y _ => FVal.max x y) s
/-- CF.FRND. -/
def execCfFrnd (f : CG) (s : State) : Out := floatWise (.cfFrnd f) f (fun rm x _ _ => x.roundInt rm) s

/-- The encoding with its sign bit cleared; a NaN is canonical (R46). -/
def absEnc (m : FFmt) (x : Nat) : Nat := if (m.read x).isNan then m.nanEnc else x % m.signBit
/-- The encoding with its sign bit inverted. -/
def negEnc (m : FFmt) (x : Nat) : Nat :=
  if (m.read x).isNan then m.nanEnc else if x < m.signBit then x + m.signBit else x % m.signBit

/-- CF.FABS. -/
def execCfFabs (f : CG) (s : State) : Out := encWise (.cfFabs f) f absEnc s
/-- CF.FNEG. -/
def execCfFneg (f : CG) (s : State) : Out := encWise (.cfFneg f) f negEnc s

/-- The class code of an encoding (R238). -/
def classOf (m : FFmt) (x : Nat) : Nat :=
  let mag := x % m.signBit
  let neg := m.signBit ≤ x
  match m.read x with
  | .nan => 0
  | .inf n => if n then 1 else 8
  | .fin _ _ _ =>
    if mag = 0 then (if neg then 4 else 5)
    else if mag < 2 ^ m.mw then (if neg then 3 else 6)
    else (if neg then 2 else 7)

/-- CF.FCLS. -/
def execCfFcls (f : CG) (s : State) : Out := encWise (.cfFcls f) f classOf s

/-- CF.FCMP: full values (R237). -/
def execCfFcmp (f : CG) (s : State) : Out :=
  predWise (.cfFcmp f) f true (elemCond f fun x y =>
    floatCond (f.aux.toNat % 8) ((fmtOf f.ty.toNat).read x) ((fmtOf f.ty.toNat).read y)) s

/-! ## Correctly rounded functions (R239, R240) -/

/-- A special function: its result is written when it completes. -/
def specialWise (i : Instr) (f : CG) (fn : SpecFn) (s : State) : Out :=
  runCell i (fun c s => .later s (lanePend i f
    (byElem (tyWidth f.ty.toNat) fun c x _ _ => special fn f.ty.toNat c.rm c.ftz x) c)) s

/-- CF.FRCP. -/
def execCfFrcp (f : CG) (s : State) : Out := specialWise (.cfFrcp f) f .rcp s
/-- CF.FRSQ. -/
def execCfFrsq (f : CG) (s : State) : Out := specialWise (.cfFrsq f) f .rsq s
/-- CF.FEXP2. -/
def execCfFexp2 (f : CG) (s : State) : Out := specialWise (.cfFexp2 f) f .exp2 s
/-- CF.FLOG2. -/
def execCfFlog2 (f : CG) (s : State) : Out := specialWise (.cfFlog2 f) f .log2 s
/-- CF.FSIG. -/
def execCfFsig (f : CG) (s : State) : Out := specialWise (.cfFsig f) f .sig s
/-- CF.FTANH. -/
def execCfFtanh (f : CG) (s : State) : Out := specialWise (.cfFtanh f) f .tanh s
/-- CF.FSINP. -/
def execCfFsinp (f : CG) (s : State) : Out := specialWise (.cfFsinp f) f .sinp s
/-- CF.FCOSP. -/
def execCfFcosp (f : CG) (s : State) : Out := specialWise (.cfFcosp f) f .cosp s

/-! ## Conversion (R241, R242) -/

/-- Source type of a conversion. -/
def fcvtFrom (f : CG) : Nat := f.e.toNat

/-- The lane and its poison that hold the source of destination element j: operand a, or a register of the range. -/
def fcvtLane (c : Cell) (f : CG) (l k : Nat) : Lane :=
  if tyWidth f.ty.toNat < tyWidth (fcvtFrom f) then c.w.lane (f.a.toNat + k) l else c.opd (cellSrcs (.cfFcvt f)) 0 l

/-- The source element of destination element j of lane l. -/
def fcvtSrc (c : Cell) (f : CG) (l j : Nat) : Nat :=
  let wd := tyWidth f.ty.toNat
  let ws := tyWidth (fcvtFrom f)
  if ws < wd then elemAt ws (j + 32 / wd * (f.aux.toNat % 4)) (fcvtLane c f l 0).v
  else elemAt ws (j % (32 / ws)) (fcvtLane c f l (j / (32 / ws))).v

/-- The value an element converts from: in() of a float, the integer otherwise. -/
def fcvtIn (ty : Nat) (ftz : Bool) (x : Nat) : FVal := if isFloatTy ty then (fmtOf ty).readIn ftz x else FVal.ofInt (intOf ty x)

/-- The converted element, none where policy 0b11 traps. -/
def fcvtElem (f : CG) (ftz : Bool) (x : Nat) : Option Nat :=
  let v := fcvtIn (fcvtFrom f) ftz x
  let rm := RM.ofCode (f.aux.toNat / 4 % 4)
  let policy := f.aux.toNat / 16
  if isFloatTy f.ty.toNat then cvtFloat (fmtOf f.ty.toNat) rm ftz policy v else cvtInt f.ty.toNat rm policy v

/-- The first element of an active lane whose conversion traps: lane, element, source value. [DESIGN CHOICE, log 45] -/
def fcvtFail (c : Cell) (f : CG) : Option (Nat × Nat × Nat) :=
  (c.lanesWith (c.active f)).findSome? fun l =>
    (upTo (32 / tyWidth f.ty.toNat)).findSome? fun j =>
      match fcvtElem f c.ftz (fcvtSrc c f l j) with
      | none => some (l, j, fcvtSrc c f l j)
      | some _ => none

/-- Registers of a narrowing's range. -/
def fcvtRegs (f : CG) : Nat := max 1 (tyWidth (fcvtFrom f) / tyWidth f.ty.toNat)

/-- CF.FCVT. -/
def execCfFcvt (f : CG) (s : State) : Out :=
  runCell (.cfFcvt f) (fun c s =>
    match fcvtFail c f with
    | some (l, j, x) => .trap s 0x0C 0 (BitVec.ofNat 32 l) (BitVec.ofNat 32 j) (BitVec.ofNat 32 x) 0
    | none => .write c (c.result f.d (c.active f) fun l =>
        ⟨laneOf (tyWidth f.ty.toNat) fun j => (fcvtElem f c.ftz (fcvtSrc c f l j)).getD 0,
          (upTo (fcvtRegs f)).any fun k => (fcvtLane c f l k).poison⟩) s) s

end Sys2Proof.Machine
end

