-- ==== Sys2Proof/Machine/Osier.lean ====
section
/-! DEFINITION. The Osier generator (R60) and the uniform mapping (R61). -/

namespace Sys2Proof.Machine

/-- Rotation constants rho of R60. -/
def osierRho : List Nat := [13, 17, 5, 23, 11, 29, 7, 19, 3, 27, 9, 21]
/-- Rotation constants sigma of R60. -/
def osierSigma : List Nat := [16, 6, 24, 14, 2, 20, 10, 30, 8, 26, 4, 18]

/-- The words x0 to x3 and key words kk0, kk1 between rounds (R60). -/
structure OsierSt where
  x0 : W32
  x1 : W32
  x2 : W32
  x3 : W32
  k0 : W32
  k1 : W32
  deriving DecidableEq, Repr

/-- Round i of R60. -/
def osierRound (s : OsierSt) (i : Nat) : OsierSt :=
  let x0 := s.x0 + (s.x1 ^^^ s.k0)
  let x1 := s.x1.rotateLeft (nth 0 osierRho i) ^^^ x0
  let x2 := s.x2 + (s.x3 ^^^ s.k1)
  let x3 := s.x3.rotateLeft (nth 0 osierSigma i) ^^^ x2
  let k0 := s.k0 + 0xB5297A4D#32
  { x0 := x0 + BitVec.ofNat 32 (i * 0x6C8E9CF5), x1 := x3, x2 := x2, x3 := x1, k0 := k0, k1 := s.k1 ^^^ k0.rotateLeft 7 }

/-- Osier: four output words of counter words c0 to c3 and key words k0, k1 (R60). -/
def osier (c0 c1 c2 c3 k0 k1 : W32) : W32 × W32 × W32 × W32 :=
  let r := (upTo 12).foldl osierRound ⟨c0, c1, c2, c3, k0, k1⟩
  (r.x0 + c0, r.x1 + c1, r.x2 + c2, r.x3 + c3)

/-- The uniform f32 of an output word: (v >> 8) · 2^(−24), exact (R61). -/
def uniform (v : W32) : W32 :=
  let n := v.toNat / 256
  if n = 0 then 0 else
    let k := Nat.log2 n
    BitVec.ofNat 32 ((k + 103) * 2 ^ 23 + (n * 2 ^ (23 - k) - 2 ^ 23))

end Sys2Proof.Machine
end

