-- ==== Sys2Proof/Machine/CellL.lean ====
section
/-! DEFINITION. The lane instructions of a cell and its random numbers (R243 to R249). -/

namespace Sys2Proof.Machine

/-- Element i of the logical vector of an operand, of width w (R243). -/
def vecElem (w : Nat) (v : Vec) (i : Nat) : Nat := elemAt w (i % (32 / w)) (v (i / (32 / w))).v

/-- The active elements of a logical vector, none where the guard is false. -/
def activeElems (c : Cell) (f : CG) (w : Nat) (v : Vec) : List (Option Nat) :=
  (upTo (c.lanes * (32 / w))).map fun i => if c.active f (i / (32 / w)) then some (vecElem w v i) else none

/-- CL.LRED: the fixed tree of R57 with identities at inactive elements, broadcast to every active lane. -/
def execClLred (f : CG) (s : State) : Out :=
  runCell (.clLred f) (fun c s =>
    let ty := f.ty.toNat
    let w := tyWidth ty
    let op := f.aux.toNat % 8
    let a := c.opd (cellSrcs (.clLred f)) 0
    let r := reduceTree op ty c.ftz ((activeElems c f w a).map fun x => x.getD (identityOf op ty))
    let p := (c.lanesWith (c.active f)).any fun l => (a l).poison
    .write c (c.result f.d (c.active f) fun _ => ⟨laneOf w fun _ => r, p⟩) s) s

/-- The scan of R245: outputs in order, one per element; an inactive element passes the carry on. [DEDUCED, log 44] -/
def scanElems (g : Nat → Nat → Nat) (excl : Bool) : Nat → List (Option Nat) → List Nat
  | _, [] => []
  | s, none :: xs => s :: scanElems g excl s xs
  | s, some x :: xs => (if excl then s else g s x) :: scanElems g excl (g s x) xs

/-- The carry-in of a scan (R245, R46): in() of element 0 of lane 0 of b, or the identity. -/
def scanCarry (f : CG) (ftz : Bool) (b : Vec) : Nat :=
  let ty := f.ty.toNat
  let x := elemAt (tyWidth ty) 0 (b 0).v
  if f.aux.getLsbD 4 = false then identityOf (f.aux.toNat % 8) ty
  else if isFloatTy ty then (if ((fmtOf ty).read x).isNan then (fmtOf ty).nanEnc else (fmtOf ty).flush ftz x)
  else x

/-- CL.LSCN. [DEDUCED, log 44] -/
def execClLscn (f : CG) (s : State) : Out :=
  runCell (.clLscn f) (fun c s =>
    let ty := f.ty.toNat
    let w := tyWidth ty
    let k := 32 / w
    let excl := f.aux.getLsbD 3
    let srcs := cellSrcs (.clLscn f)
    let a := c.opd srcs 0
    let b := c.opd srcs 1
    let out := scanElems (combine (f.aux.toNat % 8) ty c.rm c.ftz) excl (scanCarry f c.ftz b) (activeElems c f w a)
    let below (l : Nat) : Nat := if excl ∧ k = 1 then l else l + 1
    .write c (c.result f.d (c.active f) fun l =>
      ⟨laneOf w fun e => nth 0 out (l * k + e),
        (f.aux.getLsbD 4 && (b 0).poison) || (upTo (below l)).any fun m => c.active f m && (a m).poison⟩) s) s

/-- The lane that CL.LSHF reads for lane l, and the lane of b it uses (R246). -/
def shufLane (mode lanes : Nat) (b : Vec) (l : Nat) : Nat × Nat :=
  match mode with
  | 0 => ((b l).v.toNat % 65536, l)
  | 1 => ((l + (b 0).v.toNat % 65536) % lanes, 0)
  | _ => (Nat.xor l ((b 0).v.toNat % 65536 % lanes), 0)

/-- CL.LSHF. -/
def execClLshf (f : CG) (s : State) : Out :=
  runCell (.clLshf f) (fun c s =>
    let srcs := cellSrcs (.clLshf f)
    let a := c.opd srcs 0
    let b := c.opd srcs 1
    .write c (c.result f.d (c.active f) fun l =>
      let j := shufLane f.aux.toNat c.lanes b l
      if j.1 < c.lanes then ⟨(a j.1).v, (a j.1).poison || (b j.2).poison⟩ else ⟨0, (b j.2).poison⟩) s) s

/-- CL.LBRD. -/
def execClLbrd (f : CG) (s : State) : Out :=
  runCell (.clLbrd f) (fun c s =>
    let srcs := cellSrcs (.clLbrd f)
    let a := c.opd srcs 0
    let b := c.opd srcs 1
    let k := (b 0).v.toNat % 65536
    if c.lanes ≤ k then .illegal (.clLbrd f) s (BitVec.ofNat 32 k) 0
    else .write c (c.result f.d (c.active f) fun _ => ⟨(a k).v, (a k).poison || (b 0).poison⟩) s) s

/-- CL.LCMP: the guard selects the lanes of a that are kept; every lane of d and e is written. [DEDUCED, log 57] -/
def execClLcmp (f : CG) (s : State) : Out :=
  runCell (.clLcmp f) (fun c s =>
    let a := c.opd (cellSrcs (.clLcmp f)) 0
    let kept := (c.lanesWith (c.active f)).map a
    .write c ((c.result f.d (fun _ => true) fun l => nth Lane.zero kept l).join
      (c.result f.e (fun _ => true) fun _ => ⟨BitVec.ofNat 32 kept.length, false⟩)) s) s

/-- CL.RNGX: Osier on the logical lane index and three counter words, with the key of a constant-slot pair. -/
def execClRngx (f : CG) (s : State) : Out :=
  runCell (.clRngx f) (fun c s =>
    let srcs := cellSrcs (.clRngx f)
    let q := f.aux.toNat % 4
    let o (l : Nat) := osier ((c.opd srcs 0 l).v + c.lid + BitVec.ofNat 32 l) (c.opd srcs 1 l).v (c.opd srcs 2 l).v
      (c.opd srcs 3 l).v (nth 0 c.n.ks (2 * q)) (nth 0 c.n.ks (2 * q + 1))
    let word (j l : Nat) : W32 := match j with | 0 => (o l).1 | 1 => (o l).2.1 | 2 => (o l).2.2.1 | _ => (o l).2.2.2
    let reg (j : Nat) : Pend := c.result (f.d + BitVec.ofNat 6 j) (c.active f) fun l =>
      ⟨if f.ty = 5 then word j l else uniform (word j l), srcPoison c srcs l⟩
    .write c ((((reg 0).join (reg 1)).join (reg 2)).join (reg 3)) s) s

end Sys2Proof.Machine
end

