-- ==== Sys2Proof/Machine/CellP.lean ====
section
/-! DEFINITION. The port instructions of a cell (R203, R213 to R224). -/

namespace Sys2Proof.Machine

/-! ## Helpers -/

/-- The tokens of input port p that the task may read. -/
def Cell.tokens (c : Cell) (p : Nat) : List Tok := (c.tk.inq p).avail

/-- A wait for a token of input port p. -/
def portWait (c : Cell) (p limit : Nat) : CellAns := .wait (48 + p) limit (c.tk.inq p).head (c.tk.inq p).tail

/-- A wait for so many slots of output port o, if they are not free (R202). -/
def slotWait (c : Cell) (s : State) (o n : Nat) : Option CellAns :=
  if s.outSlots c o < n then some (.wait (52 + o) c.n.limit (s.outIndices c o).1 (s.outIndices c o).2) else none

/-- The trap of a FAULT token at a port (R203, R339). -/
def faultTrap (p : Nat) (t : Tok) (s : State) : CellAns :=
  let l0 := (nth Lane.zero t.lanes 0).v
  .trap s (l0.toNat % 256) 0 (BitVec.ofNat 32 (48 + p)) l0 0 0

/-- Dequeue n tokens of a port. -/
def dequeueN (k : TKey) (p n : Nat) (s : State) : State :=
  s.updTask k fun x => (upTo n).foldl (fun acc _ => acc.dequeue p) x

/-- Set every lane of predicate q; q = 0 is ignored (R213). -/
def Cell.allPred (c : Cell) (q : BitVec 4) (b : Bool) : Pend := c.resultP q.toNat (fun _ => true) fun _ => b

/-- Every lane of destination d takes a clean value. -/
def Cell.allLanes (c : Cell) (d : Code6) (x : W32) : Pend := c.result d (fun _ => true) fun _ => ⟨x, false⟩

/-! ## Receiving and sending (R213 to R217, R219, R224) -/

/-- What a receive writes from a token: payload, kind predicate, kind code. -/
def recvPend (f : CG) (c : Cell) (t : Tok) (v : Vec) : Pend :=
  let e := if f.aux = 1 then c.allLanes f.e (t.kind.setWidth 32) else Pend.none
  ((c.result f.d (c.active f) v).join (c.allPred f.gq (t.kind == 0))).join e

/-- Limit of a receive: lane 0 of register b. -/
def recvLimit (i : Instr) (c : Cell) : Nat := (c.opd (cellSrcs i) 1 0).v.toNat

/-- CP.RECV: a token with the release mark makes it an acquire (R217). -/
def execCpRecv (f : CG) (s : State) : Out :=
  runCell (.cpRecv f) (fun c s =>
    let p := f.a.toNat - 48
    match c.tokens p with
    | [] => portWait c p (recvLimit (.cpRecv f) c)
    | t :: _ =>
      let s1 := dequeueN c.key p 1 s
      if t.kind = 9 then faultTrap p t s1
      else .write c (recvPend f c t t.vec) (if t.release then acquireWeave c.key.weave s1 else s1)) s

/-- CP.PEEK: dequeues nothing; the payload of a FAULT token is delivered poisoned in every lane. -/
def execCpPeek (f : CG) (s : State) : Out :=
  runCell (.cpPeek f) (fun c s =>
    let p := f.a.toNat - 48
    match c.tokens p with
    | [] => portWait c p (recvLimit (.cpPeek f) c)
    | t :: _ =>
      let v : Vec := fun l => if t.kind = 9 then ⟨(t.vec l).v, true⟩ else t.vec l
      .write c (recvPend f c t v) s) s

/-- CP.SEND: the task's memory operations are released before the token is enqueued (R216). [DEDUCED, log 56] -/
def execCpSend (f : CG) (s : State) : Out :=
  runCell (.cpSend f) (fun c s =>
    let o := f.d.toNat - 52
    let a := c.opd (cellSrcs (.cpSend f)) 0
    match slotWait c s o 1 with
    | some w => w
    | none =>
      match poisonedLane a ((c.lanesWith (c.active f)).filter fun l => l < 16) with
      | some l => .poison s f.a.toNat l
      | none =>
        match releaseWeave c.key.weave s with
        | none => .holdWave
        | some s1 =>
          let tok : Tok := Tok.fit ⟨f.aux.setWidth 4, (upTo 16).map fun l => if c.active f l then a l else Lane.zero, true, 0, false⟩
          .done (sendOut c.key o tok s1)) s

/-- Clear a pending skip count. -/
def setSkip (k : TKey) (o n : Nat) (s : State) : State := s.updTask k fun x => { x with skips := setCount x.skips o n }

/-- CP.EOS: the pending skip count of the port is flushed first. -/
def execCpEos (f : CG) (s : State) : Out :=
  runCell (.cpEos f) (fun c s =>
    let o := f.d.toNat - 52
    let toks := skipToks (nth 0 c.tk.skips o) ++ [ctlTok 5 0]
    match slotWait c s o toks.length with
    | some w => w
    | none => .done (setSkip c.key o 0 (sendAll c.key o toks s))) s

/-- CP.CTXC (R224). -/
def execCpCtxc (f : CG) (s : State) : Out :=
  runCell (.cpCtxc f) (fun c s =>
    let o := f.d.toNat - 52
    let a := c.opd (cellSrcs (.cpCtxc f)) 0 0
    match slotWait c s o 1 with
    | some w => w
    | none =>
      if a.poison then .poison s f.a.toNat 0
      else .done (sendOut c.key o (ctlTok 8 (BitVec.ofNat 32 (a.v.toNat % 4))) s)) s

/-! ## Skips (R220, R221) -/

/-- The ports of a 4-bit mask, in rising order. -/
def maskPorts (aux : BitVec 6) : List Nat := (upTo 4).filter fun j => aux.getLsbD j

/-- The tokens CP.FILT emits on a port, and the count it leaves. -/
def filtPort (sel j n : Nat) : List Tok × Nat :=
  if j = sel then (skipToks n, 0) else if n + 1 = 255 then ([skipTok 255], 0) else ([], n + 1)

/-- CP.FILT. -/
def execCpFilt (f : CG) (s : State) : Out :=
  runCell (.cpFilt f) (fun c s =>
    let i := Instr.cpFilt f
    let a := c.opd (cellSrcs i) 0 0
    let sel := a.v.toNat % 4
    let ports := maskPorts f.aux
    let act (j : Nat) := filtPort sel j (nth 0 c.tk.skips j)
    if a.poison then .poison s f.a.toNat 0
    else if !(ports.contains sel) then .illegal i s (BitVec.ofNat 32 sel) 0
    else match ports.findSome? fun j => slotWait c s j (act j).1.length with
      | some w => w
      | none => .done (ports.foldl (fun acc j => setSkip c.key j (act j).2 (sendAll c.key j (act j).1 acc)) s)) s

/-- CP.SKIP. -/
def execCpSkip (f : CG) (s : State) : Out :=
  runCell (.cpSkip f) (fun c s =>
    let o := f.d.toNat - 52
    let a := c.opd (cellSrcs (.cpSkip f)) 0 0
    let toks := skipToks (nth 0 c.tk.skips o + a.v.toNat % 256)
    if a.poison then .poison s f.a.toNat 0
    else match slotWait c s o toks.length with
      | some w => w
      | none => .done (setSkip c.key o 0 (sendAll c.key o toks s))) s

/-! ## Merging (R222) -/

/-- The copy that holds a node's merge credits: copy 0. [DEDUCED, log 53] -/
def Cell.creditKey (c : Cell) : TKey :=
  { c.key with pos := copyPos c.st.kern c.key.pos.dcol c.key.pos.drow c.n 0 }

/-- Merge credits of a node. [DEDUCED, log 53] -/
def State.credits (s : State) (k : TKey) : List Nat := ((s.cell? k).map fun c => c.tk.cr).getD []

/-- Absorb SKIP heads of an arm whose credit is 0: tokens taken, credit, and the rest of the queue. -/
def absorbSkips : List Tok → Nat → Nat × Nat × List Tok
  | [], cr => (0, cr, [])
  | t :: ts, cr =>
    if cr = 0 ∧ t.kind = 6 then
      let r := absorbSkips ts ((nth Lane.zero t.lanes 0).v.toNat % 256)
      (r.1 + 1, r.2)
    else (0, cr, t :: ts)

/-- An arm after its SKIP heads are absorbed. -/
structure MergeArm where
  port : Nat
  taken : Nat
  cr : Nat
  head : Option Tok
  deriving DecidableEq, Repr

/-- The arms of a merge. -/
def mergeArms (c : Cell) (f : CG) (cr : List Nat) : List MergeArm :=
  (maskPorts f.aux).map fun j =>
    let r := absorbSkips (c.tokens j) (nth 0 cr j)
    ⟨j, r.1, r.2.1, r.2.2.head?⟩

/-- Dequeue what the arms absorbed and store their credits. [DEDUCED, log 54] -/
def mergeTake (c : Cell) (arms : List MergeArm) (s : State) : State :=
  arms.foldl (fun acc a =>
    (dequeueN c.key a.port a.taken acc).updTask c.creditKey fun x => { x with cr := setCount x.cr a.port a.cr }) s

/-- The head of an arm is EOS. [DEDUCED, log 54] -/
def MergeArm.atEos (a : MergeArm) : Bool := a.head.any fun t => t.kind == 5

/-- CP.MRGE; the credit of an arm at its EOS stays 0 where the step would take one from it. [DESIGN CHOICE, log 197] -/
def execCpMrge (f : CG) (s : State) : Out :=
  runCell (.cpMrge f) (fun c s =>
    let i := Instr.cpMrge f
    let arms := mergeArms c f (s.credits c.creditKey)
    let s1 := mergeTake c arms s
    match arms.find? fun a => a.cr == 0 && a.head.isNone with
    | some a =>
      let q := c.tk.inq a.port
      .waitIn s1 (48 + a.port) c.n.limit (q.head + BitVec.ofNat 32 a.taken) q.tail
    | none =>
      if arms.all fun a => a.cr == 0 && a.atEos then .write c (c.allLanes f.d 4) s1
      else match arms.filter fun a => a.cr == 0 && !a.atEos with
        | [a] => .write c (c.allLanes f.d (BitVec.ofNat 32 a.port))
            (arms.foldl (fun acc b => if b.port = a.port then acc
              else acc.updTask c.creditKey fun x => { x with cr := setCount x.cr b.port (b.cr - 1) }) s1)
        | _ => .illegal i s1 0 0) s

/-! ## Joining (R223) -/

/-- The outcome of a comparison of two heads: 0 less, 1 equal, 2 greater. -/
def joinOutcome (ty : Nat) (a b : Tok) : Nat :=
  let v (t : Tok) : Int := intOf ty (elemAt (tyWidth ty) 0 (nth Lane.zero t.lanes 0).v)
  if v a < v b then 0 else if v a = v b then 1 else 2

/-- Results of a step of a join: outcome in every lane of e and in p[gq]. -/
def joinPend (f : CG) (c : Cell) (o : Nat) : Pend := (c.allLanes f.e (BitVec.ofNat 32 o)).join (c.allPred f.gq (o == 1))

/-- A step of a join on two data heads. -/
def joinStep (f : CG) (c : Cell) (pa pb : Nat) (ha hb : Tok) (s : State) : CellAns :=
  let o := joinOutcome f.ty.toNat ha hb
  let act := f.aux.toNat / 4 ^ o % 4
  let pay := (c.result f.d (fun _ => true) ha.vec).join (c.result f.c (fun _ => true) hb.vec)
  let s1 := if act = 0 ∨ act = 2 then dequeueN c.key pa 1 s else s
  let s2 := if act = 1 ∨ act = 2 then dequeueN c.key pb 1 s1 else s1
  .write c (pay.join (joinPend f c o)) s2

/-- The data side of a join, up to its next control token: tokens dequeued, then the control head if it is there. -/
def joinReset (i : Instr) (f : CG) (c : Cell) (p : Nat) (kind : BitVec 4) (s : State) : CellAns :=
  let toks := c.tokens p
  let n := (toks.takeWhile fun t => t.kind == 0).length
  let s1 := dequeueN c.key p n s
  let q := c.tk.inq p
  match toks[n]? with
  | none => .waitIn s1 (48 + p) c.n.limit (q.head + BitVec.ofNat 32 n) q.tail
  | some t =>
    if t.kind = 9 then faultTrap p t s1
    else if t.kind ≠ kind then .illegal i s1 0 0
    else .write c (joinPend f c 3) s1

/-- CP.JOIN. -/
def execCpJoin (f : CG) (s : State) : Out :=
  runCell (.cpJoin f) (fun c s =>
    let i := Instr.cpJoin f
    let pa := f.a.toNat - 48
    let pb := f.b.toNat - 48
    match (c.tokens pa).head?, (c.tokens pb).head? with
    | none, _ => portWait c pa c.n.limit
    | some ha, none => if ha.kind = 9 then faultTrap pa ha s else portWait c pb c.n.limit
    | some ha, some hb =>
      if ha.kind = 9 then faultTrap pa ha s
      else if hb.kind = 9 then faultTrap pb hb s
      else if ha.kind = 0 ∧ hb.kind = 0 then
        (if (nth Lane.zero ha.lanes 0).poison then .poison s f.a.toNat 0
        else if (nth Lane.zero hb.lanes 0).poison then .poison s f.b.toNat 0
        else joinStep f c pa pb ha hb s)
      else if ha.kind = 0 then joinReset i f c pa hb.kind s
      else if hb.kind = 0 then joinReset i f c pb ha.kind s
      else if ha.kind = hb.kind then .write c (joinPend f c 3) s
      else .illegal i s 0 0) s

end Sys2Proof.Machine
end

