-- ==== Sys2Proof/Machine/SeqCmd.lean ====
section
/-! DEFINITION. Sending skid commands (R165, R193) and changing configuration contexts (R136, R196). -/

namespace Sys2Proof.Machine

/-! ## SS.SCMD (R165, R193) -/

/-- Cycles that SS.SCMD waits on a full queue (R193). -/
def scmdLimit : Nat := 2 ^ 20

/-- The command that an engine context receives: accepted with the entries read at issue, or rejected, which has passed. -/
def newCmd (c : SeqCtx) (seq : Nat) (w : W128) (x : Option (Option (BitVec 256) × Option (BitVec 256))) : Cmd :=
  let bad := x.isNone
  { seq := seq, word := w, src := x.bind (·.1), dst := x.bind (·.2), started := bad, pos := 0, todo := none, kept := [], finished := bad
    passR := bad, passV := bad, failed := false, block := c.block.getD 0, pairHalf := [], ends := 0, paused := false, asked := [] }

/-- The rank of a stand in a collective: its die at scope pkg, the package's rank at scope pod. -/
def collRank (s : State) (t : Stand) (scope : Nat) : Nat := if scope = 4 then t.die else (s.vf t.vf).mem.pkrank.toNat % 128

/-- A COLL takes its place among the commands that its rank has issued (R308). [DEDUCED, log 189] -/
def issueColl (k : EKey) (c : Cmd) (s : State) : State :=
  match s.stand? k.stand, c.dstSide with
  | some t, some b =>
    let scope := (skidFields c.word).scope.toNat
    let p : CollPart := ⟨t.vf, scope, b.tid, b.e.tileIndex b.co, collRank s t scope, [], some (k, c.seq), .issued⟩
    updColls (fun l => (l.filter fun q => q.cmd != p.cmd) ++ [p]) s
  | _, _ => s

/-- Give a command to an engine context; its pub flag requests a publication now (R111). -/
def submitCmd (k : EKey) (cmd : Cmd) (s : State) : State :=
  let s1 := updEngine k (fun g => { g with
    nextSeq := g.nextSeq + 1, cmds := dropPassed (g.cmds ++ [cmd]), err := g.err || cmd.finished
    qhead := if cmd.finished then g.qhead + 1 else g.qhead }) s
  if cmd.finished then s1
  else if cmdOp cmd.word = 0xD then requestPub k cmd (issueColl k cmd s1)
  else requestPub k cmd s1

/-- SS.SCMD: the command a:b goes to its engine context; d receives its number, written before the trap of a rejection. -/
def execSsScmd (f : SR) (s : State) : Out :=
  runSeq (.ssScmd f) (.sr f.q [f.a, f.b]) (fun c s =>
    let w : W128 := (c.reg f.a).v ++ (c.reg f.b).v
    let eng := (skidFields w).eng.toNat
    match c.bind, seqEng? s c eng with
    | .stand st, some g =>
      (match s.stand? st with
      | none => .trapPast s 0x11 (c.reg f.a).v
      | some t =>
        if queueSlots ≤ g.queued then .wait s (.scmd eng) (s.cyc c.id.die + scmdLimit)
        else
          let cmd := newCmd c g.nextSeq w (acceptCmd s t w)
          let s1 := setReg c f.d ⟨BitVec.ofNat 64 g.nextSeq, false⟩ (submitCmd ⟨st, eng⟩ cmd s)
          if cmd.finished then .trapPast s1 0x11 (c.reg f.a).v else .done s1)
    | _, _ => .trapPast s 0x11 (c.reg f.a).v) s

/-! ## SX.CTX (R136, R196) -/

/-- Cycles that SX.CTX SWITCH waits (R196). -/
def switchLimit : Nat := 2 ^ 24

/-- The CTXC token of a context. -/
def ctxcTok (n : Nat) : Tok := ctlTok 8 (BitVec.ofNat 32 n)

/-- An input port of a node is an ingress that no route of the stand feeds (R136, R386). -/
def freePort (t : Stand) (pos : WPos) (d : NodeDesc) (i : Nat) : Bool :=
  (d.port i).en && (t.waited (routeLeads (copyPos t.kern pos.dcol pos.drow d 0) (d.port i).vc)).isEmpty

/-- Place a CTXC at the input ports of a task that no route of the stand feeds (R136, R386). [DESIGN CHOICE, log 86] -/
def placeCtxc (t : Stand) (pos : WPos) (n : Nat) (k : Task) : Task :=
  match t.kern.node? pos k.nid with
  | none => k
  | some d => (upTo 4).foldl (fun acc i =>
      if freePort t pos d i then acc.updIn i fun q => q.push .foreign { ctxcTok n with rid := injectedRid } else acc) k

/-- Routes on which an engine context brings tokens into the stand: those it streams to, but for a GATH, which forwards the
CTXC that reaches its port (R306). [DEDUCED, log 77] -/
def Eng.ingress (e : Eng) : List Nat :=
  (e.cmds.filter fun c => !c.finished && cmdOp c.word != 4).foldl (fun acc c => (cmdRoutes c.word).foldl (fun a r => insertNat r a) acc) []

/-- Inject one CTXC at every ingress of a stand: on every stream of its engine contexts, and at the ports that no route
of the stand feeds. -/
def injectCtxc (st n : Nat) (s : State) : State :=
  match s.stand? st with
  | none => s
  | some t =>
    let t1 : Stand := { t with
      lastCond := some n, switchTo := some n
      weaves := t.weaves.map fun w => { w with tasks := w.tasks.map (placeCtxc t w.pos n) } }
    t.engs.foldl (fun acc e => e.ingress.foldl (fun a r => engineSend st e.no r (ctxcTok n) a) acc) (s.setStand t1)

/-- A CTXC finds a free slot at every ingress of a stand (R125): a credit on each stream, and room at each port that no route
feeds. -/
def ctxcRoom (s : State) (t : Stand) : Bool :=
  let rs := (t.engs.map Eng.ingress).flatten
  (rs.all fun r => (rs.filter fun x => t.dst? x == t.dst? r).length ≤ s.routeSlots t r)
    && t.weaves.all fun w => w.tasks.all fun k => match t.kern.node? w.pos k.nid with
      | some d => (upTo 4).all fun i => !(freePort t w.pos d i) || (k.inq i).size < (d.port i).depth
      | none => true

/-- SX.CTX COND: it is not done before a CTXC finds room at every ingress (R125). [DESIGN CHOICE, log 86] -/
def execSxCtxCond (f : SX) (s : State) : Out :=
  runSeq (.sxCtxCond f) (.bare [f.d]) (fun c s =>
    let d := (c.reg f.d).v
    match c.bind with
    | .stand st =>
      if 4 ≤ d.toNat then .trap s 0x08 0 d
      else if (s.stand? st).all (ctxcRoom s) then .done (injectCtxc st d.toNat s) else .stay s
    | _ => .trap s 0x08 0 d) s

/-- SX.CTX SWITCH; in a root program the trap has no address or operand, and TINFO reads 0. [DESIGN CHOICE, log 195] -/
def execSxCtxSwitch (f : SX) (s : State) : Out :=
  runSeq (.sxCtxSwitch f) (.bare []) (fun c s =>
    match c.bind with
    | .stand _ => seqWait .switch switchLimit 0 c s
    | _ => .trap s 0x08 0 0) s

end Sys2Proof.Machine
end

