-- ==== Sys2Proof/Machine/SeqCtl.lean ====
section
/-! DEFINITION. Sequencer control flow: branches, jumps, calls and returns (R179 to R181), window moves (R182) and
hardware loops (R183, R184). -/

namespace Sys2Proof.Machine

/-- A taken branch by a displacement; a target outside the text is illegal (R179). [DEDUCED, log 11] -/
def seqBranch (i : Instr) (disp : Int) (c : SeqCtx) (s : State) : SeqAns :=
  match c.target disp with
  | some t => .branch s t
  | none => .trap s 0x01 0 (wordInfo i)

/-- SB.BR: taken when predicate q equals sense. -/
def execSbBr (f : SB) (s : State) : Out :=
  runSeq (.sbBr f) (.bare []) (fun c s =>
    if c.pred f.q.toNat = (f.sense == 1) then seqBranch (.sbBr f) f.disp16.toInt c s else .done s) s

/-- SB.BZ: taken when (a = 0) equals sense. -/
def execSbBz (f : SB) (s : State) : Out :=
  runSeq (.sbBz f) (.bare [f.a]) (fun c s =>
    if ((c.reg f.a).v == 0) = (f.sense == 1) then seqBranch (.sbBz f) f.disp16.toInt c s else .done s) s

/-- SJ.JMP. -/
def execSjJmp (disp : BitVec 26) (s : State) : Out :=
  runSeq (.sjJmp disp) (.bare []) (fun c s => seqBranch (.sjJmp disp) disp.toInt c s) s

/-- Call a target within the text (R180): the oldest window is spilled when seven are resident, before any change. -/
def seqCall (t : Nat) (c : SeqCtx) (s : State) : SeqAns :=
  let ret : Reg := ⟨BitVec.ofNat 64 (c.pc + 4), false⟩
  let go (s : State) : SeqAns :=
    .enter (s.updCtx c.id fun c => ({ c with depth := c.depth + 1, resident := c.resident + 1 }).setReg 31 ret) t
  if c.resident = 7 then
    match spill c.id s with
    | some s1 => go s1
    | none => .trap s 0x0E 0 c.wsp
  else go s

/-- SJ.CALL. -/
def execSjCall (disp : BitVec 26) (s : State) : Out :=
  runSeq (.sjCall disp) (.bare []) (fun c s =>
    match c.target disp.toInt with
    | some t => seqCall t c s
    | none => .trap s 0x01 0 (wordInfo (.sjCall disp))) s

/-- SR.JR JUMP: the byte offset a; a target that is not a multiple of 4 traps with ALIGN. -/
def execSrJrJump (f : SR) (s : State) : Out :=
  runSeq (.srJrJump f) (.sr f.q [f.a]) (fun c s =>
    let a := (c.reg f.a).v
    if a.toNat % 4 ≠ 0 then .trap s 0x0F 0 a
    else if c.inText a.toNat then .branch s a.toNat else .trap s 0x01 0 (wordInfo (.srJrJump f))) s

/-- SR.JR CALL. -/
def execSrJrCall (f : SR) (s : State) : Out :=
  runSeq (.srJrCall f) (.sr f.q [f.a]) (fun c s =>
    let a := (c.reg f.a).v
    if a.toNat % 4 ≠ 0 then .trap s 0x0F 0 a
    else if c.inText a.toNat then seqCall a.toNat c s else .trap s 0x01 0 (wordInfo (.srJrCall f))) s

/-- A root program's context halts and stays resident (R198); a handler started from idle ends with H clear (R342). -/
def haltRoot (c : SeqCtx) (s : State) : State :=
  giveUp c.id .halted (s.setCtx { c with h := c.h && !c.fromIdle, fromIdle := false, limm := none })

/-- The entry of a context ends (R180 end_entry); that of a stand's context leaves H as it is. [DESIGN CHOICE, log 196] -/
def endEntry (c : SeqCtx) (s : State) : State :=
  match c.bind with
  | .stand st => endFeed st s
  | _ => haltRoot c s

/-- Return from a call (R180): the caller's window is filled when it is not resident. [DEDUCED, log 14] -/
def seqRet (c : SeqCtx) (s : State) : SeqAns :=
  let t := c.reg 31
  if t.poison then .trap s 0x06 0 31
  else if t.v.toNat % 4 ≠ 0 then .trap s 0x0F 0 t.v
  else
    let d := c.depth - 1
    let s1 := if c.resident ≤ 1 then fill c.id d s else s
    .enter (s1.updCtx c.id fun x => { x with depth := d, resident := if c.resident ≤ 1 then c.resident else c.resident - 1 })
      t.v.toNat

/-- SX.RET: at depth 0 it ends the feeding of the block, or halts a root program. -/
def execSxRet (f : SX) (s : State) : Out :=
  runSeq (.sxRet f) (.bare []) (fun c s => if c.depth = 0 then .stay (endEntry c s) else seqRet c s) s

/-- SB.LOOP (R183): a body past the text or past an enclosing body is illegal whatever the count; a count of 0 skips the
body; a fifth level is illegal. -/
def execSbLoop (f : SB) (s : State) : Out :=
  runSeq (.sbLoop f) (.bare [f.a]) (fun c s =>
    let n := (c.reg f.a).v.toNat % 2 ^ 40
    let len := f.disp16.toInt
    let e := c.pc + 4 * len.toNat
    if len ≤ 0 ∨ c.inText e = false ∨ c.loops.any (fun l => l.start ≤ c.pc && c.pc ≤ l.last && l.last < e) then
      .trap s 0x01 0 (wordInfo (.sbLoop f))
    else if n = 0 then .skip s e
    else if 4 ≤ c.loops.length then .trap s 0x01 0 (wordInfo (.sbLoop f))
    else .enter (s.setCtx { c with loops := ⟨c.pc + 4, e, n, n⟩ :: c.loops }) (c.pc + 4)) s

/-- SX.LBRK (R184). -/
def execSxLbrk (f : SX) (s : State) : Out :=
  runSeq (.sxLbrk f) (.bare []) (fun c s =>
    match c.loops with
    | [] => .trap s 0x01 0 (wordInfo (.sxLbrk f))
    | l :: ls => .enter (s.setCtx { c with loops := ls }) (l.last + 4)) s

/-- SX.WIN SAVE (R182). -/
def execSxWinSave (f : SX) (s : State) : Out :=
  runSeq (.sxWinSave f) (.bare []) (fun c s =>
    if 1 < c.resident then
      (match spill c.id s with
      | some s1 => .done s1
      | none => .trap s 0x0E 0 c.wsp)
    else .done s) s

/-- SX.WIN RESTORE (R182). -/
def execSxWinRestore (f : SX) (s : State) : Out :=
  runSeq (.sxWinRestore f) (.bare []) (fun c s =>
    if 0 < c.depth ∧ c.resident ≤ 1 then
      .done ((fill c.id (c.depth - 1) s).updCtx c.id fun x => { x with resident := c.resident + 1 })
    else .done s) s

/-- SX.WIN FLUSH (R182): a flush that traps has spilled the windows before the one that failed. -/
def execSxWinFlush (f : SX) (s : State) : Out :=
  runSeq (.sxWinFlush f) (.bare []) (fun c s =>
    let r := spillAll c.id 8 s
    if r.2 then .done r.1 else .trap r.1 0x0E 0 (r.1.ctx c.id).wsp) s

end Sys2Proof.Machine
end

