-- ==== Sys2Proof/Machine/SeqSys.lean ====
section
/-! DEFINITION. System registers (R172, R140), software traps and the return from a trap (R198, R342, R344), the grain
(R195), halting and yielding. -/

namespace Sys2Proof.Machine

/-! ## Coppice views (R140) -/

/-- log2 of a grain 1 to 16. -/
def grainLog (g : Nat) : Nat := Nat.log2 g

/-- Data of a GRNCTL view. -/
def grnView (t : Stand) (view : Nat) : Nat :=
  let c := t.cop
  match view with
  | 0 => c.wexp + c.pgrn * 2 ^ 9 + (if c.pin then 2 ^ 12 else 0) + (if c.pend then 2 ^ 15 else 0) + c.h * 2 ^ 16
      + c.last * 2 ^ 18 + grainLog t.g * 2 ^ 21
  | 1 => c.th1 + c.th2 * 2 ^ 16
  | 2 => c.th3 + c.th4 * 2 ^ 16
  | 3 => c.ops.toNat
  | 4 => c.bytes.toNat
  | _ => 0

/-- What a read of GRNCTL returns. -/
def grnRead (t : Stand) : W64 := BitVec.ofNat 64 (t.cop.view * 2 ^ 61 + grnView t t.cop.view)

/-- The writable fields of a view (R140): a wexp outside 10 to 24 is ignored, and so is a threshold write that leaves
the thresholds unordered. -/
def grnSet (c : Coppice) (view v : Nat) : Coppice :=
  let ordered (x : Coppice) : Coppice := if x.th1 < x.th2 ∧ x.th2 < x.th3 ∧ x.th3 < x.th4 then x else c
  match view with
  | 0 =>
    let e := bitsAt v 0 5
    { c with pin := bitsAt v 12 1 == 1, pgrn := bitsAt v 9 3, wexp := if 10 ≤ e ∧ e ≤ 24 then e else c.wexp }
  | 1 => ordered { c with th1 := bitsAt v 0 16, th2 := bitsAt v 16 16 }
  | 2 => ordered { c with th3 := bitsAt v 0 16, th4 := bitsAt v 16 16 }
  | _ => c

/-- A write of GRNCTL: the view, and with bit 60 its writable fields. [DEDUCED, log 19] -/
def grnWrite (t : Stand) (v : Nat) : Stand :=
  let view := bitsAt v 61 3
  let c := if bitsAt v 60 1 = 1 then grnSet t.cop view (bitsAt v 0 32) else t.cop
  { t with cop := { c with view := view } }

/-! ## System registers (R152, R172) -/

/-- The stand a context is bound to. -/
def seqStand? (s : State) (c : SeqCtx) : Option Stand :=
  match c.bind with
  | .stand st => s.stand? st
  | _ => none

/-- The STAND register; the fields of place and size read 0 in a root program, for which the table gives kid 0 only.
[DESIGN CHOICE, log 194] -/
def standReg (s : State) (c : SeqCtx) : Nat :=
  match seqStand? s c with
  | some t => t.kern.kid * 2 ^ 32 + t.die * 2 ^ 28 + t.col * 2 ^ 24 + t.row * 2 ^ 21 + (t.kern.w - 1) * 2 ^ 17
      + (t.kern.h - 1) * 2 ^ 14 + c.id.ctx * 2 ^ 12
  | none => c.id.die * 2 ^ 28 + c.id.ctx * 2 ^ 12

/-- The value of a system register, none for GRNCTL in a context that feeds no block (R140); RETRY reads 3 in a root program.
[DESIGN CHOICE, log 17] -/
def csrRead (s : State) (c : SeqCtx) (n : Nat) : Option W64 :=
  match n with
  | 0x000 => some c.tvec
  | 0x001 => some c.tcause
  | 0x002 => some c.tinfo
  | 0x003 => some c.epc
  | 0x004 => some c.wsp
  | 0x005 => some c.wlim
  | 0x006 => some (BitVec.ofNat 64 (seqVf s c % 64))
  | 0x007 => some (BitVec.ofNat 64 (standReg s c))
  | 0x008 => some (s.die c.id.die).cyc
  | 0x009 => some c.frm
  | 0x00A => some c.oskey
  | 0x00B => some (BitVec.ofNat 64 (((seqStand? s c).map (·.retry)).getD 3))
  | 0x00C =>
    let v := s.vf (seqVf s c)
    some (BitVec.ofNat 64 (v.mem.pins.length * 2 ^ 32 + v.cfg.lockq.toNat % 2 ^ 32))
  | 0x00D =>
    (match seqStand? s c, c.block with
    | some t, some _ => some (grnRead t)
    | _, _ => none)
  | 0x00E => some c.tagctl
  | _ => some 0

/-- Write a system register (R172): a read-only register ignores it; none as in a read. [DESIGN CHOICE, log 17] -/
def csrWrite (c : SeqCtx) (n : Nat) (v : W64) (s : State) : Option State :=
  match n with
  | 0x000 => some (s.setCtx { c with tvec := v &&& ones64 56 2 })
  | 0x003 => some (s.setCtx { c with epc := v &&& ones64 56 2 })
  | 0x004 => some (s.setCtx { c with wsp := v &&& ones64 17 3 })
  | 0x005 => some (s.setCtx { c with wlim := v &&& ones64 17 3 })
  | 0x009 => some (s.setCtx { c with frm := v &&& ones64 2 0 })
  | 0x00A => some (s.setCtx { c with oskey := v })
  | 0x00B =>
    (match c.bind with
    | .stand st => some (s.updStand st fun t => { t with retry := v.toNat % 16 })
    | _ => some s)
  | 0x00D =>
    (match c.bind, c.block with
    | .stand st, some _ => some (s.updStand st fun t => grnWrite t v.toNat)
    | _, _ => none)
  | _ => some s

/-- SX.SYS CSRRD: a clean value. -/
def execSxSysCsrrd (f : SX) (s : State) : Out :=
  runSeq (.sxSysCsrrd f) (.bare []) (fun c s =>
    match csrRead s c f.sel12.toNat with
    | some v => .done (setReg c f.d ⟨v, false⟩ s)
    | none => .trap s 0x08 0 (f.sel12.setWidth 64)) s

/-- SX.SYS CSRWR: a poisoned value traps. -/
def execSxSysCsrwr (f : SX) (s : State) : Out :=
  runSeq (.sxSysCsrwr f) (.bare [f.d]) (fun c s =>
    match csrWrite c f.sel12.toNat (c.reg f.d).v s with
    | some s1 => .done s1
    | none => .trap s 0x08 0 (f.sel12.setWidth 64)) s

/-! ## Traps, returns, halting (R198, R342, R344) -/

/-- SX.SYS TRAP: TCAUSE is 2^63 + code·256 and TINFO 0. -/
def execSxSysTrap (f : SX) (s : State) : Out :=
  runSeq (.sxSysTrap f) (.bare []) (fun _ s => .trap s 0 (f.sel12.toNat % 256) 0) s

/-- The context a handler that started from idle returns to: idle, or halted for a root program (R342). -/
def idleAgain (c : SeqCtx) (s : State) : State :=
  let r : RunState := match c.bind with | .root _ => .halted | _ => .idle
  giveUp c.id r (s.setCtx { c with h := false, fromIdle := false, limm := none })

/-- Blocks that wait to be fed, once a stand's context is idle again. -/
def feedAfter (c : SeqCtx) (s : State) : State :=
  match c.bind with
  | .stand st => feedNext st s
  | _ => s

/-- SX.SYS ERET: to EPC with H clear, or to idle in a handler started from idle; illegal with H clear.
[DEDUCED, log 21] -/
def execSxSysEret (f : SX) (s : State) : Out :=
  runSeq (.sxSysEret f) (.bare []) (fun c s =>
    if c.h = false then .trap s 0x01 0 (wordInfo (.sxSysEret f))
    else if c.fromIdle then .stay (feedAfter c (handlerReturn c.id (idleAgain c s)))
    else if c.epc.toNat % 4 ≠ 0 then .trap s 0x0F 0 c.epc
    else .stay (handlerReturn c.id (s.setCtx { c with pc := c.epc.toNat, h := false, limm := none }))) s

/-- SX.SYS HALT: halts a root program, ends a block's feeding, or ends a handler started from idle.
[DEDUCED, log 20] -/
def execSxSysHalt (f : SX) (s : State) : Out :=
  runSeq (.sxSysHalt f) (.bare []) (fun c s =>
    match c.bind with
    | .stand st =>
      let s1 := if c.fromIdle then idleAgain c s else endFeed st (s.setCtx { c with h := false })
      .stay (feedAfter c (if c.h then handlerReturn c.id s1 else s1))
    | _ => .stay (haltRoot c s)) s

/-- SX.SYS YIELD: the context goes on later; the sequencer takes the context that has been ready longest. -/
def execSxSysYield (f : SX) (s : State) : Out :=
  runSeq (.sxSysYield f) (.bare []) (fun c s => .stay (makeReady c.id (s.setCtx c.advance))) s

/-- SX.GRN (R195): the grain of the block being fed, 0 where none is. -/
def execSxGrn (f : SX) (s : State) : Out :=
  runSeq (.sxGrn f) (.bare []) (fun c s =>
    let g := match seqStand? s c, c.block with | some t, some _ => t.g | _, _ => 0
    .done (setReg c f.d ⟨BitVec.ofNat 64 g, false⟩ s)) s

end Sys2Proof.Machine
end

