-- ==== Sys2Proof/Machine/Coppice.lean ====
section
/-! DEFINITION. The coppice controller at the end of a window (R139 to R142) and the switch of configuration contexts
(R136). -/

namespace Sys2Proof.Machine

/-! ## The coppice controller (R141) -/

/-- Grains of a kernel's range at which every node fits. -/
def Kernel.grains (k : Kernel) : List Nat :=
  ((upTo 5).filter fun g => k.gmin ≤ g && g ≤ k.gmax && k.fits.contains g).map fun g => 2 ^ g

/-- The last number of a list that satisfies a test. -/
def lastWith (p : Nat → Bool) (l : List Nat) : Option Nat := (l.filter p).getLast?

/-- A grain fitted to a rising list: itself, the greatest below it, or the least. -/
def fitClamp (fs : List Nat) (t : Nat) : Nat :=
  if fs.contains t then t else ((lastWith (fun g => g < t) fs).getD ((fs.head?).getD t))

/-- Threshold n, 1 to 4. -/
def Coppice.th (c : Coppice) (n : Nat) : Nat :=
  match n with
  | 1 => c.th1
  | 2 => c.th2
  | 3 => c.th3
  | _ => c.th4

/-- Operations per byte of a window, unsigned 8.8. -/
def Coppice.ratio (c : Coppice) : Nat :=
  if c.bytes = 0 then 0xFFFF else min 0xFFFF (256 * c.ops.toNat / c.bytes.toNat)

/-- The grain that a ratio asks for. -/
def Coppice.wish (c : Coppice) : Nat :=
  let i := c.ratio
  if i < c.th1 then 1 else if i < c.th2 then 2 else if i < c.th3 then 4 else if i < c.th4 then 8 else 16

/-- The ratio is far enough beyond the threshold that bounds the current grain's band. -/
def Coppice.qualifies (c : Coppice) (cur t : Nat) : Bool :=
  if cur < t then 2 * c.th (grainLog cur + 1) ≤ c.ratio else 2 * c.ratio ≤ c.th (grainLog cur)

/-- The last qualifying window's target lies on the same side of the current grain. -/
def Coppice.sameSide (c : Coppice) (cur t : Nat) : Bool := (cur < 2 ^ c.last && cur < t) || (2 ^ c.last < cur && t < cur)

/-- The controller's decision at the end of a window that is not idle: the state after it and the grain to change to.
[DEDUCED, log 19] -/
def Coppice.decide (c : Coppice) (fs : List Nat) (cur : Nat) : Coppice × Option Nat :=
  if c.pin then
    let t := fitClamp fs (2 ^ c.pgrn)
    ({ c with h := 0 }, if t = cur then none else some t)
  else
    let t := fitClamp fs c.wish
    if t = cur ∨ c.qualifies cur t = false then ({ c with h := 0 }, none)
    else
      let h := if c.sameSide cur t then c.h + 1 else 1
      let c1 := { c with last := grainLog t }
      if h = 2 then ({ c1 with h := 0 }, some t) else ({ c1 with h := h }, none)

/-- Clear the counters and begin a window. -/
def Coppice.newWindow (c : Coppice) (now : Nat) : Coppice := { c with ops := 0, bytes := 0, winStart := now, wcur := c.wexp }

/-- COPPICE_WINDOW_END. A change is requested at once where the context feeds no block, else with its closing blaze; while one is
pending the window ends without a decision. [DESIGN CHOICE, log 192] -/
def execCoppiceWindowEnd (st : Nat) (s : State) : Out :=
  match s.stand? st with
  | none => .next s
  | some t =>
    let now := s.cyc t.die
    if t.status ≠ .resident ∨ now < t.cop.winStart + 2 ^ t.cop.wcur then .next s
    else if t.cop.pend ∨ (t.cop.ops = 0 ∧ t.cop.bytes = 0) then .next (s.setStand { t with cop := t.cop.newWindow now })
    else
      let r := t.cop.decide t.kern.grains t.g
      match r.2 with
      | none => .next (s.setStand { t with cop := r.1.newWindow now })
      | some g =>
        let s1 := s.setStand { t with cop := { r.1.newWindow now with pend := true, target := g } }
        .next (if (s.ctx t.ctx).block.isNone then requestWave st { WaveFlags.none with grain := true } s1 else s1)

/-! ## The switch of contexts (R136) -/

/-- The copy switches last: no other copy of the node still holds this CTXC (R19). [DEDUCED, log 24] -/
def lastCopy (t : Stand) (p : WPos) (x : Task × NodeDesc) : Bool :=
  match (upTo 4).find? fun i => (x.2.port i).en with
  | none => true
  | some i => (copies t.id t (copyPos t.kern p.dcol p.drow x.2 0) x.2).all fun k =>
      k.pos == p || (match (t.weave k.pos).task? k.nid with
        | some y => (y.inq i).ctxcs < (x.1.inq i).ctxcs
        | none => true)

/-- Discard the CTXC at the head of a task's enabled input ports. -/
def dropCtxc (n : NodeDesc) (k : Task) : Task :=
  (upTo 4).foldl (fun acc i => if (n.port i).en then acc.dequeue i else acc) k

/-- A weave whose active nodes hold CTXC at every head switches and sends one CTXC on each of their outputs. -/
def switchWeave (t : Stand) (w : Weave) (n : Nat) (s : State) : State :=
  let act := tasksOf t w w.actx
  let w1 := act.foldl (fun (acc : Weave) x => acc.setTask (dropCtxc x.2 x.1)) { w with actx := n }
  let send (x : Task × NodeDesc) (acc : State) : State :=
    if lastCopy t w.pos x then
      (upTo 4).foldl (fun a o =>
        if (x.2.port (4 + o)).en then weaveSend ⟨t.id, w.pos⟩ (x.2.port (4 + o)).vc (x.2.port (4 + o)).route (ctxcTok n) a else a) acc
    else acc
  act.foldl (fun acc x => send x acc) (s.setStand (t.setWeave w1))

/-- The stand's switch is complete once every weave has taken the new context. -/
def settleSwitch (st : Nat) (s : State) : State :=
  s.updStand st fun t =>
    match t.weaves with
    | [] => t
    | w :: ws =>
      if ws.all fun x => x.actx == w.actx then
        { t with actx := w.actx, switchTo := if t.switchTo = some w.actx then none else t.switchTo }
      else t

/-- CTXC_SWITCH. [DEDUCED, log 24] [DEDUCED, log 98] -/
def execCtxcSwitch (k : WKey) (s : State) : Out :=
  match s.stand? k.stand with
  | none => .next s
  | some t =>
    match t.weaves.find? fun w => w.pos == k.pos with
    | none => .next s
    | some w =>
      if t.status ≠ .resident ∨ w.halted then .next s
      else
        match switchDue t w with
        | some n => .next (settleSwitch k.stand (switchWeave t w n s))
        | none => .next s

end Sys2Proof.Machine
end

