-- ==== Sys2Proof/Machine/Fabric.lean ====
section
/-! DEFINITION. Tokens on tracks and packets on rides (R120 to R125, R356, R359, R365, R366), firebreak guards and their
reports (R132 to R134), and packets from other packages (R188, R305, R308, R380). -/

namespace Sys2Proof.Machine

/-! ## Firebreak reports (R133) -/

/-- FIREBREAK_REPORT: after 1,024 cycles with no further drop. [DEDUCED, log 102] -/
def execFirebreakReport (n : Nat) (s : State) : Out :=
  match s.fab.reports.find? fun r => r.id == n with
  | some r => .next (if r.last + 1024 ≤ s.cyc r.die then sendReport r s else s)
  | none => .next s

/-! ## Tracks (R120 to R123) -/

/-- The site one step in a direction: 0 north, 1 east, 2 south, 3 west; none beyond the die. -/
def stepSite (x y dir : Nat) : Option (Nat × Nat) :=
  match dir with
  | 0 => if y = 0 then none else some (x, y - 1)
  | 1 => if 127 ≤ x then none else some (x + 1, y)
  | 2 => if 127 ≤ y then none else some (x, y + 1)
  | _ => if x = 0 then none else some (x - 1, y)

/-- The opposite direction. -/
def turnBack (dir : Nat) : Nat := (dir + 2) % 4

/-- The box of a site within its compartment (R121). -/
def boxOf (x y : Nat) : Nat := x % 8 * 16 + y % 16

/-- What becomes of a token on a track: it reaches a site, a guard drops it, or the track does not exist. -/
inductive TrackEnd where
  | site (x y : Nat)
  | dropped (g : Guard)
  | off
  deriving DecidableEq, Repr

/-- Two sites lie in compartments of different VFs. -/
def ownersDiffer (s : State) (die x y x' y' : Nat) : Bool :=
  (s.ownerAt die (x / 8) (y / 16)).map (·.vf) != (s.ownerAt die (x' / 8) (y' / 16)).map (·.vf)

/-- Follow a track of n sites: each crossing into a compartment of another owner is guarded (R132). -/
def followTrack (s : State) (die rid dir : Nat) : Nat → Nat → Nat → TrackEnd
  | 0, x, y => .site x y
  | n + 1, x, y =>
    match stepSite x y dir with
    | none => .off
    | some (x', y') =>
      if ownersDiffer s die x y x' y' && !(s.admits die (x' / 8) (y' / 16) rid) then
        .dropped ⟨die, x' / 8, y' / 16, boxOf x' y', turnBack dir, false⟩
      else followTrack s die rid dir n x' y'

/-- The switch settings of the compartment that holds a site, with its stand (R82, R86). [DEDUCED, log 99]
[DEDUCED, log 100] -/
def settingsAt (s : State) (die x y : Nat) : Option (Stand × List SwitchSet) :=
  (s.ownerAt die (x / 8) (y / 16)).map fun t =>
    (t, ((t.kern.images.find? fun im => im.dcol + t.col == x / 8 && im.drow + t.row == y / 16).map (·.sws)).getD [])

/-- The setting that takes a token off the output bus of a column (R123), with its site. [DEDUCED, log 99] -/
def busSetting (t : Stand) (f : Flight) : Option (SwitchSet × Nat × Nat) :=
  match t.kern.images.find? fun im => im.dcol == f.src.dcol && im.drow == f.src.drow with
  | none => none
  | some im =>
    (im.sws.find? fun w => w.fport && w.box / 16 == f.src.col && w.route == f.route && w.itrk % 8 == f.vc).map fun w =>
      (w, 8 * (t.col + f.src.dcol) + f.src.col, 16 * (t.row + f.src.drow) + w.box % 16)

/-- The setting of a box that a token at the end of a track enters: its input direction is the side on which the token
arrives. -/
def latchSetting (sws : List SwitchSet) (x y dir cls trk : Nat) : Option SwitchSet :=
  sws.find? fun w => !w.fport && w.box == boxOf x y && w.idir == turnBack dir && w.icls == cls && w.itrk == trk

/-- The column that a route names, as die columns of compartments and cells. -/
def destColumn (t : Stand) (route : Nat) : Option (Nat × Nat × Nat) :=
  match t.dst? route with
  | some (.cell _ cc cr col _ _) => some (cc, cr, col)
  | _ => none

/-- The kernel's images hold a switch setting for a route. -/
def Kernel.drives (k : Kernel) (route : Nat) : Bool := k.images.any fun im => im.sws.any fun w => w.route == route

/-- The token can pass to the input bus: at a box of the column that its route names, on that column's own bus where no
setting takes it, or from any bus where the object holds no setting for the route (the manual gives no rule by which a route
picks its tracks, so such a token crosses at once). [DESIGN CHOICE, log 177] -/
def Flight.arrived (t : Stand) (f : Flight) : Bool :=
  match destColumn t f.route, f.place with
  | some (cc, cr, col), .latch x y _ _ _ => x == 8 * cc + col && y / 16 == cr
  | some (cc, cr, col), .bus =>
    !(t.kern.drives f.route)
      || (t.col + f.src.dcol == cc && t.row + f.src.drow == cr && f.src.col == col && (busSetting t f).isNone)
  | none, _ => false

/-- The die of a flight. -/
def flightDie (s : State) (f : Flight) : Nat := ((s.stand? f.stand).map (·.die)).getD 0

/-- Two tokens stand in one line: in one latch, or on one bus for one route and channel. -/
def sameLine (s : State) (f g : Flight) : Bool :=
  f.place == g.place && flightDie s f == flightDie s g
    && (f.place != .bus || (f.stand == g.stand && f.src.dcol == g.src.dcol && f.src.drow == g.src.drow && f.src.col == g.src.col
      && f.route == g.route && f.vc == g.vc))

/-- A flight that no earlier one precedes in its line. -/
def headFlight (s : State) (n : Nat) : Option Flight :=
  match s.fab.flights.find? fun f => f.id == n with
  | none => none
  | some f =>
    match s.fab.flights.find? fun g => sameLine s f g with
    | some g => if g.id = n then some f else none
    | none => none

/-- Take a flight away. [DEDUCED, log 103] -/
def dropFlight (n : Nat) (s : State) : State := { s with fab := { s.fab with flights := s.fab.flights.filter fun f => f.id != n } }

/-- Tokens in a latch. -/
def latchLoad (s : State) (die : Nat) (p : Place) : Nat :=
  (s.fab.flights.filter fun f => f.place == p && flightDie s f == die).length

/-- A box checks the identifier of a token against the one bound to its setting's route (R359): a mismatch is dropped with
a record that holds the stand of the expected identifier. [DEDUCED, log 101] -/
def boxCheck (t : Stand) (w : SwitchSet) (x y : Nat) (f : Flight) (go : State → State) (s : State) : State :=
  if f.tok.rid = t.rid w.route then go s
  else
    trapStand t.id ⟨0x0B, 0, 4, ⟨x / 8 - t.col, y / 16 - t.row, x % 8, y % 16⟩, 0, BitVec.ofNat 32 t.lastWave, 0,
      BitVec.ofNat 32 (t.rid w.route), BitVec.ofNat 32 f.tok.rid, BitVec.ofNat 32 w.route, 0⟩ false (dropFlight f.id s)

/-- Drive a token onto the output track of a setting at a site: the latch at its end has room, or the token stays; where the
box stands so that the track would pass the die edge it does not exist (R121), and the token is lost.
[DESIGN CHOICE, log 154] -/
def driveTrack (die : Nat) (w : SwitchSet) (x y : Nat) (f : Flight) (s : State) : State :=
  match followTrack s die f.tok.rid w.odir (trackLen w.ocls) x y with
  | .off => dropFlight f.id s
  | .dropped g => guardDrop g f.tok.rid (tokHdr f.tok) (dropFlight f.id s)
  | .site x' y' =>
    let p : Place := .latch x' y' w.odir w.ocls w.otrk
    if 2 ≤ latchLoad s die p then s
    else
      -- the token joins the end of the latch's line
      { s with fab := { s.fab with flights := (s.fab.flights.filter fun g => g.id != f.id) ++ [{ f with place := p }] } }

/-- TRACK_SEGMENT_HOP: off the output bus onto a track, or over a box onto the next. -/
def execTrackSegmentHop (n : Nat) (s : State) : Out :=
  match headFlight s n with
  | none => .next s
  | some f =>
    match s.stand? f.stand with
    | none => .next (dropFlight n s)
    | some t =>
      if f.arrived t then .next s
      else match f.place with
        | .bus =>
          (match busSetting t f with
          | some (w, x, y) => .next (boxCheck t w x y f (driveTrack t.die w x y f) s)
          | none => .next s)
        | .latch x y dir cls trk =>
          (match settingsAt s t.die x y with
          | none => .next s
          | some (o, sws) =>
            (match latchSetting sws x y dir cls trk with
            | some w => .next (boxCheck o w x y f (driveTrack t.die w x y f) s)
            | none => .next s))

/-- Where a token comes from, as a port of a destination sees it. -/
def originAt (s : State) (d : PktDst) (st src : Nat) : Origin :=
  match d with
  | .eng e => if e.stand = st then .own src else .foreign
  | .cell die cc cr _ _ _ => if (s.ownerAt die cc cr).any fun t => t.id == st then .own src else .foreign

/-- The guard of a compartment that a token enters from a compartment without passing a track: on the edge that faces it.
[DESIGN CHOICE, log 177] -/
def entryGuard (t : Stand) (f : Flight) (cc cr col : Nat) : Guard :=
  let x := t.col + f.src.dcol
  let y := t.row + f.src.drow
  if x < cc then ⟨t.die, cc, cr, 0, 3, false⟩
  else if cc < x then ⟨t.die, cc, cr, 7 * 16, 1, false⟩
  else if y < cr then ⟨t.die, cc, cr, col * 16, 0, false⟩
  else ⟨t.die, cc, cr, col * 16 + 15, 2, false⟩

/-- INPUT_BUS_DELIVERY. [DEDUCED, log 101] -/
def execInputBusDelivery (n : Nat) (s : State) : Out :=
  match headFlight s n with
  | none => .next s
  | some f =>
    match s.stand? f.stand with
    | none => .next (dropFlight n s)
    | some t =>
      match t.dst? f.route, destColumn t f.route with
      | some d, some (cc, cr, col) =>
        if f.arrived t = false then .next s
        else if f.place = .bus ∧ s.lets t.id d f.tok.rid = false then
          .next (guardDrop (entryGuard t f cc cr col) f.tok.rid (tokHdr f.tok) (dropFlight n s))
        else .next ((dropFlight n s).arriveCell d t.vf (originAt s d f.stand (weaveSrc f.src)) f.tok)
      | _, _ => .next s

/-! ## Rides (R124, R125) -/

/-- The mark of a packet that a guard of its own VF dropped, in the place that its number keeps: an identifier of no route.
[DESIGN CHOICE, log 36] -/
def gapRid : Nat := 4097

/-- A sender's number at a port. -/
def PortQ.expects (q : PortQ) (k : Sender) : Nat := ((q.nextSeq.find? fun p => p.1 == k).map (·.2)).getD 0

/-- Set a sender's number at a port. -/
def PortQ.setExpect (q : PortQ) (k : Sender) (n : Nat) : PortQ :=
  { q with nextSeq := (k, n % 65536) :: q.nextSeq.filter fun p => p.1 != k }

/-- The port that puts a stream in order: copy 0's of a node, or an engine's. -/
def orderPort (s : State) : QueueAt → PortQ
  | .eng e => (((s.stand? e.stand).bind fun t => t.eng? e.eng).map (·.port)).getD PortQ.empty
  | .node st p nid port => ((((s.stand? st).bind fun t => (t.weave p).task? nid).map fun k => k.inq port)).getD PortQ.empty

/-- Change that port. -/
def updOrder (q : QueueAt) (f : PortQ → PortQ) (s : State) : State :=
  match q with
  | .eng e => s.updStand e.stand fun t => t.updEng e.eng fun g => { g with port := f g.port }
  | .node st p nid port => s.updTask ⟨st, p, nid⟩ fun k => k.updIn port f

/-- A reply of CM.LDX is delivered or dropped (R364). -/
def replyDone (k : Sender) (tok : Tok) (s : State) : State :=
  match k with
  | .ldx w _ => if tok.reply then s.updWeave w fun x => { x with ldxOut := x.ldxOut - 1 } else s
  | .eng _ => s

/-- The number of a sender among the sources of its stand. -/
def Sender.src : Sender → Nat
  | .eng e => e.eng
  | .ldx w _ => weaveSrc w.pos

/-- Deliver a sender's token that is next in order. -/
def deliverNext (q : QueueAt) (d : PktDst) (k : Sender) (tok : Tok) (s : State) : State :=
  let s1 := updOrder q (fun p => p.setExpect k (p.expects k + 1)) s
  if tok.rid = gapRid then s1
  else replyDone k tok (s1.enqueue q (originAt s d k.stand k.src) tok)

/-- Deliver the tokens that waited for the one before them. -/
def deliverEarly (q : QueueAt) (d : PktDst) (k : Sender) : Nat → State → State
  | 0, s => s
  | n + 1, s =>
    let p := orderPort s q
    match p.early.find? fun e => e.1 == k && e.2.1 == p.expects k with
    | none => s
    | some e =>
      deliverEarly q d k n (deliverNext q d k e.2.2
        (updOrder q (fun p => { p with early := p.early.filter fun x => !(x.1 == k && x.2.1 == e.2.1) }) s))

/-- A packet's token reaches its port: it is enqueued in its sender's order, or waits in its slot.
[DESIGN CHOICE, log 36] -/
def orderIn (q : QueueAt) (d : PktDst) (k : Sender) (seq : Nat) (tok : Tok) (s : State) : State :=
  let p := orderPort s q
  if seq = p.expects k then deliverEarly q d k p.early.length (deliverNext q d k tok s)
  else updOrder q (fun p => { p with early := p.early ++ [(k, seq, tok)] }) s

/-- A port that has no number of a sender yet starts with the first of the sender's packets on the way to it. -/
def startOrder (all : List Packet) (q : QueueAt) (p : Packet) (s : State) : State :=
  if (orderPort s q).nextSeq.any fun x => x.1 == p.sender then s
  else updOrder q (fun o => o.setExpect p.sender (((all.find? fun x => x.sender == p.sender && x.dst == p.dst).map (·.seq)).getD p.seq)) s

/-- A packet waits: at its sender, or on its ride behind a request that finds its queue full (R288). -/
def Packet.stays (s : State) (p : Packet) : Bool :=
  match p.ride with
  | none => true
  | some k => s.fab.reqs.any fun r => r.ride == k && r.id < p.id && (r.home s).die == p.die
      && !(s.memHeld (((s.stand? r.eng.stand).map (·.vf)).getD 0))

/-- A packet reaches the end of its way: the guard of the ride port, then the reserved slot. -/
def packetArrive (p : Packet) (s : State) : State :=
  let s1 : State := { s with fab := { s.fab with packets := s.fab.packets.filter fun x => x.id != p.id } }
  let into (tok : Tok) (x : State) : State := match x.queueAt p.dst with
    | some q => orderIn q p.dst p.sender p.seq tok (startOrder s.fab.packets q p x)
    | none => x
  match p.dst with
  | .eng _ => if (s1.queueAt p.dst).isNone then replyDone p.sender p.tok s1 else into p.tok s1
  | .cell die cc cr _ _ _ =>
    if s.admits die cc cr p.tok.rid then
      (if (s1.queueAt p.dst).isNone then
        replyDone p.sender p.tok (s1.arriveCell p.dst p.vf (originAt s p.dst p.sender.stand p.sender.src) p.tok)
      else into p.tok s1)
    else
      let s2 := replyDone p.sender p.tok (guardDrop ⟨die, cc, cr, 0x7F, 0, true⟩ p.tok.rid (tokHdr p.tok) s1)
      if (s.ownerAt die cc cr).any fun t => t.vf == p.vf then into { p.tok with rid := gapRid, reply := false } s2 else s2

/-- RIDE_PACKET_ARRIVAL: a packet arrives that nothing on its ride holds back, and one that waits at its sender takes its place. -/
def execRidePacketArrival (n : Nat) (s : State) : Out :=
  match s.fab.packets.find? fun p => p.id == n with
  | none => .next s
  | some p => .next (if p.stays s then s else injectWaiting (packetArrive p s))

/-- Change a ride. -/
def updRide (die k : Nat) (f : Ride → Ride) (s : State) : State :=
  s.updDie die fun d => { d with rides := d.rides.zipIdx.map fun p => if p.2 = k then f p.1 else p.1 }

/-- A ride. -/
def State.ride (s : State) (die k : Nat) : Ride := nth (⟨false, none, 0, false, none⟩ : Ride) (s.die die).rides k

/-- Some VF maps to a ride (R366). -/
def rideBound (s : State) (k : Nat) : Bool :=
  s.pf.ridectl.toNat % 2 == 1 && (upTo 64).any fun v =>
    bitsAt (if v < 32 then s.pf.ridemap0 else s.pf.ridemap1).toNat (2 * (v % 32)) 2 == k

/-- Ride k + 1 begins to power up, but for one that some VF maps to. -/
def beginPowerUp (die k : Nat) (s : State) : State :=
  let r := s.ride die (k + 1)
  if k < 3 ∧ r.on = false ∧ r.upAt = none ∧ rideBound s (k + 1) = false ∧ (s.ride die k).on then
    updRide die (k + 1) (fun r => { r with upAt := some (s.cyc die + 4096) }) s
  else s

/-- RIDE_CONGESTION: a router's input buffer that holds traffic of others reports congestion of ride k, and ride k + 1 begins
to power up. [DESIGN CHOICE, log 104] -/
def execRideCongestion (die k : Nat) (s : State) : Out :=
  .next (beginPowerUp die k (updRide die k (fun r => { r with congested := true }) s))

/-- An input buffer of a ride has been more than three-quarters full for 256 cycles (R124). -/
def Ride.bufferFull (r : Ride) (now : Nat) : Bool := r.fullSince.any fun c => c + 256 ≤ now

/-- RIDE_POWER_UP: a ride powers up when its time has come, and one begins to when the ride below it reports congestion. -/
def execRidePowerUp (die k : Nat) (s : State) : Out :=
  match (s.ride die k).upAt with
  | some t =>
    if t ≤ s.cyc die then
      .next (injectWaiting (updRide die k (fun r => { r with on := true, upAt := none, lastFlit := s.cyc die }) s))
    else .next s
  | none => .next (if k ≠ 0 ∧ (s.ride die (k - 1)).bufferFull (s.cyc die) then beginPowerUp die (k - 1) s else s)

/-- Ride k still reports congestion: an input buffer of it does, or it was reported and the ride carries packets since.
[DESIGN CHOICE, log 161] -/
def stillCongested (s : State) (die k : Nat) : Bool :=
  (s.ride die k).bufferFull (s.cyc die) || ((s.ride die k).congested && s.fab.packets.any fun p => p.die == die && p.ride == some k)

/-- A ride carries a packet, or holds a request of an engine context. -/
def State.rideBusy (s : State) (die k : Nat) : Bool :=
  (s.fab.packets.any fun p => p.die == die && p.ride == some k)
    || s.fab.reqs.any fun r => r.ride == k && (((s.stand? r.eng.stand).map (·.die)).getD 0) == die

/-- RIDE_POWER_DOWN: ride k has carried no flit for 2^16 cycles and ride k − 1 reports no congestion. -/
def execRidePowerDown (die k : Nat) (s : State) : Out :=
  if k = 0 ∨ 3 < k ∨ (s.ride die k).on = false ∨ rideBound s k ∨ stillCongested s die (k - 1)
      ∨ s.cyc die < (s.ride die k).lastFlit + 2 ^ 16 ∨ s.rideBusy die k then .next s
  else .next (updRide die (k - 1) (fun r => { r with congested := false }) (updRide die k (fun r => { r with on := false }) s))

/-! ## Other packages (R188, R305, R308) -/

/-- Write bytes that a copy of another package brings: the bits that the mask sets, at an address that this package
translates; where it does not translate nothing is written. -/
def podBytes (vf : Nat) (mask : Byte) (p : Bool) : Nat → List Byte → State → State
  | _, [], s => s
  | va, b :: bs, s =>
    let s1 := match s.vfTranslate vf va .write with
      | some x =>
        let old := s.mem.byte x.pa
        { s with mem := s.mem.store x.pa [(old &&& ~~~mask) ||| (b &&& mask)] p }
      | none => s
    podBytes vf mask p (va + 1) bs s1

/-- A whole word that a copy brings. [DEDUCED, log 69] -/
def podWrite (vf va : Nat) (bs : List Byte) (mask : Byte) (p : Bool) (s : State) : State :=
  if mask = 0xFF ∧ bs.length = 4 ∧ va % 4 = 0 then
    match s.vfTranslate vf va .write with
    | some x => { s with mem := s.mem.store x.pa bs p }
    | none => s
  else podBytes vf mask p va bs s

/-- CHIARAREX_PACKET_ARRIVAL: while every port trains none carries a flit (R380). [DEDUCED, log 149] -/
def execChiararexPacketArrival (p : PodPacket) (s : State) : Out :=
  if s.svc.linkUp = 0 then .next s
  else match p with
  | .copy vf va bs mask poison => .next (podWrite vf va bs mask poison s)
  | .coll vf dtid tile rank words poison =>
    let part : CollPart := ⟨vf, 5, dtid, tile, rank, words.zip poison, none, .sent⟩
    .next { s with fab := { s.fab with colls := s.fab.colls ++ [part] } }
  | .barrier id rank bit =>
    let n := ((lookupNat (256 + id) s.pf.barmem).getD 0).toNat % 65536
    if n = 0 then .next s
    else
      let k : BarKey := ⟨5, 0, id, n⟩
      let b := s.barrier k
      .next (settleBarrier k (s.setBarrier k (some { b with remote := b.remote ++ [(rank, bit)] })))

end Sys2Proof.Machine
end

