-- ==== Sys2Proof/Machine/Crypto.lean ====
section
/-! DEFINITION. The standards that R1, R97, R98 and R376 to R378 name: SHA-512 and the verification of ECDSA on P-521. Their
constants and steps are those of the published standards, which the manual names and does not print. -/

namespace Sys2Proof.Machine

/-! ## SHA-512 -/

/-- Round constants of SHA-512, from 0. -/
def shaRound0 : List W64 :=
  [0x428A2F98D728AE22, 0x7137449123EF65CD, 0xB5C0FBCFEC4D3B2F, 0xE9B5DBA58189DBBC,
   0x3956C25BF348B538, 0x59F111F1B605D019, 0x923F82A4AF194F9B, 0xAB1C5ED5DA6D8118,
   0xD807AA98A3030242, 0x12835B0145706FBE, 0x243185BE4EE4B28C, 0x550C7DC3D5FFB4E2,
   0x72BE5D74F27B896F, 0x80DEB1FE3B1696B1, 0x9BDC06A725C71235, 0xC19BF174CF692694,
   0xE49B69C19EF14AD2, 0xEFBE4786384F25E3, 0x0FC19DC68B8CD5B5, 0x240CA1CC77AC9C65]

/-- Round constants of SHA-512, from 20. -/
def shaRound1 : List W64 :=
  [0x2DE92C6F592B0275, 0x4A7484AA6EA6E483, 0x5CB0A9DCBD41FBD4, 0x76F988DA831153B5,
   0x983E5152EE66DFAB, 0xA831C66D2DB43210, 0xB00327C898FB213F, 0xBF597FC7BEEF0EE4,
   0xC6E00BF33DA88FC2, 0xD5A79147930AA725, 0x06CA6351E003826F, 0x142929670A0E6E70,
   0x27B70A8546D22FFC, 0x2E1B21385C26C926, 0x4D2C6DFC5AC42AED, 0x53380D139D95B3DF,
   0x650A73548BAF63DE, 0x766A0ABB3C77B2A8, 0x81C2C92E47EDAEE6, 0x92722C851482353B]

/-- Round constants of SHA-512, from 40. -/
def shaRound2 : List W64 :=
  [0xA2BFE8A14CF10364, 0xA81A664BBC423001, 0xC24B8B70D0F89791, 0xC76C51A30654BE30,
   0xD192E819D6EF5218, 0xD69906245565A910, 0xF40E35855771202A, 0x106AA07032BBD1B8,
   0x19A4C116B8D2D0C8, 0x1E376C085141AB53, 0x2748774CDF8EEB99, 0x34B0BCB5E19B48A8,
   0x391C0CB3C5C95A63, 0x4ED8AA4AE3418ACB, 0x5B9CCA4F7763E373, 0x682E6FF3D6B2B8A3,
   0x748F82EE5DEFB2FC, 0x78A5636F43172F60, 0x84C87814A1F0AB72, 0x8CC702081A6439EC]

/-- Round constants of SHA-512, from 60. -/
def shaRound3 : List W64 :=
  [0x90BEFFFA23631E28, 0xA4506CEBDE82BDE9, 0xBEF9A3F7B2C67915, 0xC67178F2E372532B,
   0xCA273ECEEA26619C, 0xD186B8C721C0C207, 0xEADA7DD6CDE0EB1E, 0xF57D4F7FEE6ED178,
   0x06F067AA72176FBA, 0x0A637DC5A2C898A6, 0x113F9804BEF90DAE, 0x1B710B35131C471B,
   0x28DB77F523047D84, 0x32CAAB7B40C72493, 0x3C9EBE0A15C9BEBC, 0x431D67C49C100D4C,
   0x4CC5D4BECB3E42B6, 0x597F299CFC657E2A, 0x5FCB6FAB3AD6FAEC, 0x6C44198C4A475817]

/-- Round constants of SHA-512. [PRESUMED, log 151] -/
def shaRounds : List W64 := shaRound0 ++ shaRound1 ++ shaRound2 ++ shaRound3

/-- The initial hash value of SHA-512. -/
def shaStart : List W64 :=
  [0x6A09E667F3BCC908, 0xBB67AE8584CAA73B, 0x3C6EF372FE94F82B, 0xA54FF53A5F1D36F1,
   0x510E527FADE682D1, 0x9B05688C2B3E6C1F, 0x1F83D9ABFB41BD6B, 0x5BE0CD19137E2179]

/-- A message padded to whole blocks of 128 bytes: 0x80, zeros, and its length in bits as 16 bytes, big-endian. -/
def shaPad (m : List Byte) : List Byte :=
  m ++ (0x80 : Byte) :: (List.replicate ((239 - m.length % 128) % 128) 0 ++ bytesBE 16 (8 * m.length))

/-- Extend a block's message schedule, newest word first, by a number of words. -/
def shaExtend : Nat → List W64 → List W64
  | 0, l => l
  | n + 1, l =>
    let w := fun i => nth 0 l i
    let s0 := (w 14).rotateRight 1 ^^^ (w 14).rotateRight 8 ^^^ (w 14) >>> 7
    let s1 := (w 1).rotateRight 19 ^^^ (w 1).rotateRight 61 ^^^ (w 1) >>> 6
    shaExtend n ((s1 + w 6 + s0 + w 15) :: l)

/-- The working variables a to h of SHA-512. -/
structure ShaVars where
  a : W64
  b : W64
  c : W64
  d : W64
  e : W64
  f : W64
  g : W64
  h : W64
  deriving DecidableEq, Repr

/-- One round, with the sum of its constant and schedule word. -/
def shaRound (v : ShaVars) (kw : W64) : ShaVars :=
  let t1 := v.h + (v.e.rotateRight 14 ^^^ v.e.rotateRight 18 ^^^ v.e.rotateRight 41) + ((v.e &&& v.f) ^^^ (~~~v.e &&& v.g)) + kw
  let t2 := (v.a.rotateRight 28 ^^^ v.a.rotateRight 34 ^^^ v.a.rotateRight 39)
    + ((v.a &&& v.b) ^^^ (v.a &&& v.c) ^^^ (v.b &&& v.c))
  ⟨t1 + t2, v.a, v.b, v.c, v.d + t1, v.e, v.f, v.g⟩

/-- The hash value after one block. -/
def shaBlock (hs : List W64) (blk : List Byte) : List W64 :=
  let ws := ((chunks 8 16 blk).map fun x => BitVec.ofNat 64 (natOfBytesLE x.reverse))
  let sched := (shaExtend 64 ws.reverse).reverse
  let h := fun i => nth 0 hs i
  let v := (List.zipWith (· + ·) shaRounds sched).foldl shaRound ⟨h 0, h 1, h 2, h 3, h 4, h 5, h 6, h 7⟩
  [h 0 + v.a, h 1 + v.b, h 2 + v.c, h 3 + v.d, h 4 + v.e, h 5 + v.f, h 6 + v.g, h 7 + v.h]

/-- The SHA-512 digest of bytes. [PRESUMED, log 151] -/
def sha512 (m : List Byte) : BitVec 512 :=
  let p := shaPad m
  BitVec.ofNat 512 (((chunks 128 (p.length / 128) p).foldl shaBlock shaStart).foldl (fun acc w => acc * 2 ^ 64 + w.toNat) 0)

/-! ## P-521 -/

/-- The field of P-521: numbers modulo 2^521 − 1. [PRESUMED, log 151] -/
def curveP : Nat := 2 ^ 521 - 1
/-- The order of the base point. -/
def curveN : Nat := 0x1FFFFFFFFFFFFFFFFFFFFFFFFFFFFFFFFFFFFFFFFFFFFFFFFFFFFFFFFFFFFFFFFFA51868783BF2F966B7FCC0148F709A5D03BB5C9B8899C47AEBB6FB71E91386409
/-- The coefficient b of y² = x³ − 3x + b. -/
def curveB : Nat := 0x51953EB9618E1C9A1F929A21A0B68540EEA2DA725B99B315F3B8B489918EF109E156193951EC7E937B1652C0BD3BB1BF073573DF883D2C34F1EF451FD46B503F00
/-- The base point. -/
def curveG : Nat × Nat :=
  (0xC6858E06B70404E9CD9E3ECB662395B4429C648139053FB521F828AF606B4D3DBAA14B5E77EFE75928FE1DC127A2FFA8DE3348B3C1856A429BF97E7E31C2E5BD66,
   0x11839296A789A3BC0045C8A5FB42C7D1BD998F54449579B446817AFBD17273E662C97EE72995EF42640C550B9013FAD0761353C7086A272C24088BE94769FD16650)

/-- Power modulo m, by the low bits of the exponent. -/
def powMod (m : Nat) : Nat → Nat → Nat → Nat
  | 0, _, _ => 1 % m
  | k + 1, b, e => (if e % 2 = 1 then b else 1) * powMod m k (b * b % m) (e / 2) % m

/-- The inverse modulo a prime below 2^521, 0 for 0. -/
def invMod (m a : Nat) : Nat := powMod m 521 (a % m) (m - 2)

/-- A point in Jacobian coordinates: x / z², y / z³; z = 0 is the point at infinity. -/
structure CurvePt where
  x : Nat
  y : Nat
  z : Nat
  deriving DecidableEq, Repr

/-- The point at infinity. -/
def CurvePt.zero : CurvePt := ⟨1, 1, 0⟩

/-- Difference in the field. -/
def fsub (a b : Nat) : Nat := (a + curveP - b % curveP) % curveP

/-- Twice a point. -/
def CurvePt.dbl (p : CurvePt) : CurvePt :=
  if p.z = 0 ∨ p.y = 0 then .zero
  else
    let yy := p.y * p.y % curveP
    let s := 4 * p.x * yy % curveP
    let zz := p.z * p.z % curveP
    let m := 3 * fsub p.x zz * (p.x + zz) % curveP
    let x := fsub (m * m) (2 * s)
    ⟨x, fsub (m * fsub s x) (8 * yy * yy), 2 * p.y * p.z % curveP⟩

/-- The sum of two points. -/
def CurvePt.add (p q : CurvePt) : CurvePt :=
  if p.z = 0 then q
  else if q.z = 0 then p
  else
    let zp := p.z * p.z % curveP
    let zq := q.z * q.z % curveP
    let u1 := p.x * zq % curveP
    let u2 := q.x * zp % curveP
    let s1 := p.y * (zq * q.z % curveP) % curveP
    let s2 := q.y * (zp * p.z % curveP) % curveP
    if u1 = u2 then (if s1 = s2 then p.dbl else .zero)
    else
      let h := fsub u2 u1
      let r := fsub s2 s1
      let hh := h * h % curveP
      let hhh := h * hh % curveP
      let v := u1 * hh % curveP
      let x := fsub (r * r) (hhh + 2 * v)
      ⟨x, fsub (r * fsub v x) (s1 * hhh), h * p.z % curveP * q.z % curveP⟩

/-- A multiple of a point, by the low `k` bits of the factor. -/
def CurvePt.mul : Nat → Nat → CurvePt → CurvePt
  | 0, _, _ => .zero
  | k + 1, n, p => (if n % 2 = 1 then p else .zero).add (CurvePt.mul k (n / 2) p.dbl)

/-- The two halves of 132 bytes of a key or signature, big-endian. -/
def halves (v : BitVec 1056) : Nat × Nat := (v.toNat / 2 ^ 528, v.toNat % 2 ^ 528)

/-- A public key is a point of P-521 (R383). [PRESUMED, log 151] -/
def onCurve (key : BitVec 1056) : Bool :=
  let k := halves key
  k.1 < curveP && k.2 < curveP && k.2 * k.2 % curveP == (k.1 * k.1 * k.1 + (curveP - 3) * k.1 + curveB) % curveP

/-- ECDSA P-521 verification of a signature over a digest by a public key (R97, R376). [PRESUMED, log 151] -/
def ecdsaVerify (key : BitVec 1056) (digest : BitVec 512) (sig : BitVec 1056) : Bool :=
  let k := halves key
  let rs := halves sig
  if onCurve key = false ∨ rs.1 = 0 ∨ curveN ≤ rs.1 ∨ rs.2 = 0 ∨ curveN ≤ rs.2 then false
  else
    let w := invMod curveN rs.2
    let p := (CurvePt.mul 521 (digest.toNat * w % curveN) ⟨curveG.1, curveG.2, 1⟩).add
      (CurvePt.mul 521 (rs.1 * w % curveN) ⟨k.1, k.2, 1⟩)
    let zi := invMod curveP p.z
    p.z != 0 && p.x * (zi * zi % curveP) % curveP % curveN == rs.1

end Sys2Proof.Machine
end

