-- ==== Sys2Proof/Machine/Objects.lean ====
section
/-! DEFINITION. Objects in the Merati Object Format (R78 to R97, R103), their relocation (R94, R95), and the checks of a load
that read the object alone (R100 to R102). -/

namespace Sys2Proof.Machine

/-! ## The bytes of an object (R78 to R81) -/

/-- An object: its bytes as one little-endian number, and their count. -/
structure Obj where
  n : Nat
  size : Nat
  deriving DecidableEq, Repr

/-- A section-table entry (R80). -/
structure Sect where
  kind : Nat
  count : Nat
  off : Nat
  size : Nat
  deriving DecidableEq, Repr

/-- Bits of the structure at a byte offset. -/
def Obj.get (o : Obj) (byte lo len : Nat) : Nat := bitsAt o.n (8 * byte + lo) len

/-- Bits of the header (R79). -/
def Obj.hdr (o : Obj) (lo len : Nat) : Nat := o.get 0 lo len

def Obj.kid (o : Obj) : Nat := o.hdr 64 16
def Obj.gmin (o : Obj) : Nat := o.hdr 83 3
def Obj.gmax (o : Obj) : Nat := o.hdr 86 3
def Obj.w (o : Obj) : Nat := o.hdr 89 4 + 1
def Obj.h (o : Obj) : Nat := o.hdr 93 3 + 1
def Obj.nbar (o : Obj) : Nat := o.hdr 96 7
def Obj.neng (o : Obj) : Nat := o.hdr 103 5
def Obj.dbase (o : Obj) : Nat := o.hdr 128 64
def Obj.sentry (o : Obj) : Nat := o.hdr 192 32
def Obj.stoff (o : Obj) : Nat := o.hdr 256 64
def Obj.nsec (o : Obj) : Nat := o.hdr 48 16

/-- A root object is the one whose kid is 0 (R103). -/
def Obj.isRoot (o : Obj) : Bool := o.kid == 0

/-- The section table. -/
def Obj.sects (o : Obj) : List Sect :=
  (upTo o.nsec).map fun i =>
    let e := o.get (o.stoff + 16 * i) 0 128
    ⟨bitsAt e 0 8, bitsAt e 32 32, bitsAt e 64 32, bitsAt e 96 32⟩

/-- The section of a kind. -/
def Obj.sect? (o : Obj) (kind : Nat) : Option Sect := o.sects.find? fun x => x.kind == kind

/-- Entries of so many bytes of a section; none where it is absent. -/
def Obj.entries (o : Obj) (kind bytes : Nat) : List Nat :=
  match o.sect? kind with
  | none => []
  | some x => (upTo (x.size / bytes)).map fun i => o.get (x.off + bytes * i) 0 (8 * bytes)

/-- Bytes of an entry of a section kind (R81), 0 for images, which have no fixed size. -/
def sectUnit (kind : Nat) : Nat :=
  match kind with
  | 0x01 => 40 | 0x02 => 8 | 0x04 => 8 | 0x05 => 16 | 0x06 => 4 | 0x07 => 1
  | 0x08 => 16 | 0x09 => 16 | 0x0A => 1 | 0x0B => 140 | 0x0C => 8
  | _ => 0

/-- A section lies in the object, aligned, with the size its count gives. -/
def Sect.fits (x : Sect) (size : Nat) : Bool :=
  x.off % 16 == 0 && x.off + x.size ≤ size && (x.kind == 3 || x.size == x.count * sectUnit x.kind)

/-- Two sections do not overlap. -/
def Sect.apart (x y : Sect) : Bool := x.size == 0 || y.size == 0 || x.off + x.size ≤ y.off || y.off + y.size ≤ x.off

/-- Every pair of a list satisfies a relation. -/
def allPairs {α : Type} (r : α → α → Bool) : List α → Bool
  | [] => true
  | x :: xs => xs.all (r x) && allPairs r xs

/-- The signature block is last in the file and in the table, and there is one (R81). -/
def signLast (l : List Sect) : Bool :=
  match l.find? fun x => x.kind == 0xB with
  | none => true
  | some x => x.count == 1 && l.getLast? == some x && l.all fun y => y == x || y.off + y.size ≤ x.off

/-- The kinds an object may and must hold (R81, R103). -/
def kindsOk (root : Bool) (ks : List Nat) : Bool :=
  ks.contains 6 && (if root then !(ks.any fun k => [2, 3, 4, 5].contains k) else ks.contains 3 && !(ks.contains 0xC))

/-- The FORMAT check (R78 to R81, R95, R103); `root` is what the command takes. [DEDUCED, log 124] -/
def Obj.formatOk (o : Obj) (root : Bool) : Bool :=
  64 ≤ o.size && o.hdr 0 32 == 0x30464F4D && o.hdr 32 16 == 1 && o.isRoot == root
    && 2 ≤ o.nsec && o.nsec ≤ 11 && o.stoff % 16 == 0 && o.stoff + 16 * o.nsec ≤ o.size
    && (o.sects.all fun x => 1 ≤ x.kind && x.kind ≤ 0xC && x.fits o.size)
    && allPairs (fun x y => x.kind != y.kind && x.apart y) o.sects
    && kindsOk root (o.sects.map (·.kind)) && signLast o.sects
    && (o.entries 8 16).all fun e => let t := bitsAt e 88 8; 1 ≤ t && t ≤ 3

/-! ## The page set (R82 to R87) -/

/-- A compartment image as it stands in the object. -/
structure RawImage where
  hdr : Nat
  nodes : List Nat
  sws : List Nat
  pool : Nat
  deriving DecidableEq, Repr

/-- The image at a byte offset. -/
def Obj.imageAt (o : Obj) (off : Nat) : RawImage :=
  let h := o.get off 0 256
  let nn := bitsAt h 0 16
  let ns := bitsAt h 16 16
  { hdr := h
    nodes := (upTo nn).map fun i => o.get (off + 32 + 128 * i) 0 1024
    sws := (upTo ns).map fun i => o.get (off + 32 + 128 * nn + 8 * i) 0 64
    pool := off + 32 + 128 * nn + 8 * ns }

/-- Images one after the other. -/
def Obj.imagesFrom (o : Obj) : Nat → Nat → List RawImage
  | 0, _ => []
  | k + 1, off => let im := o.imageAt off; im :: o.imagesFrom k (off + bitsAt im.hdr 64 32)

/-- The images of the PAGE section. -/
def Obj.images (o : Obj) : List RawImage :=
  match o.sect? 3 with
  | none => []
  | some x => o.imagesFrom x.count x.off

/-- A port descriptor (R84). -/
def portDesc (p : Nat) : PortDesc :=
  ⟨bitsAt p 31 1 == 1, bitsAt p 27 4, bitsAt p 24 3, bitsAt p 16 8, bitsAt p 8 8, bitsAt p 0 8⟩

/-- A node descriptor with its text (R83); unused input-line ranges are left out. -/
def Obj.node (o : Obj) (pool n : Nat) : NodeDesc :=
  { nid := bitsAt n 300 16, col := bitsAt n 320 4, slot := bitsAt n 316 4, rep := bitsAt n 334 6, ctx := bitsAt n 332 2
    cls := bitsAt n 330 2, wlk := bitsAt n 324 6
    ports := (upTo 8).map fun i => portDesc (bitsAt n (384 + 32 * i) 32)
    lines := ((upTo 4).map fun i => (bitsAt n (640 + 32 * i) 16, bitsAt n (656 + 32 * i) 16)).filter fun r => r.2 != 0
    ks := (upTo 8).map fun i => BitVec.ofNat 32 (bitsAt n (768 + 32 * i) 32)
    text := (upTo (bitsAt n 340 12)).map fun i => BitVec.ofNat 64 (o.get (pool + 8 * (bitsAt n 352 32 + i)) 0 64) }

/-- A switch setting (R86). -/
def switchSet (x : Nat) : SwitchSet :=
  ⟨bitsAt x 57 7, bitsAt x 55 2, bitsAt x 53 2, bitsAt x 48 5, bitsAt x 47 1 == 1, bitsAt x 45 2, bitsAt x 43 2, bitsAt x 38 5,
   bitsAt x 30 8⟩

/-- An image as the loader keeps it. -/
def Obj.pageImage (o : Obj) (im : RawImage) : PageImage :=
  ⟨bitsAt im.hdr 96 4, bitsAt im.hdr 100 3, im.nodes.map (o.node im.pool), im.sws.map switchSet⟩

/-- A route-table entry (R87). -/
def routeEntry (x : Nat) : RouteEnt :=
  if bitsAt x 62 2 = 1 then .eng (bitsAt x 38 4)
  else .cell (toSigned 5 (bitsAt x 57 5)) (toSigned 4 (bitsAt x 53 4)) (bitsAt x 49 4) (bitsAt x 45 4) (bitsAt x 42 3)

/-- A carried-state declaration (R90). -/
def carryDecl (x : Nat) : CarryDecl := ⟨bitsAt x 48 16, bitsAt x 32 8, bitsAt x 0 32⟩

/-- Sequencer text. -/
def Obj.seqText (o : Obj) : List W32 := (o.entries 6 4).map (BitVec.ofNat 32)

/-- The kernel that an object holds, before identifiers and grains are known. -/
def Obj.kernel (o : Obj) : Kernel :=
  { kid := o.kid, w := o.w, h := o.h, gmin := o.gmin, gmax := o.gmax, nbar := o.nbar, neng := o.neng
    images := o.images.map o.pageImage, routes := (o.entries 4 8).map routeEntry, rids := PerDie.all []
    carries := (o.entries 5 16).map carryDecl
    tags := (o.entries 2 8).map fun x => (bitsAt x 48 16, bitsAt x 0 1 == 1)
    text := o.seqText, entry := o.sentry, fits := [] }

/-! ## DESCRIPTOR (R79 to R91, R96, R103) -/

/-- The header's reserved bits and limits; neng and nbar are left to FIT. [DEDUCED, log 124] -/
def Obj.headerOk (o : Obj) : Bool :=
  o.hdr 80 3 == 0 && o.hdr 108 20 == 0 && o.hdr 224 32 == 0 && o.hdr 320 192 == 0 && o.gmin ≤ 4 && o.gmax ≤ 4
    && o.sentry < (o.entries 6 4).length
    && ((upTo o.nsec).all fun i => o.get (o.stoff + 16 * i) 8 24 == 0)
    && (!o.isRoot || (o.gmin == 0 && o.gmax == 0 && o.w == 1 && o.h == 1 && o.nbar == 0 && o.neng == 0))

/-- A track number below its class's count (R86). -/
def trackOk (cls trk : Nat) : Bool := cls != 3 && trk < (match cls with | 0 => 32 | 1 => 16 | _ => 8)

/-- A switch setting's fields (R86). -/
def switchOk (nroutes x : Nat) : Bool :=
  let w := switchSet x
  bitsAt x 0 30 == 0 && trackOk w.ocls w.otrk && w.route < nroutes
    && (if w.fport then w.idir == 0 && w.icls == 0 && w.itrk < 8 else trackOk w.icls w.itrk)

/-- A setting of a compartment of a box drives a track that exists where the box stands at some place of the die (R121): its
length fits between the site and the die's edge in its direction. [DESIGN CHOICE, log 154] -/
def trackExists (w h dcol drow : Nat) (x : SwitchSet) : Bool :=
  let n := trackLen x.ocls
  match x.odir with
  | 0 => n ≤ 16 * (8 - h + drow) + x.box % 16
  | 1 => 8 * dcol + x.box / 16 + n < 128
  | 2 => 16 * drow + x.box % 16 + n < 128
  | _ => n ≤ 8 * (16 - w + dcol) + x.box / 16

/-- A port descriptor's fields (R84). -/
def portOk (nroutes i p : Nat) : Bool :=
  let d := portDesc p
  if d.en = false then p == 0
  else 1 ≤ d.rate && (if i < 4 then 1 ≤ d.depth && d.route == 0 else d.np == 0 && d.depth == 0 && d.route < nroutes)

/-- Values that occur once each. -/
def distinct {α : Type} [DecidableEq α] (l : List α) : Bool := allPairs (fun x y => x != y) l

/-- A node descriptor's fields (R83, R85): `l` slots per column, a text pool of so many words. -/
def nodeOk (l nroutes tpool n : Nat) : Bool :=
  let ps := (upTo 8).map fun i => bitsAt n (384 + 32 * i) 32
  let vcs := (ps.filter fun p => (portDesc p).en).map fun p => (portDesc p).vc
  let wlk := bitsAt n 324 6
  let slot := bitsAt n 316 4
  bitsAt n 0 300 == 0 && 1 ≤ bitsAt n 340 12 && bitsAt n 340 12 ≤ 2048 && bitsAt n 352 32 + bitsAt n 340 12 ≤ tpool
    && (wlk == 0 || (10 ≤ wlk && wlk ≤ 32)) && slot < l && bitsAt n 320 4 + (slot + bitsAt n 334 6) / l ≤ 6
    && (ps.zipIdx.all fun p => portOk nroutes p.2 p.1) && distinct vcs
    && ((ps.take 4).any fun p => (portDesc p).en)

/-- An image's fields (R82). -/
def imageOk (o : Obj) (nroutes : Nat) (im : RawImage) : Bool :=
  let nn := bitsAt im.hdr 0 16
  let ns := bitsAt im.hdr 16 16
  let tp := bitsAt im.hdr 32 32
  bitsAt im.hdr 103 153 == 0 && 1 ≤ nn && nn ≤ 448 && bitsAt im.hdr 64 32 == 32 + 128 * nn + 8 * ns + 8 * tp
    && bitsAt im.hdr 96 4 < o.w && bitsAt im.hdr 100 3 < o.h
    && (im.nodes.all fun n => nodeOk (16 / 2 ^ o.gmax) nroutes tp n)
    && (im.sws.all fun x => switchOk nroutes x && trackExists o.w o.h (bitsAt im.hdr 96 4) (bitsAt im.hdr 100 3) (switchSet x))
    && distinct (im.sws.map fun x => bitsAt x 48 16)

/-- The page set matches the box (R82): one image for each offset, of the section's size together. -/
def Obj.pageOk (o : Obj) (nroutes : Nat) : Bool :=
  let ims := o.images
  (match o.sect? 3 with
    | none => true
    | some x => x.count == o.w * o.h && sumNat (ims.map fun im => bitsAt im.hdr 64 32) == x.size)
    && (ims.all (imageOk o nroutes)) && distinct (ims.map fun im => bitsAt im.hdr 96 7)

/-- A route entry's fields (R87). -/
def routeOk (neng x : Nat) : Bool :=
  bitsAt x 0 38 == 0 && (match bitsAt x 62 2 with
    | 0 => bitsAt x 38 4 == 0 && bitsAt x 49 4 ≤ 6
    | 1 => bitsAt x 42 20 == 0 && bitsAt x 38 4 < neng
    | _ => false)

/-- Place of every copy of every node, with the node. -/
def Kernel.copies (k : Kernel) : List (WPos × NodeDesc) :=
  (k.allNodes.map fun x => (upTo (x.2.2.rep + 1)).map fun c => (copyPos k x.1 x.2.1 x.2.2 c, x.2.2)).flatten

/-- A cell route leads out of the box, or to an enabled input port of some node (R100, R123). -/
def Kernel.routeLands (k : Kernel) : RouteEnt → Bool
  | .eng _ => true
  | .cell dc dr col slot vc =>
    dc < 0 || dr < 0 || (k.w : Int) ≤ dc || (k.h : Int) ≤ dr || (k.target? (.cell dc dr col slot vc)).isSome

/-- Output routes of a kernel's nodes land (R100). -/
def Kernel.outputsLand (k : Kernel) : Bool :=
  k.allNodes.all fun x => (upTo 4).all fun i =>
    !(x.2.2.port (4 + i)).en || (match k.routes[(x.2.2.port (4 + i)).route]? with | some r => k.routeLands r | none => false)

/-- The small tables' fields, a symbol's name where the object has names (R81, R90, R91, R94, R96, R103). [DEDUCED, log 125] -/
def Obj.tablesOk (o : Obj) : Bool :=
  let nsym := (o.entries 9 16).length
  let nids := (o.kernel.allNodes).map fun x => x.2.2.nid
  ((o.entries 1 40).all fun e => bitsAt e 272 48 == 0)
    && ((o.entries 2 8).all fun e => bitsAt e 1 47 == 0)
    && ((o.entries 5 16).all fun e => bitsAt e 96 32 == 0 && bitsAt e 40 8 == 0 && bitsAt e 64 32 < nsym
      && 1 ≤ bitsAt e 0 32 && bitsAt e 0 32 ≤ 2 ^ 24 && 1 ≤ bitsAt e 32 8 && bitsAt e 32 8 ≤ 64 && nids.contains (bitsAt e 48 16))
    && ((o.entries 8 16).all fun e => bitsAt e 64 16 == 0 && bitsAt e 80 8 < o.nsec)
    && ((o.entries 9 16).all fun e => bitsAt e 65 15 == 0 && bitsAt e 88 8 ≤ 4 && ((o.sect? 0xA).isNone || bitsAt e 96 32 < (o.entries 0xA 1).length))
    && (o.entries 0xC 8).length ≤ 16
    && ((o.entries 0xC 8).all fun e => e % 128 == 0 && e + 128 ≤ (o.entries 7 1).length)

/-- The DESCRIPTOR check (R100). [DEDUCED, log 125] -/
def Obj.descriptorOk (o : Obj) : Bool :=
  let rs := o.entries 4 8
  let k := o.kernel
  o.headerOk && rs.length ≤ 256 && (rs.all (routeOk o.neng)) && o.pageOk rs.length
    && distinct (k.allNodes.map fun x => x.2.2.nid)
    && allPairs (fun x y => x.1 != y.1 || x.2.ctx != y.2.ctx) k.copies
    && k.outputsLand && o.tablesOk

/-! ## TEXT (R100, R149, R151, R154, R162, R298) -/

/-- A word is an SI form that a prefix may precede (R149). -/
def prefixable (w : W32) : Bool :=
  let op := bitsAt w.toNat 26 6
  (2 ≤ op && op ≤ 5) || op == 9 || op == 0xA || (0x10 ≤ op && op ≤ 0x17)

/-- The word at a place of a sequencer text of n words decodes and does not trap with ILLEGAL whenever it issues (R148, R179,
R183, R197). [DEDUCED, log 123] -/
def seqWordOk (n pos : Nat) (w : W32) : Bool :=
  let lands (d : Int) : Bool := 0 ≤ (pos : Int) + d && (pos : Int) + d < n
  match decodeSeq w with
  | .error _ => false
  | .ok (.srRng f) => f.d != 15 && f.d != 63
  | .ok (.sbLoop f) => 1 ≤ f.disp16.toInt && lands f.disp16.toInt
  | .ok (.sbBr f) => lands f.disp16.toInt || !(f.sense == 1 && f.q == 0)
  | .ok (.sbBz f) => lands f.disp16.toInt || !(f.sense == 1 && f.a == 0)
  | .ok (.sjJmp d) => lands d.toInt
  | .ok (.sjCall d) => lands d.toInt
  | .ok _ => true

/-- Every prefix of a text is followed by an SI form (R149). -/
def prefixesOk : List W32 → Bool
  | [] => true
  | [w] => bitsAt w.toNat 26 6 != 0x3F
  | w :: x :: r => (bitsAt w.toNat 26 6 != 0x3F || prefixable x) && prefixesOk (x :: r)

/-- Sequencer text holds no word that traps at issue. -/
def seqTextOk (text : List W32) : Bool := (text.zipIdx.all fun p => seqWordOk text.length p.2 p.1) && prefixesOk text

/-- A guard makes every lane active in every state, since p0 reads as true (R155). -/
def guardsAll (f : CG) : Bool :=
  match f.gm.toNat with
  | 0 => f.gp == 0
  | 1 => f.gp == 0 && f.gq == 0
  | 2 => false
  | _ => f.gp == 0 || f.gq == 0

/-- A guard makes no lane active in any state. -/
def guardsNone (f : CG) : Bool := f.gm == 2 && (f.gq == 0 || f.gp == f.gq)

/-- A CC.BRA branches whenever it issues (R226). -/
def alwaysTaken (f : CG) : Bool := if f.aux = 2 then guardsNone f else guardsAll f

/-- Cell text holds no word that traps at issue: the word at a place decodes and names only ports that exist, CM.LDX names a
cell route, and a loop's body and the target of a jump, or of a branch that is always taken, lie in the text.
[DEDUCED, log 123] -/
def cellWordOk (k : Kernel) (n : NodeDesc) (pos : Nat) (w : W64) : Bool :=
  let lands (d : Int) : Bool := 0 ≤ (pos : Int) + d && (pos : Int) + d < n.text.length
  match decodeCell w with
  | .error _ => false
  | .ok i => ((cellPorts i).all fun p => (n.port p).en)
      && (match i with
        | .cmLdx f => (match k.routes[f.b.toNat]? with | some (.cell _ _ _ _ _) => true | _ => false)
        | .ccLoop f => 1 ≤ (f.c ++ f.e).toInt && lands (f.c ++ f.e).toInt
        | .ccJmp f => lands (f.c ++ f.e).toInt
        | .ccBra f => lands (f.c ++ f.e).toInt || !(alwaysTaken f)
        | _ => true)

/-- The TEXT check. -/
def Kernel.textOk (k : Kernel) : Bool :=
  seqTextOk k.text && k.allNodes.all fun x => x.2.2.text.zipIdx.all fun p => cellWordOk k x.2.2 p.2 p.1

/-! ## FIT, RATES and BUFFERS (R89, R101, R102) -/

/-- One past the last line of a node's input-line ranges. -/
def NodeDesc.lineEnd (n : NodeDesc) : Nat := maxNat (n.lines.map fun r => r.1 + r.2)

/-- The FIT check (R100). [DEDUCED, log 123] -/
def Kernel.fitOk (k : Kernel) : Bool :=
  let cs := k.copies
  k.nbar ≤ 64 && k.neng ≤ 16 && (k.allNodes.all fun x => x.2.2.lineEnd ≤ 512 * 2 ^ k.gmin)
    && cs.all fun c =>
      let ns := (cs.filter fun y => y.1 == c.1).map (·.2)
      ns.length ≤ 8 && sumNat (ns.map fun n => n.text.length) ≤ 2048
        && sumNat (ns.map fun n => sumNat ((n.ports.take 4).map fun p => if p.en then p.depth else 0)) ≤ 64

/-- A node fits at grain 2^g (R89). -/
def Kernel.nodeFits (k : Kernel) (g : Nat) (n : NodeDesc) : Bool := n.lineEnd + (k.carryLines n (2 ^ g)).length ≤ 512 * 2 ^ g

/-- Grains (log2) of a kernel's range at which every node fits (R100). -/
def Kernel.fitting (k : Kernel) : List Nat :=
  (upFrom k.gmin (k.gmax + 1 - k.gmin)).filter fun g => k.allNodes.all fun x => k.nodeFits g x.2.2

/-- An edge of the rate graph (R101): from, rate out, node and port reached, and that port. -/
structure RateEdge where
  src : NodeRef
  p : Nat
  dst : NodeRef
  port : Nat
  desc : PortDesc
  deriving DecidableEq, Repr

/-- The edges of the rate graph. -/
def Kernel.rateEdges (k : Kernel) : List RateEdge :=
  (k.allNodes.map fun x => (upTo 4).filterMap fun i =>
    let o := x.2.2.port (4 + i)
    if o.en then
      (match (k.routes[o.route]?).bind k.target? with
      | some (r, port) => (k.node? ⟨r.dcol, r.drow, 0, 0⟩ r.nid).map fun n => ⟨⟨x.1, x.2.1, x.2.2.nid⟩, o.rate, r, port, n.port port⟩
      | none => none)
    else none).flatten

/-- The frequency found for a node, as a fraction. -/
def freqOf (l : List (NodeRef × Nat × Nat)) (r : NodeRef) : Option (Nat × Nat) := (l.find? fun x => x.1 == r).map (·.2)

/-- Carry frequencies over one edge where one end is known. -/
def spreadEdge (l : List (NodeRef × Nat × Nat)) (e : RateEdge) : List (NodeRef × Nat × Nat) :=
  match freqOf l e.src, freqOf l e.dst with
  | some (a, b), none => (e.dst, a * e.p, b * e.desc.rate) :: l
  | none, some (a, b) => (e.src, a * e.desc.rate, b * e.p) :: l
  | _, _ => l

/-- Carry frequencies over all edges so many times. -/
def spread (es : List RateEdge) : Nat → List (NodeRef × Nat × Nat) → List (NodeRef × Nat × Nat)
  | 0, l => l
  | n + 1, l => spread es n (es.foldl spreadEdge l)

/-- Frequencies of every node of some edge: 1 for the first of each connected part. -/
def Kernel.frequencies (k : Kernel) : List (NodeRef × Nat × Nat) :=
  let es := k.rateEdges
  es.foldl (fun l e => if (freqOf l e.src).isSome then l else spread es es.length ((e.src, 1, 1) :: l)) []

/-- The rate graph is consistent (R101). -/
def Kernel.ratesOk (k : Kernel) : Bool :=
  let l := k.frequencies
  k.rateEdges.all fun e =>
    match freqOf l e.src, freqOf l e.dst with
    | some (a, b), some (c, d) => a * e.p * d == c * e.desc.rate * b
    | _, _ => false

/-- Nodes reached from a list over some edges. -/
def reachOver (es : List RateEdge) : Nat → List NodeRef → List NodeRef
  | 0, seen => seen
  | n + 1, seen =>
    reachOver es n ((es.filter fun e => seen.contains e.src).foldl (fun acc e => if acc.contains e.dst then acc else acc ++ [e.dst]) seen)

/-- An edge enters a merge that may close a cycle (R102). -/
def Kernel.merging (k : Kernel) (e : RateEdge) : Bool :=
  e.desc.rate + 1 ≤ e.desc.depth && (match k.node? ⟨e.dst.dcol, e.dst.drow, 0, 0⟩ e.dst.nid with | some n => n.merges e.port | none => false)

/-- The BUFFERS check (R102): depths, and a merge on every cycle. -/
def Kernel.buffersOk (k : Kernel) : Bool :=
  let es := k.rateEdges
  let plain := es.filter fun e => !(k.merging e)
  (es.all fun e => (e.desc.np + 1) * e.p + e.desc.rate - Nat.gcd e.p e.desc.rate ≤ e.desc.depth && e.desc.rate ≤ e.desc.depth)
    && plain.all fun e => !((reachOver plain plain.length [e.dst]).contains e.src)

/-! ## Relocation (R94, R95) -/

/-- Replace bits of an object. [DEDUCED, log 127] -/
def Obj.patch (o : Obj) (byte lo len v : Nat) : Obj := { o with n := putBits o.n (8 * byte + lo) len v }

/-- The value of a symbol: an address for data, the bare value for the other kinds (R94, R96). [DEDUCED, log 127] -/
def Obj.symValue (o : Obj) (dbase : Nat) (i : Nat) : Option Nat :=
  ((o.entries 9 16)[i]?).map fun e => if bitsAt e 88 8 = 1 then dbase + bitsAt e 0 64 else bitsAt e 0 64

/-- Apply one relocation with DATA at an address; none is an error. -/
def Obj.relocate (o : Obj) (dbase e : Nat) : Option Obj :=
  match o.symValue dbase (bitsAt e 32 32), o.sects[bitsAt e 80 8]? with
  | some b, some x =>
    let v : Int := b + toSigned 32 (bitsAt e 0 32)
    let off := bitsAt e 96 32
    let a := x.off + off
    (match bitsAt e 88 8 with
    | 1 => if off + 8 ≤ x.size then some (o.patch a 0 64 (wrapInt 64 v)) else none
    | 2 => if off + 4 ≤ x.size ∧ 0 ≤ v ∧ v < 2 ^ 32 then some (o.patch a 0 32 v.toNat) else none
    | _ =>
      if off + 8 ≤ x.size ∧ -(2 ^ 39) ≤ v ∧ v < 2 ^ 39 ∧ o.get a 26 6 = 0x3F ∧ seqLayout (o.get (a + 4) 26 6) = .si then
        some ((o.patch a 0 26 (wrapInt 40 v / 2 ^ 14)).patch (a + 4) 0 14 (wrapInt 40 v % 2 ^ 14))
      else none)
  | _, _ => none

/-- Apply every relocation where the object's DATA has no fixed address. -/
def Obj.relocated (o : Obj) (dbase : Nat) : Option Obj :=
  if o.dbase ≠ 0 then some o
  else (o.entries 8 16).foldl (fun acc e => acc.bind fun x => x.relocate dbase e) (some o)

end Sys2Proof.Machine
end

