-- ==== Sys2Proof/Machine/Regs.lean ====
section
/-! DEFINITION. What the registers of the physical function, of a VF and of its landing window read as (R70, R99, R106, R127,
R133, R289, R347, R352, R360, R366, R370, R373, R378, R380 to R383), and where device memory lies in the channels (R291).
A write-only register, and an entry of the suspect log that was never written, read as a free value (`none` here); an offset
with no register reads zero. [DESIGN CHOICE, log 168] -/

namespace Sys2Proof.Machine

/-! ## Channels (R291) -/

/-- Active channels. -/
def activeChannels (m : BitVec 48) : Nat := popCount 48 m.toNat

/-- Usable device memory with so many active channels: what MEMTOP reads. -/
def memtopOf (a : Nat) : Nat := a * 256 * Config.chunksPerChannel

/-- The device number of the n-th active channel. -/
def nthActive (m : BitVec 48) (n : Nat) : Nat := nth 0 ((upTo 48).filter fun c => m.getLsbD c) n

/-- The channel that holds a byte of device memory. -/
def channelOf (m : BitVec 48) (pa : Nat) : Nat := nthActive m (pa / 256 % activeChannels m)

/-- The chunk of its channel that holds a byte of device memory. -/
def chunkOf (m : BitVec 48) (pa : Nat) : Nat := pa / 256 / activeChannels m

/-! ## Selections -/

/-- The VF that VFSEL addresses. -/
def selVf (s : State) : Nat := s.pf.vfsel.toNat % 64

/-- REVID (R381). -/
def revid : W64 := BitVec.ofNat 64 (0xB404 * 65536 + Config.stepping.toNat)

/-- Word j of a set of the units that SUSPIDX selects: unit 64j + b at bit b (R360). -/
def unitWord (s : State) (units : Nat → List (Bool × Nat)) (j : Nat) : W64 :=
  let us := units (s.pf.suspidx.toNat % 4)
  BitVec.ofNat 64 (sumNat ((upTo 64).map fun b => if us.contains (s.pf.suspidx.getLsbD 8, 64 * j + b) then 2 ^ b else 0))

/-- The suspect compartments and slices of a die (R360). -/
def suspectsOf (s : State) (die : Nat) : List (Bool × Nat) := (s.die die).suspects

/-- The compartments and slices of a die that are retired or under test (R381). -/
def outOfService (s : State) (die : Nat) : List (Bool × Nat) :=
  (s.die die).retired ++ (match s.svc.ift.current with | some u => if u.1 = die then [u.2] else [] | none => [])

/-- The suspect-log entry that SLIDX selects, by age from the oldest, entry 0 (R373). -/
def logEntry? (s : State) : Option W128 := (s.die (bitsAt s.pf.slidx.toNat 12 2)).log[s.pf.slidx.toNat % 4096]?

/-- Word j of the growth ring that GRIDX selects (R370), as the controller keeps it. -/
def ringWord (s : State) (j : Nat) : W64 :=
  let x := s.pf.gridx.toNat
  let r := Pf.ringOf s.svc.rings (bitsAt x 8 2) (bitsAt x 10 2) (x % 256)
  BitVec.ofNat 64 (natOfBytesLE (((upFrom (4 * j) 4).map fun i => bytesLE 2 (nth 0 r.now i).toNat).flatten))

/-- Compartments that a VF owns, per die, in the byte lanes of CQUOTA (R127). -/
def cusedWord (s : State) (vf : Nat) : W64 := BitVec.ofNat 64 (natOfBytesLE ([0, 1, 2, 3].map fun d => BitVec.ofNat 8 (s.cused vf d)))

/-! ## Reads -/

/-- The event-ring register n of a function: EVBASE, EVHEAD, EVTAIL, EVLOST (R382). -/
def readEv (e : EvRing) (n : Nat) : W64 :=
  match n with
  | 0 => e.base
  | 1 => e.head.setWidth 64
  | 2 => e.tail.setWidth 64
  | _ => e.lost.setWidth 64

/-- A register of the physical function's space. -/
def readPf (s : State) (off : Nat) : Option W64 :=
  let p := s.pf
  let c := (s.vf (selVf s)).cfg
  match off with
  | 0x200 => some p.vfsusp
  | 0x208 => some p.errwin
  | 0x210 => some p.errthr
  | 0x218 => some p.suspidx
  | 0x220 => some (unitWord s (suspectsOf s) 0)
  | 0x228 => some (unitWord s (suspectsOf s) 1)
  | 0x230 => some (unitWord s (suspectsOf s) 2)
  | 0x238 => some (unitWord s (suspectsOf s) 3)
  | 0x240 => some p.ridectl
  | 0x248 => some p.ridemap0
  | 0x250 => some p.ridemap1
  | 0x258 => some revid
  | 0x260 => none
  | 0x268 => some s.svc.ift.stat
  | 0x270 => some (unitWord s (outOfService s) 0)
  | 0x278 => some (unitWord s (outOfService s) 1)
  | 0x280 => some (unitWord s (outOfService s) 2)
  | 0x288 => some (unitWord s (outOfService s) 3)
  | 0x290 => none
  | 0x298 => some (BitVec.ofNat 64 (s.svc.chActive.toNat + if s.svc.chMigrating.isSome then 2 ^ 63 else 0))
  | 0x2A0 => some p.slidx
  | 0x2A8 => (logEntry? s).map fun e => e.extractLsb' 0 64
  | 0x2B0 => (logEntry? s).map fun e => e.extractLsb' 64 64
  | 0x2B8 => some p.sllost
  | 0x2C0 => some p.gridx
  | 0x308 => some p.fwaddr
  | 0x310 => some p.fwsize
  | 0x318 => none
  | 0x320 => some p.fwstat
  | 0x328 => none
  | 0x330 => some (s.svc.linkUp.setWidth 64)
  | 0x338 => some p.pwrcap
  | 0x340 => some p.vfsel
  | 0x348 => some c.slice
  | 0x350 => some (c.rset.get 0)
  | 0x358 => some (c.rset.get 1)
  | 0x360 => some (c.rset.get 2)
  | 0x368 => some (c.rset.get 3)
  | 0x370 => some c.lockq
  | 0x378 => some c.root
  | 0x380 => some c.barg
  | 0x388 => some c.save
  | 0x390 => some c.savesz
  | 0x398 => some c.membase
  | 0x3A0 => some c.memsz
  | 0x3A8 => some p.keysel
  | 0x3B0 => some p.keyaddr
  | 0x3B8 => none
  | 0x3C0 => some p.cfgstat
  | 0x3C8 => some p.barsel
  | 0x3D0 => some ((lookupNat p.barsel.toNat p.barmem).getD 0)
  | _ =>
    if off % 8 ≠ 0 then some 0
    else if 0x2C8 ≤ off ∧ off ≤ 0x300 then some (ringWord s ((off - 0x2C8) / 8))
    else if 0x3D8 ≤ off ∧ off ≤ 0x3F0 then some (readEv p.ev ((off - 0x3D8) / 8))
    else some 0

/-- A register of a VF's space; the partition's read as installed (R289). -/
def readVf (s : State) (x : Vf) (off : Nat) : Option W64 :=
  match off with
  | 0x000 => some x.tens.tside
  | 0x008 => some x.tens.ttidx
  | 0x010 => some x.tens.ttw0
  | 0x018 => some x.tens.ttw1
  | 0x020 => some x.tens.ttw2
  | 0x028 => some x.tens.ttw3
  | 0x030 => none
  | 0x038 => some x.tens.ttstat
  | 0x040 => some x.load.kladdr
  | 0x048 => some x.load.klsize
  | 0x050 => some x.load.klkid
  | 0x058 => none
  | 0x060 => some x.load.klstat
  | 0x068 => some x.load.klpol
  | 0x070 => some x.cfg.cquota
  | 0x078 => some (cusedWord s x.id)
  | 0x080 => some x.cfg.fbdrop
  | 0x088 => some (BitVec.ofNat 64 s.svc.memtop)
  | 0x090 => some x.mem.ptroot
  | 0x098 => none
  | 0x0A0 => some x.mem.tlbstat
  | 0x0A8 => some (BitVec.ofNat 64 x.mem.part.psize)
  | 0x100 => some x.mem.ptidx
  | 0x108 =>
    let e := (lookupNat (x.mem.ptidx.toNat % 1024) x.mem.part.ents).getD ⟨0, 0⟩
    some (BitVec.ofNat 64 (256 * e.die + e.idx))
  | 0x110 => some x.mem.lkref
  | 0x118 => none
  | 0x120 => some x.mem.pkrank
  | 0x128 => some x.cfg.blzper
  | 0x130 => some revid
  | 0x138 => some x.ataddr
  | 0x140 => none
  | 0x148 => some x.atstat
  | _ =>
    if off % 8 ≠ 0 then some 0
    else if 0x0B0 ≤ off ∧ off ≤ 0x0F8 then some (nth 0 x.mem.part.pmask ((off - 0x0B0) / 8))
    else if 0x150 ≤ off ∧ off ≤ 0x168 then some (readEv x.ev ((off - 0x150) / 8))
    else some 0

/-- A register of a VF's landing window (R106). -/
def readWindow (x : Vf) (off : Nat) : Option W64 :=
  match off with
  | 0x000 => none
  | 0x008 => some x.win.lwqref
  | 0x010 => some x.win.lwqres
  | 0x018 => some x.win.lwstat
  | 0x020 => some x.win.fallback
  | _ => some 0

/-- The bytes of an access within the 64-bit register that holds its first byte; what lies past that register reads zero. -/
def partOfReg (off width : Nat) (v : W64) : List Byte := ((bytesLE 8 v.toNat).drop (off % 8) ++ List.replicate width 0).take width

/-- What the read of a register answers, with the free values it takes: in a landing window an access that is not an aligned
one of 64 bits reads zero (R106). [DESIGN CHOICE, log 168] -/
def readRegister (sp : RegSpace) (off width : Nat) (s : State) : List Byte × State :=
  let w := 8 * (off / 8)
  let r : Option W64 := match sp with
    | .pf => readPf s w
    | .vf n => readVf s (s.vf n) w
    | .vfByPf n => readVf s (s.vf n) w
    | .window n => if width = 8 ∧ off % 8 = 0 then readWindow (s.vf n) w else some 0
  match r with
  | some v => (partOfReg off width v, s)
  | none => (partOfReg off width (Config.freeWord s.free), { s with free := s.free + 1 })

/-- A register of the memory registers of a VF (R289), whose reads wait for the PCMDs before them (R315). -/
def isMemReg (off : Nat) : Bool := (0x088 ≤ off && off < 0x128)

end Sys2Proof.Machine
end

