-- ==== Sys2Proof/Machine/Slices.lean ====
section
/-! DEFINITION. Memory events: requests at slices and their replies (R134, R288, R313, R314), replies of host memory (R292),
page walks and TLB invalidation (R293), partitions (R289, R315), the host's CXL.mem accesses (R379), and hardware errors
with their windows (R355 to R361, R370). -/

namespace Sys2Proof.Machine

/-! ## Slices (R287, R288, R314) -/

/-- The VF of a request, while its stand exists. -/
def SliceReq.vf? (s : State) (r : SliceReq) : Option Nat := (s.stand? r.eng.stand).map (·.vf)

/-- The line of a request is allocated when it returns (R287, R374): not of host memory, nor of a page with nc set. -/
def SliceReq.allocates (s : State) (i : SliceId) (r : SliceReq) : Bool :=
  !(isHost (128 * r.line)) && !(s.sliceBarred i) && (match s.stand? r.eng.stand with
    | some t => (match engTrans s t .read (128 * r.vline) with | some p => !p.nc | none => false)
    | none => false)

/-- Serve the oldest queued request of a slice: reply on a hit, or fetch its line. -/
def serveOldest (sl : SliceId) (s : State) : State :=
  let x := s.slice sl
  match x.queue with
  | [] => s
  | r :: rest =>
    let s1 := s.setSlice { x with queue := rest }
    if x.lines.contains r.line then moveLine r s1
    else s.setSlice { x with queue := rest, filling := x.filling ++ [r] }

/-- SLICE_SERVICE: what waits on the rides enters the queues where there is room, and the oldest queued request is served. -/
def execSliceService (sl : SliceId) (s : State) : Out := .next (serveOldest sl (admitReqs s))

/-- The requests of a slice that a test selects, filling or still queued, are replied; their slots are free again. -/
def replyReqs (sl : SliceId) (p : SliceReq → Bool) (s : State) : State :=
  let x := s.slice sl
  admitReqs (((x.filling ++ x.queue).filter p).foldl (fun acc r => moveLine r acc)
    (s.setSlice { x with filling := x.filling.filter fun r => !(p r), queue := x.queue.filter fun r => !(p r) }))

/-- GDDR_FILL_RETURN: a line of device memory returns; every request at the slice for it shares the fill and is replied
(R314). -/
def execGddrFillReturn (sl : SliceId) (line : Nat) (s : State) : Out :=
  let rs := (s.slice sl).filling.filter fun r => r.line == line
  if isHost (128 * line) || rs.isEmpty then .next s
  else
    let s1 := if rs.all fun r => r.allocates s sl then fillSlice sl line s else s
    .next (replyReqs sl (fun r => r.line == line) s1)

/-- HOST_MEMORY_REPLY: a line of host memory returns to the engine context that reads it. -/
def execHostMemoryReply (e : EKey) (line : Nat) (s : State) : Out :=
  if isHost (128 * line) then
    .next (s.slices.foldl (fun acc x => replyReqs x.id (fun r => r.line == line && r.eng == e) acc) s)
  else .next s

/-! ## Translation (R292, R293) -/

/-- The die on which a TLB stands (R293): cells' and compartments' TLBs stand with the compartment, islands' with the island. -/
def unitDie (unit : Nat) : Nat :=
  if unit < 512 then unit / 128 else if unit < 65536 then (⟨unit - 512, 0, 0⟩ : SeqId).die else (unit - 65536) / 128 / 128

/-- TRANSLATION_WALK: the TLBs through which a unit looks take the page of an address; a walk that faults leaves them as they
are. [DESIGN CHOICE, log 109] -/
def execTranslationWalk (vf unit : Nat) (va : BitVec 57) (s : State) : Out :=
  .next (flitOn vf (unitDie unit) (s.tlbFill vf unit va.toNat))

/-- An invalidation begins: TLBSTAT reads 1. -/
def beginInv (vf : Nat) (what : Option Nat) (s : State) : State :=
  s.updVf vf fun v => { v with mem := { v.mem with tlbstat := 1, tlbinv := v.mem.tlbinv ++ [what] } }

/-- TLBINV_ALL. -/
def execTlbinvAll (vf : Nat) (s : State) : Out := .next (beginInv vf none s)
/-- TLBINV_PAGE. -/
def execTlbinvPage (vf : Nat) (va : BitVec 57) (s : State) : Out := .next (beginInv vf (some (bitsAt va.toNat 16 41 * 65536)) s)

/-- An invalidation of all entries, or of a page, concerns an entry. -/
def invalidates (e : TlbEnt) : Option Nat → Bool
  | none => true
  | some a => e.base ≤ a && a < e.base + e.size

/-- TLB_INVALIDATION_COMPLETE: no TLB holds an entry that a write invalidates. -/
def execTlbInvalidationComplete (vf : Nat) (s : State) : Out :=
  .next (s.updVf vf fun v => { v with mem := { v.mem with
    tlbstat := 0, tlbinv := [], tlbs := v.mem.tlbs.filter fun e => !(v.mem.tlbinv.any (invalidates e)) } })

/-! ## Partitions (R289, R315) -/

/-- PCMD 1: requests that come after it are held until it completes. [DEDUCED, log 106] [DEDUCED, log 107] -/
def execPcmd (vf : Nat) (s : State) : Out := .next (s.updVf vf fun v => { v with mem := { v.mem with pcmdBusy := true } })

/-- Serve every request of a VF that a slice holds. -/
def drainSlice (vf : Nat) (s : State) (i : SliceId) : State :=
  let x := s.slice i
  let mine (r : SliceReq) : Bool := r.vf? s == some vf
  ((x.filling ++ x.queue).filter mine).foldl (fun acc r => moveLine r acc)
    (s.setSlice { x with queue := x.queue.filter fun r => !(mine r), filling := x.filling.filter fun r => !(mine r) })

/-- A slice of a partition without the lines that are written back and invalidated. -/
def flushSlice (p : Part) (keeps : Nat → Bool) (x : Slice) : Slice :=
  if p.has x.id then { x with lines := x.lines.filter keeps } else x

/-- A pinned line stands at its home, unless that slice allocates nothing (R290, R374). -/
def placePin (vf : Nat) (s : State) (l : Nat) : State :=
  let home := homeSlice (s.vf vf).mem.part (128 * l)
  if s.sliceBarred home then s else fillSlice home l s

/-- The four steps of a PCMD (R289): requests queued before are served at their old home; lines of the partition's slices are
written back and invalidated, those that another VF has pinned stay; the staged values are installed, and the VF's pins stand
at their new homes (R290); the requests held on the rides go to their new homes. [DEDUCED, log 107] -/
def installPart (vf : Nat) (s : State) : State :=
  let v := s.vf vf
  let s1 := s.slices.foldl (fun acc x => drainSlice vf acc x.id) s
  let keeps (l : Nat) : Bool := s1.vfs.any (fun u => u.id != vf && u.mem.pins.contains l)
  let s2 : State := { s1 with slices := s1.slices.map (flushSlice v.mem.part keeps) }
  let s3 := s2.updVf vf fun u => { u with mem := { u.mem with part := u.mem.staged, pcmdBusy := false } }
  admitReqs ((s3.vf vf).mem.pins.foldl (placePin vf) s3)

/-! ## Host accesses (R379) -/

/-- The physical address of n bytes at an offset of a VF's CXL.mem range, where they lie in it and are served: in usable
device memory, of a VF with a partition (R289). [DESIGN CHOICE, log 110] -/
def hostRange (s : State) (vf off n : Nat) : Option Nat :=
  let v := s.vf vf
  let pa := bitsAt v.cfg.membase.toNat 16 36 * 65536 + off
  if off + n ≤ bitsAt v.cfg.memsz.toNat 16 36 * 65536 ∧ pa + n ≤ s.svc.memtop ∧ v.mem.part.psize ≠ 0 then some pa else none

/-- A host access is performed: a read is answered with the bytes and the poison of their words, a write is performed at once,
and the read of a register is answered with its bytes. [DESIGN CHOICE, log 110] -/
def hostAccess (vf : Nat) (s : State) (a : HostAccess) : State :=
  match a with
  | .read off n =>
    (match hostRange s vf off n with
    | some pa => s.emit (.readData vf (s.mem.bytesAt pa n)
        ((upFrom (pa / 4) (ceilDiv (pa % 4 + n) 4)).map fun w => s.mem.poison.contains w))
    | none => s)
  | .write off bs =>
    (match hostRange s vf off bs.length with
    | some pa => { s with mem := s.mem.store pa bs false }
    | none => s)
  | .register sp off width =>
    let r := readRegister sp off.toNat width s
    r.2.emit (.readData vf r.1 [])

/-- The VF whose PCMD holds a host access back: accesses to its device-memory range, reads of its memory registers (R315), and
reads of LWQRES and LWSTAT, which give the outcome of earlier writes (R107). -/
def HostAccess.holder (vf : Nat) : HostAccess → Option Nat
  | .register (.window n) off _ => if off = 0x010 ∨ off = 0x018 then some n else none
  | .register (.vf n) off _ => if isMemReg off.toNat then some n else none
  | .register (.vfByPf n) off _ => if isMemReg off.toNat then some n else none
  | .register _ _ _ => none
  | _ => some vf

/-- HOST_CXL_MEM_ACCESS: a host access, or the read of a register by the host; a PCMD under way holds it back. -/
def execHostCxlMemAccess (vf : Nat) (a : HostAccess) (s : State) : Out :=
  match HostAccess.holder vf a with
  | none => .next (hostAccess vf s a)
  | some n =>
    if s.memHeld n then .next (holdHost n (.access a) s) else .next (hostAccess vf s a)

/-- What a PCMD held back is done. -/
def hostWaited (vf : Nat) (s : State) : HostWait → State
  | .access a => hostAccess vf s a
  | .publish ref => hostPublish vf ref s
  | .query ref => hostQuery vf ref s

/-- PCMD_COMPLETE: the PCMD takes its steps, and what it held back of the host's is done, oldest first (R107, R315).
[DEDUCED, log 107] -/
def execPcmdComplete (vf : Nat) (s : State) : Out :=
  if (s.vf vf).mem.pcmdBusy = false then .next s
  else
    let s1 := (installPart vf s).updVf vf fun v => { v with mem := { v.mem with hostq := [] } }
    .next ((s.vf vf).mem.hostq.foldl (hostWaited vf) s1)

/-! ## Errors (R355 to R361, R380) -/

/-- Change a weave of a stand. -/
def onWeave (k : WKey) (f : Weave → Weave) (s : State) : State :=
  s.updStand k.stand fun t => t.setWeave (f (t.weave k.pos))

/-- Change a task of a stand, if it exists. -/
def onTask (k : TKey) (f : Task → Task) (s : State) : State :=
  s.updStand k.stand fun t =>
    match (t.weave k.pos).task? k.nid with
    | some x => t.setWeave ((t.weave k.pos).setTask (f x))
    | none => t

/-- A lane becomes poisoned. -/
def Lane.bad (x : Lane) : Lane := { x with poison := true }

/-- Poison the payload of a token. -/
def Tok.poisoned (t : Tok) : Tok := { t with lanes := t.lanes.map Lane.bad }

/-- Poison one lane of a token. -/
def Tok.poisonLane (t : Tok) (l : Nat) : Tok := { t with lanes := t.lanes.zipIdx.map fun p => if p.2 = l then p.1.bad else p.1 }

/-- Poison a lane of the token at a place of a queue. -/
def PortQ.poisonAt (p : PortQ) (i l : Nat) : PortQ :=
  { p with q := p.q.zipIdx.map fun x => if x.2 = i then x.1.poisonLane l else x.1 }

/-- A task traps with RESIDUE (R20, R355, R356): the lane in op1 and the unit in op2. -/
def residueTrap (k : TKey) (lane unit : Nat) (s : State) : State :=
  match ((s.stand? k.stand).map fun t => t.weave k.pos).bind fun w => w.task? k.nid with
  | some tk => if tk.trapped then s else cellTrap k 0x0A 0 tk.pc (BitVec.ofNat 32 lane) (BitVec.ofNat 32 unit) 0 0 s
  | none => s

/-- A task is about to issue. -/
def issuing (s : State) (k : TKey) : Bool :=
  match (s.stand? k.stand).map fun t => t.weave k.pos with
  | some w => (w.task? k.nid).any (Task.mayIssue w)
  | none => false

/-- A port begins training: it carries no flit (R370, R380). [DEDUCED, log 111] -/
def trainPort (port : Nat) (s : State) : State :=
  if s.svc.linkTraining.contains port then s
  else
    let s1 := ringEvent 0 3 port 6 s
    { s1 with svc := { s1.svc with
        linkUp := s1.svc.linkUp &&& ~~~(BitVec.ofNat 16 (2 ^ port)), linkTraining := s1.svc.linkTraining ++ [port]
        linkRetries := storeNat port 0 s1.svc.linkRetries } }

/-- A flit of a port is resent (R380): a resend that succeeds ends the run of retries; the sixteenth of a run retrains.
[DEDUCED, log 111] -/
def linkError (port : Nat) (corrected : Bool) (s : State) : State :=
  if 16 ≤ port then s
  else
    let n := (lookupNat port s.svc.linkRetries).getD 0 + 1
    if n < 16 then { s with svc := { s.svc with linkRetries := storeNat port (if corrected then 0 else n) s.svc.linkRetries } }
    else trainPort port s

/-- A word of an L1 line becomes poisoned; an element of an update-only line is its lane (R356). -/
def L1Line.poisonWord (x : L1Line) (word : Nat) : L1Line :=
  match x.body with
  | .plain bytes poison dirty keep => { x with body := .plain bytes (setNth false poison word true) dirty keep }
  | .update op ty els => { x with body := .update op ty (els.map fun e => if e.1 / 4 % 32 = word then (e.1, e.2.bad) else e) }

/-- A held write becomes poisoned (R356). -/
def SegOp.bad : SegOp → SegOp
  | .write pa bytes _ => .write pa bytes true
  | .op code ty els => .op code ty (els.map fun e => (e.1, e.2.1, true))
  | .away rank vf va bytes mask _ => .away rank vf va bytes mask true
  | .clear w => .write (4 * w) [] true

/-- A stand's held writes with the entry at a place of a die's segment poisoned. -/
def badAt (die : Nat) : Nat → List SegEnt → List SegEnt
  | _, [] => []
  | i, e :: es =>
    if e.die = die then (match i with | 0 => { e with op := e.op.bad } :: es | n + 1 => e :: badAt die n es)
    else e :: badAt die i es

/-- Change the stand's segment entry at a place. -/
def badEntry (st die idx : Nat) (s : State) : State := s.updStand st fun t => { t with seg := badAt die idx t.seg }

/-- The instruction that a task is about to issue. -/
def nextInstr? (s : State) (k : TKey) : Option Instr :=
  match fetchTask k s with
  | .run i _ => some i
  | .idle _ => none

/-- The residue error of an instruction, after so many attempts that failed: once the stand's RETRY repeats are used up it
writes nothing and traps (R355); the operand tokens that it has read stay dequeued (R203, R316). -/
def instrError (k : TKey) (lane unit tries : Nat) (s : State) : State :=
  match s.stand? k.stand, s.cell? k with
  | some t, some c =>
    if issuing s k ∧ t.retry < tries then residueTrap k lane unit (s.updTask k fun x => x.takeRefs c.operandRefs) else s
  | _, _ => s

/-- The residue error of a butterfly of the CX.MBFY that a task is about to issue, after so many attempts that failed (R267):
once the RETRY repeats are used up the instruction issues, its tiles keep their values, and its RESIDUE is delivered at the
next use of a tile (R263). [DESIGN CHOICE, log 169] -/
def butterflyError (k : TKey) (row tries : Nat) (s : State) : State :=
  match s.stand? k.stand, nextInstr? s k with
  | some t, some (.cxMbfy f) =>
    let d := f.d.toNat
    let w := t.weave k.pos
    (match execCxMbfy f { s with actor := .task k } with
    | .next s1 =>
      let done : Bool := match (s1.stand? k.stand).bind fun t1 => (t1.weave k.pos).task? k.nid with
        | some x => !x.trapped && (w.task? k.nid).any fun y => y.pc != x.pc
        | none => false
      if t.retry < tries ∧ done then
        let pc := ((w.task? k.nid).map (·.pc)).getD 0
        defer k ⟨0x0A, pc, BitVec.ofNat 32 row, 6, 0, [], [d, d + 1], [], [], false⟩
          (onWeave k.weave (fun v => (v.setTile d (w.tile d)).setTile (d + 1) (w.tile (d + 1))) { s1 with actor := s.actor })
      else s
    | _ => s)
  | _, _ => s

/-- What an error that was not corrected leaves where it lands (R334, R355 to R358); an instruction or butterfly compares its
failed attempts with RETRY itself. -/
def errEffect (e : ErrReport) (s : State) : State :=
  match e.site with
  | .none => s
  | .memWord pa => { s with mem := s.mem.setPoison (pa / 4) true }
  | .storeWord w off => onWeave w (fun v => { v with store := v.store.setPoison (off / 4) true }) s
  | .laneReg w r l => onWeave w (fun v =>
      { v with xs := v.xs.zipIdx.map fun p => if p.2 = r then p.1.zipIdx.map fun q => if q.2 = l then q.1.bad else q.1 else p.1 }) s
  | .seqReg c code => s.setCtx ((s.ctx c).setReg code { (s.ctx c).reg code with poison := true })
  | .accElem w tile row col => onWeave w (fun v =>
      v.setTile tile ((v.tile tile).setEl row col { (v.tile tile).el row col with poison := true })) s
  | .bufElem w buf row col => onWeave w (fun v => { v with
      bufs := v.bufs.zipIdx.map fun p => if p.2 = buf then { p.1 with
        els := p.1.els.zipIdx.map fun q => if q.2 = row then q.1.zipIdx.map fun r => if r.2 = col then r.1.bad else r.1 else q.1 }
        else p.1 }) s
  | .l1Word w cell line word => onWeave w (fun v =>
      { v with l1 := v.l1.map fun x => if x.cell = cell ∧ x.line = line then x.poisonWord word else x }) s
  | .slotWord w slot => onWeave w (fun v => v.setSlot slot { v.slot slot with bad := true }) s
  | .segWrite st die idx => badEntry st die idx s
  | .engLane e idx lane => updEngine e (fun g => { g with port := g.port.poisonAt idx lane }) s
  | .portLane t port idx lane =>
    onTask t (fun k => { k with ports := k.ports.zipIdx.map fun p => if p.2 = port then p.1.poisonAt idx lane else p.1 }) s
  | .tokenKind t _ kind => if 0xA ≤ kind.toNat then residueTrap t 0 2 s else s
  | .instr t lane tries => instrError t lane e.unitCode tries s
  | .butterfly t row tries => butterflyError t row tries s
  | .fetch t => if issuing s t then residueTrap t 0 e.unitCode s else s
  | .packet id => { s with fab := { s.fab with
      packets := s.fab.packets.map fun p => if p.id = id then { p with tok := p.tok.poisoned } else p } }
  | .landing die set way => s.updDie die fun d => { d with
      landing := d.landing.map fun x => if x.set = set ∧ x.way = way then { x with bad := true } else x }
  | .tlb vf unit va => s.updVf vf fun v => { v with mem := { v.mem with
      tlbs := v.mem.tlbs.filter fun x => !(x.unit == unit && x.base ≤ va.toNat && va.toNat < x.base + x.size) } }
  | .link _ => s

/-- The unit that counts an error, by die, kind and number (R360, R370): that of the report for cells, switch boxes, instruction
stores and slices, the channel of a word of device memory, the port of a link, and none for the rest. [DEDUCED, log 112] -/
def ErrReport.counter (s : State) (e : ErrReport) : Option (Nat × Nat × Nat) :=
  match e.site with
  | .seqReg _ _ => none
  | .segWrite _ _ _ => none
  | .engLane _ _ _ => none
  | .packet _ => none
  | .landing _ _ _ => none
  | .tlb _ _ _ => none
  | .link port => some (0, 3, port)
  | .memWord pa => if isHost pa then none else if e.slice then some (e.die, 1, e.unit) else some (0, 2, channelOf s.svc.chActive pa)
  | _ => some (e.die, if e.slice then 1 else 0, e.unit)

/-- Count the error of a report, where a unit counts it. -/
def noteError (e : ErrReport) (s : State) : State :=
  match ErrReport.counter s e with
  | some (d, kind, unit) => countError d kind unit s
  | none => s

/-- A site whose outcome does not hang on the report's word that the error was corrected: a TLB entry is fetched again, and
attempts are compared with RETRY. -/
def ErrSite.always : ErrSite → Bool
  | .tlb _ _ _ => true
  | .instr _ _ _ => true
  | .butterfly _ _ _ => true
  | _ => false

/-- HARDWARE_ERROR. -/
def execHardwareError (e : ErrReport) (s : State) : Out :=
  let s1 := noteError e s
  match e.site with
  | .link port => .next (linkError port e.corrected s1)
  | _ => .next (if e.corrected ∧ ErrSite.always e.site = false then s1 else errEffect e s1)

/-- The error bin of a ring (R370). -/
def errBin (n : Nat) : Nat :=
  if n = 0 then 0 else if n = 1 then 1 else if n < 4 then 2 else if n < 8 then 3 else if n < 16 then 4
  else if n < 32 then 5 else if n < 64 then 6 else 7

/-- A unit's window enters its ring. -/
def ringWindow (die kind unit n : Nat) (rings : List GRing) : List GRing :=
  let r := Pf.ringOf rings die kind unit
  putRing { r with now := bumpBin r.now (errBin n) } rings

/-- The windows of the first n units of a kind enter their rings. -/
def kindWindows (die kind n : Nat) (errs : List ErrCount) (rings : List GRing) : List GRing :=
  (upTo n).foldl (fun acc u => ringWindow die kind u (errCount kind u errs) acc) rings

/-- The windows of a die's compartments and slices enter their rings; those of the package's channels and ports follow the
windows of die 0. [DEDUCED, log 113] -/
def ringWindows (die : Nat) (errs : List ErrCount) (rings : List GRing) : List GRing :=
  let r := kindWindows die 1 256 errs (kindWindows die 0 128 errs rings)
  if die = 0 then kindWindows 0 3 16 errs (kindWindows 0 2 48 errs r) else r

/-- ERROR_WINDOW_RESET: at CYC mod 2^ERRWIN = 0 the counts enter the growth rings and clear (R360, R370). -/
def execErrorWindowReset (die : Nat) (s : State) : Out :=
  if s.cyc die % 2 ^ (s.pf.errwin.toNat % 64) ≠ 0 then .next s
  else
    let s1 : State := { s with svc := { s.svc with rings := ringWindows die (s.die die).errs s.svc.rings } }
    .next (s1.updDie die fun d => { d with errs := [] })

end Sys2Proof.Machine
end

