-- ==== Sys2Proof/Machine/Loader.lean ====
section
/-! DEFINITION. The tensor-table commands (R70) and the loader's commands: loading and unloading kernels (R88, R93, R98 to
R100, R119) and creating a root program (R103, R104). -/

namespace Sys2Proof.Machine

/-! ## The tensor table (R70) -/

/-- The staged entry. -/
def VfTens.staged (t : VfTens) : BitVec 256 := t.ttw3 ++ t.ttw2 ++ t.ttw1 ++ t.ttw0

/-- TT_COMMIT: the staged entry is installed whole, or refused as malformed or as entry 0. -/
def execTtCommit (vf : Nat) (s : State) : Out :=
  let v := s.vf vf
  let tid := v.tens.ttidx.toNat % 4096
  if tid = 0 ∨ malformedEntry v.tens.staged then .next (s.setVf { v with tens := { v.tens with ttstat := 1 } })
  else .next (checkRecords vf tid (s.setVf { v with tens := { v.tens with
    ttstat := 0, table := installEntry tid v.tens.staged v.tens.table } }))

/-- TT_READ: an entry enters the staging words; entry 0, and one never installed, is all zeros. -/
def execTtRead (vf : Nat) (s : State) : Out :=
  let v := s.vf vf
  let tid := v.tens.ttidx.toNat % 4096
  let w := if tid = 0 then 0 else (lookupNat tid v.tens.table).getD 0
  .next (s.setVf { v with tens := { v.tens with
    ttw0 := w.extractLsb' 0 64, ttw1 := w.extractLsb' 64 64, ttw2 := w.extractLsb' 128 64, ttw3 := w.extractLsb' 192 64 } })

/-! ## Ranges of a VF's memory -/

/-- Pieces of a range that cross no 64 KiB boundary: address and length. -/
def pieces : Nat → Nat → Nat → List (Nat × Nat)
  | 0, _, _ => []
  | k + 1, a, n =>
    if n = 0 then []
    else let m := min n (65536 - a % 65536); (a, m) :: pieces k (a + m) (n - m)

/-- The physical places of a range, none where some of it does not translate. -/
def physPieces (s : State) (vf : Nat) (acc : Access) : List (Nat × Nat) → Option (List (Nat × Nat))
  | [] => some []
  | (a, n) :: r =>
    match s.vfTranslate vf a acc, physPieces s vf acc r with
    | some p, some l => some ((p.pa, n) :: l)
    | _, _ => none

/-- The physical places of n bytes from an address. -/
def State.vfRange (s : State) (vf va n : Nat) (acc : Access) : Option (List (Nat × Nat)) :=
  physPieces s vf acc (pieces (n / 65536 + 2) va n)

/-- The bytes of a range. -/
def State.vfBytes (s : State) (vf va n : Nat) : Option (List Byte) :=
  (s.vfRange vf va n .read).map fun l => (l.map fun p => s.mem.bytesAt p.1 p.2).flatten

/-- Store bytes at places one after the other. -/
def storePieces : List (Nat × Nat) → List Byte → Memory → Memory
  | [], _, m => m
  | (pa, n) :: r, bs, m => storePieces r (bs.drop n) (m.store pa (bs.take n) false)

/-! ## What a load installs (R88, R91, R93, R97, R98) -/

/-- Entries equal in all fields but gen. -/
def sameButGen (a b : BitVec 256) : Bool := putBits a.toNat 48 8 0 == putBits b.toNat 48 8 0

/-- Install declared tensors; none where one is malformed or differs from a valid entry. -/
def installTens : List (Nat × BitVec 256) → List (Nat × BitVec 256) → Option (List (Nat × BitVec 256))
  | [], table => some table
  | (tid, w) :: r, table =>
    let old := (lookupNat tid table).getD 0
    if tid = 0 ∨ 4096 ≤ tid ∨ malformedEntry w ∨ ((tensorEntry old).v ∧ sameButGen old w = false) then none
    else installTens r (installEntry tid w table)

/-- The tensors an object declares. -/
def Obj.tensors (o : Obj) : List (Nat × BitVec 256) := (o.entries 1 40).map fun e => (bitsAt e 256 16, BitVec.ofNat 256 e)

/-- A tag has its rights (R91). -/
def tagOk (table : List (Nat × BitVec 256)) (t : Nat × Bool) : Bool :=
  match lookupNat t.1 table with
  | none => false
  | some w => let e := tensorEntry w; t.1 != 0 && e.v && (if t.2 then e.w && e.p else e.r)

/-- Route identifiers of a die that a VF's objects and stands hold. -/
def heldIds (s : State) (vf die : Nat) : List Nat :=
  (((s.vf vf).load.kernels.map fun k => k.rids.get die) ++ ((s.stands.filter fun t => t.vf == vf).map fun t => t.kern.rids.get die)).flatten

/-- Identifiers of a route set, lowest first. -/
def setIds (x : W64) : List Nat := upFrom (bitsAt x.toNat 0 12) (bitsAt x.toNat 12 13)

/-- The lowest free identifiers of a die for n routes: none of a die without a set, and no answer where too few are free.
[DEDUCED, log 128] -/
def idsOn (s : State) (vf n die : Nat) : Option (List Nat) :=
  let ids := setIds ((s.vf vf).cfg.rset.get die)
  if ids.isEmpty then some []
  else
    let free := ids.filter fun r => !((heldIds s vf die).contains r)
    if n ≤ free.length then some (free.take n) else none

/-- Identifiers for n routes on each die with a route set (R88); a VF without any set has too few.
[DEDUCED, log 128] -/
def assignIds (s : State) (vf n : Nat) : Option (PerDie (List Nat)) :=
  match idsOn s vf n 0, idsOn s vf n 1, idsOn s vf n 2, idsOn s vf n 3 with
  | some a, some b, some c, some d => if n ≠ 0 ∧ (a ++ b ++ c ++ d).isEmpty then none else some ⟨a, b, c, d⟩
  | _, _, _, _ => none

/-- The big-endian number in bytes. [PRESUMED, log 119] -/
def natOfBytesBE (l : List Byte) : Nat := natOfBytesLE l.reverse

/-- The signature check (R97). -/
def signOk (s : State) (vf : Nat) (o : Obj) (bs : List Byte) : Bool :=
  match o.sect? 0xB with
  | none => (s.vf vf).load.klpol.toNat % 2 == 0
  | some x =>
    match lookupNat (o.get x.off 0 64) (s.vf vf).cfg.keys with
    | none => false
    | some key => ecdsaVerify key (sha512 (bs.take x.off))
        (BitVec.ofNat 1056 (natOfBytesBE ((bs.drop (x.off + 8)).take 132)))

/-- The first address from a 4 KiB boundary on at which n bytes overlap none of the ranges given. -/
def freeBase (n : Nat) (taken : List (Nat × Nat)) : Nat → Nat → Nat
  | 0, a => a
  | k + 1, a =>
    match taken.find? fun r => a < r.1 + r.2 && r.1 < a + n with
    | none => a
    | some r => freeBase n taken k (ceilDiv (r.1 + r.2) 4096 * 4096)

/-- The address of an object's DATA (R93): its dbase, or the place that the loader finds beside the DATA it has installed for
the VF, from an address on that the manual leaves open. [DESIGN CHOICE, log 170] -/
def dataBase (s : State) (vf : Nat) (o : Obj) : Nat :=
  let taken := (s.vf vf).load.data
  if o.dbase = 0 then
    freeBase (o.entries 7 1).length taken taken.length ((Config.dataAddress vf o.size).toNat / 4096 * 4096)
  else o.dbase

/-- The bytes of an object's DATA. -/
def Obj.data (o : Obj) : List Byte := (o.entries 7 1).map (BitVec.ofNat 8)

/-- The physical places of an object's DATA, for writing. -/
def dataPlaces (s : State) (vf : Nat) (o : Obj) : Option (List (Nat × Nat)) :=
  s.vfRange vf (dataBase s vf o) (o.entries 7 1).length .write

/-- Record a measurement; the 256 latest are kept (R98, R378). [DEDUCED, log 126] -/
def addMeasure (vf : Nat) (bs : List Byte) (s : State) : State :=
  s.updVf vf fun v =>
    let l := v.load.measures ++ [sha512 bs]
    { v with load := { v.load with measures := l.drop (l.length - 256) } }

/-- The status of the first check that fails. -/
def firstFail : List (Bool × Nat) → Option Nat
  | [] => none
  | (ok, code) :: r => if ok then firstFail r else some code

/-- Check records that name tensors whose entries a load replaced (R116). -/
def checkAll (vf : Nat) : List Nat → State → State
  | [], s => s
  | t :: r, s => checkAll vf r (checkRecords vf t s)

/-- Install a relocated object's tensors, and its DATA at an address. -/
def installData (vf : Nat) (o : Obj) (dbase : Nat) (table : List (Nat × BitVec 256)) (places : List (Nat × Nat)) (s : State) : State :=
  let fresh := (o.tensors.map (·.1)).filter fun t => lookupNat t (s.vf vf).tens.table != lookupNat t table
  let s1 : State := { s with mem := storePieces places o.data s.mem }
  checkAll vf fresh (s1.updVf vf fun v => { v with
    tens := { v.tens with table := table }
    load := { v.load with data := if o.data.isEmpty then v.load.data else v.load.data ++ [(dbase, o.data.length)] } })

/-! ## Loading a kernel (R99, R100) -/

/-- The checks that read the object alone, in order: SIGNATURE to BUFFERS. [DEDUCED, log 123] -/
def kernelChecks (s : State) (vf : Nat) (o : Obj) (bs : List Byte) : Option Nat :=
  let k := o.kernel
  firstFail [(signOk s vf o bs, 0x21), (o.descriptorOk, 0x22), (k.textOk, 0x23), (o.gmin ≤ o.gmax, 0x27), (k.fitOk, 0x26),
    (k.fitting.contains k.gmin, 0x10), (k.ratesOk, 0x24), (k.buffersOk, 0x25)]

/-- The rest of a load: TENSOR, RELOCATION, ROUTE, KID_IN_USE and the DATA range; then everything is installed, the tensors as
relocation has left them (R95). [DEDUCED, log 123] -/
def installKernel (vf : Nat) (o : Obj) (s : State) : Nat × State :=
  let o1? := o.relocated (dataBase s vf o)
  match installTens (o1?.getD o).tensors (s.vf vf).tens.table with
  | none => (0x29, s)
  | some table =>
    if (o.kernel.tags.all (tagOk table)) = false then (0x29, s)
    else match o1? with
      | none => (0x2A, s)
      | some o1 =>
        match assignIds s vf o.kernel.routes.length with
        | none => (0x2B, s)
        | some ids =>
          if (s.kernel? vf o.kid).isSome then (0x28, s)
          else match dataPlaces s vf o with
            | none => (0x2C, s)
            | some places =>
              let k : Kernel := { o1.kernel with rids := ids, fits := o1.kernel.fitting }
              (0, installData vf o1 (dataBase s vf o) table places (s.updVf vf fun v => { v with load := { v.load with kernels := v.load.kernels ++ [k] } }))

/-- A load of kernel or root object: the status, the kid and the state it leaves. `go` does what follows the measurement. The
creation of a root program reports kid 0 (R104). [DEDUCED, log 126] -/
def loadObject (vf : Nat) (root : Bool) (go : Obj → List Byte → State → Nat × State) (s : State) : Nat × Nat × State :=
  let l := (s.vf vf).load
  match (if l.kladdr.toNat % 64 = 0 then s.vfBytes vf l.kladdr.toNat (l.klsize.toNat % 2 ^ 32) else none) with
  | none => (0x2C, 0, s)
  | some bs =>
    let o : Obj := ⟨natOfBytesLE bs, bs.length⟩
    let kid := if root then 0 else o.kid
    if o.formatOk root = false then (0x20, kid, s)
    else let r := go o bs (addMeasure vf bs s); (r.1, kid, r.2)

/-- A command's outcome waits to be written, and KLSTAT reads busy, with its other fields 0 until then.
[DESIGN CHOICE, log 160] -/
def beginCmd (vf : Nat) (r : Nat × Nat × State) : State :=
  r.2.2.updVf vf fun v => { v with load := { v.load with klstat := 0x80000000, pending := some (r.1, r.2.1) } }

/-- The loader works on a command of the VF. -/
def Vf.busy (v : Vf) : Bool := v.load.pending.isSome

/-- KERNEL_LOAD. [DEDUCED, log 130] -/
def execKernelLoad (vf : Nat) (s : State) : Out :=
  if (s.vf vf).busy then .next s
  else .next (beginCmd vf (loadObject vf false (fun o bs s1 =>
    match kernelChecks s1 vf o bs with
    | some code => (code, s1)
    | none => installKernel vf o s1) s))

/-- The status of an unload (R100, R119). [DEDUCED, log 129] -/
def unloadStatus (s : State) (vf kid : Nat) : Nat :=
  if (s.kernel? vf kid).isNone then 0x31
  else if (s.stands.any fun t => t.status == .resident && t.vf == vf && t.kern.kid == kid)
      || ((s.recsOf vf).any fun r => recKid r.word == kid) then 0x32
  else 0x30

/-- KERNEL_UNLOAD. -/
def execKernelUnload (vf : Nat) (s : State) : Out :=
  let v := s.vf vf
  if v.busy then .next s
  else
    let kid := v.load.klkid.toNat % 65536
    let st := unloadStatus s vf kid
    let s1 := if st = 0x30 then s.setVf { v with load := { v.load with kernels := v.load.kernels.filter fun k => k.kid != kid } } else s
    .next (beginCmd vf (st, kid, s1))

/-! ## Root programs (R104) -/

/-- Halt and discard a VF's root program with its trap queue, its resident windows, and those of its root blocks that still
wait for room in the scheduler. [DEDUCED, log 144] [DESIGN CHOICE, log 159] -/
def discardRoot (vf : Nat) (s : State) : State :=
  match (s.vf vf).root with
  | none => s
  | some r =>
    let s1 : State := { s with fab := { s.fab with
      barriers := s.fab.barriers.map fun b => { b with arrived := b.arrived.filter fun a => a.1 != .seq r.ctx } } }
    schedule r.ctx ((s1.setCtx (SeqCtx.unbound r.ctx)).updVf vf fun v => { v with root := none })

/-- The island of a VF's root program (R383 VFROOT), numbered 16·die + 8·side + row. -/
def rootIsland (x : W64) : Nat := 16 * bitsAt x.toNat 0 2 + 8 * bitsAt x.toNat 2 1 + bitsAt x.toNat 3 3

/-- The root blocks of an object. -/
def Obj.rootBlocks (o : Obj) : List (BitVec 1024) :=
  match o.sect? 7 with
  | none => []
  | some x => (o.entries 0xC 8).map fun e => BitVec.ofNat 1024 (o.get (x.off + e) 0 1024)

/-- Create the root program: the checks from FIT on, then its context is bound and its root blocks wait.
[DEDUCED, log 131] -/
def createRoot (vf : Nat) (o : Obj) (s : State) : Nat × State :=
  let isl := rootIsland (s.vf vf).cfg.root
  match freeCtx (discardRoot vf s) isl with
  | none => (0x26, s)
  | some q =>
    let o1? := o.relocated (dataBase s vf o)
    match installTens (o1?.getD o).tensors (s.vf vf).tens.table with
    | none => (0x29, s)
    | some table =>
      match o1? with
      | none => (0x2A, s)
      | some o1 =>
        if o1.rootBlocks.any fun w => recMalformed w || !(launchable s vf w) then (0x2D, s)
        else match dataPlaces s vf o with
          | none => (0x2C, s)
          | some places =>
            let s1 := installData vf o1 (dataBase s vf o) table places (discardRoot vf s)
            let c : SeqCtx := { SeqCtx.unbound q with
              bind := .root vf, text := o1.seqText, entry := o1.sentry, pc := 4 * o1.sentry }
            (0, (s1.setCtx c).updVf vf fun v => { v with root := some ⟨q, o1.rootBlocks⟩ })

/-- ROOT_PROGRAM_CREATE. [DEDUCED, log 131] -/
def execRootProgramCreate (vf : Nat) (s : State) : Out :=
  if (s.vf vf).busy then .next s
  else .next (beginCmd vf (loadObject vf true (fun o bs s1 =>
    match firstFail [(signOk s1 vf o bs, 0x21), (o.descriptorOk, 0x22), (o.kernel.textOk, 0x23)] with
    | some code => (code, s1)
    | none => createRoot vf o s1) s))

/-- LOADER_COMMAND_COMPLETE: the status and kid are written; a root program that was created starts.
[DEDUCED, log 130] -/
def execLoaderCommandComplete (vf : Nat) (s : State) : Out :=
  let v := s.vf vf
  match v.load.pending with
  | none => .next s
  | some (st, kid) =>
    let s1 := s.setVf { v with load := { v.load with pending := none, klstat := BitVec.ofNat 64 (st * 65536 + kid) } }
    match v.root with
    | some r => .next (if st = 0 ∧ kid = 0 then makeReady r.ctx s1 else s1)
    | none => .next s1

/-- ROOT_BLOCK_LAUNCH: once the command is complete, the root blocks that wait are launched as long as there is room. -/
def execRootBlockLaunch (vf : Nat) (s : State) : Out :=
  let v := s.vf vf
  match v.root with
  | some r => .next (if v.busy then s else launchWaiting vf r.ctx.die r.waiting s)
  | none => .next s

end Sys2Proof.Machine
end

