-- ==== Sys2Proof/Machine/SeqAlu.lean ====
section
/-! DEFINITION. Sequencer arithmetic, predicates and random numbers (R173 to R175, R197). -/

namespace Sys2Proof.Machine

/-! ## SR.ALU (R173) -/

/-- A two-operand function of SR.ALU; the result is poisoned when an operand is (R171). -/
def seqAlu2 (i : Instr) (f : SR) (fn : W64 → W64 → W64) (s : State) : Out :=
  runSeq i (.sr f.q []) (fun c s => .done (setReg c f.d
    ⟨fn (c.reg f.a).v (c.reg f.b).v, (c.reg f.a).poison || (c.reg f.b).poison⟩ s)) s

/-- A one-operand function of SR.ALU. -/
def seqAlu1 (i : Instr) (f : SR) (fn : W64 → W64) (s : State) : Out :=
  runSeq i (.sr f.q []) (fun c s => .done (setReg c f.d ⟨fn (c.reg f.a).v, (c.reg f.a).poison⟩ s)) s

/-- High 64 bits of the signed product. -/
def mulHigh (a b : W64) : W64 := ((a.signExtend 128 * b.signExtend 128).extractLsb' 64 64)

/-- Signed quotient with R35's cases. -/
def divSigned (a b : W64) : W64 := if b = 0 then BitVec.allOnes 64 else BitVec.ofInt 64 (a.toInt.tdiv b.toInt)

/-- Unsigned quotient with R35's case. -/
def divUnsigned (a b : W64) : W64 := if b = 0 then BitVec.allOnes 64 else BitVec.ofNat 64 (a.toNat / b.toNat)

/-- Signed remainder with R35's cases. -/
def remSigned (a b : W64) : W64 := if b = 0 then a else BitVec.ofInt 64 (a.toInt.tmod b.toInt)

/-- Unsigned remainder with R35's case. -/
def remUnsigned (a b : W64) : W64 := if b = 0 then a else BitVec.ofNat 64 (a.toNat % b.toNat)

/-- The shift count b[5:0]. -/
def count6 (b : W64) : Nat := b.toNat % 64

/-- SR.ALU ADD. -/
def execSrAluAdd (f : SR) (s : State) : Out := seqAlu2 (.srAluAdd f) f (· + ·) s
/-- SR.ALU SUB. -/
def execSrAluSub (f : SR) (s : State) : Out := seqAlu2 (.srAluSub f) f (· - ·) s
/-- SR.ALU MUL. -/
def execSrAluMul (f : SR) (s : State) : Out := seqAlu2 (.srAluMul f) f (· * ·) s
/-- SR.ALU MULH. -/
def execSrAluMulh (f : SR) (s : State) : Out := seqAlu2 (.srAluMulh f) f mulHigh s
/-- SR.ALU DIV (R35). -/
def execSrAluDiv (f : SR) (s : State) : Out := seqAlu2 (.srAluDiv f) f divSigned s
/-- SR.ALU DIVN (R35). -/
def execSrAluDivn (f : SR) (s : State) : Out := seqAlu2 (.srAluDivn f) f divUnsigned s
/-- SR.ALU REM (R35). -/
def execSrAluRem (f : SR) (s : State) : Out := seqAlu2 (.srAluRem f) f remSigned s
/-- SR.ALU REMN (R35). -/
def execSrAluRemn (f : SR) (s : State) : Out := seqAlu2 (.srAluRemn f) f remUnsigned s
/-- SR.ALU AND. -/
def execSrAluAnd (f : SR) (s : State) : Out := seqAlu2 (.srAluAnd f) f (· &&& ·) s
/-- SR.ALU OR. -/
def execSrAluOr (f : SR) (s : State) : Out := seqAlu2 (.srAluOr f) f (· ||| ·) s
/-- SR.ALU XOR. -/
def execSrAluXor (f : SR) (s : State) : Out := seqAlu2 (.srAluXor f) f (· ^^^ ·) s
/-- SR.ALU ANDN. -/
def execSrAluAndn (f : SR) (s : State) : Out := seqAlu2 (.srAluAndn f) f (fun a b => a &&& ~~~b) s
/-- SR.ALU SHL. -/
def execSrAluShl (f : SR) (s : State) : Out := seqAlu2 (.srAluShl f) f (fun a b => a <<< count6 b) s
/-- SR.ALU SHR. -/
def execSrAluShr (f : SR) (s : State) : Out := seqAlu2 (.srAluShr f) f (fun a b => a >>> count6 b) s
/-- SR.ALU SRA. -/
def execSrAluSra (f : SR) (s : State) : Out := seqAlu2 (.srAluSra f) f (fun a b => a.sshiftRight (count6 b)) s
/-- SR.ALU MIN. -/
def execSrAluMin (f : SR) (s : State) : Out := seqAlu2 (.srAluMin f) f (fun a b => if a.slt b then a else b) s
/-- SR.ALU MAX. -/
def execSrAluMax (f : SR) (s : State) : Out := seqAlu2 (.srAluMax f) f (fun a b => if a.slt b then b else a) s
/-- SR.ALU MINN. -/
def execSrAluMinn (f : SR) (s : State) : Out := seqAlu2 (.srAluMinn f) f (fun a b => if a.ult b then a else b) s
/-- SR.ALU MAXN. -/
def execSrAluMaxn (f : SR) (s : State) : Out := seqAlu2 (.srAluMaxn f) f (fun a b => if a.ult b then b else a) s
/-- SR.ALU CLZ. -/
def execSrAluClz (f : SR) (s : State) : Out := seqAlu1 (.srAluClz f) f (fun a => BitVec.ofNat 64 (leadZeros 64 a.toNat)) s
/-- SR.ALU POPC. -/
def execSrAluPopc (f : SR) (s : State) : Out := seqAlu1 (.srAluPopc f) f (fun a => BitVec.ofNat 64 (popCount 64 a.toNat)) s

/-- SR.ALU SEL (R147): q selects and does not guard. [DEDUCED, log 43] -/
def execSrAluSel (f : SR) (s : State) : Out :=
  runSeq (.srAluSel f) (.bare []) (fun c s => .done (setReg c f.d
    ⟨(if c.pred f.q.toNat then c.reg f.a else c.reg f.b).v, (c.reg f.a).poison || (c.reg f.b).poison⟩ s)) s

/-! ## SQ.CMP (R174) -/

/-- A comparison of two registers into a predicate; a poisoned operand traps (R171). -/
def seqCmp (i : Instr) (f : SR) (cc : Nat) (s : State) : Out :=
  runSeq i (.sr f.q [f.a, f.b]) (fun c s => .done (setPred c f.d.toNat (seqCond cc (c.reg f.a).v (c.reg f.b).v) s)) s

/-- SQ.CMP EQ. -/
def execSqCmpEq (f : SR) (s : State) : Out := seqCmp (.sqCmpEq f) f 0 s
/-- SQ.CMP NE. -/
def execSqCmpNe (f : SR) (s : State) : Out := seqCmp (.sqCmpNe f) f 1 s
/-- SQ.CMP LT. -/
def execSqCmpLt (f : SR) (s : State) : Out := seqCmp (.sqCmpLt f) f 2 s
/-- SQ.CMP LE. -/
def execSqCmpLe (f : SR) (s : State) : Out := seqCmp (.sqCmpLe f) f 3 s
/-- SQ.CMP LTN. -/
def execSqCmpLtn (f : SR) (s : State) : Out := seqCmp (.sqCmpLtn f) f 4 s
/-- SQ.CMP LEN. -/
def execSqCmpLen (f : SR) (s : State) : Out := seqCmp (.sqCmpLen f) f 5 s

/-- A combination of predicates. -/
def seqPred (i : Instr) (f : SR) (fn : Bool → Bool → Bool) (s : State) : Out :=
  runSeq i (.sr f.q []) (fun c s => .done (setPred c f.d.toNat (fn (c.pred f.a.toNat) (c.pred f.b.toNat)) s)) s

/-- SQ.CMP QAND. -/
def execSqCmpQand (f : SR) (s : State) : Out := seqPred (.sqCmpQand f) f (· && ·) s
/-- SQ.CMP QOR. -/
def execSqCmpQor (f : SR) (s : State) : Out := seqPred (.sqCmpQor f) f (· || ·) s
/-- SQ.CMP QNOT. -/
def execSqCmpQnot (f : SR) (s : State) : Out := seqPred (.sqCmpQnot f) f (fun a _ => !a) s

/-! ## SI arithmetic (R175) -/

/-- An SI arithmetic form with its immediate (R149, R175). -/
def seqImm (i : Instr) (f : SI) (fn : W64 → W64 → W64) (s : State) : Out :=
  runSeq i (.si []) (fun c s => .done (setReg c f.d ⟨fn (c.reg f.a).v (c.imm f.imm14), (c.reg f.a).poison⟩ s)) s

/-- A shift form by imm14[5:0], which takes no prefix. -/
def seqShift (i : Instr) (f : SI) (fn : W64 → Nat → W64) (s : State) : Out :=
  runSeq i (.bare []) (fun c s => .done (setReg c f.d ⟨fn (c.reg f.a).v (f.imm14.toNat % 64), (c.reg f.a).poison⟩ s)) s

/-- SI.ADDI. -/
def execSiAddi (f : SI) (s : State) : Out := seqImm (.siAddi f) f (· + ·) s
/-- SI.ANDI. -/
def execSiAndi (f : SI) (s : State) : Out := seqImm (.siAndi f) f (· &&& ·) s
/-- SI.ORI. -/
def execSiOri (f : SI) (s : State) : Out := seqImm (.siOri f) f (· ||| ·) s
/-- SI.XORI. -/
def execSiXori (f : SI) (s : State) : Out := seqImm (.siXori f) f (· ^^^ ·) s
/-- SI.SHLI. -/
def execSiShli (f : SI) (s : State) : Out := seqShift (.siShli f) f (fun a n => a <<< n) s
/-- SI.SHRI. -/
def execSiShri (f : SI) (s : State) : Out := seqShift (.siShri f) f (fun a n => a >>> n) s
/-- SI.SRAI. -/
def execSiSrai (f : SI) (s : State) : Out := seqShift (.siSrai f) f (fun a n => a.sshiftRight n) s

/-- SI.CMPI: condition d[5:3] of a against the immediate into predicate d[2:0]. -/
def execSiCmpi (f : SI) (s : State) : Out :=
  runSeq (.siCmpi f) (.si [f.a]) (fun c s => .done (setPred c (f.d.toNat % 8)
    (seqCond (f.d.toNat / 8) (c.reg f.a).v (c.imm f.imm14)) s)) s

/-- SI.MOVI, a clean value (R171). -/
def execSiMovi (f : SI) (s : State) : Out :=
  runSeq (.siMovi f) (.si []) (fun c s => .done (setReg c f.d ⟨c.imm f.imm14, false⟩ s)) s

/-- SL.LIMM (R149): the prefix stands for the next instruction; a second prefix is refused as the first's successor. -/
def execSlLimm (imm : BitVec 26) (s : State) : Out :=
  runSeq (.slLimm imm) (.bare []) (fun c s => .stay (s.setCtx { c.advance with limm := some (imm, c.pc) })) s

/-! ## SR.RNG (R197) -/

/-- SR.RNG: Osier on the four words of a and b under OSKEY, into d and d + 1; d = 15 or 63 is illegal.
[DEDUCED, log 15] -/
def execSrRng (f : SR) (s : State) : Out :=
  runSeq (.srRng f) (.sr f.q []) (fun c s =>
    if f.d = 15 ∨ f.d = 63 then .trap s 0x01 0 (wordInfo (.srRng f))
    else
      let a := (c.reg f.a).v
      let b := (c.reg f.b).v
      let o := osier (a.extractLsb' 0 32) (a.extractLsb' 32 32) (b.extractLsb' 0 32) (b.extractLsb' 32 32)
        (c.oskey.extractLsb' 0 32) (c.oskey.extractLsb' 32 32)
      let p := (c.reg f.a).poison || (c.reg f.b).poison
      .done (s.setCtx ((c.setReg f.d ⟨o.2.1 ++ o.1, p⟩).setReg (f.d + 1) ⟨o.2.2.2 ++ o.2.2.1, p⟩))) s

end Sys2Proof.Machine
end

