-- ==== Sys2Proof/Machine/SeqEvents.lean ====
section
/-! DEFINITION. Events of sequencer contexts: the end of a wait (R185 to R188, R193, R196), the delivery of trap events
(R342), and the service of records (R337, R343). -/

namespace Sys2Proof.Machine

/-! ## The end of a wait -/

/-- The destination of the SX.BAR at which a context waits. -/
def barDest (c : SeqCtx) : Code6 := (sxFields ((c.text[c.pc / 4]?).getD 0)).d

/-- A wait that holds ends (R185): the context goes on after the instruction, but for a full command queue or segment,
after which the instruction issues again. -/
def endWait (c : SeqCtx) (w : SeqWait) (s : State) : State :=
  match w with
  | .scmd _ => makeReady c.id s
  | .segment => makeReady c.id s
  | .barrier (some b) => makeReady c.id (s.setCtx (c.setReg (barDest c) ⟨if b then 1 else 0, false⟩).advance)
  | .barrier none => s
  | _ => makeReady c.id (s.setCtx c.advance)

/-- What an invalid wait carries in TINFO: the reference of a tag, nothing for a context that has lost its stand. -/
def waitErrInfo : SeqWait → W64
  | .tag ref _ => ref
  | _ => 0

/-- SEQ_WAIT_SATISFIED: the condition holds; a tag that has gone stale or become invalid traps. -/
def execSeqWaitSatisfied (q : SeqId) (s : State) : Out :=
  let c := s.ctx q
  match c.run, c.wait with
  | .waiting, some (w, _) =>
    (match waitNow s c w with
    | .ok true => .next (endWait c w s)
    | .ok false => .next s
    | .error cause => .next (wakeTrapped q (seqTrap q cause (waitErrInfo w) s)))
  | _, _ => .next s

/-- A wait whose kind satisfies a test and that does not hold traps at its limit (R186). -/
def waitTimeout (q : SeqId) (kind : SeqWait → Bool) (s : State) : State :=
  let c := s.ctx q
  match c.run, c.wait with
  | .waiting, some (w, dl) =>
    if kind w && dl ≤ s.cyc q.die then
      (match waitNow s c w with
      | .ok true => s
      | _ => wakeTrapped q (seqTrap q 0x03 (expiryInfo s c w) s))
    else s
  | _, _ => s

/-- SEQ_WAIT_EXPIRED: the waits of SR.WAIT. -/
def execSeqWaitExpired (q : SeqId) (s : State) : Out :=
  .next (waitTimeout q (fun w => match w with
    | .queue _ _ => true
    | .trapq _ => true
    | .timeline _ _ _ => true
    | .tag _ _ => true
    | _ => false) s)

/-- SCMD_QUEUE_STALL_EXPIRED (R193). -/
def execScmdQueueStallExpired (q : SeqId) (s : State) : Out :=
  .next (waitTimeout q (fun w => match w with | .scmd _ => true | _ => false) s)

/-- CTX_SWITCH_WAIT_EXPIRED (R196). -/
def execCtxSwitchWaitExpired (q : SeqId) (s : State) : Out :=
  .next (waitTimeout q (fun w => match w with | .switch => true | _ => false) s)

/-- BARRIER_EXPIRED (R188, R231). -/
def execBarrierExpired (m : BarMember) (s : State) : Out :=
  .next (barrierTimeout m (fun c => expiryInfo s c (.barrier none)) s)

/-! ## Trap events (R342) and service (R343) -/

/-- Enter the handler on an event: EPC is given, TCAUSE receives the cause of the reported record and TINFO its number.
[DEDUCED, log 96] -/
def enterHandler (c : SeqCtx) (ev : Nat × Nat) (epc : Nat) (idle : Bool) : SeqCtx :=
  { c with
    epc := BitVec.ofNat 64 epc, tcause := BitVec.ofNat 64 ev.1, tinfo := BitVec.ofNat 64 ev.2, h := true, fromIdle := idle
    limm := none, wait := none, event := none, pc := c.tvec.toNat }

/-- TRAP_EVENT_DELIVERY: at an instruction boundary of a running context that no prefix pair spans; a waiting context's wait
ends with no effect, at the prefix where its instruction has one (R149); an idle one starts. A context that is halted or stopped takes none. [DEDUCED, log 96] -/
def execTrapEventDelivery (q : SeqId) (s : State) : Out :=
  let c := s.ctx q
  match c.event with
  | none => .next s
  | some ev =>
    if c.tvec = 0 ∨ c.h = true then .next s
    else match c.run with
      | .running => if c.limm.isSome then .next s else .next (s.setCtx (enterHandler c ev c.pc false))
      | .ready => if c.limm.isSome then .next s else .next (s.setCtx (enterHandler c ev c.pc false))
      | .waiting => .next (makeReady q ((withdraw (.seq q) s).setCtx (enterHandler c ev c.here false)))
      | .idle => if c.bind = .none then .next s else .next (makeReady q (s.setCtx (enterHandler c ev 0 true)))
      | .halted => .next s
      | .stopped => .next s

/-- TQHEAD. -/
def execTqhead (q : SeqId) (h : W32) (s : State) : Out := .next (serviceHead q h s)

end Sys2Proof.Machine
end

