-- ==== Sys2Proof/Machine/Service.lean ====
section
/-! DEFINITION. The module's service: partition resets (R27, R379), growth rings (R370), in-field tests (R371 to R374),
channels (R375), firmware and attestation (R376 to R378), ports (R380), the thermal trip (R381), event rings (R382) and the
configuration of VFs (R383). -/

namespace Sys2Proof.Machine

/-! ## Partition reset (R27, R131, R379) -/

/-- Remove every record of a VF, in every state. -/
def dropRecords (vf : Nat) (s : State) : State :=
  { s with dies := s.dies.map fun d => { d with recs := d.recs.filter fun r => r.vf != vf } }

/-- Remove every stand of a VF, without a wave. -/
def dropStands (vf : Nat) (s : State) : State :=
  (s.stands.filter fun t => t.vf == vf).foldl (fun acc t => freeStand t.id acc) s

/-- A partition reset: stands, records, pins and the root program go; kernels, tensors and landing entries stay.
[DEDUCED, log 144] -/
def resetPartition (vf : Nat) (s : State) : State :=
  (discardRoot vf (dropRecords vf (dropStands vf s))).updVf vf fun v =>
    { v with timer := 0, mem := { v.mem with pins := [] } }

/-- The die of a VF's root program (R383). -/
def rootDie (s : State) (vf : Nat) : Nat := (s.vf vf).cfg.root.toNat % 4

/-- VF_WATCHDOG_EXPIRY: the timer has reached VFSLICE, which is not 0. [DEDUCED, log 173] -/
def execVfWatchdogExpiry (vf : Nat) (s : State) : Out :=
  let limit := (s.vf vf).cfg.slice.toNat % 2 ^ 48
  if limit = 0 ∨ (s.vf vf).timer < limit then .next s
  else
    let d := rootDie s vf
    .next (hostEvent (.vf vf) 1 0 vf d 0 (hostEvent .pf 1 0 vf d 0 (resetPartition vf s)))

/-- FUNCTION_LEVEL_RESET. -/
def execFunctionLevelReset (vf : Nat) (s : State) : Out := .next (resetPartition vf s)

/-! ## Growth rings (R370) -/

/-- GROWTH_RING_FLUSH: every ring is written to flash. -/
def execGrowthRingFlush (s : State) : Out :=
  .next { s with svc := { s.svc with rings := s.svc.rings.map fun r => { r with flash := r.now } } }

/-- The bin of a value among bins that begin at the given bounds (R370). -/
def binOf (bounds : List Int) (x : Int) : Nat := (bounds.filter fun b => b ≤ x).length

/-- The bin of an hour by its peak junction temperature, in °C. -/
def tempBin (x : Int) : Nat := binOf [40, 55, 70, 85, 95, 105, 115] x

/-- The bin of an hour by its deepest supply droop, in mV. -/
def droopBin (x : Int) : Nat := binOf [10, 20, 30, 40, 60, 80, 100] x

/-- One hour of a unit enters its temperature and droop bins. [DESIGN CHOICE, log 7] -/
def addHour (rings : List GRing) (h : HourBins) : List GRing :=
  let r := Pf.ringOf rings h.die h.kind h.unit
  putRing { r with now := bumpBin (bumpBin r.now (8 + tempBin h.temp)) (16 + droopBin h.droop) } rings

/-- GROWTH_RING_HOUR. [DESIGN CHOICE, log 7] -/
def execGrowthRingHour (r : List HourBins) (s : State) : Out :=
  .next { s with svc := { s.svc with rings := r.foldl addHour s.svc.rings } }

/-! ## In-field test (R371, R373, R374) -/

/-- A unit of a test: die, slice, index. -/
abbrev TestUnit := Nat × Bool × Nat

/-- IFTSTAT for a state and a unit (R381): bits above the state hold passed and refused. -/
def iftWord (state : Nat) (u : TestUnit) : W64 :=
  BitVec.ofNat 64 (state + 256 * (u.2.2 + (if u.2.1 then 256 else 0) + 512 * u.1))

/-- A slice lies in some VF's partition. -/
def State.inPartition (s : State) (die idx : Nat) : Bool := s.vfs.any fun v => v.mem.part.has ⟨die, idx⟩

/-- A unit has no owner. -/
def State.unowned (s : State) (u : TestUnit) : Bool :=
  if u.2.1 then !(s.inPartition u.1 u.2.2) else (s.owner? u.1 u.2.2).isNone

/-- Change the in-field test's state. -/
def State.withIft (s : State) (i : Ift) : State := { s with svc := { s.svc with ift := i } }

/-- IFTSTAT holds a host's request, waiting or running, of another unit: a test that the controller asked for does not show. -/
def Ift.hostWaits (i : Ift) (u : TestUnit) : Bool :=
  let st := i.stat.toNat % 4
  (st == 1 || st == 2) && i.stat != iftWord st u

/-- IFTSTAT after the test of a unit reaches a state. -/
def Ift.report (i : Ift) (state : Nat) (u : TestUnit) : W64 := if i.hostWaits u then i.stat else iftWord state u

/-- IFTCMD: a request waits for its unit; one for a slice in a partition is refused. [DEDUCED, log 115] -/
def execIftcmd (value : W32) (s : State) : Out :=
  let u : TestUnit := (bitsAt value.toNat 9 2, value.getLsbD 8, bitsAt value.toNat 0 8)
  let st := s.svc.ift.stat.toNat % 4
  if st = 1 ∨ st = 2 ∨ (u.2.1 = false ∧ 128 ≤ u.2.2) then .next s
  else if u.2.1 ∧ s.inPartition u.1 u.2.2 then .next (s.withIft { s.svc.ift with stat := iftWord (3 + 8) u })
  else .next (s.withIft { s.svc.ift with stat := iftWord 1 u, queue := s.svc.ift.queue ++ [u] })

/-- IFT_START: while no test runs, the oldest request whose unit is vacant starts; a slice that has entered a partition
is refused. [DEDUCED, log 115] -/
def execIftStart (s : State) : Out :=
  let i := s.svc.ift
  match i.current, i.queue.find? fun u => s.unowned u || u.2.1 with
  | none, some u =>
    if s.unowned u then .next (s.withIft { stat := i.report 2 u, queue := i.queue.erase u, current := some u })
    else .next (s.withIft { stat := i.report (3 + 8) u, queue := i.queue.erase u, current := none })
  | _, _ => .next s

/-- Suspect-log entries of a compartment (R372). -/
def logOf (s : State) (die comp : Nat) : List W128 := (s.die die).log.filter fun e => bitsAt e.toNat 0 7 == comp

/-- VF of a suspect-log entry. -/
def logVf (e : W128) : Nat := bitsAt e.toNat 26 6

/-- Data of an event of type 7. -/
def failData (comp n : Nat) : W64 := BitVec.ofNat 64 (comp % 128 + 2 ^ 16 * n)

/-- A compartment failed its test (R373): events to the physical function and each VF with entries. -/
def reportFail (die comp : Nat) (s : State) : State :=
  let es := logOf s die comp
  (upTo 64).foldl (fun acc v =>
    let n := (es.filter fun e => logVf e == v).length
    if n = 0 then acc else hostEvent (.vf v) 7 0 v die (failData comp n) acc)
    (hostEvent .pf 7 0 0 die (failData comp es.length) s)

/-- A unit returns to service: neither suspect nor retired, its log entries freed. -/
def returnUnit (u : TestUnit) (s : State) : State :=
  s.updDie u.1 fun d => { d with
    suspects := d.suspects.filter fun x => x != (u.2.1, u.2.2), retired := d.retired.filter fun x => x != (u.2.1, u.2.2)
    log := if u.2.1 then d.log else d.log.filter fun e => bitsAt e.toNat 0 7 != u.2.2 }

/-- A unit is retired, if it is not yet. -/
def keepRetired (u : TestUnit) (s : State) : State :=
  if (s.die u.1).retired.contains (u.2.1, u.2.2) then s
  else ringEvent u.1 (if u.2.1 then 1 else 0) u.2.2 1 (s.updDie u.1 fun d => { d with
    suspects := d.suspects.filter fun x => x != (u.2.1, u.2.2), retired := d.retired ++ [(u.2.1, u.2.2)] })

/-- IFT_COMPLETE. -/
def execIftComplete (passed : Bool) (s : State) : Out :=
  match s.svc.ift.current with
  | none => .next s
  | some u =>
    let kind := if u.2.1 then 1 else 0
    let s1 := s.withIft { s.svc.ift with stat := s.svc.ift.report (if passed then 3 + 4 else 3) u, current := none }
    if passed then .next (ringEvent u.1 kind u.2.2 4 (ringEvent u.1 kind u.2.2 2 (returnUnit u s1)))
    else
      let s2 := ringEvent u.1 kind u.2.2 3 (keepRetired u s1)
      .next (if u.2.1 then s2 else reportFail u.1 u.2.2 s2)

/-! ## Channels (R291, R375) -/

/-- CHRET: a channel is to be retired; every VF is suspended. -/
def execChret (value : W32) (s : State) : Out :=
  let ch := bitsAt value.toNat 0 6
  if value.getLsbD 7 = false ∨ s.svc.chMigrating.isSome ∨ 48 ≤ ch ∨ s.svc.chActive.getLsbD ch = false then .next s
  else
    let s1 : State := { s with
      svc := { s.svc with chMigrating := some ch, chSusp := s.pf.vfsusp }, pf := { s.pf with vfsusp := BitVec.allOnes 64 } }
    .next ((upTo 64).foldl (fun acc v => suspendVf v acc) s1)

/-- Device memory without what lies at or above an address; host memory stays (R292). -/
def Memory.cutDevice (m : Memory) (top : Nat) : Memory :=
  ⟨m.bytes.filter fun c => c.1 < top || 2 ^ 51 ≤ c.1, m.poison.filter fun w => 4 * w < top || 2 ^ 51 ≤ 4 * w⟩

/-- CHANNEL_MIGRATION_COMPLETE: once every stand is suspended and the chunks are moved, data above the new MEMTOP is
discarded, MEMTOP changes and the VFs resume. [DEDUCED, log 116] -/
def execChannelMigrationComplete (s : State) : Out :=
  match s.svc.chMigrating with
  | none => .next s
  | some ch =>
    if s.stands.any fun t => t.status == .resident then .next s
    else
      let act := s.svc.chActive &&& ~~~(BitVec.ofNat 48 (2 ^ ch))
      let top := memtopOf (activeChannels act)
      let s1 : State := { s with
        mem := s.mem.cutDevice top, slices := s.slices.map fun x => { x with lines := x.lines.filter fun l => 128 * l < top }
        pf := { s.pf with vfsusp := s.svc.chSusp }, svc := { s.svc with chActive := act, chMigrating := none, memtop := top } }
      .next (hostEvent .pf 9 0 0 0 (BitVec.ofNat 64 ch) (ringEvent 0 2 ch 5 (ringEvent 0 2 ch 1 s1)))

/-! ## Firmware (R376, R377) -/

/-- FWSTAT from its fields (R381). -/
def fwWord (bank busy code failed : Nat) : W64 := BitVec.ofNat 64 (bank % 2 + 2 * busy + 16 * (code % 16) + 256 * min failed 255)

/-- The active bank's number. -/
def fwBank (x : W64) : Nat := x.toNat % 2
/-- Consecutive failed boots of the active bank. -/
def fwFailed (x : W64) : Nat := bitsAt x.toNat 8 8

/-- The module as a reset leaves it, with what outlives one: host memory, what was sent, the growth rings, the firmware
banks and FWSTAT. [DESIGN CHOICE, log 117] -/
def afterReset (svc : Service) (fwstat : W64) (up : Bool) (s : State) : State :=
  { State.reset with
    mem := s.mem.cutDevice 0, out := s.out, pf := { Pf.reset with fwstat := fwstat }
    svc := { Service.reset with
      rings := svc.rings, fwActive := svc.fwActive, fwOther := svc.fwOther, fwSwitch := svc.fwSwitch, down := !up } }

/-- The banks exchanged. -/
def Service.swapBanks (v : Service) : Service := { v with fwActive := v.fwOther, fwOther := v.fwActive, fwSwitch := false }

/-- The sequencer firmware and the loader's validator verify, as the running controller's firmware checks (R376); unless they do
they are not run, and the module stays down. [DESIGN CHOICE, log 118] -/
def sequencerSigned : Bool := Config.firmwareSigned Config.sequencerFirmware

/-- MODULE_RESET: a switch that was asked for takes place; the active bank boots if its signature verifies, and after the third
failed boot in a row the other bank is booted. [DESIGN CHOICE, log 117] [DESIGN CHOICE, log 118] -/
def execModuleReset (s : State) : Out :=
  let st := s.pf.fwstat
  let svc := if s.svc.fwSwitch then s.svc.swapBanks else s.svc
  let bank := if s.svc.fwSwitch then 1 - fwBank st else fwBank st
  let failed := if s.svc.fwSwitch then 0 else fwFailed st
  if Config.firmwareSigned svc.fwActive then .next (afterReset svc (fwWord bank 0 0 0) sequencerSigned s)
  else if failed + 1 < 3 then .next (afterReset svc (fwWord bank 0 0 (failed + 1)) false s)
  else
    let sw := svc.swapBanks
    let ok := Config.firmwareSigned sw.fwActive
    .next (afterReset sw (fwWord (1 - bank) 0 0 (if ok then 0 else 1)) (ok && sequencerSigned) s)

/-- FWSTAT.busy. -/
def fwBusy (s : State) : Bool := s.svc.fwPending.isSome

/-- FW_VERIFY_WRITE: the image in host memory is verified for the inactive bank. [DESIGN CHOICE, log 118] -/
def execFwVerifyWrite (s : State) : Out :=
  if fwBusy s then .next s
  else
    let n := s.pf.fwsize.toNat % 2 ^ 32
    let img := s.mem.bytesAt (hostAddr s.pf.fwaddr.toNat) n
    let code := if Config.bankSize < n then 2 else if Config.firmwareSigned img then 0 else 1
    .next { s with
      svc := { s.svc with fwPending := some (code, img) }
      pf := { s.pf with fwstat := fwWord (fwBank s.pf.fwstat) 1 (bitsAt s.pf.fwstat.toNat 4 4) (fwFailed s.pf.fwstat) } }

/-- FIRMWARE_WRITE_COMPLETE: the outcome, and the inactive bank where a write took place; whether the flash takes it, and what the
bank holds where it does not, are left open. [DESIGN CHOICE, log 118] -/
def execFirmwareWriteComplete (s : State) : Out :=
  match s.svc.fwPending with
  | none => .next s
  | some (code, img) =>
    let fails := code == 0 && Config.flashFails s.free
    .next { s with
      free := s.free + 1
      svc := { s.svc with
        fwPending := none
        fwOther := if fails then Config.flashLeaves s.free else if code = 0 then img else s.svc.fwOther }
      pf := { s.pf with fwstat := fwWord (fwBank s.pf.fwstat) 0 (if fails then 3 else code) (fwFailed s.pf.fwstat) } }

/-- FW_BANK_SWITCH. -/
def execFwBankSwitch (s : State) : Out :=
  if fwBusy s then .next s else .next { s with svc := { s.svc with fwSwitch := true } }

/-- POWER_LOSS: what stands in flash and in host memory stays; the module is down until it is reset. -/
def execPowerLoss (s : State) : Out :=
  .next (afterReset { s.svc with rings := s.svc.rings.map fun r => { r with now := r.flash } }
    (fwWord (fwBank s.pf.fwstat) 0 0 (fwFailed s.pf.fwstat)) false s)

/-! ## Attestation (R378) -/

/-- ATCMD 1; a request while one is under way changes nothing. [DESIGN CHOICE, log 174] -/
def execAtcmd (vf : Nat) (s : State) : Out :=
  let v := s.vf vf
  match v.atBusy with
  | some _ => .next s
  | none => .next (s.setVf { v with atstat := 1, atBusy := some v.ataddr.toNat })

/-- A report's bytes for a nonce: header, nonce, digests and measurements, then the signature. -/
def attestation (s : State) (vf : Nat) (nonce : List Byte) : List Byte :=
  let ms := (s.vf vf).load.measures
  let signed := nonce ++ bytesBE 64 (sha512 s.svc.fwActive).toNat ++ bytesBE 64 (sha512 Config.sequencerFirmware).toNat
    ++ (ms.map fun m => bytesBE 64 m.toNat).flatten
  bytesLE 2 1 ++ bytesLE 2 vf ++ bytesLE 4 ms.length ++ signed ++ bytesBE 132 (Config.identitySign (sha512 signed)).toNat

/-- ATTESTATION_REPORT_COMPLETE: the report follows the nonce; a range that does not translate or refuses writes ends the
command as failed. -/
def execAttestationReportComplete (vf : Nat) (s : State) : Out :=
  let v := s.vf vf
  match v.atBusy with
  | none => .next s
  | some a =>
    let n := 200 + 64 * v.load.measures.length + 132
    match s.vfBytes vf a 64, s.vfRange vf (a + 64) n .write with
    | some nonce, some places => .next (({ s with mem := storePieces places (attestation s vf nonce) s.mem }).updVf vf
        fun x => { x with atstat := 0, atBusy := none })
    | _, _ => .next (s.setVf { v with atstat := 2, atBusy := none })

/-! ## Ports and the thermal trip (R380, R381) -/

/-- LNKCMD. -/
def execLnkcmd (value : W32) (s : State) : Out :=
  .next (if value.getLsbD 4 then trainPort (bitsAt value.toNat 0 4) s else s)

/-- LINK_TRAINING_COMPLETE: the port is up, and the packets that waited at their senders leave, oldest first. -/
def execLinkTrainingComplete (port : Nat) (s : State) : Out :=
  if s.svc.linkTraining.contains port then
    .next { s with
      out := s.svc.podWait ++ s.out
      svc := { s.svc with
        linkUp := s.svc.linkUp ||| BitVec.ofNat 16 (2 ^ port), linkTraining := removeNat port s.svc.linkTraining
        linkRetries := storeNat port 0 s.svc.linkRetries, podWait := [] } }
  else .next s

/-- Count a thermal trip in the ring of every compartment and slice. [DEDUCED, log 120] -/
def tripRings (s : State) : State :=
  [0, 1, 2, 3].foldl (fun acc d =>
    (upTo 256).foldl (fun a u => ringEvent d 1 u 7 a) ((upTo 128).foldl (fun a u => ringEvent d 0 u 7 a) acc)) s

/-- THERMAL_TRIP: every partition is reset, the physical function and every VF are told, and the module is down.
[DEDUCED, log 120] [DEDUCED, log 173] -/
def execThermalTrip (s : State) : Out :=
  let s1 := (upTo 64).foldl (fun acc v => resetPartition v acc) s
  let s2 := (upTo 64).foldl (fun acc v => hostEvent (.vf v) 8 0 v 0 0 acc) (hostEvent .pf 8 0 0 0 0 s1)
  let s3 := tripRings s2
  .next { s3 with svc := { s3.svc with down := true } }

/-! ## Event rings (R382) -/

/-- EVHEAD: a head that would pass EVTAIL is ignored. -/
def execEvhead (fn : FnId) (value : W32) (s : State) : Out :=
  let r := s.ring fn
  if (value - r.head).toNat ≤ (r.tail - r.head).toNat then .next (s.setRing fn { r with head := value }) else .next s

/-! ## Configuration of VFs (R383) -/

/-- VFCFGSTAT with the outcome of a refusable write; a key command under way stays busy. -/
def setOutcome (n : Nat) (s : State) : State :=
  { s with pf := { s.pf with cfgstat := BitVec.ofNat 64 (s.pf.cfgstat.toNat % 2 + 2 * n) } }

/-- A route set is refused (R383): beyond identifier 0xFFF, overlapping another VF's, or without an identifier in use. -/
def rsetRefused (s : State) (vf die : Nat) (x : W64) : Bool :=
  let ids := setIds x
  4096 < bitsAt x.toNat 0 12 + bitsAt x.toNat 12 13
    || (s.vfs.any fun v => v.id != vf && (setIds (v.cfg.rset.get die)).any fun r => ids.contains r)
    || (heldIds s vf die).any fun r => !(ids.contains r)

/-- VFRSET. -/
def execVfrset (die : Nat) (value : W32) (s : State) : Out :=
  let x : W64 := BitVec.ofNat 64 (value.toNat % 2 ^ 25)
  if rsetRefused s (selVf s) die x then .next (setOutcome 1 s)
  else .next (setOutcome 0 (s.updVf (selVf s) fun v => { v with cfg := { v.cfg with rset := v.cfg.rset.set die x } }))

/-- A key command of the selected VF and slot begins. -/
def beginKey (key : Option (BitVec 1056)) (outcome : Nat) (s : State) : State :=
  { s with
    svc := { s.svc with keyPending := some (selVf s, s.pf.keysel.toNat % 8, key, outcome) }
    pf := { s.pf with cfgstat := BitVec.ofNat 64 (s.pf.cfgstat.toNat / 2 * 2 + 1) } }

/-- VFKEY_INSTALL: the key at VFKEYADDR; an address beyond host memory is an address fault. [DEDUCED, log 121] -/
def execVfkeyInstall (s : State) : Out :=
  if s.svc.keyPending.isSome then .next s
  else
    let a := s.pf.keyaddr.toNat
    if 2 ^ 51 < a + 132 then .next (beginKey none 3 s)
    else
      let key := BitVec.ofNat 1056 (natOfBytesBE (s.mem.bytesAt (hostAddr a) 132))
      .next (beginKey (some key) (if onCurve key then 0 else 2) s)

/-- VFKEY_CLEAR. -/
def execVfkeyClear (s : State) : Out := if s.svc.keyPending.isSome then .next s else .next (beginKey none 0 s)

/-- The key slots after a command. [DEDUCED, log 121] -/
def putKey (slot : Nat) (key : Option (BitVec 1056)) (l : List (Nat × BitVec 1056)) : List (Nat × BitVec 1056) :=
  match key with
  | some k => storeNat slot k l
  | none => l.filter fun p => p.1 != slot

/-- VF_KEY_COMMAND_COMPLETE. -/
def execVfKeyCommandComplete (s : State) : Out :=
  match s.svc.keyPending with
  | none => .next s
  | some (vf, slot, key, outcome) =>
    let s1 : State := { s with
      svc := { s.svc with keyPending := none }, pf := { s.pf with cfgstat := BitVec.ofNat 64 (2 * outcome) } }
    .next (if outcome = 0 then s1.updVf vf fun v => { v with cfg := { v.cfg with keys := putKey slot key v.cfg.keys } } else s1)

/-! ## Plain registers -/

/-- Bits hi to lo of a written value; the others read as zero. -/
def fieldOf (hi lo : Nat) (v : W64) : W64 := v &&& ones64 hi lo

/-- A ride of some numbers is powered. [DEDUCED, log 122] -/
def powerRide (used : List Nat) (p : Ride × Nat) : Ride :=
  if used.contains p.2 then { p.1 with on := true, upAt := none } else p.1

/-- Rides to which some VF maps are powered on every die (R366). [DEDUCED, log 122] -/
def powerMapped (s : State) : State :=
  if s.pf.ridectl.getLsbD 0 = false then s
  else
    let used := (upTo 64).map fun v => rideOf s v 0
    { s with dies := s.dies.map fun d => { d with rides := d.rides.zipIdx.map (powerRide used) } }

/-- Change the configuration of the selected VF. -/
def onCfg (f : VfCfg → VfCfg) (s : State) : State := s.updVf (selVf s) fun v => { v with cfg := f v.cfg }

/-- The selected VF holds a stand. -/
def selHolds (s : State) : Bool := s.stands.any fun t => t.vf == selVf s

/-- A register of the physical function's space (R360, R366, R381 to R383): an offset without a plain register of its own
ignores the write. -/
def writePf (off : Nat) (v : W64) (s : State) : State :=
  let p := s.pf
  match off with
  | 0x208 => if 20 ≤ v.toNat % 64 ∧ v.toNat % 64 ≤ 36 then { s with pf := { p with errwin := fieldOf 5 0 v } } else s
  | 0x210 => { s with pf := { p with errthr := fieldOf 15 0 v } }
  | 0x218 => { s with pf := { p with suspidx := v &&& 0x103 } }
  | 0x240 => powerMapped { s with pf := { p with ridectl := fieldOf 0 0 v } }
  | 0x248 => powerMapped { s with pf := { p with ridemap0 := v } }
  | 0x250 => powerMapped { s with pf := { p with ridemap1 := v } }
  | 0x2A0 => { s with pf := { p with slidx := fieldOf 13 0 v } }
  | 0x2B8 => { s with pf := { p with sllost := fieldOf 31 0 v } }
  | 0x2C0 => { s with pf := { p with gridx := fieldOf 11 0 v } }
  | 0x308 => { s with pf := { p with fwaddr := fieldOf 51 0 v } }
  | 0x310 => { s with pf := { p with fwsize := fieldOf 31 0 v } }
  | 0x338 => { s with pf := { p with pwrcap := fieldOf 15 0 v } }
  | 0x340 => { s with pf := { p with vfsel := fieldOf 5 0 v } }
  | 0x348 => onCfg (fun c => { c with slice := fieldOf 47 0 v }) s
  | 0x370 => onCfg (fun c => { c with lockq := fieldOf 31 0 v }) s
  | 0x378 => onCfg (fun c => { c with root := fieldOf 5 0 v }) s
  | 0x380 => onCfg (fun c => { c with barg := fieldOf 23 0 v }) s
  | 0x388 => if selHolds s then s else onCfg (fun c => { c with save := fieldOf 51 20 v }) s
  | 0x390 => if selHolds s then s else onCfg (fun c => { c with savesz := fieldOf 31 0 v }) s
  | 0x398 => if selHolds s then s else onCfg (fun c => { c with membase := fieldOf 51 16 v }) s
  | 0x3A0 => if selHolds s then s else onCfg (fun c => { c with memsz := fieldOf 51 16 v }) s
  | 0x3A8 => { s with pf := { p with keysel := fieldOf 2 0 v } }
  | 0x3B0 => { s with pf := { p with keyaddr := fieldOf 51 0 v } }
  | 0x3C8 => { s with pf := { p with barsel := v &&& 0x10F } }
  | 0x3D0 => { s with pf := { p with barmem := storeNat p.barsel.toNat (fieldOf 15 0 v) p.barmem } }
  | 0x3D8 => { s with pf := { p with ev := { p.ev with base := fieldOf 51 12 v } } }
  | 0x3F0 => { s with pf := { p with ev := { p.ev with lost := v.setWidth 32 } } }
  | _ => s

/-- A register of a VF's own space (R70, R99, R127, R289, R347, R378, R382). -/
def writeVf (off : Nat) (v : W64) (x : Vf) : Vf :=
  match off with
  | 0x000 => { x with tens := { x.tens with tside := fieldOf 56 12 v } }
  | 0x008 => { x with tens := { x.tens with ttidx := fieldOf 11 0 v } }
  | 0x010 => { x with tens := { x.tens with ttw0 := v } }
  | 0x018 => { x with tens := { x.tens with ttw1 := v } }
  | 0x020 => { x with tens := { x.tens with ttw2 := v } }
  | 0x028 => { x with tens := { x.tens with ttw3 := v } }
  | 0x040 => { x with load := { x.load with kladdr := fieldOf 56 6 v } }
  | 0x048 => { x with load := { x.load with klsize := fieldOf 31 0 v } }
  | 0x050 => { x with load := { x.load with klkid := fieldOf 15 0 v } }
  | 0x080 => { x with cfg := { x.cfg with fbdrop := fieldOf 31 0 v } }
  | 0x090 => { x with mem := { x.mem with ptroot := v &&& (ones64 51 12 ||| 1) } }
  | 0x100 => { x with mem := { x.mem with ptidx := fieldOf 9 0 v } }
  | 0x110 => { x with mem := { x.mem with lkref := fieldOf 31 0 v } }
  | 0x128 => { x with cfg := { x.cfg with blzper := fieldOf 4 0 v } }
  | 0x138 => { x with ataddr := fieldOf 56 6 v }
  | 0x150 => { x with ev := { x.ev with base := fieldOf 51 12 v } }
  | 0x168 => { x with ev := { x.ev with lost := v.setWidth 32 } }
  | _ => x

/-- A register of a VF's space that only the physical function writes (R99, R127, R289); partition values are staged. -/
def writeByPf (off : Nat) (v : W64) (x : Vf) : Vf :=
  match off with
  | 0x068 => { x with load := { x.load with klpol := fieldOf 0 0 v } }
  | 0x070 => { x with cfg := { x.cfg with cquota := fieldOf 31 0 v } }
  | 0x0A8 => { x with mem := { x.mem with staged := { x.mem.staged with psize := v.toNat % 2048 } } }
  | 0x108 => { x with mem := { x.mem with staged := { x.mem.staged with
      ents := storeNat (x.mem.ptidx.toNat % 1024) ⟨bitsAt v.toNat 8 2, bitsAt v.toNat 0 8⟩ x.mem.staged.ents } } }
  | 0x120 => { x with mem := { x.mem with pkrank := v &&& (ones64 14 8 ||| ones64 6 0) } }
  | _ =>
    if 0x0B0 ≤ off ∧ off ≤ 0x0F8 ∧ off % 8 = 0 then
      { x with mem := { x.mem with staged := { x.mem.staged with
          pmask := setNth 0 x.mem.staged.pmask ((off - 0x0B0) / 8) (fieldOf 51 7 v) } } }
    else x

/-- A register's value with the bytes of an access replaced; what lies past the register is lost. [DESIGN CHOICE, log 168] -/
def mergeReg (off width : Nat) (old : Option W64) (value : W64) : W64 :=
  let o := off % 8
  let new := bytesLE 8 value.toNat
  BitVec.ofNat 64 (natOfBytesLE ((bytesLE 8 (old.getD 0).toNat).zipIdx.map fun p =>
    if o ≤ p.2 ∧ p.2 < o + width then nth 0 new (p.2 - o) else p.1))

/-- A VF whose partition registers read as staged, the values that partial writes of them change. -/
def Vf.asStaged (x : Vf) : Vf := { x with mem := { x.mem with part := x.mem.staged } }

/-- REGISTER_WRITE: a landing window ignores what is not an aligned access of 64 bits (R106). -/
def execRegisterWrite (sp : RegSpace) (off : BitVec 12) (x : RegWrite) (s : State) : Out :=
  let w := 8 * (off.toNat / 8)
  let val := fun old => mergeReg off.toNat x.width old x.value
  match sp with
  | .pf => .next (writePf w (val (readPf s w)) s)
  | .vf n => .next (s.updVf n fun v => writeVf w (val (readVf s v w)) v)
  | .vfByPf n => .next (s.updVf n fun v => writeByPf w (val (readVf s v.asStaged w)) v)
  | .window n =>
    if off.toNat = 0x020 ∧ x.width = 8 then
      .next (s.updVf n fun v => { v with win := { v.win with fallback := fieldOf 31 0 x.value } })
    else .next s

end Sys2Proof.Machine
end

