-- ==== Sys2Proof/Machine/Dispatch.lean ====
section
/-! DEFINITION. The dispatch of every instruction and event to its meaning. -/

namespace Sys2Proof.Machine

def exec (i : Instr) (s : State) : Host.Outcome State Fault Refusal :=
  match i with
  | .srAluAdd f => Sys2Proof.Machine.execSrAluAdd f s
  | .srAluSub f => Sys2Proof.Machine.execSrAluSub f s
  | .srAluMul f => Sys2Proof.Machine.execSrAluMul f s
  | .srAluMulh f => Sys2Proof.Machine.execSrAluMulh f s
  | .srAluDiv f => Sys2Proof.Machine.execSrAluDiv f s
  | .srAluDivn f => Sys2Proof.Machine.execSrAluDivn f s
  | .srAluRem f => Sys2Proof.Machine.execSrAluRem f s
  | .srAluRemn f => Sys2Proof.Machine.execSrAluRemn f s
  | .srAluAnd f => Sys2Proof.Machine.execSrAluAnd f s
  | .srAluOr f => Sys2Proof.Machine.execSrAluOr f s
  | .srAluXor f => Sys2Proof.Machine.execSrAluXor f s
  | .srAluAndn f => Sys2Proof.Machine.execSrAluAndn f s
  | .srAluShl f => Sys2Proof.Machine.execSrAluShl f s
  | .srAluShr f => Sys2Proof.Machine.execSrAluShr f s
  | .srAluSra f => Sys2Proof.Machine.execSrAluSra f s
  | .srAluMin f => Sys2Proof.Machine.execSrAluMin f s
  | .srAluMax f => Sys2Proof.Machine.execSrAluMax f s
  | .srAluMinn f => Sys2Proof.Machine.execSrAluMinn f s
  | .srAluMaxn f => Sys2Proof.Machine.execSrAluMaxn f s
  | .srAluClz f => Sys2Proof.Machine.execSrAluClz f s
  | .srAluPopc f => Sys2Proof.Machine.execSrAluPopc f s
  | .srAluSel f => Sys2Proof.Machine.execSrAluSel f s
  | .sqCmpEq f => Sys2Proof.Machine.execSqCmpEq f s
  | .sqCmpNe f => Sys2Proof.Machine.execSqCmpNe f s
  | .sqCmpLt f => Sys2Proof.Machine.execSqCmpLt f s
  | .sqCmpLe f => Sys2Proof.Machine.execSqCmpLe f s
  | .sqCmpLtn f => Sys2Proof.Machine.execSqCmpLtn f s
  | .sqCmpLen f => Sys2Proof.Machine.execSqCmpLen f s
  | .sqCmpQand f => Sys2Proof.Machine.execSqCmpQand f s
  | .sqCmpQor f => Sys2Proof.Machine.execSqCmpQor f s
  | .sqCmpQnot f => Sys2Proof.Machine.execSqCmpQnot f s
  | .siAddi f => Sys2Proof.Machine.execSiAddi f s
  | .siAndi f => Sys2Proof.Machine.execSiAndi f s
  | .siOri f => Sys2Proof.Machine.execSiOri f s
  | .siXori f => Sys2Proof.Machine.execSiXori f s
  | .siShli f => Sys2Proof.Machine.execSiShli f s
  | .siShri f => Sys2Proof.Machine.execSiShri f s
  | .siSrai f => Sys2Proof.Machine.execSiSrai f s
  | .siCmpi f => Sys2Proof.Machine.execSiCmpi f s
  | .siMovi f => Sys2Proof.Machine.execSiMovi f s
  | .siLdb f => Sys2Proof.Machine.execSiLdb f s
  | .siLdh f => Sys2Proof.Machine.execSiLdh f s
  | .siLdw f => Sys2Proof.Machine.execSiLdw f s
  | .siLdd f => Sys2Proof.Machine.execSiLdd f s
  | .siStb f => Sys2Proof.Machine.execSiStb f s
  | .siSth f => Sys2Proof.Machine.execSiSth f s
  | .siStw f => Sys2Proof.Machine.execSiStw f s
  | .siStd f => Sys2Proof.Machine.execSiStd f s
  | .saAmoAdd f => Sys2Proof.Machine.execSaAmoAdd f s
  | .saAmoMin f => Sys2Proof.Machine.execSaAmoMin f s
  | .saAmoMax f => Sys2Proof.Machine.execSaAmoMax f s
  | .saAmoAnd f => Sys2Proof.Machine.execSaAmoAnd f s
  | .saAmoOr f => Sys2Proof.Machine.execSaAmoOr f s
  | .saAmoXchg f => Sys2Proof.Machine.execSaAmoXchg f s
  | .saAmoCas f => Sys2Proof.Machine.execSaAmoCas f s
  | .sbBr f => Sys2Proof.Machine.execSbBr f s
  | .sbBz f => Sys2Proof.Machine.execSbBz f s
  | .sjJmp disp26 => Sys2Proof.Machine.execSjJmp disp26 s
  | .sjCall disp26 => Sys2Proof.Machine.execSjCall disp26 s
  | .sxRet f => Sys2Proof.Machine.execSxRet f s
  | .srJrJump f => Sys2Proof.Machine.execSrJrJump f s
  | .srJrCall f => Sys2Proof.Machine.execSrJrCall f s
  | .sbLoop f => Sys2Proof.Machine.execSbLoop f s
  | .sxLbrk f => Sys2Proof.Machine.execSxLbrk f s
  | .srWaitQueue f => Sys2Proof.Machine.execSrWaitQueue f s
  | .srWaitTimeline f => Sys2Proof.Machine.execSrWaitTimeline f s
  | .srWaitTag f => Sys2Proof.Machine.execSrWaitTag f s
  | .sxFence f => Sys2Proof.Machine.execSxFence f s
  | .sxBar f => Sys2Proof.Machine.execSxBar f s
  | .srTagp f scope => Sys2Proof.Machine.execSrTagp f scope s
  | .srTagq f => Sys2Proof.Machine.execSrTagq f s
  | .srTagg f => Sys2Proof.Machine.execSrTagg f s
  | .srTlrdR f => Sys2Proof.Machine.execSrTlrdR f s
  | .srTlrdV f => Sys2Proof.Machine.execSrTlrdV f s
  | .ssScmd f => Sys2Proof.Machine.execSsScmd f s
  | .ssLnch f => Sys2Proof.Machine.execSsLnch f s
  | .sxGrn f => Sys2Proof.Machine.execSxGrn f s
  | .srRng f => Sys2Proof.Machine.execSrRng f s
  | .sxSysCsrrd f => Sys2Proof.Machine.execSxSysCsrrd f s
  | .sxSysCsrwr f => Sys2Proof.Machine.execSxSysCsrwr f s
  | .sxSysTrap f => Sys2Proof.Machine.execSxSysTrap f s
  | .sxSysEret f => Sys2Proof.Machine.execSxSysEret f s
  | .sxSysHalt f => Sys2Proof.Machine.execSxSysHalt f s
  | .sxSysYield f => Sys2Proof.Machine.execSxSysYield f s
  | .sxWinSave f => Sys2Proof.Machine.execSxWinSave f s
  | .sxWinRestore f => Sys2Proof.Machine.execSxWinRestore f s
  | .sxWinFlush f => Sys2Proof.Machine.execSxWinFlush f s
  | .sxCtxCond f => Sys2Proof.Machine.execSxCtxCond f s
  | .sxCtxSwitch f => Sys2Proof.Machine.execSxCtxSwitch f s
  | .slLimm imm26 => Sys2Proof.Machine.execSlLimm imm26 s
  | .cvAdd f => Sys2Proof.Machine.execCvAdd f s
  | .cvSub f => Sys2Proof.Machine.execCvSub f s
  | .cvMul f => Sys2Proof.Machine.execCvMul f s
  | .cvMulh f => Sys2Proof.Machine.execCvMulh f s
  | .cvMad f => Sys2Proof.Machine.execCvMad f s
  | .cvAdds f => Sys2Proof.Machine.execCvAdds f s
  | .cvSubs f => Sys2Proof.Machine.execCvSubs f s
  | .cvMin f => Sys2Proof.Machine.execCvMin f s
  | .cvMax f => Sys2Proof.Machine.execCvMax f s
  | .cvAbs f => Sys2Proof.Machine.execCvAbs f s
  | .cvNeg f => Sys2Proof.Machine.execCvNeg f s
  | .cvAnd f => Sys2Proof.Machine.execCvAnd f s
  | .cvOr f => Sys2Proof.Machine.execCvOr f s
  | .cvXor f => Sys2Proof.Machine.execCvXor f s
  | .cvAndn f => Sys2Proof.Machine.execCvAndn f s
  | .cvSel f => Sys2Proof.Machine.execCvSel f s
  | .cvShl f => Sys2Proof.Machine.execCvShl f s
  | .cvShr f => Sys2Proof.Machine.execCvShr f s
  | .cvSra f => Sys2Proof.Machine.execCvSra f s
  | .cvRot f => Sys2Proof.Machine.execCvRot f s
  | .cvClz f => Sys2Proof.Machine.execCvClz f s
  | .cvPopc f => Sys2Proof.Machine.execCvPopc f s
  | .cvCmp f => Sys2Proof.Machine.execCvCmp f s
  | .cvTest f => Sys2Proof.Machine.execCvTest f s
  | .cvMov f => Sys2Proof.Machine.execCvMov f s
  | .cvMovk f => Sys2Proof.Machine.execCvMovk f s
  | .cvDot4 f => Sys2Proof.Machine.execCvDot4 f s
  | .cvTdot f => Sys2Proof.Machine.execCvTdot f s
  | .cvCvti f => Sys2Proof.Machine.execCvCvti f s
  | .cvNzc f => Sys2Proof.Machine.execCvNzc f s
  | .cvBitr f => Sys2Proof.Machine.execCvBitr f s
  | .cvPset f => Sys2Proof.Machine.execCvPset f s
  | .cfFadd f => Sys2Proof.Machine.execCfFadd f s
  | .cfFsub f => Sys2Proof.Machine.execCfFsub f s
  | .cfFmul f => Sys2Proof.Machine.execCfFmul f s
  | .cfFfma f => Sys2Proof.Machine.execCfFfma f s
  | .cfFmin f => Sys2Proof.Machine.execCfFmin f s
  | .cfFmax f => Sys2Proof.Machine.execCfFmax f s
  | .cfFcmp f => Sys2Proof.Machine.execCfFcmp f s
  | .cfFabs f => Sys2Proof.Machine.execCfFabs f s
  | .cfFneg f => Sys2Proof.Machine.execCfFneg f s
  | .cfFcvt f => Sys2Proof.Machine.execCfFcvt f s
  | .cfFrnd f => Sys2Proof.Machine.execCfFrnd f s
  | .cfFcls f => Sys2Proof.Machine.execCfFcls f s
  | .cfFrcp f => Sys2Proof.Machine.execCfFrcp f s
  | .cfFrsq f => Sys2Proof.Machine.execCfFrsq f s
  | .cfFexp2 f => Sys2Proof.Machine.execCfFexp2 f s
  | .cfFlog2 f => Sys2Proof.Machine.execCfFlog2 f s
  | .cfFsig f => Sys2Proof.Machine.execCfFsig f s
  | .cfFtanh f => Sys2Proof.Machine.execCfFtanh f s
  | .cfFsinp f => Sys2Proof.Machine.execCfFsinp f s
  | .cfFcosp f => Sys2Proof.Machine.execCfFcosp f s
  | .clLred f => Sys2Proof.Machine.execClLred f s
  | .clLscn f => Sys2Proof.Machine.execClLscn f s
  | .clLshf f => Sys2Proof.Machine.execClLshf f s
  | .clLbrd f => Sys2Proof.Machine.execClLbrd f s
  | .clLcmp f => Sys2Proof.Machine.execClLcmp f s
  | .clRngx f => Sys2Proof.Machine.execClRngx f s
  | .cxMzero f => Sys2Proof.Machine.execCxMzero f s
  | .cxMldb f => Sys2Proof.Machine.execCxMldb f s
  | .cxMma f => Sys2Proof.Machine.execCxMma f s
  | .cxMmat f => Sys2Proof.Machine.execCxMmat f s
  | .cxMrd f => Sys2Proof.Machine.execCxMrd f s
  | .cxMdrn f => Sys2Proof.Machine.execCxMdrn f s
  | .cxMchn f => Sys2Proof.Machine.execCxMchn f s
  | .cxMbfy f => Sys2Proof.Machine.execCxMbfy f s
  | .cxTwg f => Sys2Proof.Machine.execCxTwg f s
  | .cxMscl f => Sys2Proof.Machine.execCxMscl f s
  | .cdDxld f => Sys2Proof.Machine.execCdDxld f s
  | .cdDxcf f => Sys2Proof.Machine.execCdDxcf f s
  | .cdDxrn f => Sys2Proof.Machine.execCdDxrn f s
  | .cdDxfn f => Sys2Proof.Machine.execCdDxfn f s
  | .cdDxch f => Sys2Proof.Machine.execCdDxch f s
  | .cmLd f => Sys2Proof.Machine.execCmLd f s
  | .cmSt f => Sys2Proof.Machine.execCmSt f s
  | .cmLdt f => Sys2Proof.Machine.execCmLdt f s
  | .cmStt f => Sys2Proof.Machine.execCmStt f s
  | .cmLdx f => Sys2Proof.Machine.execCmLdx f s
  | .cmUpd f => Sys2Proof.Machine.execCmUpd f s
  | .cmLock f => Sys2Proof.Machine.execCmLock f s
  | .cmUnlk f => Sys2Proof.Machine.execCmUnlk f s
  | .cmPft f => Sys2Proof.Machine.execCmPft f s
  | .cmLdbr f => Sys2Proof.Machine.execCmLdbr f s
  | .cmStbr f => Sys2Proof.Machine.execCmStbr f s
  | .cmFill f => Sys2Proof.Machine.execCmFill f s
  | .cmAtom f => Sys2Proof.Machine.execCmAtom f s
  | .cpRecv f => Sys2Proof.Machine.execCpRecv f s
  | .cpSend f => Sys2Proof.Machine.execCpSend f s
  | .cpPeek f => Sys2Proof.Machine.execCpPeek f s
  | .cpJoin f => Sys2Proof.Machine.execCpJoin f s
  | .cpFilt f => Sys2Proof.Machine.execCpFilt f s
  | .cpMrge f => Sys2Proof.Machine.execCpMrge f s
  | .cpSkip f => Sys2Proof.Machine.execCpSkip f s
  | .cpEos f => Sys2Proof.Machine.execCpEos f s
  | .cpCtxc f => Sys2Proof.Machine.execCpCtxc f s
  | .ccLoop f => Sys2Proof.Machine.execCcLoop f s
  | .ccLbrk f => Sys2Proof.Machine.execCcLbrk f s
  | .ccBra f => Sys2Proof.Machine.execCcBra f s
  | .ccJmp f => Sys2Proof.Machine.execCcJmp f s
  | .ccGrain f => Sys2Proof.Machine.execCcGrain f s
  | .ccTagp f => Sys2Proof.Machine.execCcTagp f s
  | .ccTlw f => Sys2Proof.Machine.execCcTlw f s
  | .ccFenc f => Sys2Proof.Machine.execCcFenc f s
  | .ccBarr f => Sys2Proof.Machine.execCcBarr f s
  | .ccYld f => Sys2Proof.Machine.execCcYld f s
  | .ccTrap f => Sys2Proof.Machine.execCcTrap f s
  | .ccRdsr f => Sys2Proof.Machine.execCcRdsr f s
  | .ccWrsr f => Sys2Proof.Machine.execCcWrsr f s
  | .ccEndt f => Sys2Proof.Machine.execCcEndt f s
  | .skCpygl f => Sys2Proof.Machine.execSkCpygl f s
  | .skCpylg f => Sys2Proof.Machine.execSkCpylg f s
  | .skCpygg f => Sys2Proof.Machine.execSkCpygg f s
  | .skGath f => Sys2Proof.Machine.execSkGath f s
  | .skScat f => Sys2Proof.Machine.execSkScat f s
  | .skDisp f => Sys2Proof.Machine.execSkDisp f s
  | .skCmbn f => Sys2Proof.Machine.execSkCmbn f s
  | .skRedc f => Sys2Proof.Machine.execSkRedc f s
  | .skFill f => Sys2Proof.Machine.execSkFill f s
  | .skPfmc f => Sys2Proof.Machine.execSkPfmc f s
  | .skLkmc f => Sys2Proof.Machine.execSkLkmc f s
  | .skUlmc f => Sys2Proof.Machine.execSkUlmc f s
  | .skColl f => Sys2Proof.Machine.execSkColl f s
  | .skStrm f => Sys2Proof.Machine.execSkStrm f s
  | .skSink f => Sys2Proof.Machine.execSkSink f s
  | .skBlaz f => Sys2Proof.Machine.execSkBlaz f s
  | .skNopc f => Sys2Proof.Machine.execSkNopc f s
  | .taskFire t => Sys2Proof.Machine.execTaskFire t s
  | .instructionCompletion t => Sys2Proof.Machine.execInstructionCompletion t s
  | .taskWaitExpired t => Sys2Proof.Machine.execTaskWaitExpired t s
  | .backwardBranchLimit t => Sys2Proof.Machine.execBackwardBranchLimit t s
  | .inputLineWaitExpired t => Sys2Proof.Machine.execInputLineWaitExpired t s
  | .matrixChunkComplete w tile badTries row => Sys2Proof.Machine.execMatrixChunkComplete w tile badTries row s
  | .vfWatchdogExpiry vf => Sys2Proof.Machine.execVfWatchdogExpiry vf s
  | .functionLevelReset vf => Sys2Proof.Machine.execFunctionLevelReset vf s
  | .ttCommit vf => Sys2Proof.Machine.execTtCommit vf s
  | .ttRead vf => Sys2Proof.Machine.execTtRead vf s
  | .kernelLoad vf => Sys2Proof.Machine.execKernelLoad vf s
  | .kernelUnload vf => Sys2Proof.Machine.execKernelUnload vf s
  | .rootProgramCreate vf => Sys2Proof.Machine.execRootProgramCreate vf s
  | .rootBlockLaunch vf => Sys2Proof.Machine.execRootBlockLaunch vf s
  | .lwpub vf ref => Sys2Proof.Machine.execLwpub vf ref s
  | .lwqref vf ref => Sys2Proof.Machine.execLwqref vf ref s
  | .publication die => Sys2Proof.Machine.execPublication die s
  | .tagNotification die => Sys2Proof.Machine.execTagNotification die s
  | .bitmapPoll die => Sys2Proof.Machine.execBitmapPoll die s
  | .generationAdvance die => Sys2Proof.Machine.execGenerationAdvance die s
  | .blockDispatch die stand => Sys2Proof.Machine.execBlockDispatch die stand s
  | .classPromotion die => Sys2Proof.Machine.execClassPromotion die s
  | .standPlacement die => Sys2Proof.Machine.execStandPlacement die s
  | .suspendedStandReplace die => Sys2Proof.Machine.execSuspendedStandReplace die s
  | .trackSegmentHop flight => Sys2Proof.Machine.execTrackSegmentHop flight s
  | .inputBusDelivery flight => Sys2Proof.Machine.execInputBusDelivery flight s
  | .ridePacketArrival packet => Sys2Proof.Machine.execRidePacketArrival packet s
  | .firebreakReport report => Sys2Proof.Machine.execFirebreakReport report s
  | .rideCongestion die ride => Sys2Proof.Machine.execRideCongestion die ride s
  | .ridePowerUp die ride => Sys2Proof.Machine.execRidePowerUp die ride s
  | .ridePowerDown die ride => Sys2Proof.Machine.execRidePowerDown die ride s
  | .ctxcSwitch w => Sys2Proof.Machine.execCtxcSwitch w s
  | .coppiceWindowEnd stand => Sys2Proof.Machine.execCoppiceWindowEnd stand s
  | .seqWaitSatisfied c => Sys2Proof.Machine.execSeqWaitSatisfied c s
  | .seqWaitExpired c => Sys2Proof.Machine.execSeqWaitExpired c s
  | .scmdQueueStallExpired c => Sys2Proof.Machine.execScmdQueueStallExpired c s
  | .ctxSwitchWaitExpired c => Sys2Proof.Machine.execCtxSwitchWaitExpired c s
  | .barrierExpired m => Sys2Proof.Machine.execBarrierExpired m s
  | .l1Eviction w cell line => Sys2Proof.Machine.execL1Eviction w cell line s
  | .sliceService sl => Sys2Proof.Machine.execSliceService sl s
  | .gddrFillReturn sl line => Sys2Proof.Machine.execGddrFillReturn sl line s
  | .translationWalk vf unit va => Sys2Proof.Machine.execTranslationWalk vf unit va s
  | .tlbinvAll vf => Sys2Proof.Machine.execTlbinvAll vf s
  | .tlbinvPage vf va => Sys2Proof.Machine.execTlbinvPage vf va s
  | .pcmd vf => Sys2Proof.Machine.execPcmd vf s
  | .trapEventDelivery c => Sys2Proof.Machine.execTrapEventDelivery c s
  | .tqhead c value => Sys2Proof.Machine.execTqhead c value s
  | .weaveSnapshot w => Sys2Proof.Machine.execWeaveSnapshot w s
  | .waveComplete stand => Sys2Proof.Machine.execWaveComplete stand s
  | .periodicBlaze stand => Sys2Proof.Machine.execPeriodicBlaze stand s
  | .preemptStarvation die => Sys2Proof.Machine.execPreemptStarvation die s
  | .vfsusp value => Sys2Proof.Machine.execVfsusp value s
  | .hardwareError e => Sys2Proof.Machine.execHardwareError e s
  | .errorWindowReset die => Sys2Proof.Machine.execErrorWindowReset die s
  | .growthRingFlush => Sys2Proof.Machine.execGrowthRingFlush s
  | .iftcmd value => Sys2Proof.Machine.execIftcmd value s
  | .iftStart => Sys2Proof.Machine.execIftStart s
  | .iftComplete passed => Sys2Proof.Machine.execIftComplete passed s
  | .chret value => Sys2Proof.Machine.execChret value s
  | .channelMigrationComplete => Sys2Proof.Machine.execChannelMigrationComplete s
  | .moduleReset => Sys2Proof.Machine.execModuleReset s
  | .fwVerifyWrite => Sys2Proof.Machine.execFwVerifyWrite s
  | .fwBankSwitch => Sys2Proof.Machine.execFwBankSwitch s
  | .atcmd vf => Sys2Proof.Machine.execAtcmd vf s
  | .lnkcmd value => Sys2Proof.Machine.execLnkcmd value s
  | .linkTrainingComplete port => Sys2Proof.Machine.execLinkTrainingComplete port s
  | .thermalTrip => Sys2Proof.Machine.execThermalTrip s
  | .evhead fn value => Sys2Proof.Machine.execEvhead fn value s
  | .vfrset die value => Sys2Proof.Machine.execVfrset die value s
  | .vfkeyInstall => Sys2Proof.Machine.execVfkeyInstall s
  | .vfkeyClear => Sys2Proof.Machine.execVfkeyClear s
  | .hostCxlMemAccess vf a => Sys2Proof.Machine.execHostCxlMemAccess vf a s
  | .registerWrite sp off x => Sys2Proof.Machine.execRegisterWrite sp off x s
  | .chiararexPacketArrival p => Sys2Proof.Machine.execChiararexPacketArrival p s
  | .hostMemoryReply e line => Sys2Proof.Machine.execHostMemoryReply e line s
  | .loaderCommandComplete vf => Sys2Proof.Machine.execLoaderCommandComplete vf s
  | .tlbInvalidationComplete vf => Sys2Proof.Machine.execTlbInvalidationComplete vf s
  | .pcmdComplete vf => Sys2Proof.Machine.execPcmdComplete vf s
  | .attestationReportComplete vf => Sys2Proof.Machine.execAttestationReportComplete vf s
  | .firmwareWriteComplete => Sys2Proof.Machine.execFirmwareWriteComplete s
  | .vfKeyCommandComplete => Sys2Proof.Machine.execVfKeyCommandComplete s
  | .powerLoss => Sys2Proof.Machine.execPowerLoss s
  | .growthRingHour r => Sys2Proof.Machine.execGrowthRingHour r s

end Sys2Proof.Machine
end

