-- ==== Sys2Proof/Machine/Turn.lean ====
section
/-! DEFINITION. One turn of the agenda: an agent's next instruction, or an event. -/

namespace Sys2Proof.Machine

/-- Execute what a fetch brought. -/
def runFetched : Fetched → Host.Outcome State Fault Refusal
  | .idle s => .next s
  | .run i s => exec i s

/-- An event that is due takes place; its conditions are its own. A chunk of a multiply completes without an error. -/
def runDue (d : Due) (s : State) : Host.Outcome State Fault Refusal :=
  match d with
  | .instructionCompletion t => execInstructionCompletion t s
  | .taskWaitExpired t => execTaskWaitExpired t s
  | .backwardBranchLimit t => execBackwardBranchLimit t s
  | .inputLineWaitExpired t => execInputLineWaitExpired t s
  | .barrierExpired m => execBarrierExpired m s
  | .taskFire t => execTaskFire t s
  | .matrixChunkComplete w tile => execMatrixChunkComplete w tile 0 0 s
  | .ctxcSwitch w => execCtxcSwitch w s
  | .weaveSnapshot w => execWeaveSnapshot w s
  | .waveComplete stand => execWaveComplete stand s
  | .coppiceWindowEnd stand => execCoppiceWindowEnd stand s
  | .periodicBlaze stand => execPeriodicBlaze stand s
  | .blockDispatch die stand => execBlockDispatch die stand s
  | .seqWaitSatisfied c => execSeqWaitSatisfied c s
  | .seqWaitExpired c => execSeqWaitExpired c s
  | .scmdQueueStallExpired c => execScmdQueueStallExpired c s
  | .ctxSwitchWaitExpired c => execCtxSwitchWaitExpired c s
  | .trapEventDelivery c => execTrapEventDelivery c s
  | .hostMemoryReply e line => execHostMemoryReply e line s
  | .gddrFillReturn sl line => execGddrFillReturn sl line s
  | .sliceService sl => execSliceService sl s
  | .loaderCommandComplete vf => execLoaderCommandComplete vf s
  | .rootBlockLaunch vf => execRootBlockLaunch vf s
  | .tlbInvalidationComplete vf => execTlbInvalidationComplete vf s
  | .pcmdComplete vf => execPcmdComplete vf s
  | .attestationReportComplete vf => execAttestationReportComplete vf s
  | .vfWatchdogExpiry vf => execVfWatchdogExpiry vf s
  | .publication die => execPublication die s
  | .generationAdvance die => execGenerationAdvance die s
  | .tagNotification die => execTagNotification die s
  | .bitmapPoll die => execBitmapPoll die s
  | .classPromotion die => execClassPromotion die s
  | .suspendedStandReplace die => execSuspendedStandReplace die s
  | .standPlacement die => execStandPlacement die s
  | .preemptStarvation die => execPreemptStarvation die s
  | .errorWindowReset die => execErrorWindowReset die s
  | .ridePowerUp die ride => execRidePowerUp die ride s
  | .ridePowerDown die ride => execRidePowerDown die ride s
  | .trackSegmentHop flight => execTrackSegmentHop flight s
  | .inputBusDelivery flight => execInputBusDelivery flight s
  | .ridePacketArrival packet => execRidePacketArrival packet s
  | .firebreakReport report => execFirebreakReport report s
  | .iftStart => execIftStart s
  | .channelMigrationComplete => execChannelMigrationComplete s
  | .firmwareWriteComplete => execFirmwareWriteComplete s
  | .vfKeyCommandComplete => execVfKeyCommandComplete s
  | .linkTrainingComplete port => execLinkTrainingComplete port s

/-- Take one turn. While the module is down only its reset, or a loss of power, acts (R381). -/
def takeTurn (t : Turn) (s : State) : Host.Outcome State Fault Refusal :=
  if s.svc.down ∧ t ≠ .event .moduleReset ∧ t ≠ .event .powerLoss then .next s
  else match t with
    | .seq q => runFetched (fetchSeq q s)
    | .task k => runFetched (fetchTask k s)
    | .engine e => runFetched (fetchEngine e s)
    | .due d => runDue d { s with actor := .none }
    | .event i => exec i { s with actor := .none }

end Sys2Proof.Machine
end

