-- ==== Sys2Proof/Machine/Step.lean ====
section
/-! DEFINITION. One step of the machine, and a state whose next step runs a given word. -/

namespace Sys2Proof.Machine

/-- One step: the oldest turn of the agenda, or, when none is left, the next cycle. [DESIGN CHOICE, log 91] -/
def step (s : State) : Host.Outcome State Fault Refusal :=
  match s.agenda with
  | [] => .next (newCycle s)
  | t :: rest => takeTurn t { s with agenda := rest }

/-- A state whose very next step fetches and runs the instruction of `nbits` bits whose value is `w`. Programs are
loaded from outside the machine; this stands for that load (log 4). -/
def State.withFetchWord (s : State) (nbits w : Nat) : State := placeWord s nbits w

end Sys2Proof.Machine
end

