-- ==== Sys2Proof/Safety.lean ====
section
/-! DEFINITION. What counts as a safe run, and the terms in which the claims are stated: when an agent may execute its
next instruction, and how it goes on after it. -/

namespace Sys2Proof

open Sys2Proof.Machine

/-- The invariant of a safe run: both memories are in canonical form. -/
def Safe (s : State) : Prop := s.mem.wf = true ∧ s.lmem.wf = true

/-! ## Sequencer contexts -/

/-- It is the turn of context q, which is running (R168). -/
structure SeqTurn (s : State) (q : SeqId) : Prop where
  actor : s.actor = .seq q
  running : (s.ctx q).run = .running

/-- A running context reaches the effect of an instruction, its guard apart: the word is well formed (R151), no prefix
stands before a form that takes none (R149), and the registers listed are clean (R171). -/
structure SeqMay (s : State) (q : SeqId) (i : Instr) (prefixed : Bool) (reads : List Code6) : Prop extends SeqTurn s q where
  wf : i.wf = true
  limm : (s.ctx q).limm = none ∨ prefixed = true
  clean : ∀ r ∈ reads, ((s.ctx q).reg r).poison = false

/-- The context goes on after its instruction (R148, R183). -/
def ctxNext (s : State) (q : SeqId) : State := s.updCtx q SeqCtx.advance

/-- A context writes a register and goes on. -/
def ctxPut (s : State) (q : SeqId) (d : Code6) (v : W64) (poison : Bool) : State :=
  ctxNext (s.setCtx ((s.ctx q).setReg d ⟨v, poison⟩)) q

/-- A context writes a predicate and goes on. -/
def ctxPutP (s : State) (q : SeqId) (n : Nat) (b : Bool) : State := ctxNext (s.setCtx ((s.ctx q).setPred n b)) q

/-- The value and the poison of a register. -/
def regV (s : State) (q : SeqId) (r : Code6) : W64 := ((s.ctx q).reg r).v
def regP (s : State) (q : SeqId) (r : Code6) : Bool := ((s.ctx q).reg r).poison

/-- The state with another main memory, or another local memory. -/
def withMem (s : State) (m : Memory) : State := { s with mem := m }
def withLmem (s : State) (m : Memory) : State := { s with lmem := m }

/-! ## Cell tasks -/

/-- It is the turn of a task, which may execute its next instruction and sees c. -/
structure CellTurn (s : State) (c : Cell) : Prop where
  actor : s.actor = .task c.key
  cell : s.cell? c.key = some c
  may : c.mayRun = true

/-- Nothing stands before the effect of instruction i: the word is well formed (R162), its ports exist (R154), no earlier
fault waits for it (R263, R294), no other task of its weave has issued in this cycle (R16), its tokens and slots are there (R202), its tokens are data (R203), and if it ends the task
no tile operation (R252) and no pending skip (R220) holds it up. -/
structure CellMay (s : State) (c : Cell) (i : Instr) : Prop extends CellTurn s c where
  wf : cellCheck i = none
  ports : ∀ p ∈ cellPorts i, (c.n.port p).en = true
  deferred : ∀ d ∈ c.tk.deferred, d.reached i (cellSc i) = false
  issue : c.hasIssued s = false
  tokens : c.missing (portRefs (cellSrcs i)) = none
  slots : c.fullOut s (cellOuts i) = none
  data : c.badToken (portRefs (cellSrcs i)) = none
  tiles : (cellSc i).getLsbD 3 = true → ∀ m ∈ c.w.mults, m.nid ≠ c.key.nid
  skips : (cellSc i).getLsbD 3 = true → ∀ o ∈ upTo 4, (skipToks (nth 0 c.tk.skips o)).length ≤ s.outSlots c o

/-- The state with the instruction's operand tokens dequeued (R203). -/
def cellDrawn (s : State) (c : Cell) (i : Instr) : State := s.updTask c.key fun x => x.takeRefs (portRefs (cellSrcs i))

/-- The task goes on after instruction i, whose effect left s1 (R139, R156); its weave has issued in this cycle (R16). -/
def cellPassed (s1 : State) (c : Cell) (i : Instr) : State :=
  noteIssue c (finishCell c.key (cellSc i) Task.advance (addOps c.key.stand (countedLanes i c) s1))

/-- The task waits with nothing done: no bounded wait is under way (R18). -/
def cellHolds (s : State) (c : Cell) : State := s.updTask c.key fun x => { x with wait := none }

/-- An instruction that takes its operands, writes results and goes on. -/
def cellWrote (s : State) (c : Cell) (i : Instr) (p : Pend) : State := cellPassed (writeResult c.key p (cellDrawn s c i)) c i

/-- A trap of instruction i at its word (R341). -/
def cellTrapped (s1 : State) (c : Cell) (cause : Nat) (op1 op2 op3 op4 : W32) : State :=
  noteIssue c (cellTrap c.key cause 0 c.tk.pc op1 op2 op3 op4 s1)

/-- Source field j of an instruction: 0 a, 1 b, 2 c, 3 e, 4 d. -/
def cellSrc (c : Cell) (i : Instr) (j : Nat) : Vec := c.opd (cellSrcs i) j

/-! ## Engines -/

/-- It is the turn of an engine context whose oldest unfinished command is instruction i. -/
structure EngTurn (s : State) (x : EngAt) (i : Instr) : Prop where
  actor : s.actor = .engine x.key
  found : s.engAt? x.key = some x
  going : x.g.halted = false
  word : decodeSkid x.c.word = some i

/-- The command goes on: no PCMD of its VF keeps it from its accesses (R315). -/
structure EngMay (s : State) (x : EngAt) (i : Instr) : Prop extends EngTurn s x i where
  free : x.c.isHeld s x.st = false

end Sys2Proof
end

