-- ==== Sys2Proof/Certificates/Slice0/Obligations.lean ====
section
/-! DEFINITION. The statements about the model, for the provers. -/

/-! ## Sequencer: arithmetic (R173 to R175) -/

namespace Sys2Proof.Claims

open Sys2Proof.Machine

/-- The functions of SR.ALU on two registers (R173), with R35's divisions. -/
def aluTable : List ((SR → Instr) × (W64 → W64 → W64)) :=
  [(.srAluAdd, fun a b => a + b), (.srAluSub, fun a b => a - b),
   (.srAluMul, fun a b => BitVec.ofNat 64 (a.toNat * b.toNat)),
   (.srAluMulh, fun a b => BitVec.ofInt 64 (a.toInt * b.toInt / 2 ^ 64)),
   (.srAluDiv, fun a b => if b = 0 then BitVec.allOnes 64 else BitVec.ofInt 64 (a.toInt.tdiv b.toInt)),
   (.srAluDivn, fun a b => if b = 0 then BitVec.allOnes 64 else BitVec.ofNat 64 (a.toNat / b.toNat)),
   (.srAluRem, fun a b => if b = 0 then a else BitVec.ofInt 64 (a.toInt.tmod b.toInt)),
   (.srAluRemn, fun a b => if b = 0 then a else BitVec.ofNat 64 (a.toNat % b.toNat)),
   (.srAluAnd, fun a b => a &&& b), (.srAluOr, fun a b => a ||| b), (.srAluXor, fun a b => a ^^^ b),
   (.srAluAndn, fun a b => a &&& ~~~b), (.srAluShl, fun a b => a <<< (b.toNat % 64)),
   (.srAluShr, fun a b => a >>> (b.toNat % 64)), (.srAluSra, fun a b => a.sshiftRight (b.toNat % 64)),
   (.srAluMin, fun a b => if a.toInt < b.toInt then a else b), (.srAluMax, fun a b => if a.toInt < b.toInt then b else a),
   (.srAluMinn, fun a b => if a.toNat < b.toNat then a else b), (.srAluMaxn, fun a b => if a.toNat < b.toNat then b else a)]

/-- The conditions of SQ.CMP (R174). -/
def cmpTable : List ((SR → Instr) × (W64 → W64 → Bool)) :=
  [(.sqCmpEq, fun a b => a == b), (.sqCmpNe, fun a b => a != b), (.sqCmpLt, fun a b => a.toInt < b.toInt),
   (.sqCmpLe, fun a b => a.toInt ≤ b.toInt), (.sqCmpLtn, fun a b => a.toNat < b.toNat), (.sqCmpLen, fun a b => a.toNat ≤ b.toNat)]

/-- The combinations of predicates of SQ.CMP. -/
def predTable : List ((SR → Instr) × (Bool → Bool → Bool)) :=
  [(.sqCmpQand, fun a b => a && b), (.sqCmpQor, fun a b => a || b), (.sqCmpQnot, fun a _ => !a)]

/-- The SI forms with an immediate that write d. -/
def immTable : List ((SI → Instr) × (W64 → W64 → W64)) :=
  [(.siAddi, fun a v => a + v), (.siAndi, fun a v => a &&& v), (.siOri, fun a v => a ||| v), (.siXori, fun a v => a ^^^ v)]

/-- The shift forms. -/
def shiftTable : List ((SI → Instr) × (W64 → Nat → W64)) :=
  [(.siShli, fun a n => a <<< n), (.siShri, fun a n => a >>> n), (.siSrai, fun a n => a.sshiftRight n)]

/-- The conditions of SI.CMPI by code (R150). -/
def cmpiCond (cc : Nat) (a v : W64) : Bool :=
  match cc with
  | 0 => a == v
  | 1 => a != v
  | 2 => a.toInt < v.toInt
  | 3 => a.toInt ≤ v.toInt
  | 4 => a.toNat < v.toNat
  | _ => a.toNat ≤ v.toNat

/-- The immediate v of an SI form (R149, R175). -/
def immOf (c : SeqCtx) (imm14 : BitVec 14) : W64 :=
  match c.limm with
  | none => imm14.signExtend 64
  | some p => (BitVec.ofNat 40 (p.1.toNat * 2 ^ 14 + imm14.toNat)).signExtend 64

end Sys2Proof.Claims

open Sys2Proof Sys2Proof.Machine Sys2Proof.Claims

/-- R173 with R35 and R171: every function of SR.ALU writes d with its value, poisoned when a source is; CLZ and POPC read a
alone; SEL selects by q and is not guarded; a false guard leaves only the pc's advance (R147). Every other part of the state
stays, for the next state is given whole. The template's example word decodes. -/
def Obligations.SeqAluResult : Prop :=
  (decodeSeq 0x01545201).toOption = some (.srAluAdd ⟨0x15, 0x11, 0x12, 1⟩) ∧
  ∀ (s : State) (q : SeqId) (f : SR),
    (∀ p ∈ aluTable, SeqMay s q (p.1 f) false [] → (s.ctx q).pred f.q.toNat = true →
      exec (p.1 f) s = .next (ctxPut s q f.d (p.2 (regV s q f.a) (regV s q f.b)) (regP s q f.a || regP s q f.b))) ∧
    (SeqMay s q (.srAluClz f) false [] → (s.ctx q).pred f.q.toNat = true →
      exec (.srAluClz f) s = .next (ctxPut s q f.d (BitVec.ofNat 64 (leadZeros 64 (regV s q f.a).toNat)) (regP s q f.a))) ∧
    (SeqMay s q (.srAluPopc f) false [] → (s.ctx q).pred f.q.toNat = true →
      exec (.srAluPopc f) s = .next (ctxPut s q f.d (BitVec.ofNat 64 (popCount 64 (regV s q f.a).toNat)) (regP s q f.a))) ∧
    (SeqMay s q (.srAluSel f) false [] →
      exec (.srAluSel f) s = .next (ctxPut s q f.d (if (s.ctx q).pred f.q.toNat then regV s q f.a else regV s q f.b)
        (regP s q f.a || regP s q f.b))) ∧
    (∀ i ∈ aluTable.map (fun p => p.1 f) ++ [.srAluClz f, .srAluPopc f], SeqMay s q i false [] →
      (s.ctx q).pred f.q.toNat = false → exec i s = .next (ctxNext s q))

/-- R174 with R171: SQ.CMP writes predicate d[2:0], and a write to q0 is ignored; comparisons read clean registers. -/
def Obligations.SeqCmpResult : Prop :=
  (decodeSeq 0x04145210).toOption = some (.sqCmpLt ⟨1, 0x11, 0x12, 0⟩) ∧ (∀ (c : SeqCtx) (b : Bool), c.setPred 0 b = c) ∧
  ∀ (s : State) (q : SeqId) (f : SR), (s.ctx q).pred f.q.toNat = true →
    (∀ p ∈ cmpTable, SeqMay s q (p.1 f) false [f.a, f.b] →
      exec (p.1 f) s = .next (ctxPutP s q f.d.toNat (p.2 (regV s q f.a) (regV s q f.b)))) ∧
    (∀ p ∈ predTable, SeqMay s q (p.1 f) false [] →
      exec (p.1 f) s = .next (ctxPutP s q f.d.toNat (p.2 ((s.ctx q).pred f.a.toNat) ((s.ctx q).pred f.b.toNat))))

/-- R175 with R149 and R171: the SI arithmetic forms, a prefix before them or not; the shift forms take none. -/
def Obligations.SeqImmediateResult : Prop :=
  (decodeSeq 0x29100003).toOption = some (.siMovi ⟨0x11, 0, 3⟩) ∧
  ∀ (s : State) (q : SeqId) (f : SI),
    (∀ p ∈ immTable, SeqMay s q (p.1 f) true [] →
      exec (p.1 f) s = .next (ctxPut s q f.d (p.2 (regV s q f.a) (immOf (s.ctx q) f.imm14)) (regP s q f.a))) ∧
    (∀ p ∈ shiftTable, SeqMay s q (p.1 f) false [] →
      exec (p.1 f) s = .next (ctxPut s q f.d (p.2 (regV s q f.a) (f.imm14.toNat % 64)) (regP s q f.a))) ∧
    (SeqMay s q (.siCmpi f) true [f.a] →
      exec (.siCmpi f) s = .next (ctxPutP s q (f.d.toNat % 8) (cmpiCond (f.d.toNat / 8) (regV s q f.a) (immOf (s.ctx q) f.imm14)))) ∧
    (SeqMay s q (.siMovi f) true [] →
      exec (.siMovi f) s = .next (ctxPut s q f.d (immOf (s.ctx q) f.imm14) false))

/-- R147, R169, R174: a register reads back what was written, every other register keeps its value, and g0 reads as zero,
clean, and ignores writes; a predicate reads back, the others keep their values, and q0 reads as true and ignores writes; a
write leaves the rest of the context as it was. -/
def Obligations.SeqFiles : Prop :=
  (∀ (c : SeqCtx) (d r : Code6) (x : Reg),
    (c.reg 0 = ⟨0, false⟩) ∧ (c.setReg 0 x = c) ∧ (d ≠ 0 → (c.setReg d x).reg d = x) ∧
    (r ≠ d → (c.setReg d x).reg r = c.reg r) ∧ { c.setReg d x with g := c.g, w := c.w } = c) ∧
  (∀ (c : SeqCtx) (n m : Nat) (b : Bool), n < 8 → m < 8 →
    c.pred 0 = true ∧ c.setPred 0 b = c ∧ (n ≠ 0 → (c.setPred n b).pred n = b) ∧ (m ≠ n → (c.setPred n b).pred m = c.pred m) ∧
    { c.setPred n b with q := c.q } = c)

/-- R149: SL.LIMM changes nothing but the pending immediate and the pc, and a second one in its place traps with ILLEGAL
whose EPC is the first's address.
R148, R183: after a word that ends no loop body, within bodies or outside, the pc moves on by 4 and the loops stay; after the
last word of the innermost body it goes back to the body's start while a repetition is left; a body that is done is left, and
then the body around it steps if it ends at the same word, and the pc moves on by 4 if none does. -/
def Obligations.SeqPrefixAndAdvance : Prop :=
  (∀ (s : State) (q : SeqId) (imm : BitVec 26), SeqTurn s q →
    ((s.ctx q).limm = none →
      exec (.slLimm imm) s = .next (s.setCtx { (s.ctx q).advance with limm := some (imm, (s.ctx q).pc) })) ∧
    (∀ v pc0, (s.ctx q).limm = some (v, pc0) → (s.ctx q).h = false → (s.ctx q).tvec ≠ 0 →
      ∃ t, exec (.slLimm imm) s = .next t ∧ (t.ctx q).epc = BitVec.ofNat 64 pc0 ∧ (t.ctx q).tcause = 0x01 ∧
        (t.ctx q).h = true ∧ (t.ctx q).pc = (s.ctx q).tvec.toNat ∧ (t.ctx q).limm = none)) ∧
  (∀ (s : State) (q : SeqId),
    ((s.ctx q).loops = [] → ((ctxNext s q).ctx q).pc = (s.ctx q).pc + 4 ∧ ((ctxNext s q).ctx q).loops = []) ∧
    (∀ l ls, (s.ctx q).loops = l :: ls → l.last = (s.ctx q).pc → 1 < l.count →
      ((ctxNext s q).ctx q).pc = l.start ∧ ((ctxNext s q).ctx q).loops = { l with count := l.count - 1 } :: ls) ∧
    (∀ l, (s.ctx q).loops = [l] → l.last = (s.ctx q).pc → l.count ≤ 1 →
      ((ctxNext s q).ctx q).pc = (s.ctx q).pc + 4 ∧ ((ctxNext s q).ctx q).loops = []) ∧
    (∀ l ls, (s.ctx q).loops = l :: ls → l.last ≠ (s.ctx q).pc →
      ((ctxNext s q).ctx q).pc = (s.ctx q).pc + 4 ∧ ((ctxNext s q).ctx q).loops = l :: ls) ∧
    (∀ l o ls, (s.ctx q).loops = l :: o :: ls → l.last = (s.ctx q).pc → l.count ≤ 1 →
      (o.last = (s.ctx q).pc → 1 < o.count →
        ((ctxNext s q).ctx q).pc = o.start ∧ ((ctxNext s q).ctx q).loops = { o with count := o.count - 1 } :: ls) ∧
      (o.last = (s.ctx q).pc → o.count ≤ 1 → ls = [] →
        ((ctxNext s q).ctx q).pc = (s.ctx q).pc + 4 ∧ ((ctxNext s q).ctx q).loops = []) ∧
      (o.last ≠ (s.ctx q).pc →
        ((ctxNext s q).ctx q).pc = (s.ctx q).pc + 4 ∧ ((ctxNext s q).ctx q).loops = o :: ls)) ∧
    (∀ ls, (s.ctx q).loops = ls → ((ctxNext s q).ctx q).pc = (reachEnd 4 ls (s.ctx q).pc).2 ∧
      ((ctxNext s q).ctx q).loops = (reachEnd 4 ls (s.ctx q).pc).1) ∧
    (∀ r, ((ctxNext s q).ctx q).reg r = (s.ctx q).reg r) ∧ (ctxNext s q).mem = s.mem ∧ (ctxNext s q).lmem = s.lmem)

/-! ## Sequencer: memory (R170, R176 to R178) -/

namespace Sys2Proof.Claims

open Sys2Proof.Machine

/-- The loads with their widths in bytes (R176). -/
def loadTable : List ((SI → Instr) × Nat) := [(.siLdb, 1), (.siLdh, 2), (.siLdw, 4), (.siLdd, 8)]

/-- The stores with their widths in bytes. -/
def storeTable : List ((SI → Instr) × Nat) := [(.siStb, 1), (.siSth, 2), (.siStw, 4), (.siStd, 8)]

/-- The new doubleword of SA.AMO (R178) from the old one, b and d. -/
def amoTable : List ((SR → Instr) × (W64 → W64 → W64 → W64)) :=
  [(.saAmoAdd, fun o b _ => o + b), (.saAmoMin, fun o b _ => if o.toInt < b.toInt then o else b),
   (.saAmoMax, fun o b _ => if o.toInt < b.toInt then b else o), (.saAmoAnd, fun o b _ => o &&& b),
   (.saAmoOr, fun o b _ => o ||| b), (.saAmoXchg, fun _ b _ => b), (.saAmoCas, fun o b d => if o = d then b else o)]

/-- The registers that must be clean for SA.AMO: d too for CAS (R171). -/
def amoReads (i : Instr) (f : SR) : List Code6 := if i = .saAmoCas f then [f.a, f.b, f.d] else [f.a, f.b]

/-- The address of an SI access. -/
def siAddr (s : State) (q : SeqId) (f : SI) : W64 := regV s q f.a + immOf (s.ctx q) f.imm14

/-- The state in which the translation of an address that the context accesses stands in its island's TLB (R293). -/
def seqUsed (s : State) (q : SeqId) (a : W64) : State := seqTouch (s.ctx q) a s

/-- The bytes of a memory from an address outside a stored range are the same in another. -/
def sameOutside (m m' : Memory) (a n : Nat) : Prop := ∀ x, x < a ∨ a + n ≤ x → m'.byte x = m.byte x

end Sys2Proof.Claims

/-- R170, R176, R337: an address with bits [63:57] set traps with TRANSLATION, a misaligned one with ALIGN; the 256 KiB of local
memory stand at 0x01FF_FFFF_FFFC_0000 and are not translated; the trap-queue registers stand at 0xF800 to 0xF817 of each
context's 64 KiB. That an address with both faults traps with TRANSLATION, its class bits being examined before its alignment,
is the model's choice (log 13). -/
def Obligations.SeqAddressRules : Prop :=
  ∀ (s : State) (c : SeqCtx) (a : W64) (n : Nat) (acc : Access), n ∈ [1, 2, 4, 8] →
    (2 ^ 57 ≤ a.toNat → seqPlace s c a n acc = .error 0x07) ∧
    (a.toNat < 2 ^ 57 → a.toNat % n ≠ 0 → seqPlace s c a n acc = .error 0x0F) ∧
    (∀ off, off < 0x40000 → a.toNat = 0x01FFFFFFFFFC0000 + off → off % n = 0 →
      (off % 0x10000 < 0xF800 ∨ 0xF818 ≤ off % 0x10000 → seqPlace s c a n acc = .ok (.local off)) ∧
      (0xF800 ≤ off % 0x10000 → off % 0x10000 < 0xF818 →
        seqPlace s c a n acc = .ok (.queue (off / 0x10000) (off % 0x10000 - 0xF800))))

/-- R176 with R171: a load of n bytes writes d with the little-endian value at wrap64(a + v), sign-extended, poisoned when a
word it reads is; a place that does not resolve traps with its cause and the address, and d keeps its value. While a PCMD of
the VF is under way (R315), or the queue of its ride at its line's slice is full (R288), an access to main memory is held: that
it then waits where it stands is the model's choice (logs 106, 182). -/
def Obligations.SeqLoadResult : Prop :=
  ∀ (s : State) (q : SeqId) (f : SI), ∀ p ∈ loadTable, SeqMay s q (p.1 f) true [f.a] →
    (∀ x, seqPlace s (s.ctx q) (siAddr s q f) p.2 .read = .ok x →
      (seqHeld s (s.ctx q) x = false →
        exec (p.1 f) s = .next (ctxPut (seqUsed s q (siAddr s q f)) q f.d
          (BitVec.ofInt 64 (toSigned (8 * p.2) (seqRead s (s.ctx q) p.2 x).1)) (seqRead s (s.ctx q) p.2 x).2)) ∧
      (seqHeld s (s.ctx q) x = true → exec (p.1 f) s = .next s)) ∧
    (∀ cause, seqPlace s (s.ctx q) (siAddr s q f) p.2 .read = .error cause →
      exec (p.1 f) s = .next (seqTrap q cause (siAddr s q f) s))

/-- R177: what a load reads: local memory, the committed memory for a root program, and the committed memory with the
stand's own segment over it for a context that feeds a stand. -/
def Obligations.SeqReadView : Prop :=
  ∀ (s : State) (c : SeqCtx) (n a : Nat),
    seqRead s c n (.local a) = (natOfBytesLE (s.lmem.bytesAt (localAddr c.id a) n), s.lmem.anyPoison (localAddr c.id a) n) ∧
    (∀ v, c.bind = .root v → seqRead s c n (.mem a) = (natOfBytesLE (s.mem.bytesAt a n), s.mem.anyPoison a n)) ∧
    (∀ st t, c.bind = .stand st → s.stand? st = some t →
      seqRead s c n (.mem a) = (natOfBytesLE ((standView s.mem t.seg).bytesAt a n), (standView s.mem t.seg).anyPoison a n))

/-- R176, R177: a store writes the low n bytes of d, with d's poison bit, at wrap64(a + v): to local memory and for a root
program at once, for a stand into its segment, where there is room; registers keep their values; to a trap-queue register as R337 says, once the context
stands after the store. A full segment makes the
store wait for a wave (R328), and a place that does not resolve traps. Nothing holds the access (R288, R315). -/
def Obligations.SeqStoreResult : Prop :=
  ∀ (s : State) (q : SeqId) (f : SI), ∀ p ∈ storeTable, SeqMay s q (p.1 f) true [f.a] →
    (∀ off, seqPlace s (s.ctx q) (siAddr s q f) p.2 .write = .ok (.local off) →
      exec (p.1 f) s = .next (ctxNext (withLmem s
        (s.lmem.store (localAddr q off) (bytesLE p.2 (regV s q f.d).toNat) (regP s q f.d))) q)) ∧
    (∀ v pa, (s.ctx q).bind = .root v → seqHeld s (s.ctx q) (.mem pa) = false → seqPlace s (s.ctx q) (siAddr s q f) p.2 .write = .ok (.mem pa) →
      exec (p.1 f) s = .next (ctxNext (withMem (seqUsed s q (siAddr s q f))
        (s.mem.store pa (bytesLE p.2 (regV s q f.d).toNat) (regP s q f.d))) q)) ∧
    (∀ st t pa, (s.ctx q).bind = .stand st → s.stand? st = some t → seqHeld s (s.ctx q) (.mem pa) = false →
      seqPlace s (s.ctx q) (siAddr s q f) p.2 .write = .ok (.mem pa) →
      ∀ s1, s1 = seqUsed s q (siAddr s q f) →
      (s1.hasRoom t (heldDie s1 t pa) (.write pa (bytesLE p.2 (regV s q f.d).toNat) (regP s q f.d)) = true →
        exec (p.1 f) s = .next (ctxNext (s1.setStand (t.hold (heldDie s1 t pa) .ctx
          (.write pa (bytesLE p.2 (regV s q f.d).toNat) (regP s q f.d)))) q)) ∧
      (s1.hasRoom t (heldDie s1 t pa) (.write pa (bytesLE p.2 (regV s q f.d).toNat) (regP s q f.d)) = false →
        exec (p.1 f) s = .next (giveUp q .waiting ((requestWave st WaveFlags.none s1).updCtx q fun c =>
          { c with wait := some (.segment, 0) })))) ∧
    (∀ k reg, seqPlace s (s.ctx q) (siAddr s q f) p.2 .write = .ok (.queue k reg) →
      exec (p.1 f) s = .next (queueStore { q with ctx := k } reg p.2 (regV s q f.d).toNat (ctxNext s q))) ∧
    (∀ cause, seqPlace s (s.ctx q) (siAddr s q f) p.2 .write = .error cause →
      exec (p.1 f) s = .next (seqTrap q cause (siAddr s q f) s))

/-- The frame of the stores of a root program and to local memory: the stored bytes are d's, every other byte of either
memory reads as before, and every register keeps its value (both memories being in canonical form). -/
def Obligations.SeqStoreFrame : Prop :=
  ∀ (s t : State) (q : SeqId) (f : SI), Safe s → ∀ p ∈ storeTable, SeqMay s q (p.1 f) true [f.a] → exec (p.1 f) s = .next t →
    (∀ off, seqPlace s (s.ctx q) (siAddr s q f) p.2 .write = .ok (.local off) →
      t.mem = s.mem ∧ sameOutside s.lmem t.lmem (localAddr q off) p.2 ∧
      t.lmem.bytesAt (localAddr q off) p.2 = bytesLE p.2 (regV s q f.d).toNat ∧ ∀ r, (t.ctx q).reg r = (s.ctx q).reg r) ∧
    (∀ v pa, (s.ctx q).bind = .root v → seqHeld s (s.ctx q) (.mem pa) = false → seqPlace s (s.ctx q) (siAddr s q f) p.2 .write = .ok (.mem pa) →
      t.lmem = s.lmem ∧ sameOutside s.mem t.mem pa p.2 ∧
      t.mem.bytesAt pa p.2 = bytesLE p.2 (regV s q f.d).toNat ∧ ∀ r, (t.ctx q).reg r = (s.ctx q).reg r)

/-- R178 with R171: SA.AMO writes d with the old doubleword and memory with the new one, in local memory and at once in memory
for a root program. A poisoned word traps with SYNC_POISON and its address (R200), host memory with PROTECTION (R331), and
neither writes anything. For a context of a stand it first commits the words that the stand's own segment holds there (R331), unless one of them
is poisoned. Nothing holds the access (R288, R315). -/
def Obligations.SeqAtomicResult : Prop :=
  (decodeSeq 0x61341100).toOption = some (.saAmoAdd ⟨0x13, 0x10, 0x11, 0⟩) ∧
  ∀ (s : State) (q : SeqId) (f : SR), ∀ p ∈ amoTable, SeqMay s q (p.1 f) false (amoReads (p.1 f) f) →
    (s.ctx q).pred f.q.toNat = true →
    (∀ off, seqPlace s (s.ctx q) (regV s q f.a) 8 .both = .ok (.local off) →
      (poisonAt s.lmem (localAddr q off) 8 = none →
        exec (p.1 f) s = .next (ctxNext (State.setCtx (withLmem s (s.lmem.store (localAddr q off)
            (bytesLE 8 (p.2 (BitVec.ofNat 64 (s.lmem.readN (localAddr q off) 8)) (regV s q f.b) (regV s q f.d)).toNat) false))
          ((s.ctx q).setReg f.d ⟨BitVec.ofNat 64 (s.lmem.readN (localAddr q off) 8), false⟩)) q)) ∧
      (∀ k, poisonAt s.lmem (localAddr q off) 8 = some k →
        exec (p.1 f) s = .next (seqTrap q 0x06 (BitVec.ofNat 64 (2 ^ 63 + ((regV s q f.a).toNat + k) % 2 ^ 57)) s))) ∧
    (∀ v pa, (s.ctx q).bind = .root v → seqHeld s (s.ctx q) (.mem pa) = false → seqPlace s (s.ctx q) (regV s q f.a) 8 .both = .ok (.mem pa) →
      (isHost pa = false → poisonAt s.mem pa 8 = none →
        exec (p.1 f) s = .next (ctxNext (State.setCtx (withMem (seqUsed s q (regV s q f.a)) (s.mem.store pa
            (bytesLE 8 (p.2 (BitVec.ofNat 64 (s.mem.readN pa 8)) (regV s q f.b) (regV s q f.d)).toNat) false))
          ((s.ctx q).setReg f.d ⟨BitVec.ofNat 64 (s.mem.readN pa 8), false⟩)) q)) ∧
      (∀ k, isHost pa = false → poisonAt s.mem pa 8 = some k →
        exec (p.1 f) s = .next (seqTrap q 0x06 (BitVec.ofNat 64 (2 ^ 63 + ((regV s q f.a).toNat + k) % 2 ^ 57))
          (seqUsed s q (regV s q f.a)))) ∧
      (isHost pa = true → exec (p.1 f) s = .next (seqTrap q 0x08 (regV s q f.a) (seqUsed s q (regV s q f.a))))) ∧
    (∀ cause, seqPlace s (s.ctx q) (regV s q f.a) 8 .both = .error cause →
      exec (p.1 f) s = .next (seqTrap q cause (regV s q f.a) s)) ∧
    (∀ k reg old, seqPlace s (s.ctx q) (regV s q f.a) 8 .both = .ok (.queue k reg) →
      old = BitVec.ofNat 64 (queueReg s { q with ctx := k } reg) →
      exec (p.1 f) s = .next (queueStore { q with ctx := k } reg 8 (p.2 old (regV s q f.b) (regV s q f.d)).toNat
        (ctxPut s q f.d old false))) ∧
    (∀ st pa, (s.ctx q).bind = .stand st → seqHeld s (s.ctx q) (.mem pa) = false → isHost pa = true →
      seqPlace s (s.ctx q) (regV s q f.a) 8 .both = .ok (.mem pa) →
      exec (p.1 f) s = .next (seqTrap q 0x08 (regV s q f.a) (seqUsed s q (regV s q f.a)))) ∧
    (∀ st pa, (s.ctx q).bind = .stand st → seqHeld s (s.ctx q) (.mem pa) = false → isHost pa = false →
      seqPlace s (s.ctx q) (regV s q f.a) 8 .both = .ok (.mem pa) →
      ∀ s1, s1 = commitWord st (pa + 4) (commitWord st pa (seqUsed s q (regV s q f.a))) →
      (∀ k, poisonAt s1.mem pa 8 = some k →
        exec (p.1 f) s = .next (seqTrap q 0x06 (BitVec.ofNat 64 (2 ^ 63 + ((regV s q f.a).toNat + k) % 2 ^ 57))
          (seqUsed s q (regV s q f.a)))) ∧
      (poisonAt s1.mem pa 8 = none →
        exec (p.1 f) s = .next (ctxNext (State.setCtx (withMem s1 (s1.mem.store pa
            (bytesLE 8 (p.2 (BitVec.ofNat 64 (s1.mem.readN pa 8)) (regV s q f.b) (regV s q f.d)).toNat) false))
          ((s.ctx q).setReg f.d ⟨BitVec.ofNat 64 (s1.mem.readN pa 8), false⟩)) q)))


/-! ## Sequencer: control flow, windows and loops (R179 to R184) -/

namespace Sys2Proof.Claims

open Sys2Proof.Machine

/-- The context takes a branch to t: levels whose body does not hold t are left (R183). -/
def ctxBranch (s : State) (q : SeqId) (t : Nat) : State :=
  s.updCtx q fun c => { c with pc := t, loops := leaveLoops t c.loops, limm := none }

/-- The context goes to t with its loop stack as it is. -/
def ctxGo (s : State) (q : SeqId) (t : Nat) : State := s.updCtx q fun c => { c with pc := t, limm := none }

/-- t is the branch target of a displacement in words, within the text (R148, R179). -/
def reaches (c : SeqCtx) (disp : Int) (t : Nat) : Prop := (t : Int) = (c.pc : Int) + 4 * disp ∧ t < 4 * c.text.length

/-- The branch target of a displacement lies outside the text. -/
def beyond (c : SeqCtx) (disp : Int) : Prop := (c.pc : Int) + 4 * disp < 0 ∨ 4 * (c.text.length : Int) ≤ (c.pc : Int) + 4 * disp

/-- The word of an instruction as TINFO of ILLEGAL holds it (R200). -/
def infoOf (i : Instr) : W64 := ((encodeSeq i).getD 0).setWidth 64

/-- A call in a state: depth and residency rise, and w15 of the new window is the return address (R180). -/
def called (s : State) (q : SeqId) (ret t : Nat) : State :=
  ctxGo (s.updCtx q fun c =>
    ({ c with depth := c.depth + 1, resident := c.resident + 1 } : SeqCtx).setReg 31 ⟨BitVec.ofNat 64 ret, false⟩) q t

end Sys2Proof.Claims

/-- R179: a branch that is taken goes to pc + 4·disp, a jump always, SR.JR JUMP to the byte offset a; a branch that is not
taken only goes on, which the model chooses where its target lies outside the text too (log 11). A taken branch, a jump or a call whose target lies outside the text traps with ILLEGAL and its word, and a
target register that is not a multiple of 4 traps with ALIGN and the register (R200). -/
def Obligations.SeqBranches : Prop :=
  (∀ (s : State) (q : SeqId) (t : Nat),
    (∀ f : SB, SeqMay s q (.sbBr f) false [] →
      ((s.ctx q).pred f.q.toNat = (f.sense == 1) → reaches (s.ctx q) f.disp16.toInt t →
        exec (.sbBr f) s = .next (ctxBranch s q t)) ∧
      ((s.ctx q).pred f.q.toNat ≠ (f.sense == 1) → exec (.sbBr f) s = .next (ctxNext s q))) ∧
    (∀ f : SB, SeqMay s q (.sbBz f) false [f.a] →
      ((regV s q f.a == 0) = (f.sense == 1) → reaches (s.ctx q) f.disp16.toInt t →
        exec (.sbBz f) s = .next (ctxBranch s q t)) ∧
      ((regV s q f.a == 0) ≠ (f.sense == 1) → exec (.sbBz f) s = .next (ctxNext s q))) ∧
    (∀ d : BitVec 26, SeqMay s q (.sjJmp d) false [] → reaches (s.ctx q) d.toInt t →
      exec (.sjJmp d) s = .next (ctxBranch s q t)) ∧
    (∀ f : SR, SeqMay s q (.srJrJump f) false [f.a] → (s.ctx q).pred f.q.toNat = true → (regV s q f.a).toNat = t →
      t % 4 = 0 → t < 4 * (s.ctx q).text.length → exec (.srJrJump f) s = .next (ctxBranch s q t))) ∧
  (∀ (s : State) (q : SeqId),
    (∀ f : SB, SeqMay s q (.sbBr f) false [] → (s.ctx q).pred f.q.toNat = (f.sense == 1) → beyond (s.ctx q) f.disp16.toInt →
      exec (.sbBr f) s = .next (seqTrap q 0x01 (infoOf (.sbBr f)) s)) ∧
    (∀ f : SB, SeqMay s q (.sbBz f) false [f.a] → (regV s q f.a == 0) = (f.sense == 1) → beyond (s.ctx q) f.disp16.toInt →
      exec (.sbBz f) s = .next (seqTrap q 0x01 (infoOf (.sbBz f)) s)) ∧
    (∀ d : BitVec 26, SeqMay s q (.sjJmp d) false [] → beyond (s.ctx q) d.toInt →
      exec (.sjJmp d) s = .next (seqTrap q 0x01 (infoOf (.sjJmp d)) s)) ∧
    (∀ d : BitVec 26, SeqMay s q (.sjCall d) false [] → beyond (s.ctx q) d.toInt →
      exec (.sjCall d) s = .next (seqTrap q 0x01 (infoOf (.sjCall d)) s)) ∧
    (∀ f : SR, SeqMay s q (.srJrJump f) false [f.a] → (s.ctx q).pred f.q.toNat = true →
      ((regV s q f.a).toNat % 4 ≠ 0 → exec (.srJrJump f) s = .next (seqTrap q 0x0F (regV s q f.a) s)) ∧
      ((regV s q f.a).toNat % 4 = 0 → 4 * (s.ctx q).text.length ≤ (regV s q f.a).toNat →
        exec (.srJrJump f) s = .next (seqTrap q 0x01 (infoOf (.srJrJump f)) s))))

/-- R180, R181: a call with fewer than seven windows resident; with seven, the oldest is spilled first, and where it does not
fit the call traps with WINDOW_OVERFLOW and WSP before any change.
R180: SX.RET with a caller's window resident goes to w15 and takes the depth and the residency down; with none resident it
fills the caller's window; at depth 0 it ends the entry: a root program's context halts.
R171, R180: a return address in w15 that is poisoned traps with SYNC_POISON and the register's code, one that is no multiple of
4 with ALIGN and the register, before any change; SR.JR CALL to a target that is no multiple of 4, or outside the text, traps
as SR.JR JUMP does. -/
def Obligations.SeqCallReturn : Prop :=
  (∀ (s : State) (q : SeqId) (t : Nat), ∀ i,
    (∃ d, i = .sjCall d ∧ SeqMay s q i false [] ∧ reaches (s.ctx q) d.toInt t) ∨
    (∃ f, i = .srJrCall f ∧ SeqMay s q i false [f.a] ∧ (s.ctx q).pred f.q.toNat = true ∧ (regV s q f.a).toNat = t ∧
      t % 4 = 0 ∧ t < 4 * (s.ctx q).text.length) →
    ((s.ctx q).resident ≠ 7 → exec i s = .next (called s q ((s.ctx q).pc + 4) t)) ∧
    ((s.ctx q).resident = 7 → ∀ s1, spill q s = some s1 → exec i s = .next (called s1 q ((s.ctx q).pc + 4) t)) ∧
    ((s.ctx q).resident = 7 → (s.ctx q).wlim.toNat < (s.ctx q).wsp.toNat + 264 →
      exec i s = .next (seqTrap q 0x0E (s.ctx q).wsp s))) ∧
  (∀ (s : State) (q : SeqId) (f : SX), SeqMay s q (.sxRet f) false [] →
    ((s.ctx q).depth ≠ 0 → regP s q 31 = true → exec (.sxRet f) s = .next (seqTrap q 0x06 31 s)) ∧
    ((s.ctx q).depth ≠ 0 → regP s q 31 = false → (regV s q 31).toNat % 4 ≠ 0 →
      exec (.sxRet f) s = .next (seqTrap q 0x0F (regV s q 31) s)) ∧
    ((s.ctx q).depth ≠ 0 → regP s q 31 = false → (regV s q 31).toNat % 4 = 0 →
      (1 < (s.ctx q).resident → exec (.sxRet f) s = .next (ctxGo (s.updCtx q fun c =>
        { c with depth := (s.ctx q).depth - 1, resident := (s.ctx q).resident - 1 }) q (regV s q 31).toNat)) ∧
      ((s.ctx q).resident ≤ 1 → exec (.sxRet f) s = .next (ctxGo ((fill q ((s.ctx q).depth - 1) s).updCtx q fun c =>
        { c with depth := (s.ctx q).depth - 1, resident := (s.ctx q).resident }) q (regV s q 31).toNat))) ∧
    ((s.ctx q).depth = 0 → ∀ v, (s.ctx q).bind = .root v →
      exec (.sxRet f) s = .next (giveUp q .halted (s.setCtx { (s.ctx q) with
        h := (s.ctx q).h && !(s.ctx q).fromIdle, fromIdle := false, limm := none }))) ∧
    ((s.ctx q).depth = 0 → ∀ st, (s.ctx q).bind = .stand st → exec (.sxRet f) s = .next (endFeed st s))) ∧
  (∀ (s : State) (q : SeqId) (f : SR), SeqMay s q (.srJrCall f) false [f.a] → (s.ctx q).pred f.q.toNat = true →
    ((regV s q f.a).toNat % 4 ≠ 0 → exec (.srJrCall f) s = .next (seqTrap q 0x0F (regV s q f.a) s)) ∧
    ((regV s q f.a).toNat % 4 = 0 → 4 * (s.ctx q).text.length ≤ (regV s q f.a).toNat →
      exec (.srJrCall f) s = .next (seqTrap q 0x01 (infoOf (.srJrCall f)) s)))

/-- R181: a spill stores w0 to w31 of the oldest resident window at WSP and at WSP + 256 a doubleword whose bits 31 to 0 are their
poison bits and whose other bits are 0, 264 bytes, and moves WSP; a
fill takes a window back from the top of the window stack. -/
def Obligations.SeqSpillFill : Prop :=
  ∀ (s : State) (q : SeqId), Safe s →
    ((s.ctx q).wlim.toNat < (s.ctx q).wsp.toNat + 264 → spill q s = none) ∧
    ((s.ctx q).wsp.toNat + 264 ≤ (s.ctx q).wlim.toNat → (s.ctx q).wsp.toNat + 264 < 2 ^ 18 →
      ∃ s1, spill q s = some s1 ∧ (s1.ctx q).wsp.toNat = (s.ctx q).wsp.toNat + 264 ∧
        (s1.ctx q).resident = (s.ctx q).resident - 1 ∧ s1.mem = s.mem ∧
        sameOutside s.lmem s1.lmem (localAddr q (s.ctx q).wsp.toNat) 264 ∧
        (∀ r, (s1.ctx q).reg r = (s.ctx q).reg r) ∧
        ∀ k, k < 32 → s1.lmem.readN (localAddr q ((s.ctx q).wsp.toNat + 8 * k)) 8 =
          (nth ⟨0, false⟩ (s.ctx q).w (windowReg ((s.ctx q).depth + 1 - (s.ctx q).resident) k)).v.toNat ∧
          (BitVec.ofNat 64 (s1.lmem.readN (localAddr q ((s.ctx q).wsp.toNat + 256)) 8)).getLsbD k =
            (nth ⟨0, false⟩ (s.ctx q).w (windowReg ((s.ctx q).depth + 1 - (s.ctx q).resident) k)).poison ∧
          s1.lmem.readN (localAddr q ((s.ctx q).wsp.toNat + 256)) 8 < 2 ^ 32) ∧
    (∀ d, 264 ≤ (s.ctx q).wsp.toNat → (s.ctx q).wsp.toNat < 2 ^ 18 →
      ((fill q d s).ctx q).wsp.toNat = (s.ctx q).wsp.toNat - 264 ∧ (fill q d s).lmem = s.lmem ∧
      ∀ k, k < 32 → nth ⟨0, false⟩ ((fill q d s).ctx q).w (windowReg d k) =
        ⟨BitVec.ofNat 64 (s.lmem.readN (localAddr q ((s.ctx q).wsp.toNat - 264 + 8 * k)) 8),
         (BitVec.ofNat 64 (s.lmem.readN (localAddr q ((s.ctx q).wsp.toNat - 264 + 256)) 8)).getLsbD k⟩)

/-- R182: SAVE spills when more than one window is resident, RESTORE fills the window below when it is not resident and there
is one, FLUSH spills all but the current one; otherwise each does nothing, and a spill that does not fit traps, FLUSH with the windows before it spilled. -/
def Obligations.SeqWindowOps : Prop :=
  ∀ (s : State) (q : SeqId) (f : SX),
    (SeqMay s q (.sxWinSave f) false [] →
      ((s.ctx q).resident ≤ 1 → exec (.sxWinSave f) s = .next (ctxNext s q)) ∧
      (1 < (s.ctx q).resident →
        (∀ s1, spill q s = some s1 → exec (.sxWinSave f) s = .next (ctxNext s1 q)) ∧
        (spill q s = none → exec (.sxWinSave f) s = .next (seqTrap q 0x0E (s.ctx q).wsp s)))) ∧
    (SeqMay s q (.sxWinRestore f) false [] →
      ((s.ctx q).depth = 0 ∨ 1 < (s.ctx q).resident → exec (.sxWinRestore f) s = .next (ctxNext s q)) ∧
      (0 < (s.ctx q).depth → (s.ctx q).resident ≤ 1 →
        exec (.sxWinRestore f) s = .next (ctxNext ((fill q ((s.ctx q).depth - 1) s).updCtx q fun c =>
          { c with resident := (s.ctx q).resident + 1 }) q))) ∧
    (SeqMay s q (.sxWinFlush f) false [] →
      ((s.ctx q).resident ≤ 1 → exec (.sxWinFlush f) s = .next (ctxNext s q)) ∧
      (∀ s1, spill q s = some s1 → (s.ctx q).resident = 2 → exec (.sxWinFlush f) s = .next (ctxNext s1 q)) ∧
      (∀ s1, (spillAll q 8 s) = (s1, true) → exec (.sxWinFlush f) s = .next (ctxNext s1 q)) ∧
      (∀ s1, (spillAll q 8 s) = (s1, false) → exec (.sxWinFlush f) s = .next (seqTrap q 0x0E (s1.ctx q).wsp s1)))

/-- R183: SB.LOOP latches a[39:0] and enters the body; a count of 0 skips the body as its end would; a body past the text or
past an enclosing body's end, or a fifth level, traps with ILLEGAL. -/
def Obligations.SeqLoopResult : Prop :=
  ∀ (s : State) (q : SeqId) (f : SB) (c : SeqCtx) (n e : Nat), c = s.ctx q → n = (regV s q f.a).toNat % 2 ^ 40 →
    e = c.pc + 4 * f.disp16.toInt.toNat → SeqMay s q (.sbLoop f) false [f.a] →
    (0 < f.disp16.toInt → e < 4 * c.text.length →
      (∀ l ∈ c.loops, l.start ≤ c.pc → c.pc ≤ l.last → e ≤ l.last) →
      (0 < n → c.loops.length < 4 →
        exec (.sbLoop f) s = .next (ctxGo (s.setCtx { c with loops := ⟨c.pc + 4, e, n, n⟩ :: c.loops }) q (c.pc + 4))) ∧
      (n = 0 → exec (.sbLoop f) s = .next (s.updCtx q fun c =>
        { c with loops := (reachEnd 4 c.loops e).1, pc := (reachEnd 4 c.loops e).2, limm := none })) ∧
      (0 < n → 4 ≤ c.loops.length → exec (.sbLoop f) s = .next (seqTrap q 0x01 (infoOf (.sbLoop f)) s))) ∧
    (f.disp16.toInt ≤ 0 ∨ 4 * c.text.length ≤ e ∨ (∃ l ∈ c.loops, l.start ≤ c.pc ∧ c.pc ≤ l.last ∧ l.last < e) →
      exec (.sbLoop f) s = .next (seqTrap q 0x01 (infoOf (.sbLoop f)) s))

/-- R184: SX.LBRK pops the innermost loop and continues at its end + 4; outside a loop it traps with ILLEGAL. -/
def Obligations.SeqLoopBreak : Prop :=
  ∀ (s : State) (q : SeqId) (f : SX), SeqMay s q (.sxLbrk f) false [] →
    (encodeSeq (.sxLbrk ⟨0, 0⟩) = some 0x9C000000) ∧
    (∀ l ls, (s.ctx q).loops = l :: ls →
      exec (.sxLbrk f) s = .next (ctxGo (s.setCtx { (s.ctx q) with loops := ls }) q (l.last + 4))) ∧
    ((s.ctx q).loops = [] → exec (.sxLbrk f) s = .next (seqTrap q 0x01 (infoOf (.sxLbrk f)) s))

/-! ## Sequencer: waiting, tags, timelines and commands (R185 to R196) -/

namespace Sys2Proof.Claims

open Sys2Proof.Machine

/-- The context waits for w until the cycle `dl` (R168, R185). -/
def ctxWaits (s : State) (q : SeqId) (w : SeqWait) (dl : Nat) : State :=
  giveUp q .waiting (s.updCtx q fun c => { c with wait := some (w, dl) })

/-- What an SR.WAIT with its condition does (R185): a condition that holds ends it at once, a limit of 0 checks once. -/
def waitResult (i : Instr) (s : State) (q : SeqId) (w : SeqWait) (limit : Nat) : Prop :=
  (waitNow s (s.ctx q) w = .ok true → exec i s = .next (ctxNext s q)) ∧
  (waitNow s (s.ctx q) w = .ok false → 0 < limit → exec i s = .next (ctxWaits s q w (s.cyc q.die + limit))) ∧
  (waitNow s (s.ctx q) w = .ok false → limit = 0 → exec i s = .next (seqTrap q 0x03 (expiryInfo s (s.ctx q) w) s))

/-- The engine context n of the stand that a context belongs to. -/
def hasEngine (s : State) (q : SeqId) (n : Nat) (g : Eng) : Prop :=
  ∃ st t, (s.ctx q).bind = .stand st ∧ s.stand? st = some t ∧ t.eng? n = some g

end Sys2Proof.Claims

/-- R185: SR.WAIT QUEUE, TIMELINE and TAG wait for their object up to the limit in d; an object that the stand has not traps
with PROTECTION. The conditions are free slots among 16, trap records, a counter of an engine context, and the query of a tag,
which is refused with STALE_TAG for an older generation and with PROTECTION for a tag that names nothing; a wait for a tag keeps
the tensor entry that it read when it was issued, for the query at its issue and at every later check (R70), though advances
move the generation it compares (log 181, the model's reading). -/
def Obligations.SeqWaits : Prop :=
  (∀ (s : State) (q : SeqId) (f : SR), (s.ctx q).pred f.q.toNat = true →
    (SeqMay s q (.srWaitQueue f) false [f.a, f.b, f.d] →
      (∀ g, (regV s q f.a).toNat < 16 → hasEngine s q (regV s q f.a).toNat g →
        waitResult (.srWaitQueue f) s q (.queue (regV s q f.a).toNat (regV s q f.b).toNat) (regV s q f.d).toNat) ∧
      (regV s q f.a = 0x10 → waitResult (.srWaitQueue f) s q (.trapq (regV s q f.b).toNat) (regV s q f.d).toNat) ∧
      (16 < (regV s q f.a).toNat ∨ ((regV s q f.a).toNat < 16 ∧ ∀ g, ¬ hasEngine s q (regV s q f.a).toNat g) →
        exec (.srWaitQueue f) s = .next (seqTrap q 0x08 (regV s q f.a) s))) ∧
    (SeqMay s q (.srWaitTimeline f) false [f.a, f.b, f.d] →
      (∀ g, (regV s q f.a).toNat < 512 → hasEngine s q ((regV s q f.a).toNat % 256) g →
        waitResult (.srWaitTimeline f) s q (.timeline ((regV s q f.a).toNat % 256) ((regV s q f.a).toNat / 256 % 2 == 1)
          (regV s q f.b).toNat) (regV s q f.d).toNat) ∧
      (512 ≤ (regV s q f.a).toNat ∨ (∀ g, ¬ hasEngine s q ((regV s q f.a).toNat % 256) g) →
        exec (.srWaitTimeline f) s = .next (seqTrap q 0x08 (regV s q f.a) s))) ∧
    (SeqMay s q (.srWaitTag f) false [f.a, f.d] →
      ∀ ent, ent = (s.entry? (seqVf s (s.ctx q)) (refTid (regV s q f.a))).getD 0 →
        waitResult (.srWaitTag f) s q (.tag (regV s q f.a) ent) (regV s q f.d).toNat ∧
        waitQuery s (seqVf s (s.ctx q)) (regV s q f.a) ent = query s (seqVf s (s.ctx q)) (regV s q f.a) ∧
        (∀ cause, waitNow s (s.ctx q) (.tag (regV s q f.a) ent) = .error cause →
          exec (.srWaitTag f) s = .next (seqTrap q cause (regV s q f.a) s)))) ∧
  (∀ (s : State) (q : SeqId) (c : SeqCtx), c = s.ctx q →
    (∀ n g need, hasEngine s q n g →
      waitNow s c (.queue n need) = .ok (decide (need + (g.cmds.filter fun x => !x.started).length ≤ 16))) ∧
    (∀ need, waitNow s c (.trapq need) = .ok (decide (need ≤ (c.tqtail - c.tqhead).toNat))) ∧
    (∀ n g v target, hasEngine s q n g → waitNow s c (.timeline n v target) = .ok (decide (target ≤ g.count v))) ∧
    (∀ ref ent, waitQuery s (seqVf s c) ref ent = none → waitNow s c (.tag ref ent) = .error 0x08) ∧
    (∀ ref ent, waitQuery s (seqVf s c) ref ent = some 2 → waitNow s c (.tag ref ent) = .error 0x05) ∧
    (∀ ref ent, waitQuery s (seqVf s c) ref ent = some 1 → waitNow s c (.tag ref ent) = .ok true) ∧
    (∀ ref ent r, waitQuery s (seqVf s c) ref ent = some r → r = 0 ∨ r = 3 → waitNow s c (.tag ref ent) = .ok false) ∧
    (∀ vf ref ent, (tensorEntry ent).v = true → waitQuery s vf ref ent = queryEnt s vf { tensorEntry ent with
      gen := (tensorEntry ((lookupNat (refTid ref) (s.vf vf).tens.table).getD ent)).gen } ref))

/-- R192, R190: SR.TLRD reads the R counter (fn 0) or the V counter (fn 1) of an engine context, or with a[8] its rejection
flag, which the read clears; an engine that the stand has not, or a nonzero a[63:9], traps with PROTECTION; a poisoned a does
not trap and d is written clean (log 16, the model's choice). SR.TAGQ writes d
with the query result, 0 to 3; a tag that names nothing traps with PROTECTION. -/
def Obligations.SeqTimelinesAndTags : Prop :=
  (decodeSeq 0xD9458008).toOption = some (.srTlrdV ⟨0x14, 0x16, 0, 0⟩) ∧
  (decodeSeq 0xD1448000).toOption = some (.srTagq ⟨0x14, 0x12, 0, 0⟩) ∧
  (∀ (s : State) (q : SeqId) (f : SR), ∀ p ∈ [(Instr.srTlrdR f, false), (Instr.srTlrdV f, true)],
    SeqMay s q p.1 false [] → (s.ctx q).pred f.q.toNat = true →
    (∀ st t g, (s.ctx q).bind = .stand st → s.stand? st = some t → t.eng? ((regV s q f.a).toNat % 256) = some g →
      ((regV s q f.a).toNat < 256 → exec p.1 s = .next (ctxPut s q f.d (BitVec.ofNat 64 (g.count p.2)) false)) ∧
      (256 ≤ (regV s q f.a).toNat → (regV s q f.a).toNat < 512 →
        exec p.1 s = .next (ctxNext (State.setCtx (s.updStand st fun t => t.updEng ((regV s q f.a).toNat % 256) fun e =>
          { e with err := false }) ((s.ctx q).setReg f.d ⟨if g.err then 1 else 0, false⟩)) q))) ∧
    (512 ≤ (regV s q f.a).toNat ∨ (∀ g, ¬ hasEngine s q ((regV s q f.a).toNat % 256) g) →
      exec p.1 s = .next (seqTrap q 0x08 (regV s q f.a) s))) ∧
  (∀ (s : State) (q : SeqId) (f : SR), SeqMay s q (.srTagq f) false [f.a] → (s.ctx q).pred f.q.toNat = true →
    (∀ r, query s (seqVf s (s.ctx q)) (regV s q f.a) = some r →
      r ≤ 3 ∧ exec (.srTagq f) s = .next (ctxPut s q f.d (BitVec.ofNat 64 r) false)) ∧
    (query s (seqVf s (s.ctx q)) (regV s q f.a) = none → exec (.srTagq f) s = .next (seqTrap q 0x08 (regV s q f.a) s)))

/-- R189, R191, R111: outside a block (in a root program, and in a handler that a stand's context entered from idle) a
publication or an advance is performed at once and a publication's outcome stands in TAGCTL[2:0]; a stale one traps with
STALE_TAG and a refused one with the cause that refused it, SYNC_POISON naming the poisoned word's address and every other the
reference (log 187, the model's reading of R111). A context that feeds a block holds both: TAGCTL's held count rises, up to the
255 it can show (log 18, the model's choice), and a publication makes its outcome 5, which an advance leaves as it is; an
advance of a tid that names no valid tensor, or one without the P right, traps with PROTECTION when it is requested. -/
def Obligations.SeqTagPublish : Prop :=
  (PubOut.stale.cause = some 0x05 ∧ ∀ n w ref, (PubOut.refused n w).cause = some n ∧ (PubOut.refused n w).code = 4 ∧
    PubOut.stale.info ref = ref ∧ (PubOut.refused n w).info ref = if n = 0x06 then poisonInfo w else ref) ∧
  ∀ (s : State) (q : SeqId) (f : SR) (scope : BitVec 3), (s.ctx q).pred f.q.toNat = true →
    (SeqMay s q (.srTagp f scope) false [f.a] →
      (∀ r, (s.ctx q).feeding = none → r = publish (seqVf s (s.ctx q)) (s.ctx q).stand? (regV s q f.a) s →
        (r.2.cause = none → exec (.srTagp f scope) s = .next (ctxNext (r.1.updCtx q fun x => { x with
          tagctl := BitVec.ofNat 64 (putBits x.tagctl.toNat 0 3 r.2.code) }) q)) ∧
        (∀ cause, r.2.cause = some cause → exec (.srTagp f scope) s = .next (seqTrap q cause (r.2.info (regV s q f.a)) s))) ∧
      (∀ st t b, (s.ctx q).bind = .stand st → s.stand? st = some t → (s.ctx q).block = some b →
        ∃ u, exec (.srTagp f scope) s = .next (ctxNext u q) ∧
          u.stand? st = some { t with held := t.held ++ [⟨false, regV s q f.a, scope.toNat, b, 1,
            (s.ctx q).pc, 0, ⟨0, 0, 0, 0⟩, 0, 0⟩] } ∧
          (u.ctx q).tagctl = BitVec.ofNat 64 (min 255 (bitsAt (s.ctx q).tagctl.toNat 8 8 + 1) * 256 + 5))) ∧
    (SeqMay s q (.srTagg f) false [f.a] →
      (4096 ≤ (regV s q f.a).toNat → exec (.srTagg f) s = .next (seqTrap q 0x08 (regV s q f.a) s)) ∧
      (∀ r, (s.ctx q).feeding = none → (regV s q f.a).toNat < 4096 →
        r = advance (seqVf s (s.ctx q)) (regV s q f.a).toNat s →
        (r.2 = none → exec (.srTagg f) s = .next (ctxNext r.1 q)) ∧
        (∀ cause, r.2 = some cause → exec (.srTagg f) s = .next (seqTrap q cause (regV s q f.a) r.1))) ∧
      (∀ st t b e, (s.ctx q).bind = .stand st → s.stand? st = some t → (s.ctx q).block = some b → (regV s q f.a).toNat < 4096 →
        s.tensor? t.vf (regV s q f.a).toNat = some e → e.p = true →
        ∃ u, exec (.srTagg f) s = .next (ctxNext u q) ∧
          u.stand? st = some { t with held := t.held ++ [⟨true, regV s q f.a <<< 48, 0, b, 1,
            (s.ctx q).pc, 0, ⟨0, 0, 0, 0⟩, 0, 0⟩] } ∧
          (u.ctx q).tagctl = BitVec.ofNat 64 (min 255 (bitsAt (s.ctx q).tagctl.toNat 8 8 + 1) * 256 +
            bitsAt (s.ctx q).tagctl.toNat 0 3)) ∧
      (∀ st b, (s.ctx q).bind = .stand st → (s.ctx q).block = some b →
        (∀ e, s.tensor? (seqVf s (s.ctx q)) (regV s q f.a).toNat = some e → e.p = false) →
        exec (.srTagg f) s = .next (seqTrap q 0x08 (regV s q f.a) s)))

/-- R193, R165: SS.SCMD gives a command to its engine context and d its number; a full queue stalls the context for 2^20
cycles; a command that is rejected takes its number and traps with CMD_REJECT past the instruction; where the stand has not the engine
context, or a root program issues it, it traps so with d unwritten. -/
def Obligations.SeqSkidCommand : Prop :=
  (decodeSeq 0xE1745200).toOption = some (.ssScmd ⟨0x17, 0x11, 0x12, 0⟩) ∧
  ∀ (s : State) (q : SeqId) (f : SR), SeqMay s q (.ssScmd f) false [f.a, f.b] → (s.ctx q).pred f.q.toNat = true →
    ∀ w : W128, w = regV s q f.a ++ regV s q f.b →
    (∀ st t g, (s.ctx q).bind = .stand st → s.stand? st = some t → t.eng? (skidFields w).eng.toNat = some g →
      (16 ≤ (g.cmds.filter fun c => !c.started).length →
        exec (.ssScmd f) s = .next (ctxWaits s q (.scmd (skidFields w).eng.toNat) (s.cyc q.die + 2 ^ 20))) ∧
      ((g.cmds.filter fun c => !c.started).length < 16 →
        (∀ x, acceptCmd s t w = some x →
          exec (.ssScmd f) s = .next (ctxNext ((submitCmd ⟨st, (skidFields w).eng.toNat⟩
            (newCmd (s.ctx q) g.nextSeq w (some x)) s).setCtx ((s.ctx q).setReg f.d ⟨BitVec.ofNat 64 g.nextSeq, false⟩)) q)) ∧
        (acceptCmd s t w = none →
          exec (.ssScmd f) s = .next (seqTrapAt q 0x11 0 (regV s q f.a) (BitVec.ofNat 64 ((s.ctx q).pc + 4))
            ((submitCmd ⟨st, (skidFields w).eng.toNat⟩ (newCmd (s.ctx q) g.nextSeq w none) s).setCtx
              ((s.ctx q).setReg f.d ⟨BitVec.ofNat 64 g.nextSeq, false⟩)))))) ∧
    ((∃ v, (s.ctx q).bind = .root v) ∨ (∃ st, (s.ctx q).bind = .stand st ∧
        ∀ t, s.stand? st = some t → t.eng? (skidFields w).eng.toNat = none) →
      exec (.ssScmd f) s = .next (seqTrapAt q 0x11 0 (regV s q f.a) (BitVec.ofNat 64 ((s.ctx q).pc + 4)) s))

/-- R25, R104, R194: SS.LNCH reads the 1,024-bit record at a, in memory as the context sees it or in local memory, and writes
the launch's status to d: 2 for a malformed record, 3 where the kid or the grain fits no loaded kernel, 1 where the scheduler
holds 4,096 records, and otherwise 0, and the record enters the die's scheduler (the records that a root program still waits
to launch go first, and no PCMD of the VF is under way); a poisoned word of the record traps, and so does an address that does
not resolve. -/
def Obligations.SeqLaunch : Prop :=
  ∀ (s : State) (q : SeqId) (f : SR) (a : W64), a = regV s q f.a → SeqMay s q (.ssLnch f) false [f.a] →
    (s.ctx q).pred f.q.toNat = true →
    (∀ x m pa w s1 vf, seqPlace s (s.ctx q) a 128 .read = .ok x → seqHeld s (s.ctx q) x = false →
      (x = .mem pa ∧ m = seqView s (s.ctx q)) ∨ (∃ off, x = .local off ∧ pa = localAddr q off ∧ m = s.lmem) ∨
        (∃ k reg, x = .queue k reg ∧ pa = localAddr q (0x10000 * k + 0xF800 + reg) ∧ m = queueOver (s.ctx q) k s) →
      w = BitVec.ofNat 1024 (m.readN pa 128) → s1 = rootFirst (s.ctx q) (seqUsed s q a) → vf = seqVf s (s.ctx q) →
      (poisonAt m pa 128 = none →
        (recMalformed w = true → exec (.ssLnch f) s = .next (ctxNext (s1.updCtx q fun x => x.setReg f.d ⟨2, false⟩) q)) ∧
        (recMalformed w = false → launchable s1 vf w = false →
          exec (.ssLnch f) s = .next (ctxNext (s1.updCtx q fun x => x.setReg f.d ⟨3, false⟩) q)) ∧
        (recMalformed w = false → launchable s1 vf w = true → 4096 ≤ (s1.die q.die).recs.length →
          exec (.ssLnch f) s = .next (ctxNext (s1.updCtx q fun x => x.setReg f.d ⟨1, false⟩) q)) ∧
        (recMalformed w = false → launchable s1 vf w = true → (s1.die q.die).recs.length < 4096 →
          exec (.ssLnch f) s = .next (ctxNext ((enterRec vf q.die w s1).updCtx q fun x => x.setReg f.d ⟨0, false⟩) q))) ∧
      (∀ k, poisonAt m pa 128 = some k →
        exec (.ssLnch f) s = .next (seqTrap q 0x06 (BitVec.ofNat 64 (2 ^ 63 + (a.toNat + k) % 2 ^ 57)) s))) ∧
    (∀ x, seqPlace s (s.ctx q) a 128 .read = .ok x → seqHeld s (s.ctx q) x = true → exec (.ssLnch f) s = .next s) ∧
    (∀ cause, seqPlace s (s.ctx q) a 128 .read = .error cause → exec (.ssLnch f) s = .next (seqTrap q cause a s))

/-- R188: SX.BAR arrives with bit 0 of d; where that completes the barrier d reads the result at once, else the context
waits for 2^24 cycles; an id that is not granted traps with PROTECTION. -/
def Obligations.SeqBarrier : Prop :=
  ∀ (s : State) (q : SeqId) (f : SX), SeqMay s q (.sxBar f) false [f.d] →
    (∀ k s2, seqBarKey s (s.ctx q) (f.sel12.toNat % 8) (f.sel12.toNat / 8) = some k →
      s2 = arrive k (.seq q) ((regV s q f.d).getLsbD 0)
        (s.setCtx { (s.ctx q) with wait := some (.barrier none, s.cyc q.die + 2 ^ 24) }) →
      (∀ b dl, (s2.ctx q).wait = some (.barrier (some b), dl) →
        exec (.sxBar f) s = .next (ctxNext (s2.updCtx q fun x => x.setReg f.d ⟨if b then 1 else 0, false⟩) q)) ∧
      (∀ dl, (s2.ctx q).wait = some (.barrier none, dl) →
        exec (.sxBar f) s = .next (ctxWaits s2 q (.barrier none) (s.cyc q.die + 2 ^ 24)))) ∧
    (seqBarKey s (s.ctx q) (f.sel12.toNat % 8) (f.sel12.toNat / 8) = none →
      exec (.sxBar f) s = .next (seqTrap q 0x08 (BitVec.ofNat 64 (f.sel12.toNat / 8)) s))

/-- R196: SX.CTX COND injects a CTXC naming context d, and is not done before a CTXC finds room at every ingress (R125; log 86,
the model's choice); SWITCH goes on when no switch is under way or every weave has
switched, and waits for 2^24 cycles otherwise; both trap with PROTECTION in a root program, SWITCH with TINFO 0 (log 195, the model's choice), and COND traps so for
a nonzero d[63:2] too. -/
def Obligations.SeqContextControl : Prop :=
  ∀ (s : State) (q : SeqId) (f : SX),
    (SeqMay s q (.sxCtxCond f) false [f.d] →
      (∀ st t, (s.ctx q).bind = .stand st → s.stand? st = some t → (regV s q f.d).toNat < 4 →
        (ctxcRoom s t = true → exec (.sxCtxCond f) s = .next (ctxNext (injectCtxc st (regV s q f.d).toNat s) q)) ∧
        (ctxcRoom s t = false → exec (.sxCtxCond f) s = .next s)) ∧
      (∀ st, (s.ctx q).bind = .stand st → 4 ≤ (regV s q f.d).toNat →
        exec (.sxCtxCond f) s = .next (seqTrap q 0x08 (regV s q f.d) s)) ∧
      (∀ v, (s.ctx q).bind = .root v → exec (.sxCtxCond f) s = .next (seqTrap q 0x08 (regV s q f.d) s))) ∧
    (SeqMay s q (.sxCtxSwitch f) false [] →
      (∀ st t, (s.ctx q).bind = .stand st → s.stand? st = some t →
        ((∀ x, t.switchTo = some x → ∀ w ∈ t.weaves, w.actx = x) → exec (.sxCtxSwitch f) s = .next (ctxNext s q)) ∧
        (∀ x, t.switchTo = some x → (∃ w ∈ t.weaves, w.actx ≠ x) →
          exec (.sxCtxSwitch f) s = .next (ctxWaits s q .switch (s.cyc q.die + 2 ^ 24)))) ∧
      (∀ v, (s.ctx q).bind = .root v → exec (.sxCtxSwitch f) s = .next (seqTrap q 0x08 0 s)))

/-! ## Sequencer: grain, random numbers, system registers, traps (R149, R151, R171, R172, R187, R195 to R200) -/

namespace Sys2Proof.Claims

open Sys2Proof.Machine

/-- The grain of the block that a context feeds, 0 where it feeds none. -/
def feedGrain (s : State) (c : SeqCtx) : Nat :=
  match c.bind, c.block with
  | .stand st, some _ => ((s.stand? st).map (·.g)).getD 0
  | _, _ => 0

/-- Osier on the words of two registers (R197). -/
def rngOut (c : SeqCtx) (f : SR) : W32 × W32 × W32 × W32 :=
  osier ((c.reg f.a).v.extractLsb' 0 32) ((c.reg f.a).v.extractLsb' 32 32) ((c.reg f.b).v.extractLsb' 0 32)
    ((c.reg f.b).v.extractLsb' 32 32) (c.oskey.extractLsb' 0 32) (c.oskey.extractLsb' 32 32)

/-- Bits [h:l] of a doubleword, in their places. -/
def field (v : W64) (h l : Nat) : W64 := BitVec.ofNat 64 (v.toNat % 2 ^ (h + 1) / 2 ^ l * 2 ^ l)

end Sys2Proof.Claims

/-- R195: SX.GRN writes the grain of the block that the context feeds, and 0 in a context that feeds none. -/
def Obligations.SeqGrain : Prop :=
  (decodeSeq 0xE9400000).toOption = some (.sxGrn ⟨0x14, 0⟩) ∧
  (∀ (s : State) (q : SeqId) (f : SX), SeqMay s q (.sxGrn f) false [] →
    exec (.sxGrn f) s = .next (ctxPut s q f.d (BitVec.ofNat 64 (feedGrain s (s.ctx q))) false) ∧
    ((s.ctx q).block = none → exec (.sxGrn f) s = .next (ctxPut s q f.d 0 false)))

/-- R197: SR.RNG writes Osier's words to d and to code d + 1, poisoned when a or b is; a d of 15 or 63 traps with ILLEGAL. -/
def Obligations.SeqRandom : Prop :=
  (decodeSeq 0xED445200).toOption = some (.srRng ⟨0x14, 0x11, 0x12, 0⟩) ∧
  (∀ (s : State) (q : SeqId) (f : SR), SeqMay s q (.srRng f) false [] → (s.ctx q).pred f.q.toNat = true →
    (f.d ≠ 15 → f.d ≠ 63 →
      exec (.srRng f) s = .next (ctxNext (s.setCtx (((s.ctx q).setReg f.d
          ⟨(rngOut (s.ctx q) f).2.1 ++ (rngOut (s.ctx q) f).1, regP s q f.a || regP s q f.b⟩).setReg (f.d + 1)
          ⟨(rngOut (s.ctx q) f).2.2.2 ++ (rngOut (s.ctx q) f).2.2.1, regP s q f.a || regP s q f.b⟩)) q)) ∧
    (f.d = 15 ∨ f.d = 63 → exec (.srRng f) s = .next (seqTrap q 0x01 (wordInfo (.srRng f)) s)))

/-- R172, R140: CSRRD writes a register's value, clean, and CSRWR the writable bits alone; a read-only register ignores the
write; GRNCTL traps with PROTECTION in a context that feeds no block (R140). That RETRY reads 3 in a root program and ignores a
write is the model's choice (log 17), and so is it that STAND's fields of place and size read 0 there (log 194); what a write of
GRNCTL sets is read from R140 (log 19). -/
def Obligations.SeqSystemRegisters : Prop :=
  (decodeSeq 0xF1400800).toOption = some (.sxSysCsrrd ⟨0x14, 8⟩) ∧
  ∀ (s : State) (q : SeqId) (f : SX),
    (SeqMay s q (.sxSysCsrrd f) false [] →
      (∀ p ∈ [(0x000, (s.ctx q).tvec), (0x001, (s.ctx q).tcause), (0x002, (s.ctx q).tinfo), (0x003, (s.ctx q).epc),
          (0x004, (s.ctx q).wsp), (0x005, (s.ctx q).wlim), (0x008, (s.die q.die).cyc), (0x009, (s.ctx q).frm),
          (0x00A, (s.ctx q).oskey), (0x00E, (s.ctx q).tagctl)], f.sel12.toNat = p.1 →
        exec (.sxSysCsrrd f) s = .next (ctxPut s q f.d p.2 false)) ∧
      (∀ v, csrRead s (s.ctx q) f.sel12.toNat = some v → exec (.sxSysCsrrd f) s = .next (ctxPut s q f.d v false)) ∧
      (∀ st t, (s.ctx q).bind = .stand st → s.stand? st = some t →
        (∀ p ∈ [(0x006, t.vf % 64), (0x007, t.kern.kid * 2 ^ 32 + t.die * 2 ^ 28 + t.col * 2 ^ 24 + t.row * 2 ^ 21
              + (t.kern.w - 1) * 2 ^ 17 + (t.kern.h - 1) * 2 ^ 14 + q.ctx * 2 ^ 12), (0x00B, t.retry),
            (0x00C, (s.vf t.vf).mem.pins.length * 2 ^ 32 + (s.vf t.vf).cfg.lockq.toNat % 2 ^ 32)],
          f.sel12.toNat = p.1 → exec (.sxSysCsrrd f) s = .next (ctxPut s q f.d (BitVec.ofNat 64 p.2) false)) ∧
        (∀ no, f.sel12.toNat = 0x00D → (s.ctx q).block = some no →
          exec (.sxSysCsrrd f) s = .next (ctxPut s q f.d (grnRead t) false))) ∧
      (∀ v, (s.ctx q).bind = .root v →
        (∀ p ∈ [(0x006, v % 64), (0x007, q.die * 2 ^ 28 + q.ctx * 2 ^ 12), (0x00B, 3),
            (0x00C, (s.vf v).mem.pins.length * 2 ^ 32 + (s.vf v).cfg.lockq.toNat % 2 ^ 32)],
          f.sel12.toNat = p.1 → exec (.sxSysCsrrd f) s = .next (ctxPut s q f.d (BitVec.ofNat 64 p.2) false))) ∧
      (f.sel12.toNat = 0x00D → (s.ctx q).block = none →
        exec (.sxSysCsrrd f) s = .next (seqTrap q 0x08 (f.sel12.setWidth 64) s))) ∧
    (SeqMay s q (.sxSysCsrwr f) false [f.d] → ∀ v, v = regV s q f.d →
      (f.sel12.toNat = 0x000 → exec (.sxSysCsrwr f) s = .next (ctxNext (s.setCtx { s.ctx q with tvec := field v 56 2 }) q)) ∧
      (f.sel12.toNat = 0x003 → exec (.sxSysCsrwr f) s = .next (ctxNext (s.setCtx { s.ctx q with epc := field v 56 2 }) q)) ∧
      (f.sel12.toNat = 0x004 → exec (.sxSysCsrwr f) s = .next (ctxNext (s.setCtx { s.ctx q with wsp := field v 17 3 }) q)) ∧
      (f.sel12.toNat = 0x005 → exec (.sxSysCsrwr f) s = .next (ctxNext (s.setCtx { s.ctx q with wlim := field v 17 3 }) q)) ∧
      (f.sel12.toNat = 0x009 → exec (.sxSysCsrwr f) s = .next (ctxNext (s.setCtx { s.ctx q with frm := field v 2 0 }) q)) ∧
      (f.sel12.toNat = 0x00A → exec (.sxSysCsrwr f) s = .next (ctxNext (s.setCtx { s.ctx q with oskey := v }) q)) ∧
      (f.sel12.toNat ∈ [1, 2, 6, 7, 8, 0xC, 0xE] → exec (.sxSysCsrwr f) s = .next (ctxNext s q)) ∧
      (∀ v, (s.ctx q).bind = .root v → f.sel12.toNat = 0x00B → exec (.sxSysCsrwr f) s = .next (ctxNext s q)) ∧
      (∀ st, (s.ctx q).bind = .stand st →
        (f.sel12.toNat = 0x00B →
          exec (.sxSysCsrwr f) s = .next (ctxNext (s.updStand st fun t => { t with retry := v.toNat % 16 }) q)) ∧
        (∀ no, f.sel12.toNat = 0x00D → (s.ctx q).block = some no →
          exec (.sxSysCsrwr f) s = .next (ctxNext (s.updStand st fun t => grnWrite t v.toNat) q))) ∧
      (f.sel12.toNat = 0x00D → (s.ctx q).block = none →
        exec (.sxSysCsrwr f) s = .next (seqTrap q 0x08 (f.sel12.setWidth 64) s)))

/-- R198, R187, R342, R344: TRAP, ERET, HALT and YIELD, and SX.FENCE, which only moves the pc on in this model. ERET and a HALT in
a handler count the handler's return for the blaze protocol (R344); that a HALT of a stand's context in a handler entered from a
block clears H, ends the block's feeding and counts that return is the model's choice (log 20), and so is the ERET that goes on
at EPC (log 21). -/
def Obligations.SeqSystem : Prop :=
  ∀ (s : State) (q : SeqId) (f : SX),
    (SeqMay s q (.sxSysTrap f) false [] →
      exec (.sxSysTrap f) s = .next (seqTrapAt q 0 (f.sel12.toNat % 256) 0 (BitVec.ofNat 64 (s.ctx q).here) s)) ∧
    (SeqMay s q (.sxSysEret f) false [] →
      ((s.ctx q).h = false → exec (.sxSysEret f) s = .next (seqTrap q 0x01 (wordInfo (.sxSysEret f)) s)) ∧
      ((s.ctx q).h = true → (s.ctx q).fromIdle = false → (s.ctx q).epc.toNat % 4 = 0 →
        exec (.sxSysEret f) s = .next (handlerReturn q (s.setCtx
          { s.ctx q with pc := (s.ctx q).epc.toNat, h := false, limm := none }))) ∧
      (∀ st, (s.ctx q).h = true → (s.ctx q).fromIdle = true → (s.ctx q).bind = .stand st →
        exec (.sxSysEret f) s = .next (feedNext st (handlerReturn q (giveUp q .idle (s.setCtx
          { s.ctx q with h := false, fromIdle := false, limm := none }))))) ∧
      (∀ v, (s.ctx q).h = true → (s.ctx q).fromIdle = true → (s.ctx q).bind = .root v →
        exec (.sxSysEret f) s = .next (handlerReturn q (giveUp q .halted (s.setCtx
          { s.ctx q with h := false, fromIdle := false, limm := none }))))) ∧
    (SeqMay s q (.sxSysHalt f) false [] →
      (∀ v, (s.ctx q).bind = .root v →
        exec (.sxSysHalt f) s = .next (giveUp q .halted (s.setCtx
          { s.ctx q with h := (s.ctx q).h && !(s.ctx q).fromIdle, fromIdle := false, limm := none }))) ∧
      (∀ st, (s.ctx q).bind = .stand st → (s.ctx q).fromIdle = false →
        ((s.ctx q).h = false →
          exec (.sxSysHalt f) s = .next (feedNext st (endFeed st (s.setCtx { s.ctx q with h := false })))) ∧
        ((s.ctx q).h = true →
          exec (.sxSysHalt f) s = .next (feedNext st (handlerReturn q (endFeed st (s.setCtx { s.ctx q with h := false })))))) ∧
      (∀ st, (s.ctx q).bind = .stand st → (s.ctx q).h = true → (s.ctx q).fromIdle = true →
        exec (.sxSysHalt f) s = .next (feedNext st (handlerReturn q (giveUp q .idle (s.setCtx
          { s.ctx q with h := false, fromIdle := false, limm := none })))))) ∧
    (SeqMay s q (.sxSysYield f) false [] →
      exec (.sxSysYield f) s = .next (makeReady q (s.setCtx (s.ctx q).advance))) ∧
    (SeqMay s q (.sxFence f) false [] → exec (.sxFence f) s = .next (ctxNext s q))

/-- R199: a trap with a handler saves the pc or its prefix's address, the cause and the information, sets H and goes to TVEC,
and changes nothing else; with H set or no handler the context stops and gives up its sequencer (R168): a root program halts, a
stand's context is stopped. -/
def Obligations.SeqTrapEntry : Prop :=
  ∀ (s : State) (q : SeqId) (cause : Nat) (info : W64),
    ((s.ctx q).h = false → (s.ctx q).tvec ≠ 0 →
      seqTrapAt q 0 cause info (BitVec.ofNat 64 (s.ctx q).here) s = s.setCtx { s.ctx q with
        epc := BitVec.ofNat 64 (((s.ctx q).limm.map (·.2)).getD (s.ctx q).pc)
        tcause := BitVec.ofNat 64 (2 ^ 63 + cause * 256), tinfo := info, h := true, fromIdle := false, limm := none
        wait := none, run := .running, pc := (s.ctx q).tvec.toNat } ∧
      (cause ≠ 0 → seqTrap q cause info s = s.setCtx { s.ctx q with
        epc := BitVec.ofNat 64 (((s.ctx q).limm.map (·.2)).getD (s.ctx q).pc)
        tcause := BitVec.ofNat 64 cause, tinfo := info, h := true, fromIdle := false, limm := none
        wait := none, run := .running, pc := (s.ctx q).tvec.toNat })) ∧
    (∀ v, (s.ctx q).h = true ∨ (s.ctx q).tvec = 0 → (s.ctx q).bind = .root v →
      ∃ r, seqTrap q cause info s = rootRecord v q.die (TrapRec.word r) cause
          (giveUp q .halted (s.setCtx { s.ctx q with limm := none, wait := none })) ∧
        r.cause = cause ∧ r.src = 1 ∧ r.pc = (s.ctx q).here % 2 ^ 32) ∧
    (∀ st, (s.ctx q).h = true ∨ (s.ctx q).tvec = 0 → (s.ctx q).bind = .stand st →
      ∃ r, seqTrap q cause info s = trapStand st r true
          (giveUp q .stopped (s.setCtx { s.ctx q with limm := none, wait := none })) ∧
        r.cause = cause ∧ r.src = 1 ∧ r.pc = (s.ctx q).here % 2 ^ 32)

/-- R147, R149, R151, R171: what stands before an instruction's own effect, in this order: a reserved field or a prefix
before a form that takes none traps with ILLEGAL; a false guard leaves only the pc's advance; a poisoned operand that the
instruction must not see traps with SYNC_POISON naming the register. -/
def Obligations.SeqChecks : Prop :=
  ∀ (s : State) (q : SeqId) (i : Instr) (u : SeqUse) (body : SeqCtx → State → SeqAns), SeqTurn s q →
    (i.wf = false → runSeq i u body s = .next (seqTrap q 0x01 (wordInfo i) s)) ∧
    ((s.ctx q).limm ≠ none → u.prefixed = false → runSeq i u body s = .next (seqTrap q 0x01 (wordInfo i) s)) ∧
    (i.wf = true → ((s.ctx q).limm = none ∨ u.prefixed = true) →
      (∀ g, u.guard = some g → (s.ctx q).pred g.toNat = false → runSeq i u body s = .next (ctxNext s q)) ∧
      ((∀ g, u.guard = some g → (s.ctx q).pred g.toNat = true) →
        (∀ before r after, u.reads = before ++ r :: after → (∀ x ∈ before, regP s q x = false) → regP s q r = true →
          runSeq i u body s = .next (seqTrap q 0x06 (r.setWidth 64) s)) ∧
        ((∀ x ∈ u.reads, regP s q x = false) → runSeq i u body s = .next ((body (s.ctx q) s).apply q))))

/-! ## Cells: integers, predicates, floating point, lanes (R205 to R212, R234 to R249) -/

namespace Sys2Proof.Claims

open Sys2Proof.Machine

/-- The source words of lane l, by field: 0 a, 1 b, 2 c, 3 e. -/
def laneIn (c : Cell) (i : Instr) (l j : Nat) : W32 := (cellSrc c i j l).v

/-- A source lane of lane l is poisoned (R205). -/
def laneBad (c : Cell) (i : Instr) (l : Nat) : Bool :=
  (cellSrc c i 0 l).poison || (cellSrc c i 1 l).poison || (cellSrc c i 2 l).poison || (cellSrc c i 3 l).poison

/-- Every active lane of d takes a function of the lane's source words, poisoned with them (R205, R206). -/
def byLane (c : Cell) (i : Instr) (f : CG) (g : Nat → (Nat → W32) → W32) : Pend :=
  c.result f.d (c.active f) fun l => ⟨g l (laneIn c i l), laneBad c i l⟩

/-- A lane whose elements of width w are a function of the elements of a, b and c (R32). -/
def ofElems (w : Nat) (g : Nat → Nat → Nat → Nat) (x : Nat → W32) : W32 :=
  laneOf w fun e => g (elemAt w e (x 0)) (elemAt w e (x 1)) (elemAt w e (x 2))

/-- Every lane of d takes one clean value, whatever the guard. -/
def allLanes (c : Cell) (d : Code6) (x : W32) : Pend := c.result d (fun _ => true) fun _ => ⟨x, false⟩

/-- The elementwise integer instructions (R206) on values of type ty. -/
def intTable : List ((CG → Instr) × (Nat → Nat → Nat → Nat → Nat)) :=
  [(.cvAdd, fun ty x y _ => intWrap ty (intOf ty x + intOf ty y)), (.cvSub, fun ty x y _ => intWrap ty (intOf ty x - intOf ty y)),
   (.cvMul, fun ty x y _ => intWrap ty (intOf ty x * intOf ty y)),
   (.cvMulh, fun ty x y _ => intWrap ty (intOf ty x * intOf ty y / ((2 ^ tyWidth ty : Nat) : Int))),
   (.cvMad, fun ty x y z => intWrap ty (intOf ty x * intOf ty y + intOf ty z)),
   (.cvAdds, fun ty x y _ => intSat ty (intOf ty x + intOf ty y)), (.cvSubs, fun ty x y _ => intSat ty (intOf ty x - intOf ty y)),
   (.cvMin, fun ty x y _ => if intOf ty x ≤ intOf ty y then x else y), (.cvMax, fun ty x y _ => if intOf ty x ≤ intOf ty y then y else x),
   (.cvAbs, fun ty x _ _ => intWrap ty ((intOf ty x).natAbs : Int)), (.cvNeg, fun ty x _ _ => intWrap ty (-(intOf ty x))),
   (.cvShl, fun ty x y _ => x * 2 ^ (y % tyWidth ty) % 2 ^ tyWidth ty), (.cvShr, fun ty x y _ => x / 2 ^ (y % tyWidth ty)),
   (.cvSra, fun ty x y _ => wrapInt (tyWidth ty) (toSigned (tyWidth ty) x / ((2 ^ (y % tyWidth ty) : Nat) : Int))),
   (.cvRot, fun ty x y _ => (x * 2 ^ (y % tyWidth ty) + x / 2 ^ (tyWidth ty - y % tyWidth ty)) % 2 ^ tyWidth ty),
   (.cvClz, fun ty x _ _ => leadZeros (tyWidth ty) x), (.cvPopc, fun ty x _ _ => popCount (tyWidth ty) x),
   (.cvBitr, fun ty x _ _ => revBits (tyWidth ty) x)]

/-- The instructions on whole lanes (R206, R209, R210, R211). -/
def wordTable : List ((CG → Instr) × (CG → (Nat → W32) → W32)) :=
  [(.cvAnd, fun _ x => x 0 &&& x 1), (.cvOr, fun _ x => x 0 ||| x 1), (.cvXor, fun _ x => x 0 ^^^ x 1),
   (.cvAndn, fun _ x => x 0 &&& ~~~(x 1)), (.cvMov, fun _ x => x 0), (.cvDot4, fun f x => satI32 (dot4 f.ty.toNat (x 0) (x 1) (x 2))),
   (.cvCvti, fun f x => laneOf (tyWidth f.ty.toNat) fun j =>
      let v := intOf (f.aux.toNat % 16) (cvtiSrc f x j)
      if f.aux.getLsbD 4 then intSat f.ty.toNat v else intWrap f.ty.toNat v),
   (.cvNzc, fun f x =>
      let w := tyWidth f.ty.toNat
      let nz := (upTo (32 / w)).filter fun e => nonzeroElem f.ty.toNat (elemAt w e (x 0))
      BitVec.ofNat 32 (sumNat (nz.map (2 ^ ·)) * 256 + nz.length))]

/-- The conditions of the predicate producers on the elements of a and b (R207, R237). -/
def condTable : List ((CG → Instr) × (CG → Nat → Nat → Bool)) :=
  [(.cvCmp, fun f x y => intCond (f.aux.toNat % 8) (intOf f.ty.toNat x) (intOf f.ty.toNat y)),
   (.cvTest, fun f x y => if f.aux.toNat % 8 = 0 then Nat.land x y != 0 else Nat.land x y == 0),
   (.cfFcmp, fun f x y => floatCond (f.aux.toNat % 8) ((fmtOf f.ty.toNat).read x) ((fmtOf f.ty.toNat).read y))]

/-- The element conditions of a lane, combined by ALL or ANY as aux[3] says (R207). -/
def laneCond (f : CG) (g : Nat → Nat → Bool) (x : Nat → W32) : Bool :=
  let w := tyWidth f.ty.toNat
  let bs := (upTo (32 / w)).map fun e => g (elemAt w e (x 0)) (elemAt w e (x 1))
  if f.aux.toNat / 8 % 2 = 0 then bs.all (fun b => b) else bs.any (fun b => b)

/-- The floating-point instructions on exact values, rounded and flushed on the way out (R234, R235). -/
def floatTable : List ((CG → Instr) × (RM → FVal → FVal → FVal → FVal)) :=
  [(.cfFadd, fun rm x y _ => FVal.add rm x y), (.cfFsub, fun rm x y _ => FVal.add rm x y.neg), (.cfFmul, fun _ x y _ => FVal.mul x y),
   (.cfFfma, fun rm x y z => FVal.add rm (FVal.mul x y) z), (.cfFmin, fun _ x y _ => FVal.min x y),
   (.cfFmax, fun _ x y _ => FVal.max x y), (.cfFrnd, fun rm x _ _ => x.roundInt rm)]

/-- The instructions on encodings, neither flushed nor rounded (R234, R236, R238). -/
def encTable : List ((CG → Instr) × (FFmt → Nat → Nat)) := [(.cfFabs, absEnc), (.cfFneg, negEnc), (.cfFcls, classOf)]

/-- The correctly rounded functions (R239). -/
def specTable : List ((CG → Instr) × SpecFn) :=
  [(.cfFrcp, .rcp), (.cfFrsq, .rsq), (.cfFexp2, .exp2), (.cfFlog2, .log2), (.cfFsig, .sig), (.cfFtanh, .tanh),
   (.cfFsinp, .sinp), (.cfFcosp, .cosp)]

/-- The task goes on with results that an instruction completion writes later (R240). -/
def cellPends (s : State) (c : Cell) (i : Instr) (p : Pend) : State :=
  noteIssue c ((keepSlots c.key p (addOps c.key.stand (countedLanes i c) (cellDrawn s c i))).updTask c.key fun x => { x.advance with
    pend := some { p with endt := (cellSc i).getLsbD 3 }, yielded := (cellSc i).getLsbD 2 })

end Sys2Proof.Claims

/-- R206, R34, R205: the elementwise integer instructions write every active lane of d, element by element, poisoned with
the lane's sources.
R206, R208 to R211, R38: the instructions on whole lanes; CV.SEL selects by the predicate aux[3:0]; CV.MOVK writes every
lane clean; CV.TDOT also sets T2BAD for a reserved digit code of an active lane. -/
def Obligations.CellIntegerResult : Prop :=
  (∀ (s : State) (c : Cell) (f : CG), ∀ p ∈ intTable, CellMay s c (p.1 f) →
    exec (p.1 f) s = .next (cellWrote s c (p.1 f) (byLane c (p.1 f) f fun _ => ofElems (tyWidth f.ty.toNat) (p.2 f.ty.toNat)))) ∧
  (∀ (s : State) (c : Cell) (f : CG),
    (∀ p ∈ wordTable, CellMay s c (p.1 f) → exec (p.1 f) s = .next (cellWrote s c (p.1 f) (byLane c (p.1 f) f fun _ => p.2 f))) ∧
    (CellMay s c (.cvSel f) → exec (.cvSel f) s = .next (cellWrote s c (.cvSel f)
      (byLane c (.cvSel f) f fun l x => if c.w.pbit (f.aux.toNat % 16) l then x 0 else x 1))) ∧
    (CellMay s c (.cvMovk f) → exec (.cvMovk f) s = .next (cellWrote s c (.cvMovk f)
      (allLanes c f.d ((imm24 f).signExtend 32)))) ∧
    (CellMay s c (.cvTdot f) → exec (.cvTdot f) s = .next (cellPassed (writeResult c.key
      (byLane c (.cvTdot f) f fun _ x => satI32 (tdot (f.aux.toNat % 4) (x 0) (x 1) (x 2)))
      (markT2 c.key.weave ((c.lanesWith (c.active f)).any fun l => (upTo 4).any fun e =>
        elemAt 2 (4 * (f.aux.toNat % 4) + e) (laneIn c (.cvTdot f) l 0) == 2) (cellDrawn s c (.cvTdot f)))) c (.cvTdot f))))

/-- R207, R212, R237, R205: CV.CMP, CV.TEST and CF.FCMP write the active lanes of predicate d; a poisoned source lane of an
active lane traps before any effect but the reads of its operands (R203, R316), with its code and lane; CV.PSET does so only
for BIT. -/
def Obligations.CellPredicateResult : Prop :=
  ∀ (s : State) (c : Cell) (f : CG),
    (∀ p ∈ condTable, CellMay s c (p.1 f) →
      (poisonedSrc c (cellSrcs (p.1 f)) (c.active f) = none → exec (p.1 f) s = .next (cellWrote s c (p.1 f)
        (c.resultP f.d.toNat (c.active f) fun l => laneCond f (p.2 f) (laneIn c (p.1 f) l)))) ∧
      (∀ code lane, poisonedSrc c (cellSrcs (p.1 f)) (c.active f) = some (code, lane) →
        exec (p.1 f) s = .next (cellTrapped (cellDrawn s c (p.1 f)) c 0x06 (BitVec.ofNat 32 code) (BitVec.ofNat 32 lane) 0 0))) ∧
    (CellMay s c (.cvPset f) →
      (f.aux ≠ 0 ∨ poisonedSrc c (cellSrcs (.cvPset f)) (c.active f) = none →
        exec (.cvPset f) s = .next (cellWrote s c (.cvPset f) (c.resultP f.d.toNat (c.active f) fun l =>
          match f.aux.toNat with
          | 0 => (laneIn c (.cvPset f) l 0).getLsbD 0
          | 1 => l < (laneIn c (.cvPset f) l 0).toNat
          | 2 => c.lid.toNat + l < (laneIn c (.cvPset f) l 0).toNat
          | _ => true))) ∧
      (∀ code lane, f.aux = 0 → poisonedSrc c (cellSrcs (.cvPset f)) (c.active f) = some (code, lane) →
        exec (.cvPset f) s = .next (cellTrapped (cellDrawn s c (.cvPset f)) c 0x06 (BitVec.ofNat 32 code) (BitVec.ofNat 32 lane) 0 0)))

/-- R234 to R242: floating-point arithmetic rounds the exact result once by FRM; FABS, FNEG and FCLS act on encodings; the
special functions keep their results for an INSTRUCTION_COMPLETION; FCVT converts each element or traps with CONV_OVERFLOW where
one overflows, naming the lowest lane and in it the lowest element that does (log 45, the model's choice). -/
def Obligations.CellFloatResult : Prop :=
  ∀ (s : State) (c : Cell) (f : CG) (m : FFmt), m = fmtOf f.ty.toNat →
    (∀ p ∈ floatTable, CellMay s c (p.1 f) → exec (p.1 f) s = .next (cellWrote s c (p.1 f) (byLane c (p.1 f) f fun _ =>
      ofElems m.width fun x y z => m.write c.rm c.ftz (p.2 c.rm (m.readIn c.ftz x) (m.readIn c.ftz y) (m.readIn c.ftz z))))) ∧
    (∀ p ∈ encTable, CellMay s c (p.1 f) → exec (p.1 f) s = .next (cellWrote s c (p.1 f) (byLane c (p.1 f) f fun _ =>
      ofElems m.width fun x _ _ => p.2 m x))) ∧
    (∀ p ∈ specTable, CellMay s c (p.1 f) → exec (p.1 f) s = .next (cellPends s c (p.1 f) (byLane c (p.1 f) f fun _ =>
      ofElems (tyWidth f.ty.toNat) fun x _ _ => special p.2 f.ty.toNat c.rm c.ftz x))) ∧
    (CellMay s c (.cfFcvt f) →
      (fcvtFail c f = none → exec (.cfFcvt f) s = .next (cellWrote s c (.cfFcvt f) (c.result f.d (c.active f) fun l =>
        ⟨laneOf (tyWidth f.ty.toNat) fun j => (fcvtElem f c.ftz (fcvtSrc c f l j)).getD 0,
          (upTo (fcvtRegs f)).any fun k => (fcvtLane c f l k).poison⟩))) ∧
      (∀ l j x, fcvtFail c f = some (l, j, x) → exec (.cfFcvt f) s = .next (cellTrapped (cellDrawn s c (.cfFcvt f)) c 0x0C
        (BitVec.ofNat 32 l) (BitVec.ofNat 32 j) (BitVec.ofNat 32 x) 0)))

/-- R243 to R249: the lane instructions: the reduction tree, the scan, shuffles, the broadcast with its ILLEGAL trap, the
compress that counts the kept lanes in e, and Osier words, as uniforms but for type 5. -/
def Obligations.CellLaneResult : Prop :=
  ∀ (s : State) (c : Cell) (f : CG) (ty w : Nat), ty = f.ty.toNat → w = tyWidth ty →
    (CellMay s c (.clLred f) → ∀ a, a = cellSrc c (.clLred f) 0 →
      exec (.clLred f) s = .next (cellWrote s c (.clLred f) (c.result f.d (c.active f) fun _ =>
        ⟨laneOf w fun _ => reduceTree (f.aux.toNat % 8) ty c.ftz
            ((activeElems c f w a).map fun x => x.getD (identityOf (f.aux.toNat % 8) ty)),
          (c.lanesWith (c.active f)).any fun l => (a l).poison⟩))) ∧
    (CellMay s c (.clLscn f) → ∀ a b k out, a = cellSrc c (.clLscn f) 0 → b = cellSrc c (.clLscn f) 1 → k = 32 / w →
      out = scanElems (combine (f.aux.toNat % 8) ty c.rm c.ftz) (f.aux.getLsbD 3) (scanCarry f c.ftz b) (activeElems c f w a) →
      exec (.clLscn f) s = .next (cellWrote s c (.clLscn f) (c.result f.d (c.active f) fun l =>
        ⟨laneOf w fun e => nth 0 out (l * k + e), (f.aux.getLsbD 4 && (b 0).poison) ||
          (upTo (if f.aux.getLsbD 3 = true ∧ k = 1 then l else l + 1)).any fun m => c.active f m && (a m).poison⟩))) ∧
    (CellMay s c (.clLshf f) → ∀ a b, a = cellSrc c (.clLshf f) 0 → b = cellSrc c (.clLshf f) 1 →
      exec (.clLshf f) s = .next (cellWrote s c (.clLshf f) (c.result f.d (c.active f) fun l =>
        let j := shufLane f.aux.toNat c.lanes b l
        if j.1 < c.lanes then ⟨(a j.1).v, (a j.1).poison || (b j.2).poison⟩ else ⟨0, (b j.2).poison⟩))) ∧
    (CellMay s c (.clLbrd f) → ∀ a b k, a = cellSrc c (.clLbrd f) 0 → b = cellSrc c (.clLbrd f) 1 → k = (b 0).v.toNat % 65536 →
      (k < c.lanes → exec (.clLbrd f) s = .next (cellWrote s c (.clLbrd f) (c.result f.d (c.active f) fun _ =>
        ⟨(a k).v, (a k).poison || (b 0).poison⟩))) ∧
      (c.lanes ≤ k → exec (.clLbrd f) s = .next (cellTrapped (cellDrawn s c (.clLbrd f)) c 0x01
        (wordHalves (.clLbrd f)).1 (wordHalves (.clLbrd f)).2 (BitVec.ofNat 32 k) 0))) ∧
    (CellMay s c (.clLcmp f) → ∀ kept, kept = (c.lanesWith (c.active f)).map (cellSrc c (.clLcmp f) 0) →
      exec (.clLcmp f) s = .next (cellWrote s c (.clLcmp f) ((c.result f.d (fun _ => true) fun l => nth Lane.zero kept l).join
        (allLanes c f.e (BitVec.ofNat 32 kept.length))))) ∧
    (CellMay s c (.clRngx f) → ∀ (o : Nat → W32 × W32 × W32 × W32) (u : W32 → W32),
      (∀ l, o l = osier (laneIn c (.clRngx f) l 0 + c.lid + BitVec.ofNat 32 l) (laneIn c (.clRngx f) l 1) (laneIn c (.clRngx f) l 2)
        (laneIn c (.clRngx f) l 3) (nth 0 c.n.ks (2 * (f.aux.toNat % 4))) (nth 0 c.n.ks (2 * (f.aux.toNat % 4) + 1))) →
      (∀ x, u x = if f.ty = 5 then x else uniform x) →
      ∀ r : Nat → (W32 × W32 × W32 × W32 → W32) → Pend,
      (∀ j g, r j g = c.result (f.d + BitVec.ofNat 6 j) (c.active f) fun l => ⟨u (g (o l)), laneBad c (.clRngx f) l⟩) →
      exec (.clRngx f) s = .next (cellWrote s c (.clRngx f)
        ((((r 0 fun x => x.1).join (r 1 fun x => x.2.1)).join (r 2 fun x => x.2.2.1)).join (r 3 fun x => x.2.2.2))))

/-- R204, R206, R155: what writing results does to a weave: the active lanes of the destination register take their values
and every other lane and register keeps its own; a predicate's active bits change, others not, and p0 stays all ones. -/
def Obligations.CellWriteFrame : Prop :=
  ∀ (c : Cell) (w : Weave) (d : Code6) (act : Nat → Bool) (g : Vec) (n : Nat) (b : Nat → Bool), d.toNat < 48 →
    (∀ r l, (w.write (c.result d act g)).lane r l = if r = d.toNat ∧ l < c.lanes ∧ act l = true then g l else w.lane r l) ∧
    (∀ r l, (w.write (c.result d act g)).pbit r l = w.pbit r l) ∧
    (∀ r l, (w.write (c.resultP n act b)).pbit r l = if n ≠ 0 ∧ r = n ∧ l < c.lanes ∧ act l = true then b l else w.pbit r l) ∧
    (∀ r l, (w.write (c.resultP n act b)).lane r l = w.lane r l) ∧
    { w.write (c.result d act g) with xs := w.xs } = w ∧ { w.write (c.resultP n act b) with ps := w.ps } = w

/-! ## Cells: matrices, butterflies, transducers (R250 to R282) -/

namespace Sys2Proof.Claims

open Sys2Proof.Machine

/-- The task goes on after its weave was changed. -/
def cellSets (s : State) (c : Cell) (i : Instr) (g : Weave → Weave) : State :=
  cellPassed ((cellDrawn s c i).updWeave c.key.weave g) c i

/-- A region of rows within the store (R253). -/
structure RegionIn (c : Cell) (off pitch rows size : Nat) : Prop where
  align : off % 4 = 0 ∧ pitch % 4 = 0
  apart : size ≤ pitch
  reach : off + (rows - 1) * pitch + size ≤ storeSize c.st

/-- A region that can be read now: no fault waits on its lines, and those of no declared range are full (R77, R294). -/
structure RegionOk (c : Cell) (off pitch rows size : Nat) : Prop extends RegionIn c off pitch rows size where
  faults : c.faultOn (regionLines off pitch rows size) = none
  lines : c.emptyLine (regionLines off pitch rows size) = none

/-- Lane 0 of source field j, as a number. -/
def arg0 (c : Cell) (i : Instr) (j : Nat) : Nat := (cellSrc c i j 0).v.toNat

/-- A multiply of k columns enters with the operand a that it has read: it counts at once, and its chunks begin (R139, R252,
R256). -/
def enterMult (c : Cell) (f : CG) (k : Nat) (a : List (List Lane)) (s : State) : State :=
  pushMult c.key.weave (c.mult f k a none s) (countMult c.key.weave c.st.g (c.mult f k a none s) s)

/-- A word that its own operands or its weave refuse (R339). -/
def cellIllegal (s : State) (c : Cell) (i : Instr) : State :=
  cellTrapped (cellDrawn s c i) c 0x01 (wordHalves i).1 (wordHalves i).2 0 0

/-- The multiply forms: the word and whether it is ternary. -/
def multTable : List ((CG → Instr) × Bool) := [(.cxMma, false), (.cxMmat, true)]

/-- The passes: the word and its direction flag. -/
def passTable : List ((CG → Instr) × Bool) := [(.cdDxrn, false), (.cdDxch, true)]

/-- The task and weave wait with nothing done while a pass of the weave has not completed (R282). -/
def cellHeld (s : State) (c : Cell) (i : Instr) : Prop := exec i s = .next (cellHolds s c)

/-- One lane's pass (R277 to R280). -/
def passOf (c : Cell) (i : Instr) (f : CG) (rev : Bool) (l : Nat) : Except Undef PassOut :=
  passLane (c.w.slot (f.aux.toNat % 4)) rev (if f.aux.getLsbD 5 then some ((cellSrc c i 2 l).v.toNat % 32) else none)
    (cellSrc c i 0 l).v.toNat (cellSrc c i 1 l).v.toNat

/-- What one lane's pass leaves where it is defined. -/
def passOutOf (c : Cell) (i : Instr) (f : CG) (rev : Bool) (l : Nat) : PassOut :=
  match passOf c i f rev l with
  | .ok p => p
  | .error _ => ⟨0, 0, 0⟩

end Sys2Proof.Claims

/-- R252 to R257, R261 to R263: MZERO and MLDB; a lone or leading multiply on the rows of its region, which a leader also puts
on its link; a follower's multiply on its leader's link, which its last member empties; and a chain's forming. A leader that finds
its link holding an operand, and a follower that finds none there, wait in the background: the task goes on and the multiply
stands among those of its weave until the link lets it enter (R263; log 183, the model's reading). Types that do not agree trap
with ILLEGAL. A tile that a multiply still uses holds MZERO back with nothing done. -/
def Obligations.CellMatrixLoads : Prop :=
  ∀ (s : State) (c : Cell) (f : CG) (wd rows : Nat), wd = tyWidth f.ty.toNat → rows = 32 * c.st.g →
    (CellMay s c (.cxMzero f) →
      (c.w.busyTile f.d.toNat = false → exec (.cxMzero f) s = .next (cellSets s c (.cxMzero f) fun w =>
        w.setTile f.d.toNat ⟨f.aux.toNat == 1, [], [], [], 0⟩)) ∧
      (c.w.busyTile f.d.toNat = true → exec (.cxMzero f) s = .next (cellHolds s c))) ∧
    (CellMay s c (.cxMldb f) → ∀ off kb pitch, off = arg0 c (.cxMldb f) 0 → kb = arg0 c (.cxMldb f) 1 → pitch = arg0 c (.cxMldb f) 2 →
      (0 < kb → kb ≤ 64 → RegionOk c off pitch kb (4 * wd) →
        exec (.cxMldb f) s = .next (cellSets s c (.cxMldb f) fun w => w.setBuf f.d.toNat ⟨f.ty, kb, w.storeRows off pitch kb 32 wd⟩)) ∧
      (kb = 0 ∨ 64 < kb → exec (.cxMldb f) s = .next (cellTrapped (cellDrawn s c (.cxMldb f)) c 0x01
        (wordHalves (.cxMldb f)).1 (wordHalves (.cxMldb f)).2 0 0))) ∧
    (∀ p ∈ multTable, CellMay s c (p.1 f) →
      (∀ off k pitch a, off = arg0 c (p.1 f) 0 → k = arg0 c (p.1 f) 1 → pitch = arg0 c (p.1 f) 2 → a = c.w.storeRows off pitch rows k wd →
        multTypes c.w f p.2 = true → 0 < k → k ≤ (c.w.buf (f.aux.toNat % 2)).kb → RegionOk c off pitch rows (4 * ceilDiv (k * wd) 32) →
        (f.aux.toNat / 2 = 0 → exec (p.1 f) s = .next (cellPassed (enterMult c f k a (cellDrawn s c (p.1 f))) c (p.1 f))) ∧
        (f.aux.toNat / 2 = 1 → c.w.chain ≠ 0 →
          (c.w.link = none → c.w.linkWaits .place = false →
            exec (p.1 f) s = .next (cellPassed ((enterMult c f k a (cellDrawn s c (p.1 f))).updWeave c.key.weave fun w =>
              { w with link := some ⟨f.ty, k, a, []⟩ }) c (p.1 f))) ∧
          (c.w.link ≠ none ∨ c.w.linkWaits .place = true →
            exec (p.1 f) s = .next (cellPassed (pushMult c.key.weave (c.mult f k a (some .place) (cellDrawn s c (p.1 f)))
              (cellDrawn s c (p.1 f))) c (p.1 f))))) ∧
      (∀ lead, f.aux.toNat / 2 = 2 → c.w.leader = some lead → multTypes c.w f p.2 = true →
        (∀ x, linkOffer c.st c.w = some x → c.w.linkWaits .take = false →
          (x.ty = f.ty → x.k ≤ (c.w.buf (f.aux.toNat % 2)).kb →
            exec (p.1 f) s = .next (cellPassed ((enterMult c f x.k x.a (cellDrawn s c (p.1 f))).updStand c.key.stand fun t =>
              t.takeFrom lead c.key.pos) c (p.1 f))) ∧
          (x.ty ≠ f.ty → exec (p.1 f) s = .next (cellIllegal s c (p.1 f)))) ∧
        (linkOffer c.st c.w = none ∨ c.w.linkWaits .take = true →
          exec (p.1 f) s = .next (cellPassed (pushMult c.key.weave (c.mult f 0 [] (some .take) (cellDrawn s c (p.1 f)))
            (cellDrawn s c (p.1 f))) c (p.1 f)))) ∧
      (multTypes c.w f p.2 = false → exec (p.1 f) s = .next (cellIllegal s c (p.1 f)))) ∧
    (∀ (t : Stand) (w : Weave) (lead : WPos) (x : Link), w.leader = some lead → t.wave = none → (t.weave lead).link = some x →
      linkOffer t w = if x.taken.contains w.pos then none else some x) ∧
    (CellMay s c (.cxMchn f) → ∀ n ms, n = arg0 c (.cxMchn f) 0 → ms = chainMembers c.key.pos n →
      0 < n → n ≤ 8 → (∀ m ∈ ms, m.dcol < c.st.kern.w) → (∀ m ∈ ms, (c.st.weave m).inOther c.key.pos = false) → c.w.link = none →
      c.w.linkWaits .place = false →
      ∀ s1 s2, s1 = ((chainMembers c.key.pos c.w.chain).drop 1).foldl (fun acc m => acc.updWeave ⟨c.key.stand, m⟩ fun w =>
          { w with leader := none }) (cellDrawn s c (.cxMchn f)) →
        s2 = (ms.drop 1).foldl (fun acc m => acc.updWeave ⟨c.key.stand, m⟩ fun w => { w with leader := some c.key.pos }) s1 →
        exec (.cxMchn f) s = .next (cellPassed (s2.updWeave c.key.weave fun w => { w with chain := if n = 1 then 0 else n }) c (.cxMchn f)))

/-- R55, R258 to R260, R264 to R267: MRD reads a column of a tile, saturated or as f32, and with aux[0] = 0 on a busy tile after
the chunks that are complete now (log 147, the model's choice among those R258 allows); MDRN drains a tile, with a tensor's row
scales, read as loads of the task, or without; MSCL scales or sets; TWG writes twiddles and TWST; MBFY is a stage on a pair of
tiles, by TWST as it stood when it first issued (R318). A tile of a type that MRD, MSCL or MBFY must not have traps with
ILLEGAL. -/
def Obligations.CellMatrixReads : Prop :=
  ∀ (s : State) (c : Cell) (f : CG),
    (CellMay s c (.cxMrd f) → ∀ t b, t = c.w.tile f.a.toNat → b = cellSrc c (.cxMrd f) 1 0 →
      (t.int = true ↔ f.ty.toNat = 4) → (f.aux.getLsbD 0 = true → c.w.busyTile f.a.toNat = false) →
      exec (.cxMrd f) s = .next (cellWrote s c (.cxMrd f) ((c.result f.d (c.active f) fun l =>
        let r := laneRow l (bitsAt b.v.toNat 5 1)
        let j := bitsAt b.v.toNat 0 5
        ⟨if t.int then BitVec.ofNat 32 (intSat 4 (t.el r j).v.toInt) else BitVec.ofNat 32 (t.deliver r j),
          (t.el r j).poison || b.poison⟩).join (if f.aux.getLsbD 1 then allLanes c f.e t.count else Pend.none)))) ∧
    (CellMay s c (.cxMrd f) → ¬ ((c.w.tile f.a.toNat).int = true ↔ f.ty.toNat = 4) →
      exec (.cxMrd f) s = .next (cellIllegal s c (.cxMrd f))) ∧
    (CellMay s c (.cxMscl f) → (c.w.tile f.d.toNat).int = true → exec (.cxMscl f) s = .next (cellIllegal s c (.cxMscl f))) ∧
    (CellMay s c (.cxMbfy f) → (c.w.tile f.d.toNat).int = true ∨ (c.w.tile (f.d.toNat + 1)).int = true →
      exec (.cxMbfy f) s = .next (cellIllegal s c (.cxMbfy f))) ∧
    (CellMay s c (.cxMdrn f) → RegionIn c (arg0 c (.cxMdrn f) 1) (arg0 c (.cxMdrn f) 2) (32 * c.st.g) (4 * tyWidth f.ty.toNat) →
      c.w.busyTile f.a.toNat = false → ∀ s1, s1 = cellDrawn s c (.cxMdrn f) →
      (f.aux.getLsbD 2 = false → exec (.cxMdrn f) s = .next (cellPassed
        (drainBody f c (arg0 c (.cxMdrn f) 1) (arg0 c (.cxMdrn f) 2) (fun _ => 0) s1) c (.cxMdrn f))) ∧
      (∀ raw s2 l, f.aux.getLsbD 2 = true → c.entry? s1 (arg0 c (.cxMdrn f) 4 % 65536) = some raw → (tensorEntry raw).r = true →
        drainScales c (tensorEntry raw) (arg0 c (.cxMdrn f) 3) (32 * c.st.g) s1 = .ok s2 l → exec (.cxMdrn f) s = .next (cellPassed
          (drainBody f c (arg0 c (.cxMdrn f) 1) (arg0 c (.cxMdrn f) 2) (fun r => nth 0 l r) s2) c (.cxMdrn f)))) ∧
    (∀ (e : TEnt) (row0 rows : Nat), e.rsoff = 0xFFFF →
      drainScales c e row0 rows s = .ok s ((upTo rows).map fun _ => e.sbase)) ∧
    (CellMay s c (.cxMscl f) → ∀ r j, r = (fun l => laneRow l (bitsAt (arg0 c (.cxMscl f) 2) 5 1)) → j = bitsAt (arg0 c (.cxMscl f) 2) 0 5 →
      (c.w.tile f.d.toNat).int = false → c.w.busyTile f.d.toNat = false →
      exec (.cxMscl f) s = .next (cellSets s c (.cxMscl f) fun w =>
        w.setTile f.d.toNat ((c.lanesWith (c.active f)).foldl (fun t l =>
          let a := cellSrc c (.cxMscl f) 0 l
          let b := cellSrc c (.cxMscl f) 1 l
          if f.aux.getLsbD 0 then t.setEl (r l) j ⟨BitVec.ofNat 48 (scaleF32 a.v.toNat b.v.toInt), a.poison || b.poison⟩
          else t.scaleRow (r l) b.v.toInt b.poison) (w.tile f.d.toNat)))) ∧
    (CellMay s c (.cxTwg f) → ∀ a b n, a = cellSrc c (.cxTwg f) 0 → b = cellSrc c (.cxTwg f) 1 0 → n = b.v.toNat → twValid n = true →
      exec (.cxTwg f) s = .next (cellPassed (writeResult c.key
        ((c.result f.d (c.active f) fun l => ⟨BitVec.ofNat 32 (twRe n ((a l).v.toNat % n)), (a l).poison || b.poison⟩).join
          (c.result (f.d + 1) (c.active f) fun l => ⟨BitVec.ofNat 32 (twIm n ((a l).v.toNat % n) (f.aux.getLsbD 0)), (a l).poison || b.poison⟩))
        ((cellDrawn s c (.cxTwg f)).updWeave c.key.weave fun w => { w with twst := BitVec.ofNat 32 n })) c (.cxTwg f))) ∧
    (CellMay s c (.cxMbfy f) → ∀ (g : Stage) (d rows : Nat) (re im : Tile) (out : Nat → Nat × Nat × Bool),
      g = ⟨f.aux.toNat % 4 + 2, arg0 c (.cxMbfy f) 0, arg0 c (.cxMbfy f) 1, arg0 c (.cxMbfy f) 2, (c.tk.twn.getD c.w.twst).toNat % 2 ^ 17,
        f.aux.toNat / 4 % 4, f.aux.getLsbD 4⟩ → d = f.d.toNat → rows = 32 * c.st.g → re = c.w.tile d → im = c.w.tile (d + 1) →
      out = stageOut g (pairPoint re im rows) → re.int = false → im.int = false → g.n ≠ 0 → g.q ≠ 0 → 0 < g.m → g.m ≤ 1024 * c.st.g →
      g.m % (g.r * g.q) = 0 → c.w.busyTile d = false → c.w.busyTile (d + 1) = false →
      exec (.cxMbfy f) s = .next (cellPassed (addOps c.key.stand (2 * g.r * g.m) ((cellDrawn s c (.cxMbfy f)).updWeave c.key.weave fun w =>
        (w.setTile d ((upTo g.m).foldl (fun t o => t.setEl (o % rows) (o / rows) ⟨BitVec.ofNat 48 (out o).1, (out o).2.2⟩) re)).setTile (d + 1)
          ((upTo g.m).foldl (fun t o => t.setEl (o % rows) (o / rows) ⟨BitVec.ofNat 48 (out o).2.1, (out o).2.2⟩) im))) c (.cxMbfy f)))

/-- R269 to R280, R282: once the passes issued before have completed DXLD installs a well-formed image of the store or of memory, or traps with ILLEGAL at its first offending byte; DXCF changes
one attribute of a slot's header; DXFN reads the records or a word of the header; a pass keeps its results for a completion,
or traps with UNDEF at the first active lane where it is undefined and sets the sticky flag of DXST. -/
def Obligations.CellDigits : Prop :=
  ∀ (s : State) (c : Cell) (f : CG),
    (CellMay s c (.cdDxld f) → ∀ src n bs, src = arg0 c (.cdDxld f) 0 → n = imageLen (c.w.store.bytesAt src 16) →
      bs = c.w.store.bytesAt src n → f.aux.getLsbD 0 = true → (cellSrc c (.cdDxld f) 0 0).poison = false → src % 16 = 0 →
      src + 16 ≤ storeSize c.st → src + n ≤ storeSize c.st → (∀ k ∈ [16, n], c.faultOn (linesOf src k) = none ∧ c.emptyLine (linesOf src k) = none) →
      c.w.storePoison src n = false → passPending c.w = false →
      (imageBad bs = none → exec (.cdDxld f) s = .next (cellSets s c (.cdDxld f) fun w =>
        w.setSlot f.d.toNat ⟨imageHdr bs, imageEntries bs, false⟩)) ∧
      (∀ k, imageBad bs = some k → exec (.cdDxld f) s = .next (cellTrapped (cellDrawn s c (.cdDxld f)) c 0x01
        (BitVec.ofNat 32 src) (BitVec.ofNat 32 k) (wordHalves (.cdDxld f)).1 (wordHalves (.cdDxld f)).2))) ∧
    (CellMay s c (.cdDxld f) → ∀ src hd bs s1 s2, src = arg0 c (.cdDxld f) 0 + 2 ^ 32 * (cellSrc c (.cdDxld f) 0 1).v.toNat →
      f.aux.getLsbD 0 = false → (∀ l ∈ [0, 1], (cellSrc c (.cdDxld f) 0 l).poison = false) → src % 16 = 0 → passPending c.w = false →
      readBlocks c src 16 (cellDrawn s c (.cdDxld f)) = .ok s1 hd false →
      readBlocks c src (imageLen hd) (cellDrawn s c (.cdDxld f)) = .ok s2 bs false →
      (imageBad bs = none → exec (.cdDxld f) s = .next (cellPassed (s2.updWeave c.key.weave fun w =>
        w.setSlot f.d.toNat ⟨imageHdr bs, imageEntries bs, false⟩) c (.cdDxld f))) ∧
      (∀ k, imageBad bs = some k → exec (.cdDxld f) s = .next (cellTrapped s2 c 0x01
        (BitVec.ofNat 32 src) (BitVec.ofNat 32 k) (wordHalves (.cdDxld f)).1 (wordHalves (.cdDxld f)).2))) ∧
    (CellMay s c (.cdDxld f) → ∀ ls, ls = (if f.aux.getLsbD 0 then [0] else [0, 1]) →
      (∀ l, poisonedLane (cellSrc c (.cdDxld f) 0) ls = some l → exec (.cdDxld f) s = .next (cellTrapped (cellDrawn s c (.cdDxld f)) c 0x06
        (BitVec.ofNat 32 f.a.toNat) (BitVec.ofNat 32 l) 0 0)) ∧
      (poisonedLane (cellSrc c (.cdDxld f) 0) ls = none → arg0 c (.cdDxld f) 0 % 16 = 0 → passPending c.w = true → cellHeld s c (.cdDxld f))) ∧
    (CellMay s c (.cdDxcf f) → ∀ a x, a = cellSrc c (.cdDxcf f) 0 → x = c.w.slot f.d.toNat → (a 0).poison = false →
      (f.aux.toNat = 3 → (a 1).poison = false) → hdrWidth x.hdr ≠ 0 → (f.aux.toNat = 1 → (a 0).v.toNat % 32 < hdrStates x.hdr) →
      (passPending c.w = false → exec (.cdDxcf f) s = .next (cellSets s c (.cdDxcf f) fun w =>
        w.setSlot f.d.toNat { x with hdr := hdrSet x.hdr f.aux.toNat (a 0).v.toNat (a 1).v.toNat })) ∧
      (passPending c.w = true → cellHeld s c (.cdDxcf f))) ∧
    (CellMay s c (.cdDxfn f) → ∀ h, h = (c.w.slot (f.aux.toNat % 4)).hdr →
      (f.aux.toNat / 4 = 0 → passPending c.w = false → exec (.cdDxfn f) s = .next (cellWrote s c (.cdDxfn f)
        (c.result f.d (c.active f) fun l => nth Lane.zero c.w.recs l))) ∧
      (∀ p ∈ [(1, 0), (2, 64), (3, 96)], f.aux.toNat / 4 = p.1 → exec (.cdDxfn f) s = .next (cellWrote s c (.cdDxfn f)
        (c.result f.d (c.active f) fun _ => ⟨h.extractLsb' p.2 32, false⟩)))) ∧
    (∀ p ∈ passTable, CellMay s c (p.1 f) → ∀ x, x = c.w.slot (f.aux.toNat % 4) → hdrWidth x.hdr ≠ 0 →
      (f.gq = 0 ∨ poisonedSrc c (cellSrcs (p.1 f)) (c.active f) = none) → passPending c.w = false →
      ((∀ l ∈ c.lanesWith (c.active f), ∃ o, passOf c (p.1 f) f p.2 l = .ok o) →
        exec (p.1 f) s = .next (cellPends s c (p.1 f) (passPend f c (cellSrcs (p.1 f)) x (passOutOf c (p.1 f) f p.2)))) ∧
      (∀ l u before after, c.lanesWith (c.active f) = before ++ l :: after → passOf c (p.1 f) f p.2 l = .error u →
        (∀ x ∈ before, ∃ o, passOf c (p.1 f) f p.2 x = .ok o) →
        exec (p.1 f) s = .next (cellTrapped ((cellDrawn s c (p.1 f)).updWeave c.key.weave fun w => { w with dxst := w.dxst ||| 2 }) c 0x04
          (c.lid + BitVec.ofNat 32 l) (BitVec.ofNat 32 (u.pos * 2 ^ 16 + u.st * 2 ^ 8 + u.x * 2 ^ 4 + u.y))
          (cellSrc c (p.1 f) 0 l).v (cellSrc c (p.1 f) 1 l).v)))

/-! ## Cells: memory, ports, control and the checks before an effect (R154 to R156, R202 to R233, R294 to R303, R316) -/

namespace Sys2Proof.Claims

open Sys2Proof.Machine

/-- The element loads and stores: the word, the address of a lane, and whether its digit list must allow the indices. -/
def loadForms : List ((CM → Instr) × (CM → Cell → Vec → Nat → Nat) × Bool) := [(.cmLd, plainAddr, false), (.cmLdbr, revAddr, true)]
def storeForms : List ((CM → Instr) × (CM → Cell → Vec → Nat → Nat) × Bool) := [(.cmSt, plainAddr, false), (.cmStbr, revAddr, true)]

/-- The lanes of a CM word that are active (R155). -/
def lanesM (c : Cell) (f : CM) : List Nat := c.lanesWith (c.activeM f)

/-- A load's results: the lanes it wrote, and a fault delivered later where it met one (R294). -/
def loadEnds (c : Cell) (i : Instr) (d : Code6) (r : LaneRun) (t : State) : Prop :=
  (∀ s1 out, r = .go s1 out → t = cellPassed (writeResult c.key (laneResult c d out) s1) c i) ∧
  (∀ s1 out cause addr l, r = .bad s1 out cause addr l → t = cellPassed (writeResult c.key
    (if d.toNat < 48 then laneResult c d out else Pend.none)
    (defer c.key (cmFault c cause addr l (if d.toNat < 48 then [d.toNat] else []) [] false) s1)) c i)

/-- A store's end: the lanes below a fault keep their effects, and the next CM instruction receives it (R294). -/
def storeEnds (c : Cell) (i : Instr) (r : LaneRun) (t : State) : Prop :=
  (∀ s1 out, r = .go s1 out → t = cellPassed s1 c i) ∧
  (∀ s1 out cause addr l, r = .bad s1 out cause addr l → t = cellPassed (defer c.key (cmFault c cause addr l [] [] true) s1) c i)

/-- A run of lanes neither waits nor meets a fault of an earlier instruction. -/
def runEnds (r : LaneRun) : Prop := (∃ s1 out, r = .go s1 out) ∨ ∃ s1 out cause addr l, r = .bad s1 out cause addr l

/-- The task goes elsewhere than to its next word (R225, R226). -/
def cellWent (c : Cell) (i : Instr) (g : Task → Task) (s1 : State) : State := noteIssue c (finishCell c.key (cellSc i) g s1)

/-- Slots of output port o as an instruction without operand tokens sees them. -/
def portRoom (s : State) (c : Cell) (i : Instr) (o n : Nat) : Prop := n ≤ (cellDrawn s c i).outSlots c o

/-- The task waits for slots of output port o (R202). -/
def cellAwaitsSlot (s : State) (c : Cell) (i : Instr) (o : Nat) : State :=
  cellWait c (52 + o) c.n.limit ((cellDrawn s c i).outIndices c o).1 ((cellDrawn s c i).outIndices c o).2 s

/-- The trap that a FAULT token at the head of port p gives: its cause, the port's code and the token's word (R203). -/
def cellFaulted (s1 : State) (c : Cell) (p : Nat) (t : Tok) : State :=
  cellTrapped s1 c ((nth Lane.zero t.lanes 0).v.toNat % 256) (BitVec.ofNat 32 (48 + p)) (nth Lane.zero t.lanes 0).v 0 0

/-- What CP.JOIN writes of outcome o: every lane of e, and whether it is 1 into every lane of p[gq] (R223). -/
def joinMarks (c : Cell) (f : CG) (o : Nat) : Pend := (allLanes c f.e (BitVec.ofNat 32 o)).join (c.allPred f.gq (o == 1))

/-- CP.JOIN with a control token of a kind on the other side (R223): the data tokens of port p go; its control token must be of
that kind, and where there is none yet the instruction waits with those tokens gone. -/
def joinResets (s : State) (c : Cell) (f : CG) (p : Nat) (kind : BitVec 4) : Prop :=
  ∀ n s1, n = ((c.tk.inq p).avail.takeWhile fun t => t.kind == 0).length → s1 = dequeueN c.key p n (cellDrawn s c (.cpJoin f)) →
    ((c.tk.inq p).avail[n]? = none →
      exec (.cpJoin f) s = .next (cellWait c (48 + p) c.n.limit ((c.tk.inq p).head + BitVec.ofNat 32 n) (c.tk.inq p).tail s1)) ∧
    (∀ t, (c.tk.inq p).avail[n]? = some t →
      (t.kind = 9 → exec (.cpJoin f) s = .next (cellFaulted s1 c p t)) ∧
      (t.kind ≠ 9 → t.kind = kind → exec (.cpJoin f) s = .next (cellPassed (writeResult c.key (joinMarks c f 3) s1) c (.cpJoin f))) ∧
      (t.kind ≠ 9 → t.kind ≠ kind → exec (.cpJoin f) s = .next (cellTrapped s1 c 0x01
        (wordHalves (.cpJoin f)).1 (wordHalves (.cpJoin f)).2 0 0)))

end Sys2Proof.Claims

/-- R294 to R297: the element loads and stores act lane by lane in rising order on the active lanes, at wrap64(base + b) or at
base + n·drev(b); a load from the weave's own store extends the element and keeps its poison, a store to it writes there, an
address that cannot be reached faults with its cause, and the lanes below the fault keep their effects. That a fault of ALIGN or
PROTECTION is delivered later, as one of TRANSLATION is (log 34), and that a faulting load to a port writes and sends nothing (log
49), is the model's choice. -/
def Obligations.CellLoadStore : Prop :=
  (∀ (s : State) (c : Cell) (f : CM) (lanes : List Nat), lanes = lanesM c f →
    (∀ p ∈ loadForms, CellMay s c (p.1 f) → cmPoison c f.a lanes [(f.b, cellSrc c (p.1 f) 1)] = none →
      (p.2.2 = true → revCheck c (cellSrc c (p.1 f) 1) lanes = none) →
      ∀ r, r = eachLane (loadLane c f.ty f.ch.toNat (p.2.1 f c (cellSrc c (p.1 f) 1))) lanes (cellDrawn s c (p.1 f)) [] →
      runEnds r → ∃ t, exec (p.1 f) s = .next t ∧ loadEnds c (p.1 f) f.d r t) ∧
    (∀ p ∈ storeForms, CellMay s c (p.1 f) → cmPoison c f.a lanes [(f.b, cellSrc c (p.1 f) 1)] = none →
      (p.2.2 = true → revCheck c (cellSrc c (p.1 f) 1) lanes = none) →
      ∀ r, r = eachLane (storeLane c f.ty f.ch.toNat (p.2.1 f c (cellSrc c (p.1 f) 1)) (cellSrc c (p.1 f) 4)) lanes (cellDrawn s c (p.1 f)) [] →
      runEnds r → ∃ t, exec (p.1 f) s = .next t ∧ storeEnds c (p.1 f) r t)) ∧
  (∀ (c : Cell) (f : CM) (b : Vec) (l : Nat), plainAddr f c b l = (c.base f.a l + (b l).v.toNat) % 2 ^ 64) ∧
  (∀ (s : State) (c : Cell) (ty : BitVec 4) (ch : Nat) (addr : Nat → Nat) (x : Vec) (l : Nat),
    (∀ cause, cellPlace s c (laneCell l) (addr l) (cmBytes ty) .read = .error cause → loadLane c ty ch addr s l = .bad cause (addr l)) ∧
    (∀ cause, cellPlace s c (laneCell l) (addr l) (cmBytes ty) .write = .error cause → storeLane c ty ch addr x s l = .bad cause (addr l)) ∧
    (∀ off, cellPlace s c (laneCell l) (addr l) (cmBytes ty) .read = .ok (.self off) → c.faultOn [off / 128] = none → c.emptyLine [off / 128] = none →
      loadLane c ty ch addr s l = .val s ⟨cmExtend ty (c.w.store.readN off (cmBytes ty)), c.w.store.poisoned off⟩) ∧
    (∀ off, cellPlace s c (laneCell l) (addr l) (cmBytes ty) .write = .ok (.self off) → c.faultOn [off / 128] = none →
      storeLane c ty ch addr x s l = .val (s.updWeave c.key.weave fun w =>
        { w with store := w.store.store off (bytesLE (cmBytes ty) (x l).v.toNat) (x l).poison }) (x l)))

/-- R294, R298 to R303, R290: reply loads send G tokens; tile loads and stores move a tensor's tile, of whose entry they keep
what they read at issue (R70; log 181, the model's reading); updates, atomics, pins and unpins go lane by lane; a prefetch changes
no result; CM.FILL sets or clears full bits of its lines. That the poison an atomic meets in memory is reported with operand a (log
52), and that the other faults of updates and atomics are delivered later (log 34), is the model's choice. -/
def Obligations.CellMemoryOther : Prop :=
  ∀ (s : State) (c : Cell) (f : CM) (lanes : List Nat), lanes = lanesM c f →
    (CellMay s c (.cmLdx f) → ∀ dc dr col slot vc s1 out, c.st.kern.routes[f.b.toNat]? = some (.cell dc dr col slot vc) →
      cmPoison c f.a lanes [] = none → c.st.g ≤ (cellDrawn s c (.cmLdx f)).routeSlots c.st f.b.toNat →
      eachLane (loadLane c f.ty 3 (c.base f.a)) lanes (cellDrawn s c (.cmLdx f)) [] = .go s1 out →
      exec (.cmLdx f) s = .next (cellPassed (sendReplies c.key.weave f.b.toNat ((upTo c.st.g).map (replyTok c f out none)) s1) c (.cmLdx f))) ∧
    (CellMay s c (.cmLdt f) → ∀ x s1 els n ls, tileArgs c f (cellSrcs (.cmLdt f)) false (cellDrawn s c (.cmLdt f)) = .ok x →
      n = packedBytes x.e.width x.e.tileSize → ls = linesOf x.off n → c.faultOn ls = none → s.memHeld c.st.vf = false →
      (∀ l ∈ tileLines (cellTrans (cellDrawn s c (.cmLdt f)) c .read) x.e x.co,
        (cellDrawn s c (.cmLdt f)).accessHeld c.st.vf c.st.die (128 * l) = false) →
      evict c.key.weave (fun y => (tileLines (cellTrans (cellDrawn s c (.cmLdt f)) c .read) x.e x.co).contains y.line)
        (cellDrawn s c (.cmLdt f)) = some s1 →
      readTile (cellTrans (cellDrawn s c (.cmLdt f)) c .read) (s1.standMem c.key.stand) x.e x.co = .ok els →
      exec (.cmLdt f) s = .next (cellPassed (c.touchTile x (addBytes c.key.stand (elBytes x.e (x.e.tileElems x.co))
        (s1.updWeave c.key.weave fun w =>
        { w with store := packStore x.e.width x.off els (zeroLines x.off n w.store)
                 full := ls.foldl (fun acc l => insertNat l acc) w.full }))) c (.cmLdt f))) ∧
    (CellMay s c (.cmStt f) → ∀ x s1 s2 ops n ls, tileArgs c f (cellSrcs (.cmStt f)) true (cellDrawn s c (.cmStt f)) = .ok x →
      n = packedBytes x.e.width x.e.tileSize → ls = linesOf x.off n → c.faultOn ls = none → c.emptyLine ls = none → s.memHeld c.st.vf = false →
      (∀ l ∈ tileLines (cellTrans (cellDrawn s c (.cmStt f)) c .write) x.e x.co,
        (cellDrawn s c (.cmStt f)).accessHeld c.st.vf c.st.die (128 * l) = false) →
      evict c.key.weave (fun y => (tileLines (cellTrans (cellDrawn s c (.cmStt f)) c .write) x.e x.co).contains y.line)
        (cellDrawn s c (.cmStt f)) = some s1 →
      partOps (cellTrans (cellDrawn s c (.cmStt f)) c .write) (s1.standMem c.key.stand)
        (tileParts x.e (x.e.tileElems x.co) (packLoad x.e.width x.off x.e.tileSize c.w.store)) = .ok ops →
      tryHold c.key.stand (.weave c.key.pos) ops s1 = some s2 →
      exec (.cmStt f) s = .next (cellPassed (c.touchTile x (addBytes c.key.stand (elBytes x.e (x.e.tileElems x.co)) s2)) c (.cmStt f))) ∧
    (CellMay s c (.cmUpd f) → cmPoison c f.a lanes [] = none →
      ∀ r, r = eachLane (updLane c f (cellSrc c (.cmUpd f) 4)) lanes (cellDrawn s c (.cmUpd f)) [] → runEnds r →
      ∃ t, exec (.cmUpd f) s = .next t ∧ storeEnds c (.cmUpd f) r t) ∧
    (CellMay s c (.cmAtom f) → cmPoison c f.a lanes ((f.d, c.w.lane f.d.toNat) ::
        if f.b = 6 then [(f.d + 1, c.w.lane (f.d.toNat + 1))] else []) = none →
      ∀ r, r = eachLane (atomLane c f) lanes (cellDrawn s c (.cmAtom f)) [] → runEnds r →
      (∀ s1 out addr l, r = .bad s1 out 0x06 addr l → exec (.cmAtom f) s = .next (cellTrapped
        (writeResult c.key (laneResult c f.d out) s1) c 0x06 (BitVec.ofNat 32 f.a.toNat) (BitVec.ofNat 32 l) 0 0)) ∧
      ((∀ s1 out addr l, r ≠ .bad s1 out 0x06 addr l) → ∃ t, exec (.cmAtom f) s = .next t ∧ loadEnds c (.cmAtom f) f.d r t)) ∧
    (∀ p ∈ [(Instr.cmLock f, true), (Instr.cmUnlk f, false)], CellMay s c p.1 → cmPoison c f.a lanes [] = none →
      ∀ s1 out, eachLane (lockLane c f p.2) lanes (cellDrawn s c p.1) [] = .go s1 out →
      exec p.1 s = .next (cellPassed (writeResult c.key (laneResult c f.d out) s1) c p.1)) ∧
    (CellMay s c (.cmPft f) → cmPoison c f.a lanes [(f.b, cellSrc c (.cmPft f) 1)] = none → s.memHeld c.st.vf = false →
      exec (.cmPft f) s = .next (cellPassed (lanes.foldl (prefetchLane c f (cellSrc c (.cmPft f) 1)) (cellDrawn s c (.cmPft f))) c (.cmPft f))) ∧
    (CellMay s c (.cmFill f) → ∀ a b, a = cellSrc c (.cmFill f) 0 0 → b = cellSrc c (.cmFill f) 1 0 → a.poison = false → b.poison = false →
      (b.v = 0 → exec (.cmFill f) s = .next (cellPassed (cellDrawn s c (.cmFill f)) c (.cmFill f))) ∧
      (b.v ≠ 0 → a.v.toNat + b.v.toNat ≤ 512 * c.st.g → c.faultOn (upFrom a.v.toNat b.v.toNat) = none →
        exec (.cmFill f) s = .next (cellSets s c (.cmFill f) fun w =>
          { w with full := (upFrom a.v.toNat b.v.toNat).foldl (fun acc l => flagNat l (f.d == 1) acc) w.full })) ∧
      (b.v ≠ 0 → 512 * c.st.g < a.v.toNat + b.v.toNat →
        exec (.cmFill f) s = .next (cellTrapped (cellDrawn s c (.cmFill f)) c 0x08 a.v 0 0 0)))

/-- R203, R213 to R224: receives and peeks; sends, EOS, CTXC, skips and the filter, with room and without; the merge that takes
the arm without credit, and its end; the join's step on two data heads, its reset of one side and its end. A poisoned operand
traps with SYNC_POISON, a FAULT head with its cause, heads that do not agree with ILLEGAL; a port with no token waits. -/
def Obligations.CellPorts : Prop :=
  (∀ (s : State) (c : Cell) (f : CG) (p o : Nat), p = f.a.toNat - 48 → o = f.d.toNat - 52 →
    (CellMay s c (.cpRecv f) →
      (∀ t ts, (c.tk.inq p).avail = t :: ts → ∀ s1, s1 = dequeueN c.key p 1 (cellDrawn s c (.cpRecv f)) →
        (t.kind ≠ 9 → exec (.cpRecv f) s = .next (cellPassed (writeResult c.key (recvPend f c t t.vec)
          (if t.release then acquireWeave c.key.weave s1 else s1)) c (.cpRecv f))) ∧
        (t.kind = 9 → exec (.cpRecv f) s = .next (cellFaulted s1 c p t))) ∧
      ((c.tk.inq p).avail = [] → exec (.cpRecv f) s = .next (cellWait c (48 + p) (arg0 c (.cpRecv f) 1) (c.tk.inq p).head (c.tk.inq p).tail s))) ∧
    (CellMay s c (.cpPeek f) →
      (∀ t ts, (c.tk.inq p).avail = t :: ts →
        exec (.cpPeek f) s = .next (cellWrote s c (.cpPeek f) (recvPend f c t fun l => if t.kind = 9 then ⟨(t.vec l).v, true⟩ else t.vec l))) ∧
      ((c.tk.inq p).avail = [] → exec (.cpPeek f) s = .next (cellWait c (48 + p) (arg0 c (.cpPeek f) 1) (c.tk.inq p).head (c.tk.inq p).tail s))) ∧
    (CellMay s c (.cpSend f) → ∀ a ls, a = cellSrc c (.cpSend f) 0 → ls = (c.lanesWith (c.active f)).filter (fun l => l < 16) →
      (¬ portRoom s c (.cpSend f) o 1 → exec (.cpSend f) s = .next (cellAwaitsSlot s c (.cpSend f) o)) ∧
      (portRoom s c (.cpSend f) o 1 →
        (∀ l, poisonedLane a ls = some l → exec (.cpSend f) s = .next (cellTrapped (cellDrawn s c (.cpSend f)) c 0x06
          (f.a.setWidth 32) (BitVec.ofNat 32 l) 0 0)) ∧
        (∀ s1, (∀ l ∈ ls, (a l).poison = false) → releaseWeave c.key.weave (cellDrawn s c (.cpSend f)) = some s1 →
          exec (.cpSend f) s = .next (cellPassed (sendOut c.key o (Tok.fit ⟨f.aux.setWidth 4,
            (upTo 16).map fun l => if c.active f l then a l else Lane.zero, true, 0, false⟩) s1) c (.cpSend f))))) ∧
    (CellMay s c (.cpEos f) → ∀ toks, toks = skipToks (nth 0 c.tk.skips o) ++ [ctlTok 5 0] →
      (¬ portRoom s c (.cpEos f) o toks.length → exec (.cpEos f) s = .next (cellAwaitsSlot s c (.cpEos f) o)) ∧
      (portRoom s c (.cpEos f) o toks.length →
        exec (.cpEos f) s = .next (cellPassed (setSkip c.key o 0 (sendAll c.key o toks (cellDrawn s c (.cpEos f)))) c (.cpEos f)))) ∧
    (CellMay s c (.cpCtxc f) → ∀ a, a = cellSrc c (.cpCtxc f) 0 0 →
      (¬ portRoom s c (.cpCtxc f) o 1 → exec (.cpCtxc f) s = .next (cellAwaitsSlot s c (.cpCtxc f) o)) ∧
      (portRoom s c (.cpCtxc f) o 1 →
        (a.poison = true → exec (.cpCtxc f) s = .next (cellTrapped (cellDrawn s c (.cpCtxc f)) c 0x06 (f.a.setWidth 32) 0 0 0)) ∧
        (a.poison = false →
          exec (.cpCtxc f) s = .next (cellPassed (sendOut c.key o (ctlTok 8 (BitVec.ofNat 32 (a.v.toNat % 4))) (cellDrawn s c (.cpCtxc f))) c (.cpCtxc f))))) ∧
    (CellMay s c (.cpSkip f) → ∀ a toks, a = cellSrc c (.cpSkip f) 0 0 → toks = skipToks (nth 0 c.tk.skips o + a.v.toNat % 256) →
      (a.poison = true → exec (.cpSkip f) s = .next (cellTrapped (cellDrawn s c (.cpSkip f)) c 0x06 (f.a.setWidth 32) 0 0 0)) ∧
      (a.poison = false →
        (¬ portRoom s c (.cpSkip f) o toks.length → exec (.cpSkip f) s = .next (cellAwaitsSlot s c (.cpSkip f) o)) ∧
        (portRoom s c (.cpSkip f) o toks.length →
          exec (.cpSkip f) s = .next (cellPassed (setSkip c.key o 0 (sendAll c.key o toks (cellDrawn s c (.cpSkip f)))) c (.cpSkip f))))) ∧
    (CellMay s c (.cpFilt f) → ∀ a sel, a = cellSrc c (.cpFilt f) 0 0 → sel = a.v.toNat % 4 →
      (a.poison = true → exec (.cpFilt f) s = .next (cellTrapped (cellDrawn s c (.cpFilt f)) c 0x06 (f.a.setWidth 32) 0 0 0)) ∧
      (a.poison = false →
        (sel ∈ maskPorts f.aux →
          ((∀ j ∈ maskPorts f.aux, portRoom s c (.cpFilt f) j (filtPort sel j (nth 0 c.tk.skips j)).1.length) →
            exec (.cpFilt f) s = .next (cellPassed ((maskPorts f.aux).foldl (fun acc j =>
              setSkip c.key j (filtPort sel j (nth 0 c.tk.skips j)).2 (sendAll c.key j (filtPort sel j (nth 0 c.tk.skips j)).1 acc))
              (cellDrawn s c (.cpFilt f))) c (.cpFilt f))) ∧
          (∀ before j after, maskPorts f.aux = before ++ j :: after →
            (∀ i ∈ before, portRoom s c (.cpFilt f) i (filtPort sel i (nth 0 c.tk.skips i)).1.length) →
            ¬ portRoom s c (.cpFilt f) j (filtPort sel j (nth 0 c.tk.skips j)).1.length →
            exec (.cpFilt f) s = .next (cellAwaitsSlot s c (.cpFilt f) j))) ∧
        (sel ∉ maskPorts f.aux → exec (.cpFilt f) s = .next (cellTrapped (cellDrawn s c (.cpFilt f)) c 0x01
          (wordHalves (.cpFilt f)).1 (wordHalves (.cpFilt f)).2 (BitVec.ofNat 32 sel) 0)))) ∧
    (CellMay s c (.cpMrge f) → ∀ arms s1 live, arms = mergeArms c f ((cellDrawn s c (.cpMrge f)).credits c.creditKey) →
      s1 = mergeTake c arms (cellDrawn s c (.cpMrge f)) → live = arms.filter (fun a => a.cr == 0 && !a.atEos) →
      (∀ a, arms.find? (fun a => a.cr == 0 && a.head.isNone) = some a →
        exec (.cpMrge f) s = .next (cellWait c (48 + a.port) c.n.limit ((c.tk.inq a.port).head + BitVec.ofNat 32 a.taken)
          (c.tk.inq a.port).tail s1)) ∧
      ((∀ a ∈ arms, a.cr = 0 → a.head ≠ none) →
        ((∀ a ∈ arms, a.cr = 0 ∧ a.atEos = true) → exec (.cpMrge f) s = .next (cellPassed (writeResult c.key (allLanes c f.d 4) s1) c (.cpMrge f))) ∧
        (∀ a, live = [a] →
          exec (.cpMrge f) s = .next (cellPassed (writeResult c.key (allLanes c f.d (BitVec.ofNat 32 a.port))
            (arms.foldl (fun acc b => if b.port = a.port then acc
              else acc.updTask c.creditKey fun x => { x with cr := setCount x.cr b.port (b.cr - 1) }) s1)) c (.cpMrge f))) ∧
        ((∃ a ∈ arms, a.cr ≠ 0 ∨ a.atEos = false) → live.length ≠ 1 →
          exec (.cpMrge f) s = .next (cellTrapped s1 c 0x01 (wordHalves (.cpMrge f)).1 (wordHalves (.cpMrge f)).2 0 0))))) ∧
  (∀ (s : State) (c : Cell) (f : CG) (pa pb : Nat), pa = f.a.toNat - 48 → pb = f.b.toNat - 48 → CellMay s c (.cpJoin f) →
    ((c.tk.inq pa).avail = [] → exec (.cpJoin f) s = .next (cellWait c (48 + pa) c.n.limit (c.tk.inq pa).head (c.tk.inq pa).tail s)) ∧
    (∀ ha, (c.tk.inq pa).avail.head? = some ha →
      (ha.kind = 9 → exec (.cpJoin f) s = .next (cellFaulted (cellDrawn s c (.cpJoin f)) c pa ha)) ∧
      (ha.kind ≠ 9 → (c.tk.inq pb).avail = [] →
        exec (.cpJoin f) s = .next (cellWait c (48 + pb) c.n.limit (c.tk.inq pb).head (c.tk.inq pb).tail s)) ∧
      (∀ hb, (c.tk.inq pb).avail.head? = some hb → ha.kind ≠ 9 →
        (hb.kind = 9 → exec (.cpJoin f) s = .next (cellFaulted (cellDrawn s c (.cpJoin f)) c pb hb)) ∧
        (ha.kind = 0 → hb.kind = 0 →
          ((nth Lane.zero ha.lanes 0).poison = true →
            exec (.cpJoin f) s = .next (cellTrapped (cellDrawn s c (.cpJoin f)) c 0x06 (f.a.setWidth 32) 0 0 0)) ∧
          ((nth Lane.zero ha.lanes 0).poison = false → (nth Lane.zero hb.lanes 0).poison = true →
            exec (.cpJoin f) s = .next (cellTrapped (cellDrawn s c (.cpJoin f)) c 0x06 (f.b.setWidth 32) 0 0 0)) ∧
          ((nth Lane.zero ha.lanes 0).poison = false → (nth Lane.zero hb.lanes 0).poison = false →
            ∀ act s1, act = f.aux.toNat / 4 ^ joinOutcome f.ty.toNat ha hb % 4 →
            s1 = (if act = 0 ∨ act = 2 then dequeueN c.key pa 1 (cellDrawn s c (.cpJoin f)) else cellDrawn s c (.cpJoin f)) →
            exec (.cpJoin f) s = .next (cellPassed (writeResult c.key
              (((c.result f.d (fun _ => true) ha.vec).join (c.result f.c (fun _ => true) hb.vec)).join
                (joinMarks c f (joinOutcome f.ty.toNat ha hb)))
              (if act = 1 ∨ act = 2 then dequeueN c.key pb 1 s1 else s1)) c (.cpJoin f)))) ∧
        (ha.kind = 0 → hb.kind ≠ 0 → hb.kind ≠ 9 → joinResets s c f pa hb.kind) ∧
        (ha.kind ≠ 0 → hb.kind = 0 → joinResets s c f pb ha.kind) ∧
        (ha.kind ≠ 0 → hb.kind ≠ 0 → hb.kind ≠ 9 →
          (ha.kind = hb.kind → exec (.cpJoin f) s = .next (cellWrote s c (.cpJoin f) (joinMarks c f 3))) ∧
          (ha.kind ≠ hb.kind → exec (.cpJoin f) s = .next (cellTrapped (cellDrawn s c (.cpJoin f)) c 0x01
            (wordHalves (.cpJoin f)).1 (wordHalves (.cpJoin f)).2 0 0))))))

/-- R225 to R233, R344: loops, branches, special registers, held publications, timeline waits, fences, barriers, yields, software
traps and the end of a task. LOOP traps with ILLEGAL where its body runs past the text or its enclosing body, or at a fifth level,
LBRK outside a loop, and a taken branch whose target is outside the text; a backward branch beyond the node's limit and TLW short of
its target wait; TLW of an engine that the stand has not traps with PROTECTION; a FENC whose stores find no room in the segment
asks for a wave. That the target of an untaken BRA is not checked (log 11), and that BARR leaves its operand token in the queue until
the barrier completes (log 60), is the model's choice. -/
def Obligations.CellControl : Prop :=
  ∀ (s : State) (c : Cell) (f : CG),
    (CellMay s c (.ccLoop f) → ∀ a n last, a = cellSrc c (.ccLoop f) 0 → n = ((a 0).v.toNat + 2 ^ 32 * (a 1).v.toNat) % 2 ^ 40 →
      last = c.tk.pc + (disp12 f).toNat → (a 0).poison = false → (a 1).poison = false → 0 < (disp12 f).toInt → last < c.n.text.length →
      (∀ l ∈ c.tk.loops, l.start ≤ c.tk.pc → c.tk.pc ≤ l.last → last ≤ l.last) →
      (0 < n → c.tk.loops.length < 4 → exec (.ccLoop f) s = .next (cellWent c (.ccLoop f) (fun x =>
        { x with pc := c.tk.pc + 1, loops := ⟨c.tk.pc + 1, last, n, n⟩ :: c.tk.loops }) (cellDrawn s c (.ccLoop f)))) ∧
      (n = 0 → exec (.ccLoop f) s = .next (cellWent c (.ccLoop f) (fun x =>
        { x with pc := (reachEnd 1 c.tk.loops last).2, loops := (reachEnd 1 c.tk.loops last).1 }) (cellDrawn s c (.ccLoop f))))) ∧
    (CellMay s c (.ccLoop f) → ∀ a n last, a = cellSrc c (.ccLoop f) 0 → n = ((a 0).v.toNat + 2 ^ 32 * (a 1).v.toNat) % 2 ^ 40 →
      last = c.tk.pc + (disp12 f).toNat →
      (∀ l, poisonedLane a [0, 1] = some l → exec (.ccLoop f) s = .next (cellTrapped (cellDrawn s c (.ccLoop f)) c 0x06
        (BitVec.ofNat 32 f.a.toNat) (BitVec.ofNat 32 l) 0 0)) ∧
      (poisonedLane a [0, 1] = none → (disp12 f).toInt ≤ 0 ∨ c.n.text.length ≤ last ∨
          (∃ l ∈ c.tk.loops, l.start ≤ c.tk.pc ∧ c.tk.pc ≤ l.last ∧ l.last < last) ∨ (0 < n ∧ 4 ≤ c.tk.loops.length) →
        exec (.ccLoop f) s = .next (cellIllegal s c (.ccLoop f)))) ∧
    (CellMay s c (.ccLbrk f) →
      (∀ l ls, c.tk.loops = l :: ls →
        exec (.ccLbrk f) s = .next (cellWent c (.ccLbrk f) (fun x => { x with pc := l.last + 1, loops := ls }) (cellDrawn s c (.ccLbrk f)))) ∧
      (c.tk.loops = [] → exec (.ccLbrk f) s = .next (cellIllegal s c (.ccLbrk f)))) ∧
    (∀ i ∈ [Instr.ccBra f, .ccJmp f], CellMay s c i → (i = .ccBra f → braTaken f.aux.toNat ((upTo c.lanes).map (c.active f)) = true) →
      ∀ t : Int, t = c.tk.pc + (disp12 f).toInt →
      (t < 0 ∨ (c.n.text.length : Int) ≤ t → exec i s = .next (cellIllegal s c i)) ∧
      (0 ≤ t → t < (c.n.text.length : Int) → (disp12 f).toInt ≤ 0 → c.n.limit ≤ c.tk.branches →
        exec i s = .next (cellWait c 0x3D 1 (BitVec.ofNat 32 c.tk.branches) 0 s))) ∧
    (∀ i ∈ [Instr.ccBra f, .ccJmp f], CellMay s c i → (i = .ccBra f → braTaken f.aux.toNat ((upTo c.lanes).map (c.active f)) = true) →
      ∀ t : Nat, (t : Int) = c.tk.pc + (disp12 f).toInt → t < c.n.text.length → ((disp12 f).toInt ≤ 0 → c.tk.branches < c.n.limit) →
      exec i s = .next (cellWent c i (fun x => { x with pc := t, loops := leaveLoops t c.tk.loops })
        ((cellDrawn s c i).updTask c.key fun x => { x with branches := if (disp12 f).toInt ≤ 0 then x.branches + 1 else x.branches }))) ∧
    (CellMay s c (.ccBra f) → braTaken f.aux.toNat ((upTo c.lanes).map (c.active f)) = false →
      exec (.ccBra f) s = .next (cellPassed (cellDrawn s c (.ccBra f)) c (.ccBra f))) ∧
    (CellMay s c (.ccGrain f) → exec (.ccGrain f) s = .next (cellWrote s c (.ccGrain f) (allLanes c f.d (BitVec.ofNat 32 c.st.g)))) ∧
    (CellMay s c (.ccRdsr f) → exec (.ccRdsr f) s = .next (cellWrote s c (.ccRdsr f)
      (c.result f.d (c.active f) fun l => ⟨c.special f.aux.toNat l, false⟩))) ∧
    (CellMay s c (.ccWrsr f) → ∀ x, x = cellSrc c (.ccWrsr f) 0 0 → x.poison = false →
      (f.aux.toNat = 6 → exec (.ccWrsr f) s = .next (cellPassed ((cellDrawn s c (.ccWrsr f)).updTask c.key fun k =>
        { k with frm := x.v &&& 7 }) c (.ccWrsr f))) ∧
      (f.aux.toNat = 7 → exec (.ccWrsr f) s = .next (cellSets s c (.ccWrsr f) fun w => { w with dxst := x.v &&& 3 })) ∧
      (f.aux.toNat = 8 → exec (.ccWrsr f) s = .next (cellSets s c (.ccWrsr f) fun w =>
        { w with twst := if twValid (x.v.toNat % 2 ^ 17) then BitVec.ofNat 32 (x.v.toNat % 2 ^ 17) else 0 }))) ∧
    (CellMay s c (.ccTagp f) → ∀ a, a = cellSrc c (.ccTagp f) 0 → (a 0).poison = false → (a 1).poison = false →
      exec (.ccTagp f) s = .next (cellPassed ((cellDrawn s c (.ccTagp f)).updStand c.key.stand fun t =>
        { t with held := t.held ++ [c.pub (BitVec.ofNat 64 ((a 0).v.toNat + 2 ^ 32 * (a 1).v.toNat)) f.aux.toNat] }) c (.ccTagp f))) ∧
    (CellMay s c (.ccTlw f) → ∀ a e target v, a = (cellSrc c (.ccTlw f) 0 0).v → tlwPoison f c = none → a.toNat < 512 →
      c.st.eng? (a.toNat % 256) = some e → v = (a.toNat / 256 % 2 == 1) →
      target = arg0 c (.ccTlw f) 1 + 2 ^ 32 * (cellSrc c (.ccTlw f) 1 1).v.toNat → target ≤ e.count v →
      exec (.ccTlw f) s = .next (cellPassed (acquireWeave c.key.weave (cellDrawn s c (.ccTlw f))) c (.ccTlw f))) ∧
    (CellMay s c (.ccTlw f) → ∀ a target, a = (cellSrc c (.ccTlw f) 0 0).v → tlwPoison f c = none →
      target = arg0 c (.ccTlw f) 1 + 2 ^ 32 * (cellSrc c (.ccTlw f) 1 1).v.toNat →
      (512 ≤ a.toNat ∨ c.st.eng? (a.toNat % 256) = none →
        exec (.ccTlw f) s = .next (cellTrapped (cellDrawn s c (.ccTlw f)) c 0x08 a 0 0 0)) ∧
      (∀ e v, a.toNat < 512 → c.st.eng? (a.toNat % 256) = some e → v = (a.toNat / 256 % 2 == 1) → e.count v < target →
        exec (.ccTlw f) s = .next (cellWait c ((if v then 0x50 else 0x40) + e.no) (arg0 c (.ccTlw f) 2)
          (BitVec.ofNat 32 (e.count v % 2 ^ 28)) (BitVec.ofNat 32 (target % 2 ^ 28)) s))) ∧
    (CellMay s c (.ccFenc f) →
      (f.aux.toNat / 8 = 2 → exec (.ccFenc f) s = .next (cellPassed (acquireWeave c.key.weave (cellDrawn s c (.ccFenc f))) c (.ccFenc f))) ∧
      (∀ s1, f.aux.toNat / 8 ≠ 2 → releaseWeave c.key.weave (cellDrawn s c (.ccFenc f)) = some s1 →
        exec (.ccFenc f) s = .next (cellPassed (if f.aux.toNat / 8 = 0 then acquireWeave c.key.weave s1 else s1) c (.ccFenc f))) ∧
      (f.aux.toNat / 8 ≠ 2 → releaseWeave c.key.weave (cellDrawn s c (.ccFenc f)) = none →
        exec (.ccFenc f) s = .next (requestWave c.key.stand WaveFlags.none
          (s.updTask c.key fun x => { x with wait := some ⟨segmentWait, 0, 0, 0⟩, ent := none })))) ∧
    (CellMay s c (.ccBarr f) → ∀ k s0 s1 s2 x, s0 = c.undo (cellDrawn s c (.ccBarr f)) → x = cellSrc c (.ccBarr f) 0 0 →
      standKey (cellDrawn s c (.ccBarr f)) c.st c.key.pos f.aux.toNat f.e.toNat = some k →
      ((cellDrawn s c (.ccBarr f)).barrier k).holds (.task c.key) = false → x.poison = false → releaseWeave c.key.weave s0 = some s1 →
      s2 = arrive k (.task c.key) (x.v.getLsbD 0) (keepSlots c.key (allLanes c f.d 0) s1) → (s2.barrier k).holds (.task c.key) = false →
      exec (.ccBarr f) s = .next (noteIssue c s2)) ∧
    (CellMay s c (.ccYld f) → exec (.ccYld f) s = .next (cellPassed (cellDrawn s c (.ccYld f)) c (.ccYld f))) ∧
    (CellMay s c (.ccTrap f) → exec (.ccTrap f) s = .next (noteIssue c (cellTrap c.key 0 f.aux.toNat c.tk.pc 0 0 0 0
      ((cellDrawn s c (.ccTrap f)).updTask c.key fun x => { x.advance with
        pend := if f.sc.getLsbD 3 then some { Pend.none with endt := true } else none })))) ∧
    (CellMay s c (.ccEndt f) → exec (.ccEndt f) s = .next (cellPassed (cellDrawn s c (.ccEndt f)) c (.ccEndt f)))

/-- R16, R154, R162, R202, R203, R252, R263: what stands before an instruction's own effect: ILLEGAL and RESERVED_FIELD; a fault
of an earlier instruction; the wait for a token or a slot; the token that is not data; and the end of a task that its tile
operations hold up, which waits with nothing done. An instruction that takes effect is its weave's only one of the cycle: once
another task of the weave has issued it waits with nothing done. That the record of a token of another kind carries that kind in
operand 3 is the model's choice (log 26). -/
def Obligations.CellChecks : Prop :=
  ∀ (s : State) (c : Cell) (i : Instr) (body : Cell → State → CellAns), CellTurn s c →
    (c.hasIssued s = false → cellCheck i = some .illegal ∨ (∃ p ∈ cellPorts i, (c.n.port p).en = false) →
      runCell i body s = .next (cellTrapped s c 0x01 (wordHalves i).1 (wordHalves i).2 0 0)) ∧
    ((∀ p ∈ cellPorts i, (c.n.port p).en = true) →
      (c.hasIssued s = false → cellCheck i = some .reservedField →
        runCell i body s = .next (cellTrapped s c 0x02 (wordHalves i).1 (wordHalves i).2 0 0)) ∧
      (cellCheck i = none →
        (∀ d, c.tk.deferred.find? (fun d => d.reached i (cellSc i)) = some d → runCell i body s = .next (deliverFault c d s)) ∧
        ((∀ d ∈ c.tk.deferred, d.reached i (cellSc i) = false) →
          (∀ p, c.missing (portRefs (cellSrcs i)) = some p →
            runCell i body s = .next (cellWait c (48 + p) c.n.limit (c.tk.inq p).head (c.tk.inq p).tail s)) ∧
          (c.missing (portRefs (cellSrcs i)) = none →
            (∀ o, c.fullOut s (cellOuts i) = some o →
              runCell i body s = .next (cellWait c (52 + o) c.n.limit (s.outIndices c o).1 (s.outIndices c o).2 s)) ∧
            (c.fullOut s (cellOuts i) = none →
              (∀ p t used, c.hasIssued s = false → c.badToken (portRefs (cellSrcs i)) = some (p, t, used) →
                ∀ s1 l0, s1 = s.updTask c.key (fun x => x.takeRefs used) → l0 = (nth Lane.zero t.lanes 0).v →
                (t.kind = 9 → runCell i body s = .next (cellTrapped s1 c (l0.toNat % 256) (BitVec.ofNat 32 (48 + p)) l0 0 0)) ∧
                (t.kind ≠ 9 → runCell i body s = .next (cellTrapped s1 c 0x01 (wordHalves i).1 (wordHalves i).2 (t.kind.setWidth 32) 0))) ∧
              (c.badToken (portRefs (cellSrcs i)) = none → (cellSc i).getLsbD 3 = true → (∃ m ∈ c.w.mults, m.nid = c.key.nid) →
                runCell i body s = .next (cellHolds s c))))))) ∧
    (CellMay s c i →
      ((body c (cellDrawn s c i)).issues = true →
        runCell i body s = .next (noteIssue c ((body c (cellDrawn s c i)).apply i c s))) ∧
      ((body c (cellDrawn s c i)).issues = false → runCell i body s = .next ((body c (cellDrawn s c i)).apply i c s))) ∧
    (c.hasIssued s = true → (cellAns i body c s).issues = true → runCell i body s = .next (cellHolds s c))

/-! ## Skid commands (R165, R304 to R313) -/

namespace Sys2Proof.Claims

open Sys2Proof.Machine

/-- The commands that move a tile, and those that act on its lines. -/
def moverForms (f : Skid) : List Instr := [.skCpygl f, .skCpylg f, .skCpygg f, .skRedc f]
def lineForms (f : Skid) : List Instr := [.skPfmc f, .skLkmc f, .skUlmc f]

/-- A command goes on after a write (R310, R328): it is no longer paused; an address that does not translate fails it with
TRANSLATION; no room in the segment pauses it and asks for a wave. -/
def wrote (x : EngAt) (s : State) (next : State → State) (w : WriteAns) (t : State) : Prop :=
  (∀ s1, w = .ok s1 → t = next (updCmd x.key x.c.seq (fun c => { c with paused := false }) s1)) ∧
  (w = .fault → t = failCmd x.key x.c 0x07 s) ∧ (w = .full → t = pauseCmd x.key x.c s)

/-- A command writes the elements of a tile in global memory one line a step (R326, R328) and finishes after the last. -/
def wroteTile (x : EngAt) (s : State) (i : Instr) (b : Side) (el : List Nat → TileEl) : Prop :=
  (b.lines.length ≤ x.c.pos → exec i s = .next (finishCmd x.key x.c s)) ∧
  (∀ l ixs, b.lines[x.c.pos]? = some l → ixs = (b.e.tileElems b.co).filter (fun ix => b.e.inExt ix && b.vline ix == l) →
    ∃ t, exec i s = .next t ∧ wrote x s (updCmd x.key x.c.seq fun y => { y with pos := y.pos + 1 }) (writeEls x.key b ixs (ixs.map el) s) t)

/-- The element that a member of a collective writes at an index: that of the result at the index's place in the tile. -/
def collEl (b : Side) (els : List (W32 × Bool)) (ix : List Nat) : TileEl :=
  match ((b.e.tileElems b.co).zip els).find? (fun q => q.1 == ix) with
  | some q => ⟨q.2.1.toNat, q.2.2⟩
  | none => ⟨0, false⟩

end Sys2Proof.Claims

/-- R304, R305, R309, R311, R313, R315, R328: a copy or reduction between stores moves whole, one out of a store line by line of
its destination, and any other requests its lines and writes, with what belongs to no line, what their replies have brought; PFMC, LKMC and ULMC act line by line, a tile in a store being
refused; FILL writes its value to every element, to global memory line by line; BLAZ requests a wave and finishes; NOPC passes
its phases; a command that accesses global memory itself, or writes there, waits while a PCMD of its VF is under way. -/
def Obligations.SkidTileCommands : Prop :=
  ∀ (s : State) (x : EngAt) (f : Skid),
    (∀ i ∈ moverForms f, EngMay s x i → ∀ a b, x.c.srcSide = some a → x.c.dstSide = some b →
      (a.store ≠ none → b.store ≠ none → ∃ t, exec i s = .next t ∧
        wrote x s (fun s1 => finishCmd x.key x.c (markFull x.key x.c b (movePairs a b) s1))
          (moveEls x.key x.c a b (movePairs a b) s) t) ∧
      (a.store ≠ none → b.store = none → cmdOp x.c.word ≠ 8 →
        (x.c.todo = none → exec i s = .next (updCmd x.key x.c.seq (fun y => { y with todo := some b.lines }) s)) ∧
        (x.c.todo = some [] → exec i s = .next (finishCmd x.key x.c s)) ∧
        (∀ l ls ps, x.c.todo = some (l :: ls) → ps = (movePairs a b).filter (fun q => pairLine a b q == some l) →
          ∃ t, exec i s = .next t ∧
            wrote x s (updCmd x.key x.c.seq fun y => { y with todo := some ls }) (moveEls x.key x.c a b ps s) t)) ∧
      (a.store = none ∨ (b.store = none ∧ cmdOp x.c.word = 8) →
        (∀ ps, x.c.todo = none → ps = (movePairs a b).filter (fun q => (pairLine a b q).isNone) →
          exec i s = .next (takeEls x.key x.c a b ps (moverLines (cmdOp x.c.word) a b) (failCmd x.key x.c 0x07) s)) ∧
        (∀ now later, x.c.todo ≠ none → x.c.due a b = (now, later) →
          (now ≠ [] → ∃ t, exec i s = .next t ∧
            wrote x s (fun s1 => markFull x.key x.c b (now.map (·.1)) (updCmd x.key x.c.seq (fun y => { y with kept := later }) s1))
              (putEls x.key x.c b (now.map (·.1.2)) (now.map fun y => ⟨y.2.1.toNat, y.2.2⟩) s) t) ∧
          (now = [] → x.c.todo = some [] → exec i s = .next (finishCmd x.key x.c s)) ∧
          (∀ l ls, now = [] → x.c.todo = some (l :: ls) → exec i s = .next (issueLine x.key x.c x.st (l :: ls) s))))) ∧
    (∀ i ∈ lineForms f, EngMay s x i → ∀ a, x.c.srcSide = some a → a.store = none →
      (x.c.todo = none → exec i s = .next (updCmd x.key x.c.seq (fun y => { y with todo := some a.lines }) s)) ∧
      (x.c.todo = some [] → exec i s = .next (finishCmd x.key x.c s)) ∧
      (∀ l ls, x.c.todo = some (l :: ls) → exec i s = .next (issueLine x.key x.c x.st (l :: ls) s))) ∧
    (∀ i ∈ lineForms f, EngMay s x i → ∀ a p n, x.c.srcSide = some a → a.store = some p →
      n = (((a.e.tileElems a.co).filter a.e.inExt).foldl (fun acc ix => addOnce acc (storeLine a.e p.off ix)) []).length →
      exec i s = .next (finishCmd x.key x.c (if cmdOp x.c.word = 0xB then countRefused x.st.vf n s else s))) ∧
    (EngMay s x (.skFill f) → ∀ b el, x.c.dstSide = some b → el = (fun _ : List Nat => (⟨fillValue b.e.width f.stid.toNat, false⟩ : TileEl)) →
      (b.store = none → wroteTile x s (.skFill f) b el) ∧
      (∀ p ls, b.store = some p → ls = ((b.e.tileElems b.co).filter b.e.inExt).foldl (fun acc ix => addOnce acc (storeLine b.e p.off ix)) [] →
        ∃ t, exec (.skFill f) s = .next t ∧
          wrote x s (fun s1 => finishCmd x.key x.c (if f.fe = 1 then setFull x.key.stand p.pos ls s1 else s1))
            (writeEls x.key b (b.e.tileElems b.co) ((b.e.tileElems b.co).map el) s) t)) ∧
    (EngMay s x (.skBlaz f) → exec (.skBlaz f) s = .next (requestWave x.key.stand
      { WaveFlags.none with blaz := [(x.key.eng, x.c.seq)] } (updCmd x.key x.c.seq (fun c => { c with finished := true }) s))) ∧
    (EngMay s x (.skNopc f) → exec (.skNopc f) s = .next (finishCmd x.key x.c s)) ∧
    (∀ i ∈ [Instr.skCpylg f, .skCpygg f, .skRedc f, .skStrm f, .skSink f, .skGath f, .skScat f, .skFill f, .skDisp f, .skCmbn f, .skColl f], EngTurn s x i →
      x.c.isHeld s x.st = true → exec i s = .next s)

/-- R294, R305 to R308, R310: one token of a stream: STRM sends the tile's next elements, or a FAULT token where one does not
translate; SINK writes a data token's elements; GATH answers indices with values and forwards other tokens in order, but for a
BLAZE, which the wave passes (log 77, the model's reading); SCAT keeps a coordinate token and then writes, the lanes below one that
fails staying written (log 78, the model's choice); DISP sends an entry's row, ended by EOD1, skips a lane without an index, flags an
expert beyond its own, and sends EOS to every expert; CMBN keeps a record's tokens, writes a row that its last contribution
completes, in increasing expert whatever the order of arrival, and ends with its producers, flagging the rows that are left; COLL
contributes its source, waits until every rank has, and writes the result; a FAULT token fails the command that receives it. -/
def Obligations.SkidStreamCommands : Prop :=
  ∀ (s : State) (x : EngAt) (f : Skid) (k : EKey) (r : Nat), k = x.key → r = f.route.toNat →
    (EngMay s x (.skStrm f) → ∀ a tok s1, x.c.srcSide = some a → x.c.todo = none → s.routeSlots x.st r ≠ 0 →
      (∀ els, readEls s x.st a (tokenPart a.e.width x.c.pos (a.e.tileElems a.co)) = .ok els → tok = dataTok a.e.width els) →
      (∀ e, readEls s x.st a (tokenPart a.e.width x.c.pos (a.e.tileElems a.co)) = .error e → tok = faultTok 0x07) →
      s1 = sendTok k r tok (touchEls x.st a (tokenPart a.e.width x.c.pos (a.e.tileElems a.co)) s) →
      (x.c.pos + 1 < tokensFor a.e.width a.e.tileSize →
        exec (.skStrm f) s = .next (updCmd k x.c.seq (fun c => { c with pos := c.pos + 1 }) s1)) ∧
      (tokensFor a.e.width a.e.tileSize ≤ x.c.pos + 1 → exec (.skStrm f) s = .next (endStream k x.c s1))) ∧
    (∀ i ∈ [Instr.skSink f, .skScat f, .skCmbn f], EngMay s x i → ∀ b t ts, x.c.dstSide = some b → x.g.port.q = t :: ts → t.kind = 9 →
      exec i s = .next (failCmd k x.c t.cause (takeToken k s))) ∧
    (∀ i ∈ [Instr.skGath f, .skDisp f], EngMay s x i → ∀ a t ts, x.c.srcSide = some a → x.c.todo = none → x.g.port.q = t :: ts → t.kind = 9 →
      exec i s = .next (failCmd k x.c t.cause (takeToken k s))) ∧
    (EngMay s x (.skSink f) → ∀ b t ts ixs, x.c.dstSide = some b → x.g.port.q = t :: ts → t.kind = 0 →
      ixs = tokenPart b.e.width x.c.pos (b.e.tileElems b.co) → ∃ u, exec (.skSink f) s = .next u ∧
        wrote x s (fun s1 => if tokensFor b.e.width b.e.tileSize ≤ x.c.pos + 1 then finishCmd k x.c (takeToken k s1)
            else updCmd k x.c.seq (fun c => { c with pos := c.pos + 1 }) (takeToken k s1))
          (writeEls k b ixs (elsOfTok b.e.width ixs.length t) s) u) ∧
    (EngMay s x (.skGath f) → ∀ a t ts, x.c.srcSide = some a → x.c.todo = none → x.g.port.q = t :: ts → s.routeSlots x.st r ≠ 0 →
      ∀ s1 : State, s1 = takeToken k (touchEls x.st a ((fitLen ⟨0, false⟩ 16 t.lanes).filterMap fun l => linearIx a.e l.v.toNat) s) →
      (∀ ls, t.kind = 0 → gatherLanes s x.st a (fitLen ⟨0, false⟩ 16 t.lanes) = .ok ls →
        exec (.skGath f) s = .next (sendTok k r (Tok.fit ⟨0, ls, false, 0, false⟩) s1)) ∧
      (∀ c, t.kind = 0 → gatherLanes s x.st a (fitLen ⟨0, false⟩ 16 t.lanes) = .error c →
        exec (.skGath f) s = .next (sendTok k r (faultTok c) s1)) ∧
      (t.kind ≠ 0 → t.kind ≠ 5 → t.kind ≠ 7 → t.kind ≠ 9 → exec (.skGath f) s = .next (sendTok k r t (takeToken k s))) ∧
      (t.kind = 5 → exec (.skGath f) s = .next (endStream k x.c (sendTok k r (ctlTok 5 0) (takeToken k s))))) ∧
    (EngMay s x (.skScat f) → ∀ b t ts, x.c.dstSide = some b → x.g.port.q = t :: ts → t.kind = 0 →
      (x.c.pairHalf = [] → exec (.skScat f) s = .next (updCmd k x.c.seq (fun c => { c with pairHalf := [t] }) (takeToken k s))) ∧
      (∀ i is p, x.c.pairHalf = i :: is →
        p = scatterLanes b.e ((fitLen ⟨0, false⟩ 16 i.lanes).zip (fitLen ⟨0, false⟩ 16 t.lanes)) →
        (scatterAll k b p.1 s = none → exec (.skScat f) s = .next (pauseCmd k x.c s)) ∧
        (∀ s1 bad s2, scatterAll k b p.1 s = some (s1, bad) →
          s2 = updCmd k x.c.seq (fun c => { c with pairHalf := [], paused := false }) (takeToken k s1) →
          (bad = true → exec (.skScat f) s = .next (failCmd k x.c 0x07 s2)) ∧
          (∀ cause, bad = false → p.2 = some cause → exec (.skScat f) s = .next (failCmd k x.c cause s2)) ∧
          (bad = false → p.2 = none → exec (.skScat f) s = .next s2)))) ∧
    (EngMay s x (.skDisp f) → ∀ a t ts per l, x.c.srcSide = some a → x.c.todo = none → x.g.port.q = t :: ts →
      per = tokensFor a.e.width (a.e.x 0) + 1 → l = nth ⟨0, false⟩ t.lanes (x.c.pos / per) →
      (t.kind = 0 → x.c.pos / per < 16 → l.poison = false → l.v = noIndex →
        exec (.skDisp f) s = .next (updCmd k x.c.seq (fun y => { y with pos := (y.pos / per + 1) * per }) s)) ∧
      (∀ row ex, t.kind = 0 → x.c.pos / per < 16 → l.poison = false → l.v ≠ noIndex → bitsAt l.v.toNat 28 4 = 0 →
        row = bitsAt l.v.toNat 0 24 → ex = bitsAt l.v.toNat 24 4 →
        (f.t0.toNat ≤ ex → exec (.skDisp f) s = .next (updEngine k (fun g => { g with err := true })
          (updCmd k x.c.seq (fun y => { y with pos := (y.pos / per + 1) * per }) s))) ∧
        (∀ tok ixs, ex < f.t0.toNat → row < a.e.rows → s.routeSlots x.st (r + ex) ≠ 0 →
          ixs = tokenPart a.e.width (x.c.pos % per) (rowIxs a.e row) →
          (x.c.pos % per + 1 = per → tok = ctlTok 1 0) →
          (∀ els, x.c.pos % per + 1 ≠ per → readEls s x.st a ixs = .ok els → tok = dataTok a.e.width els) →
          (∀ e, x.c.pos % per + 1 ≠ per → readEls s x.st a ixs = .error e → tok = faultTok 0x07) →
          exec (.skDisp f) s = .next (updCmd k x.c.seq (fun y => { y with pos := y.pos + 1 })
            (sendTok k (r + ex) tok (touchEls x.st a ixs s))))) ∧
      (t.kind = 5 → x.c.ends < f.t0.toNat → s.routeSlots x.st (r + x.c.ends) ≠ 0 →
        exec (.skDisp f) s = .next (updCmd k x.c.seq (fun c => { c with ends := c.ends + 1 }) (sendTok k (r + x.c.ends) (ctlTok 5 0) s))) ∧
      (t.kind = 5 → f.t0.toNat ≤ x.c.ends → exec (.skDisp f) s = .next (endStream k x.c (takeToken k s)))) ∧
    (EngMay s x (.skCmbn f) → ∀ b t ts mine, x.c.dstSide = some b → x.g.port.q = t :: ts → mine = x.c.pairHalf.filter (fun u => u.rid == t.rid) →
      (t.kind = 0 → mine ≠ [] → exec (.skCmbn f) s = .next (updCmd k x.c.seq (fun c => { c with pairHalf := c.pairHalf ++ [t] }) (takeToken k s))) ∧
      (t.kind = 5 → mine = [] → x.c.ends + 1 < f.t0.toNat →
        exec (.skCmbn f) s = .next (updCmd k x.c.seq (fun c => { c with ends := c.ends + 1 }) (takeToken k s))) ∧
      (t.kind = 5 → mine = [] → f.t0.toNat ≤ x.c.ends + 1 → exec (.skCmbn f) s = .next (finishCmd k x.c
        (updEngine k (fun g => { g with err := g.err || !(rowsHeld x.g x.c).isEmpty, rows := [] }) (takeToken k s)))) ∧
      (∀ hd vs row ex old others got rest s1, t.kind = 1 → mine = hd :: vs → vs.length = ceilDiv (b.e.x 0) 16 →
        row = (nth ⟨0, false⟩ hd.lanes 0).v.toNat → ex = (nth ⟨0, false⟩ hd.lanes 1).v.toNat →
        old = ((x.g.rows.find? fun q => q.row == row).getD ⟨row, (nth ⟨0, false⟩ hd.lanes 3).v.toNat, []⟩ : CmbRow) →
        others = x.g.rows.filter (fun q => q.row != row) → rest = x.c.pairHalf.filter (fun u => u.rid != t.rid) →
        got = insertPart (ex, nth ⟨0, false⟩ hd.lanes 2, (vs.map fun u => fitLen ⟨0, false⟩ 16 u.lanes).flatten) old.got →
        s1 = updCmd k x.c.seq (fun c => { c with pairHalf := rest }) (takeToken k s) →
        ((∃ q ∈ old.got, q.1 = ex) → exec (.skCmbn f) s = .next (updEngine k (fun g => { g with err := true }) s1)) ∧
        ((∀ q ∈ old.got, q.1 ≠ ex) → got.length < old.need →
          exec (.skCmbn f) s = .next (updEngine k (fun g => { g with rows := others ++ [{ old with got := got }] }) s1)) ∧
        ((∀ q ∈ old.got, q.1 ≠ ex) → old.need ≤ got.length → ∃ u, exec (.skCmbn f) s = .next u ∧
          wrote x s (fun s2 => updEngine k (fun g => { g with rows := others })
              (updCmd k x.c.seq (fun c => { c with pairHalf := rest }) (takeToken k s2)))
            (writeEls k b (rowIxs b.e row) ((upTo (b.e.x 0)).map (cmbEl b.e got)) s) u))) ∧
    (∀ (p : Nat × Lane × List Lane) l, l.Pairwise (fun y z => y.1 < z.1) → (∀ q ∈ l, q.1 ≠ p.1) →
      (insertPart p l).Pairwise (fun y z => y.1 < z.1) ∧ (insertPart p l).Perm (p :: l)) ∧
    (EngMay s x (.skColl f) → ∀ a b p, x.c.srcSide = some a → x.c.dstSide = some b → myPart? s k x.c.seq = some p →
      (∀ els, p.stage = .issued → readEls s x.st a (a.e.tileElems a.co) = .ok els → exec (.skColl f) s = .next
        (updColls (fun l => l.map fun q => if q.cmd = some (k, x.c.seq) then
            { q with els := els.map fun e => (BitVec.ofNat 32 e.v, e.poison), stage := .contributed } else q)
          (updCmd k x.c.seq (fun c => { c with todo := some [], passR := true })
            (if a.store.isSome then addBytes k.stand (elBytes a.e (a.e.tileElems a.co)) s else s)))) ∧
      (∀ e, p.stage = .issued → readEls s x.st a (a.e.tileElems a.co) = .error e → exec (.skColl f) s = .next (failCmd k x.c 0x07 s)) ∧
      (p.stage = .contributed ∨ p.stage = .sent → exec (.skColl f) s = .next
        (settleColl x.st.vf f.scope.toNat b.tid (b.e.tileIndex b.co) f.l2op.toNat b.e.fmt s)) ∧
      (p.stage = .joined → b.store = none → wroteTile x s (.skColl f) b (collEl b p.els)) ∧
      (p.stage = .joined → b.store ≠ none → ∃ u, exec (.skColl f) s = .next u ∧ wrote x s (finishCmd k x.c)
        (writeEls k b (b.e.tileElems b.co) ((b.e.tileElems b.co).map (collEl b p.els)) s) u)) ∧
    (∀ vf scope dtid tile l2op ty n, n < collSize s vf scope →
      (∀ p, s.fab.colls.find? (fun p => p.matches vf scope dtid tile && p.rank == n && p.stage != .joined) = some p → p.ready = false) →
      settleColl vf scope dtid tile l2op ty s = s)

/-! ## Events of tasks, weaves, contexts and waves -/

namespace Sys2Proof.Claims

open Sys2Proof.Machine

/-- The waits that SR.WAIT begins (R185). -/
def srWaited : SeqWait → Bool
  | .queue _ _ => true
  | .trapq _ => true
  | .timeline _ _ _ => true
  | .tag _ _ => true
  | _ => false

/-- A context waits for w up to the cycle dl, which has come, and w does not hold. -/
def waitedOut (s : State) (q : SeqId) (w : SeqWait) (dl : Nat) : Prop :=
  (s.ctx q).run = .waiting ∧ (s.ctx q).wait = some (w, dl) ∧ dl ≤ s.cyc q.die ∧ waitNow s (s.ctx q) w ≠ .ok true

/-- A context's wait ends in the trap WAIT_EXPIRED (R186). -/
def timedOut (s : State) (q : SeqId) (w : SeqWait) : State := wakeTrapped q (seqTrap q 0x03 (expiryInfo s (s.ctx q) w) s)

/-- The task of a key, its wait, and that nothing keeps the wait from its limit. -/
def taskWaits (s : State) (k : TKey) (c : Cell) (w : TWait) : Prop :=
  s.cell? k = some c ∧ c.tk.wait = some w ∧ c.tk.fired = true ∧ c.tk.trapped = false ∧ c.w.halted = false

/-- The operand tokens of a trapped instruction that its wait had already taken stay dequeued (R203, R316). -/
def operandsGone (s : State) (c : Cell) (w : TWait) : State := s.updTask c.key fun x => x.takeRefs (c.drawn w.qid)

/-- A stand's tasks of the active context have not fired and hold the CTXC of one context at every enabled input. -/
def ctxcReady (t : Stand) (w : Weave) (n : Nat) : Prop :=
  ∃ rest, ctxcHeads (tasksOf t w w.actx) = some n :: rest ∧ (rest.all (·.isSome)) = true
    ∧ ((tasksOf t w w.actx).all fun x => !x.1.fired) = true

end Sys2Proof.Claims

open Sys2Proof Sys2Proof.Machine Sys2Proof.Claims

/-- R14, R19, R76, R240, R17, R18, R77, R231: a ready task whose declared lines are full fires; a pending instruction
completes and, if it ends the task, closes it; a wait that has reached its limit traps WAIT_EXPIRED with the object's number in op1,
and so do a backward branch beyond the limit (0x3D) and an empty declared line (0x3F); a task's wait at a barrier is withdrawn
first; a chained multiply that its limit finds still waiting for the link goes, and the trap waits for the next use of its tile or
buffer (log 162, the model's choice).
R185 to R188, R193, R196, R337, R342, R343: a wait that holds ends and the context goes on after the instruction, or issues
it again where the wait was for room; a stale tag traps; each wait traps WAIT_EXPIRED at its limit; an event enters the handler
with EPC, that of the prefix where one stands before a waiting instruction (R149), the cause of the reported record in TCAUSE
and its number in TINFO; a head within the records written services them. -/
def Obligations.EventsOfAgents : Prop :=
  (∀ (s : State) (k : TKey) (c : Cell) (w : TWait),
    (∀ s1 : State, s.cell? k = some c → c.ready s = true → c.emptyInput = none →
      s1 = (s.updTask k fun x => { x with
        fired := true, pc := 0, loops := [], frm := c.w.mode, skips := [0, 0, 0, 0], branches := 0
        resv := (upTo 4).map fun o => if (c.n.port (4 + o)).en then (c.n.port (4 + o)).rate else 0
        wait := none, twn := none, lineSince := none, yielded := false, block := c.st.blockAt c.w
        outq := if c.n.rep = 0 then [] else x.outq ++ [⟨[], false⟩] }) →
      exec (.taskFire k) s = .next (if c.firesOnMark then acquireWeave k.weave s1 else s1)) ∧
    (s.cell? k = some c → c.ready s = true → ∀ l, c.emptyInput = some l → exec (.taskFire k) s = .next
      (s.updTask k fun x => { x with lineSince := some (x.lineSince.getD (s.cyc c.st.die)) })) ∧
    (∀ p s1, s.cell? k = some c → c.tk.pend = some p → c.tk.trapped = false →
      s1 = writeResult k p (s.updTask k fun x => { x with pend := none }) →
      exec (.instructionCompletion k) s = .next (if p.endt then closeTask k s1 else s1)) ∧
    (∀ p, s.cell? k = some c → c.tk.pend = some p → c.tk.trapped = true →
      exec (.instructionCompletion k) s = .next (writeResult k p (s.updTask k fun x => { x with
        pend := if p.endt then some { Pend.none with endt := true } else none }))) ∧
    (∀ stop, taskWaits s k c w → c.lateMult s = none → w.deadline ≤ s.cyc c.st.die → ownLimit w.qid = false → c.blazeEnds s w = false →
      stop = (if w.qid = 0x3E then BitVec.ofNat 32 c.tk.pc else (0 : W32)) →
      exec (.taskWaitExpired k) s = .next (cellTrap c.key 0x03 0 c.tk.pc (BitVec.ofNat 32 w.qid) w.head w.tail stop (operandsGone s c w))) ∧
    (∀ m, s.cell? k = some c → c.lateMult s = some m → exec (.taskWaitExpired k) s = .next
      (defer ⟨k.stand, k.pos, m.nid⟩ ⟨0x03, m.pc, 0x3E, 0, 0, [], [m.tile], [m.buf], [], false⟩
        (s.updWeave k.weave fun w => { w with mults := dropFirst (fun x => x == m) w.mults }))) ∧
    (taskWaits s k c w → w.qid = 0x3D →
      exec (.backwardBranchLimit k) s = .next (cellTrap k 0x03 0 c.tk.pc 0x3D (BitVec.ofNat 32 c.tk.branches) 0 0 s)) ∧
    (∀ since line, s.cell? k = some c → c.ready s = true → c.tk.lineSince = some since → c.emptyInput = some line →
      since + c.n.limit ≤ s.cyc c.st.die → exec (.inputLineWaitExpired k) s = .next
        (cellTrap k 0x03 0 c.tk.pc 0x3F (BitVec.ofNat 32 line) 0 0 (s.updTask k fun x => { x with lineSince := none }))) ∧
    (∀ b, taskWaits s k c w → w.deadline ≤ s.cyc c.st.die → s.fab.barriers.find? (fun b => b.holds (.task k)) = some b →
      w.qid = barrierObject b.scope → exec (.barrierExpired (.task k)) s = .next
        (cellTrap c.key 0x03 0 c.tk.pc (BitVec.ofNat 32 w.qid) (BitVec.ofNat 32 b.size) w.tail 0
          (operandsGone (withdraw (.task k) s) c w)))) ∧
  (∀ (s : State) (q : SeqId) (w : SeqWait) (dl : Nat),
    ((s.ctx q).run = .waiting → (s.ctx q).wait = some (w, dl) →
      (waitNow s (s.ctx q) w = .ok true →
        (∀ b, w = .barrier (some b) → exec (.seqWaitSatisfied q) s = .next
          (makeReady q (s.setCtx ((s.ctx q).setReg (barDest (s.ctx q)) ⟨if b then 1 else 0, false⟩).advance))) ∧
        ((∃ e, w = .scmd e) ∨ w = .segment → exec (.seqWaitSatisfied q) s = .next (makeReady (s.ctx q).id s)) ∧
        (srWaited w = true ∨ w = .switch → exec (.seqWaitSatisfied q) s = .next (makeReady (s.ctx q).id (s.setCtx (s.ctx q).advance)))) ∧
      (∀ ref ent cause, w = .tag ref ent → waitNow s (s.ctx q) w = .error cause →
        exec (.seqWaitSatisfied q) s = .next (wakeTrapped q (seqTrap q cause ref s)))) ∧
    (waitedOut s q w dl → srWaited w = true → exec (.seqWaitExpired q) s = .next (timedOut s q w)) ∧
    (∀ e, waitedOut s q w dl → w = .scmd e → exec (.scmdQueueStallExpired q) s = .next (timedOut s q w)) ∧
    (waitedOut s q w dl → w = .switch → exec (.ctxSwitchWaitExpired q) s = .next (timedOut s q w)) ∧
    (waitedOut s q w dl → w = .barrier none → exec (.barrierExpired (.seq q)) s = .next
      (wakeTrapped q (seqTrap q 0x03 (expiryInfo s (s.ctx q) w) (withdraw (.seq q) s)))) ∧
    (∀ ev, (s.ctx q).event = some ev → (s.ctx q).tvec ≠ 0 → (s.ctx q).h = false → (s.ctx q).run = .running → (s.ctx q).limm = none →
      exec (.trapEventDelivery q) s = .next (s.setCtx { s.ctx q with
        epc := BitVec.ofNat 64 (s.ctx q).pc, tcause := BitVec.ofNat 64 ev.1, tinfo := BitVec.ofNat 64 ev.2, h := true
        fromIdle := false, limm := none, wait := none, event := none, pc := (s.ctx q).tvec.toNat })) ∧
    (∀ ev, (s.ctx q).event = some ev → (s.ctx q).tvec ≠ 0 → (s.ctx q).h = false → (s.ctx q).run = .waiting →
      exec (.trapEventDelivery q) s = .next (makeReady q ((withdraw (.seq q) s).setCtx { s.ctx q with
        epc := BitVec.ofNat 64 (s.ctx q).here, tcause := BitVec.ofNat 64 ev.1, tinfo := BitVec.ofNat 64 ev.2, h := true
        fromIdle := false, limm := none, wait := none, event := none, pc := (s.ctx q).tvec.toNat }))) ∧
    (∀ h, exec (.tqhead q h) s = .next (if (h - (s.ctx q).tqhead).toNat = 0
        ∨ ((s.ctx q).tqtail - (s.ctx q).tqhead).toNat < (h - (s.ctx q).tqhead).toNat then s else serviceHead q h s)))

/-- R111, R136, R139 to R143, R239, R263, R285, R347, R348, R351, R360: a chunk of a multiply adds its products, an attempt that
failed being an error of its compartment, and a multiply whose repeats are used up ends with RESIDUE, which waits for the next
use of its tile or buffer; a leader's multiply that waits puts its operand into the link once that is empty, and a follower's takes
what the link offers it (R262; log 183, the model's reading); a weave whose inputs all
hold CTXC switches, to the context that the first port's names (log 98, the model's choice); an idle window, or one that ends while
a change is pending (log 192, the model's choice), changes nothing but its counters, and a decision asks for a grain change; an L1
line is
evicted; a weave with BLAZE at its inputs snapshots; a whole wave commits or leaves its halt image; a period asks for a
wave. -/
def Obligations.EventsOfWaves : Prop :=
  ∀ (s : State) (k : WKey) (st : Nat) (t : Stand),
    (∀ tile bad row m (s1 : State), s.stand? k.stand = some t → (t.weave k.pos).mults.find? (fun m => m.tile == tile) = some m → m.link = none →
      s1 = (if bad = 0 then s else countError t.die 0 (t.compOf k.pos) s) →
      (bad ≤ t.retry → exec (.matrixChunkComplete k tile bad row) s = .next (s1.updWeave k fun w =>
        { (w.setTile tile ((w.tile tile).chunk (tileRows t.g) m)) with
          mults := if m.k ≤ 8 * (m.done + 1) then dropFirst (fun x => x.tile == tile) w.mults
            else replaceFirst (fun x => x.tile == tile) { m with done := m.done + 1 } w.mults })) ∧
      (t.retry < bad → exec (.matrixChunkComplete k tile bad row) s = .next
        (defer ⟨k.stand, k.pos, m.nid⟩ ⟨0x0A, m.pc, BitVec.ofNat 32 row, 6, 0, [], [tile], [m.buf], [], false⟩
          (s1.updWeave k fun w => { w with mults := dropFirst (fun x => x.tile == tile) w.mults })))) ∧
    (∀ tile bad row m w, s.stand? k.stand = some t → w = t.weave k.pos → w.mults.find? (fun m => m.tile == tile) = some m →
      w.mults.find? (fun x => x.link == m.link) = some m →
      (m.link = some .place → w.link = none → ∀ m1, m1 = { m with link := none } →
        exec (.matrixChunkComplete k tile bad row) s = .next (countMult k t.g m1 (s.updWeave k fun w => { w with
          link := some ⟨m.ty, m.k, m.a, []⟩, mults := replaceFirst (fun x => x == m) m1 w.mults }))) ∧
      (∀ lead x m1, m.link = some .take → w.leader = some lead → linkOffer t w = some x → x.ty = m.ty → x.k ≤ m.b.length →
        m1 = { m with link := none, k := x.k, a := x.a } →
        exec (.matrixChunkComplete k tile bad row) s = .next ((countMult k t.g m1 (s.updWeave k fun w => { w with
          mults := replaceFirst (fun x => x == m) m1 w.mults })).updStand k.stand fun t => t.takeFrom lead k.pos)) ∧
      ((m.link = some .place ∧ w.link ≠ none) ∨ (m.link = some .take ∧ linkOffer t w = none) →
        exec (.matrixChunkComplete k tile bad row) s = .next s)) ∧
    (∀ w n, s.stand? k.stand = some t → t.weaves.find? (fun w => w.pos == k.pos) = some w → t.status = .resident →
      w.halted = false → ctxcReady t w n → exec (.ctxcSwitch k) s = .next (settleSwitch k.stand (switchWeave t w n s))) ∧
    (s.stand? st = some t → t.status = .resident → t.cop.winStart + 2 ^ t.cop.wcur ≤ s.cyc t.die →
      (t.cop.pend = true ∨ (t.cop.ops = 0 ∧ t.cop.bytes = 0) → exec (.coppiceWindowEnd st) s = .next (s.setStand { t with
        cop := { t.cop with ops := 0, bytes := 0, winStart := s.cyc t.die, wcur := t.cop.wexp } })) ∧
      (∀ c g, t.cop.pend = false → (t.cop.ops ≠ 0 ∨ t.cop.bytes ≠ 0) → t.cop.decide t.kern.grains t.g = (c, some g) →
        (s.ctx t.ctx).block ≠ none → exec (.coppiceWindowEnd st) s = .next (s.setStand { t with
          cop := { c.newWindow (s.cyc t.die) with pend := true, target := g } })) ∧
      (∀ c g, t.cop.pend = false → (t.cop.ops ≠ 0 ∨ t.cop.bytes ≠ 0) → t.cop.decide t.kern.grains t.g = (c, some g) →
        (s.ctx t.ctx).block = none → exec (.coppiceWindowEnd st) s = .next (requestWave st { WaveFlags.none with grain := true }
          (s.setStand { t with cop := { c.newWindow (s.cyc t.die) with pend := true, target := g } })))) ∧
    (∀ cell line s1, evict k (fun x => x.cell == cell && x.line == line) s = some s1 → exec (.l1Eviction k cell line) s = .next s1) ∧
    (∀ s1 t1 x, s.stand? k.stand = some t → (t.weaves.any fun w => w.pos == k.pos && snapDue s t w) = true →
      s1 = flushL1 k s → s1.stand? k.stand = some t1 → t1.wave = some x →
      exec (.weaveSnapshot k) s = .next (snapWeave t1 x (t1.weave k.pos) s1)) ∧
    (∀ x, s.stand? st = some t → t.wave = some x → x.committed = false → waveWhole t x = true →
      exec (.waveComplete st) s = .next (if x.flags.halt then haltComplete t x s else commitWave t x s)) ∧
    (∀ x p ps, s.stand? st = some t → t.wave = some x → x.committed = true → pubsLeft s t.id = false → x.pubs = p :: ps →
      exec (.waveComplete st) s = .next (handOver t p (s.setStand { t with wave := some { x with pubs := ps } }))) ∧
    (s.stand? st = some t → t.status = .resident → t.wave = none → t.waveReq = none → t.isHeld = none →
      (s.vf t.vf).cfg.blzper.toNat % 32 ≠ 0 → t.lastWaveAt + 2 ^ max 16 ((s.vf t.vf).cfg.blzper.toNat % 32) ≤ s.cyc t.die →
      exec (.periodicBlaze st) s = .next (requestWave st WaveFlags.none s))

/-! ## Events of objects: tensors, kernels, tags, records and stands -/

namespace Sys2Proof.Claims

open Sys2Proof.Machine

/-- The loader's command of a VF ends with a status and kid once it is written: until then KLSTAT reads busy (R99). -/
def loads (s : State) (vf status kid : Nat) : State :=
  s.updVf vf fun v => { v with load := { v.load with klstat := 0x80000000, pending := some (status, kid) } }

/-- The bytes of the object that a VF's loader registers name. -/
def objectOf (s : State) (vf : Nat) (bs : List Byte) (o : Obj) : Prop :=
  (s.vf vf).load.pending = none ∧ (s.vf vf).load.kladdr.toNat % 64 = 0 ∧
  s.vfBytes vf (s.vf vf).load.kladdr.toNat ((s.vf vf).load.klsize.toNat % 2 ^ 32) = some bs ∧ o = ⟨natOfBytesLE bs, bs.length⟩

/-- An operation waits first at a home die, and the state without it. -/
def firstHome (s : State) (die : Nat) (h : HomeOp) (s1 : State) : Prop :=
  ∃ rest, (s.die die).homeq = h :: rest ∧ s1 = s.updDie die fun d => { d with homeq := rest }

end Sys2Proof.Claims

open Sys2Proof Sys2Proof.Machine Sys2Proof.Claims

/-- R70, R88, R93, R97 to R100, R103, R104, R119: TT_COMMIT installs the staged entry with the gen of a valid old one, or
refuses it with TTSTAT 1; TT_READ stages an entry. A load ends with the status of its address, of its format, of the first of the object's
own checks that fails, or of a kid in use, and installs the object when every check passes; an unload removes a kernel that
no resident stand and no record uses; a root program is created; a completed command writes its status and kid. That the status
and kid of KLSTAT read 0 while a command is under way (log 160), that a creation reports kid 0 (log 131), that a kernel whose stand
is set aside or suspended may be unloaded (log 129), and that the loader acts when it is commanded and reports in a later event (log
130), is the model's choice. -/
def Obligations.EventsOfLoader : Prop :=
  ∀ (s : State) (vf : Nat) (v : Vf), v = s.vf vf →
    (∀ tid, tid = v.tens.ttidx.toNat % 4096 →
      (tid = 0 ∨ malformedEntry v.tens.staged = true →
        exec (.ttCommit vf) s = .next (s.setVf { v with tens := { v.tens with ttstat := 1 } })) ∧
      (∀ old w, tid ≠ 0 → malformedEntry v.tens.staged = false → old = (lookupNat tid v.tens.table).getD 0 →
        w = (if (tensorEntry old).v then BitVec.ofNat 256 (putBits v.tens.staged.toNat 48 8 (tensorEntry old).gen) else v.tens.staged) →
        exec (.ttCommit vf) s = .next (checkRecords vf tid (s.setVf { v with tens := { v.tens with
          ttstat := 0, table := storeNat tid w v.tens.table } }))) ∧
      (∀ w, tid ≠ 0 → lookupNat tid v.tens.table = some w → exec (.ttRead vf) s = .next (s.setVf { v with tens := { v.tens with
        ttw0 := w.extractLsb' 0 64, ttw1 := w.extractLsb' 64 64, ttw2 := w.extractLsb' 128 64, ttw3 := w.extractLsb' 192 64 } }))) ∧
    (v.load.pending = none → v.load.kladdr.toNat % 64 ≠ 0 →
      exec (.kernelLoad vf) s = .next (loads s vf 0x2C 0) ∧ exec (.rootProgramCreate vf) s = .next (loads s vf 0x2C 0)) ∧
    (∀ bs o, objectOf s vf bs o →
      (o.formatOk false = false → exec (.kernelLoad vf) s = .next (loads s vf 0x20 o.kid)) ∧
      (o.formatOk true = false → exec (.rootProgramCreate vf) s = .next (loads s vf 0x20 0)) ∧
      (o.formatOk false = true → ∀ s1, s1 = addMeasure vf bs s →
        (∀ code, kernelChecks s1 vf o bs = some code → exec (.kernelLoad vf) s = .next (loads s1 vf code o.kid)) ∧
        (∀ table o1 ids places a, kernelChecks s1 vf o bs = none → a = dataBase s1 vf o → o.relocated a = some o1 →
          installTens o1.tensors (s1.vf vf).tens.table = some table → (o.kernel.tags.all (tagOk table)) = true →
          assignIds s1 vf o.kernel.routes.length = some ids →
          (s1.kernel? vf o.kid ≠ none → exec (.kernelLoad vf) s = .next (loads s1 vf 0x28 o.kid)) ∧
          (s1.kernel? vf o.kid = none → dataPlaces s1 vf o = some places → exec (.kernelLoad vf) s = .next (loads
            (installData vf o1 a table places (s1.updVf vf fun v => { v with load := { v.load with
              kernels := v.load.kernels ++ [{ o1.kernel with rids := ids, fits := o1.kernel.fitting }] } })) vf 0 o.kid)))) ∧
      (o.formatOk true = true → ∀ s1, s1 = addMeasure vf bs s → signOk s1 vf o bs = true → o.descriptorOk = true → o.kernel.textOk = true →
        exec (.rootProgramCreate vf) s = .next (loads (createRoot vf o s1).2 vf (createRoot vf o s1).1 0))) ∧
    (∀ kid, kid = v.load.klkid.toNat % 65536 → v.load.pending = none →
      (s.kernel? vf kid = none → exec (.kernelUnload vf) s = .next (loads s vf 0x31 kid)) ∧
      (s.kernel? vf kid ≠ none → (∀ t ∈ s.stands, ¬ (t.status = .resident ∧ t.vf = vf ∧ t.kern.kid = kid)) →
        (∀ r ∈ s.recsOf vf, recKid r.word ≠ kid) → exec (.kernelUnload vf) s = .next (loads (s.setVf { v with
          load := { v.load with kernels := v.load.kernels.filter fun k => k.kid != kid } }) vf 0x30 kid))) ∧
    (∀ st kid s1, v.load.pending = some (st, kid) →
      s1 = s.setVf { v with load := { v.load with pending := none, klstat := BitVec.ofNat 64 (st * 65536 + kid) } } →
      (v.root = none → exec (.loaderCommandComplete vf) s = .next s1) ∧
      (∀ r, v.root = some r → exec (.loaderCommandComplete vf) s = .next (if st = 0 ∧ kid = 0 then makeReady r.ctx s1 else s1))) ∧
    (∀ r, v.root = some r → v.load.pending = none →
      exec (.rootBlockLaunch vf) s = .next (launchWaiting vf r.ctx.die r.waiting s))

/-- R106, R107, R110 to R115, R117, R118, R325, R335: LWPUB and LWQREF answer at once, or behind the accesses of the host that a PCMD
of the VF holds back (log 186, the model's reading); of an invalid tid or tile LWQRES is 4, its bits [1:0] 0 (log 185, the model's
choice); a die performs its publications and advances in the order
in which it receives them, and reports a refusal to the stand; a publication needs the tensor's right p, a tile of it and its
generation, and every element of the tile must translate and be clean; a notification satisfies inputs, a poll reads the bitmaps every 2,048 cycles, and
a record moves one class lower for each 2^20 cycles; the best eligible record is dispatched to a stand that can run it, an acquire by the
stand's tasks. -/
def Obligations.EventsOfTags : Prop :=
  ∀ (s : State),
    (∀ vf ref,
      (s.memHeld vf = false → exec (.lwpub vf ref) s = .next ((publish vf none ref s).1.updVf vf fun v =>
        { v with win := { v.win with lwstat := BitVec.ofNat 64 (publish vf none ref s).2.code } })) ∧
      (s.memHeld vf = true → exec (.lwpub vf ref) s = .next (s.updVf vf fun v =>
        { v with mem := { v.mem with hostq := v.mem.hostq ++ [.publish ref] } }))) ∧
    (∀ vf ref s1, s1 = s.updVf vf (fun v => { v with win := { v.win with lwqref := ref &&& ~~~(0xFF00000000 : W64) } }) →
      (s.memHeld vf = false → exec (.lwqref vf ref) s = .next (s1.updVf vf fun v =>
        { v with win := { v.win with lwqres := BitVec.ofNat 64 ((query s1 vf ref).getD 4) } })) ∧
      (s.memHeld vf = true → exec (.lwqref vf ref) s = .next (s1.updVf vf fun v =>
        { v with mem := { v.mem with hostq := v.mem.hostq ++ [.query ref] } }))) ∧
    (∀ vf ref st, s.tensor? vf (refTid ref) = none → publish vf st ref s = (s, .refused 0x08 0)) ∧
    (∀ vf ref st e, s.tensor? vf (refTid ref) = some e →
      (e.p = false ∨ e.tiles ≤ refTile ref → publish vf st ref s = (s, .refused 0x08 0)) ∧
      (e.p = true → refTile ref < e.tiles → refGen ref ≠ e.gen → publish vf st ref s = (s, .stale)) ∧
      (∀ c w, e.p = true → refTile ref < e.tiles → refGen ref = e.gen → pubCheck s vf st e (refTile ref) = some (c, w) →
        publish vf st ref s = (s, .refused c w))) ∧
    (∀ die h s1, firstHome s die h s1 →
      (h.op.advance = false →
        ((publish h.vf (some h.stand) h.op.ref s1).2.cause = none →
          exec (.publication die) s = .next (publish h.vf (some h.stand) h.op.ref s1).1) ∧
        (∀ cause, (publish h.vf (some h.stand) h.op.ref s1).2.cause = some cause →
          exec (.publication die) s = .next (reportPub h.stand h.op cause (publish h.vf (some h.stand) h.op.ref s1).1))) ∧
      (h.op.advance = true →
        ((advance h.vf (refTid h.op.ref) s1).2 = none →
          exec (.generationAdvance die) s = .next (advance h.vf (refTid h.op.ref) s1).1) ∧
        (∀ cause, (advance h.vf (refTid h.op.ref) s1).2 = some cause →
          exec (.generationAdvance die) s = .next (reportPub h.stand h.op cause (advance h.vf (refTid h.op.ref) s1).1)))) ∧
    (∀ die n rest, (s.die die).notes = n :: rest → exec (.tagNotification die) s = .next (s.updDie die fun d => { d with
      notes := rest, recs := d.recs.map fun r => r.satisfy (s.cyc die) n.vf n.tid n.gen.toNat n.tile.toNat })) ∧
    (∀ die, s.cyc die % 2048 = 0 →
      exec (.bitmapPoll die) s = .next (s.updDie die fun d => { d with recs := d.recs.map (pollRec s die) })) ∧
    (∀ die, exec (.classPromotion die) s = .next (s.updDie die fun d => { d with
      recs := d.recs.map fun r => if r.st = .dispatched ∨ (d.cyc.toNat - r.since) / 2 ^ 20 ≤ r.promotions then r
        else { r with cls := r.cls - ((d.cyc.toNat - r.since) / 2 ^ 20 - r.promotions), promotions := (d.cyc.toNat - r.since) / 2 ^ 20 } })) ∧
    (∀ die st t r, s.stand? st = some t → t.die = die → t.accepts (s.ctx t.ctx) = true →
      bestRec ((s.die die).recs.filter fun r => r.st == .eligible && t.canRun r) = some r →
      ∀ b, b = Blk.mk r.id t.nextBlk (recT r.word 0) (recT r.word 1) (recT r.word 2) (recT r.word 3) (recOuts r.word) .queued →
      exec (.blockDispatch die st) s = .next (feedBlk st b (acquireStand t ((s.updDie die fun d => { d with
        recs := d.recs.map fun x => if x.id = r.id then { x with st := .dispatched } else x }).setStand
          { t with blocks := t.blocks ++ [b], nextBlk := t.nextBlk + 1 }))))

/-- R27, R118, R126 to R131, R352, R379: the first suspended stand whose box fits is placed again; a request is placed in the
first box in row-major order that is free, else the remedies are tried for each request up to the first that one serves, and
no record of a suspended VF asks for a stand; the first starved record of class 0 that can pre-empts the least recently
dispatched stand whose box fits; VFSUSP pre-empts the stands of every VF whose bit is set, or takes effect after a channel's migration
(log 116, the model's choice); an expired watchdog and a function-level reset reset the VF's partition, the watchdog with two host
events, whose die is that of the VF's root program (log 173, the model's choice). -/
def Obligations.EventsOfPlacement : Prop :=
  ∀ (s : State) (die : Nat),
    ((∀ t x, fittingSuspended s die = some (t, x) → exec (.suspendedStandReplace die) s = .next (placeAgain t x s)) ∧
      (fittingSuspended s die = none → exec (.suspendedStandReplace die) s = .next s)) ∧
    (fittingSuspended s die = none →
      (∀ s1, (requests s die).findSome? (fun r => satisfyRequest die r s) = some s1 → exec (.standPlacement die) s = .next s1) ∧
      ((requests s die).findSome? (fun r => satisfyRequest die r s) = none →
        exec (.standPlacement die) s = .next (remedies die (requests s die) s))) ∧
    (∀ r rs, ((remedy die r s).2 = true → remedies die (r :: rs) s = (remedy die r s).1) ∧
      ((remedy die r s).2 = false → remedies die (r :: rs) s = remedies die rs (remedy die r s).1)) ∧
    (∀ r ∈ requests s die, r.st = .eligible ∧ s.pf.vfsusp.getLsbD r.vf = false ∧ (∀ t ∈ s.residents die, t.canRun r = false)) ∧
    (∀ r k, s.kernel? r.vf (recKid r.word) = some k →
      (withinQuota s r.vf die k = true → (asideFor s die r ≠ none ∨ saveFits s r.vf k = true) → findSite s die k [] = none →
        (∀ p ∈ corners, boxMoves s die k p.1 p.2 = none) →
        victimFor s die r = leastRecent ((s.residents die).filter fun t => (t.kern.kid != k.kid || t.vf != r.vf)
          && (t.blocks.any fun b => (s.die die).recs.any fun x => x.id == b.recId && decide (1 ≤ x.cls)) && t.isHeld.isNone
          && fitsWithout s t k)) ∧
      (withinQuota s r.vf die k = false ∨ (asideFor s die r = none ∧ saveFits s r.vf k = false) ∨ findSite s die k [] ≠ none ∨
        (∃ p ∈ corners, boxMoves s die k p.1 p.2 ≠ none) → victimFor s die r = none)) ∧
    (∀ l, l = (requests s die).filter (fun r => r.cls == 0 && decide (2 ^ 20 ≤ s.cyc die - r.elig)) →
      (∀ t, (∀ u ∈ s.residents die, u.target = .none ∧ u.isIdle s = false) → l.findSome? (victimFor s die) = some t → t.isHeld = none →
        exec (.preemptStarvation die) s = .next (requestWave t.id { WaveFlags.none with preempt := true }
          (s.setStand { t with target := .suspend }))) ∧
      ((∃ u ∈ s.residents die, u.target ≠ .none ∨ u.isIdle s = true) ∨ (∀ r ∈ l, victimFor s die r = none) →
        exec (.preemptStarvation die) s = .next s)) ∧
    (∀ value, exec (.vfsusp value) s = .next (if s.svc.chMigrating = none then
        (upTo 64).foldl (fun acc v => if value.getLsbD v then suspendVf v acc else acc) { s with pf := { s.pf with vfsusp := value } }
      else { s with svc := { s.svc with chSusp := value } })) ∧
    (∀ vf, exec (.functionLevelReset vf) s = .next (resetPartition vf s)) ∧
    (∀ vf, ((s.vf vf).cfg.slice.toNat % 2 ^ 48 = 0 ∨ (s.vf vf).timer < (s.vf vf).cfg.slice.toNat % 2 ^ 48 →
        exec (.vfWatchdogExpiry vf) s = .next s) ∧
      ((s.vf vf).cfg.slice.toNat % 2 ^ 48 ≠ 0 → (s.vf vf).cfg.slice.toNat % 2 ^ 48 ≤ (s.vf vf).timer →
        exec (.vfWatchdogExpiry vf) s = .next (hostEvent (.vf vf) 1 0 vf ((s.vf vf).cfg.root.toNat % 4) 0
        (hostEvent .pf 1 0 vf ((s.vf vf).cfg.root.toNat % 4) 0 (resetPartition vf s)))))

/-! ## Events of the fabric, of memory and of the module -/

namespace Sys2Proof.Claims

open Sys2Proof.Machine

/-- A token that comes first in its line, with the stand that sent it. -/
def firstFlight (s : State) (n : Nat) (f : Flight) (t : Stand) : Prop := headFlight s n = some f ∧ s.stand? f.stand = some t

/-- A flight at the end of its line in a latch. -/
def atLatch (s : State) (f : Flight) (p : Place) : State :=
  { s with fab := { s.fab with flights := (s.fab.flights.filter fun g => g.id != f.id) ++ [{ f with place := p }] } }

/-- The state without a packet. -/
def unpacked (s : State) (n : Nat) : State := { s with fab := { s.fab with packets := s.fab.packets.filter fun x => x.id != n } }

end Sys2Proof.Claims

open Sys2Proof Sys2Proof.Machine Sys2Proof.Claims

/-- R120 to R125, R132 to R134, R356, R359, R365, R366: a token goes over a track to the latch at its end, or is dropped and
counted by a guard that does not admit its identifier, or traps where a box expects another; it enters an input port at its
column; a packet that nothing on its ride holds back is guarded and put in order, and one that waited at its sender may take its
place (R288, R314); a report is sent 1,024 cycles after the last drop; a congested ride, or one with
an input buffer more than three-quarters full for 256 cycles, powers the next up after 4,096 cycles, and a ride without a flit for 2^16 cycles goes down; what another
package sends arrives while some port is not training (R380). -/
def Obligations.EventsOfFabric : Prop :=
  ∀ (s : State) (n : Nat) (f : Flight) (t : Stand),
    (firstFlight s n f t → f.arrived t = false → ∀ (o : Stand) (sws : List SwitchSet) (w : SwitchSet) (x y : Nat),
      ((f.place = .bus ∧ o = t ∧ busSetting t f = some (w, x, y)) ∨
        (∃ d c k, f.place = .latch x y d c k ∧ settingsAt s t.die x y = some (o, sws) ∧ latchSetting sws x y d c k = some w)) →
      (f.tok.rid = o.rid w.route →
        (∀ x' y', followTrack s t.die f.tok.rid w.odir (trackLen w.ocls) x y = .site x' y' →
          latchLoad s t.die (.latch x' y' w.odir w.ocls w.otrk) < 2 →
          exec (.trackSegmentHop n) s = .next (atLatch s f (.latch x' y' w.odir w.ocls w.otrk))) ∧
        (∀ g, followTrack s t.die f.tok.rid w.odir (trackLen w.ocls) x y = .dropped g →
          exec (.trackSegmentHop n) s = .next (guardDrop g f.tok.rid (tokHdr f.tok) (dropFlight f.id s)))) ∧
      (f.tok.rid ≠ o.rid w.route → exec (.trackSegmentHop n) s = .next (trapStand o.id
        ⟨0x0B, 0, 4, ⟨x / 8 - o.col, y / 16 - o.row, x % 8, y % 16⟩, 0, BitVec.ofNat 32 o.lastWave, 0,
          BitVec.ofNat 32 (o.rid w.route), BitVec.ofNat 32 f.tok.rid, BitVec.ofNat 32 w.route, 0⟩ false (dropFlight f.id s)))) ∧
    (∀ d cc cr col, firstFlight s n f t → t.dst? f.route = some d → destColumn t f.route = some (cc, cr, col) → f.arrived t = true →
      (f.place ≠ .bus ∨ s.lets t.id d f.tok.rid = true → exec (.inputBusDelivery n) s = .next
        ((dropFlight n s).arriveCell d t.vf (originAt s d f.stand (weaveSrc f.src)) f.tok)) ∧
      (f.place = .bus → s.lets t.id d f.tok.rid = false → exec (.inputBusDelivery n) s = .next
        (guardDrop (entryGuard t f cc cr col) f.tok.rid (tokHdr f.tok) (dropFlight n s)))) ∧
    (∀ p, s.fab.packets.find? (fun p => p.id == n) = some p → p.stays s = true → exec (.ridePacketArrival n) s = .next s) ∧
    (∀ p q, s.fab.packets.find? (fun p => p.id == n) = some p → p.stays s = false → (unpacked s n).queueAt p.dst = some q →
      ((∃ e, p.dst = .eng e) ∨ (∃ die cc cr a b c, p.dst = .cell die cc cr a b c ∧ s.admits die cc cr p.tok.rid = true)) →
      exec (.ridePacketArrival n) s = .next (injectWaiting
        (orderIn q p.dst p.sender p.seq p.tok (startOrder s.fab.packets q p (unpacked s n))))) ∧
    (∀ r, s.fab.reports.find? (fun r => r.id == n) = some r →
      exec (.firebreakReport n) s = .next (if r.last + 1024 ≤ s.cyc r.die then sendReport r s else s)) ∧
    (∀ die k s1, k < 3 → s1 = updRide die k (fun r => { r with congested := true }) s →
      (s1.ride die k).on = true → (s1.ride die (k + 1)).on = false → (s1.ride die (k + 1)).upAt = none →
      rideBound s1 (k + 1) = false → exec (.rideCongestion die k) s = .next (updRide die (k + 1)
        (fun r => { r with upAt := some (s1.cyc die + 4096) }) s1)) ∧
    (∀ die k c, k < 3 → (s.ride die k).fullSince = some c → c + 256 ≤ s.cyc die → (s.ride die k).on = true →
      (s.ride die (k + 1)).on = false → (s.ride die (k + 1)).upAt = none → rideBound s (k + 1) = false →
      exec (.ridePowerUp die (k + 1)) s = .next (updRide die (k + 1) (fun r => { r with upAt := some (s.cyc die + 4096) }) s)) ∧
    (∀ die k c, (s.ride die k).upAt = some c → c ≤ s.cyc die → exec (.ridePowerUp die k) s = .next
      (injectWaiting (updRide die k (fun r => { r with on := true, upAt := none, lastFlit := s.cyc die }) s))) ∧
    (∀ die k, k < 3 → (s.ride die (k + 1)).on = true → rideBound s (k + 1) = false → stillCongested s die k = false →
      (s.ride die (k + 1)).lastFlit + 2 ^ 16 ≤ s.cyc die → s.rideBusy die (k + 1) = false →
      exec (.ridePowerDown die (k + 1)) s = .next
        (updRide die k (fun r => { r with congested := false }) (updRide die (k + 1) (fun r => { r with on := false }) s))) ∧
    (∀ p, s.svc.linkUp = 0 → exec (.chiararexPacketArrival p) s = .next s) ∧
    (s.svc.linkUp ≠ 0 → (∀ vf va b bs mask p, exec (.chiararexPacketArrival (.copy vf va (b :: bs) mask p)) s = .next (podWrite vf va (b :: bs) mask p s)) ∧
    (∀ vf tid tile rank ws ps, exec (.chiararexPacketArrival (.coll vf tid tile rank ws ps)) s = .next { s with
      fab := { s.fab with colls := s.fab.colls ++ [⟨vf, 5, tid, tile, rank, ws.zip ps, none, .sent⟩] } }) ∧
    (∀ id rank bit m, ((lookupNat (256 + id) s.pf.barmem).getD 0).toNat % 65536 = m → m ≠ 0 →
      exec (.chiararexPacketArrival (.barrier id rank bit)) s = .next (settleBarrier ⟨5, 0, id, m⟩ (s.setBarrier ⟨5, 0, id, m⟩
        (some { s.barrier ⟨5, 0, id, m⟩ with remote := (s.barrier ⟨5, 0, id, m⟩).remote ++ [(rank, bit)] })))))

/-- R287 to R289, R292, R293, R313 to R315, R379, R382, R383: a slice replies to its oldest request when it holds the line and
fetches it otherwise; a line that returns answers every request for it; a walk fills a TLB, and an invalidation empties it; a
partition command flushes and installs, and the pins that the VF holds stand at their new homes, while lines that another VF has
pinned stay (log 107, the model's choice); what it held back of the host's is done in its order (R107); the host reads and writes a
VF's range; every
register write completes, and VFSEL, VFSLICE, ERRWIN, TTIDX, KLADDR, CQUOTA and TAGFALLBACK keep the bits of their fields. -/
def Obligations.EventsOfMemory : Prop :=
  ∀ (s : State),
    (∀ sl s1, s1 = admitReqs s → ((s1.slice sl).queue = [] → exec (.sliceService sl) s = .next s1) ∧
      (∀ r rest, (s1.slice sl).queue = r :: rest →
        ((s1.slice sl).lines.contains r.line = true → exec (.sliceService sl) s = .next
          (moveLine r (s1.setSlice { s1.slice sl with queue := rest }))) ∧
        ((s1.slice sl).lines.contains r.line = false → exec (.sliceService sl) s = .next
          (s1.setSlice { s1.slice sl with queue := rest, filling := (s1.slice sl).filling ++ [r] })))) ∧
    (∀ sl line rs, isHost (128 * line) = false → rs = (s.slice sl).filling.filter (fun r => r.line == line) → rs ≠ [] →
      exec (.gddrFillReturn sl line) s = .next (replyReqs sl (fun r => r.line == line)
        (if rs.all fun r => r.allocates s sl then fillSlice sl line s else s))) ∧
    (∀ e line, isHost (128 * line) = true → exec (.hostMemoryReply e line) s = .next
      (s.slices.foldl (fun acc x => replyReqs x.id (fun r => r.line == line && r.eng == e) acc) s)) ∧
    (∀ vf unit va p, findPage s.mem s.svc.memtop (s.vf vf).mem unit va.toNat = some p →
      exec (.translationWalk vf unit va) s = .next (flitOn vf (unitDie unit) (s.updVf vf fun v => { v with mem := { v.mem with
        tlbs := (tlbChain unit).foldl (fun acc u => if acc.any (fun e => e.covers u va.toNat) then acc
          else tlbPut ⟨u, p.base, p.size, p.frame, p.r, p.w, p.nc⟩ acc) v.mem.tlbs } }))) ∧
    (∀ (v : VfMem) unit va, v.part.psize = 0 → (∀ a, a / 4096 = bitsAt v.ptroot.toNat 12 40 → isHost a = false) →
      tlbHit v.tlbs unit va = none → findPage s.mem s.svc.memtop v unit va = none) ∧
    (∀ e (l : List TlbEnt), ((l.filter fun x => x.unit == e.unit).length ≤ tlbCapacity e.unit →
        ((tlbPut e l).filter fun x => x.unit == e.unit).length ≤ tlbCapacity e.unit) ∧ e ∈ tlbPut e l) ∧
    (∀ vf, exec (.tlbinvAll vf) s = .next (s.updVf vf fun v => { v with mem := { v.mem with
      tlbstat := 1, tlbinv := v.mem.tlbinv ++ [none] } })) ∧
    (∀ vf va, exec (.tlbinvPage vf va) s = .next (s.updVf vf fun v => { v with mem := { v.mem with
      tlbstat := 1, tlbinv := v.mem.tlbinv ++ [some (va.toNat / 65536 % 2 ^ 41 * 65536)] } })) ∧
    (∀ vf, exec (.tlbInvalidationComplete vf) s = .next (s.updVf vf fun v => { v with mem := { v.mem with
      tlbstat := 0, tlbinv := []
      tlbs := v.mem.tlbs.filter fun e => !(v.mem.tlbinv.any fun x => x.all fun a => e.base ≤ a && a < e.base + e.size) } })) ∧
    (∀ vf, exec (.pcmd vf) s = .next (s.updVf vf fun v => { v with mem := { v.mem with pcmdBusy := true } })) ∧
    (∀ vf (s1 s2 s3 : State), (s.vf vf).mem.pcmdBusy = true → s1 = s.slices.foldl (fun acc x => drainSlice vf acc x.id) s →
      s2 = { s1 with
        slices := s1.slices.map fun x => if (s.vf vf).mem.part.has x.id then { x with
        lines := x.lines.filter fun l => s1.vfs.any fun u => u.id != vf && u.mem.pins.contains l } else x } →
      s3 = s2.updVf vf (fun u => { u with mem := { u.mem with part := u.mem.staged, pcmdBusy := false } }) →
      exec (.pcmdComplete vf) s = .next ((s.vf vf).mem.hostq.foldl (hostWaited vf)
        ((admitReqs ((s3.vf vf).mem.pins.foldl (placePin vf) s3)).updVf vf fun v => { v with mem := { v.mem with hostq := [] } }))) ∧
    (∀ vf l, s.sliceBarred (homeSlice (s.vf vf).mem.part (128 * l)) = false →
      placePin vf s l = fillSlice (homeSlice (s.vf vf).mem.part (128 * l)) l s) ∧
    (∀ vf off n pa, s.memHeld vf = false → hostRange s vf off n = some pa → exec (.hostCxlMemAccess vf (.read off n)) s = .next
      (s.emit (.readData vf (s.mem.bytesAt pa n)
        ((upFrom (pa / 4) (ceilDiv (pa % 4 + n) 4)).map fun w => s.mem.poison.contains w)))) ∧
    (∀ vf off bs pa, s.memHeld vf = false → hostRange s vf off bs.length = some pa →
      exec (.hostCxlMemAccess vf (.write off bs)) s = .next { s with mem := s.mem.store pa bs false }) ∧
    (∀ vf a n, HostAccess.holder vf a = some n → s.memHeld n = true → exec (.hostCxlMemAccess vf a) s = .next
      (s.updVf n fun v => { v with mem := { v.mem with hostq := v.mem.hostq ++ [.access a] } })) ∧
    (∀ vf a, hostWaited vf s (.access a) = hostAccess vf s a) ∧
    (∀ vf ref, exec (.lwpub vf ref) s = .next (if s.memHeld vf then holdHost vf (.publish ref) s else hostWaited vf s (.publish ref))) ∧
    (∀ vf sp off width r, HostAccess.holder vf (.register sp off width) = none → r = readRegister sp off.toNat width s →
      exec (.hostCxlMemAccess vf (.register sp off width)) s = .next (r.2.emit (.readData vf r.1 []))) ∧
    (∀ n (off : BitVec 12) width v, width ≠ 8 → exec (.registerWrite (.window n) off ⟨width, v⟩) s = .next s ∧
      readRegister (.window n) off.toNat width s = (partOfReg off.toNat width 0, s)) ∧
    (∀ v, exec (.registerWrite .pf 0x340 ⟨8, v⟩) s = .next { s with pf := { s.pf with vfsel := v &&& 0x3F } }) ∧
    (∀ v, exec (.registerWrite .pf 0x348 ⟨8, v⟩) s = .next (s.updVf (s.pf.vfsel.toNat % 64) fun x =>
      { x with cfg := { x.cfg with slice := v &&& 0xFFFFFFFFFFFF } })) ∧
    (∀ v, exec (.registerWrite .pf 0x208 ⟨8, v⟩) s = .next (if 20 ≤ v.toNat % 64 ∧ v.toNat % 64 ≤ 36 then
      { s with pf := { s.pf with errwin := v &&& 0x3F } } else s)) ∧
    (∀ n v, exec (.registerWrite (.vf n) 0x008 ⟨8, v⟩) s = .next (s.updVf n fun x => { x with tens := { x.tens with ttidx := v &&& 0xFFF } })) ∧
    (∀ n v, exec (.registerWrite (.vf n) 0x040 ⟨8, v⟩) s = .next (s.updVf n fun x =>
      { x with load := { x.load with kladdr := v &&& 0x1FFFFFFFFFFFFC0 } })) ∧
    (∀ n v, exec (.registerWrite (.vfByPf n) 0x070 ⟨8, v⟩) s = .next (s.updVf n fun x =>
      { x with cfg := { x.cfg with cquota := v &&& 0xFFFFFFFF } })) ∧
    (∀ n v, exec (.registerWrite (.window n) 0x020 ⟨8, v⟩) s = .next (s.updVf n fun x =>
      { x with win := { x.win with fallback := v &&& 0xFFFFFFFF } })) ∧
    (∀ sp off width v, ∃ t, exec (.registerWrite sp off ⟨width, v⟩) s = .next t)

/-- R334, R355 to R361, R370 to R375, R380: an uncorrected error poisons the memory word or the sequencer register where it lands, and
one of a compartment or slice is counted, corrected or not; a window's counts enter the rings every 2^ERRWIN cycles; a test waits for a vacant unit and
returns or retires it, the oldest request whose unit is vacant first (log 115, the model's choice); an hour enters the bins of its
temperature and droop; a channel is retired with every VF suspended and MEMTOP falls; a port trains and carries flits again. That
channels are counted with die 0 (log 113) and that the event of a retired channel has die 0 and vf 0 (log 173) is the model's
choice. -/
def Obligations.EventsOfErrors : Prop :=
  ∀ (s : State),
    (∀ die slice unit code pa s1, (isHost pa = true → s1 = s) →
      (isHost pa = false → s1 = if slice then countError die 1 unit s else countError 0 2 (channelOf s.svc.chActive pa) s) →
      exec (.hardwareError ⟨die, slice, unit, code, false, .memWord pa⟩) s = .next
        { s1 with mem := s1.mem.setPoison (pa / 4) true }) ∧
    (∀ die slice unit code q r, exec (.hardwareError ⟨die, slice, unit, code, false, .seqReg q r⟩) s = .next
      (s.setCtx ((s.ctx q).setReg r { (s.ctx q).reg r with poison := true }))) ∧
    (∀ die slice unit code id, exec (.hardwareError ⟨die, slice, unit, code, false, .packet id⟩) s = .next { s with fab := { s.fab with
      packets := s.fab.packets.map fun p => if p.id = id then { p with tok := { p.tok with
        lanes := p.tok.lanes.map fun x => { x with poison := true } } } else p } }) ∧
    (∀ die slice unit code d set way, exec (.hardwareError ⟨die, slice, unit, code, false, .landing d set way⟩) s = .next
      (s.updDie d fun x => { x with landing := x.landing.map fun e => if e.set = set ∧ e.way = way then { e with bad := true } else e })) ∧
    (∀ e, e.corrected = true → (∀ p, e.site ≠ .link p) → ErrSite.always e.site = false →
      exec (.hardwareError e) s = .next (noteError e s)) ∧
    (∀ die unit code corrected k lane tries t c e, (countError die 0 unit s).stand? k.stand = some t → t.retry < tries →
      (countError die 0 unit s).cell? k = some c →
      issuing (countError die 0 unit s) k = true → e = ErrReport.mk die false unit code corrected (.instr k lane tries) → exec (.hardwareError e) s = .next
        (residueTrap k lane e.unitCode ((countError die 0 unit s).updTask k fun x => x.takeRefs c.operandRefs))) ∧
    (∀ die, s.cyc die % 2 ^ (s.pf.errwin.toNat % 64) = 0 → exec (.errorWindowReset die) s = .next
      (State.updDie { s with svc := { s.svc with rings := ringWindows die (s.die die).errs s.svc.rings } } die fun d => { d with errs := [] })) ∧
    (exec .growthRingFlush s = .next { s with svc := { s.svc with rings := s.svc.rings.map fun r => { r with flash := r.now } } }) ∧
    (∀ hs, exec (.growthRingHour hs) s = .next { s with svc := { s.svc with rings := hs.foldl addHour s.svc.rings } }) ∧
    (∀ x : Int, tempBin x = if x < 40 then 0 else if x < 55 then 1 else if x < 70 then 2 else if x < 85 then 3 else if x < 95 then 4
      else if x < 105 then 5 else if x < 115 then 6 else 7) ∧
    (∀ x : Int, droopBin x = if x < 10 then 0 else if x < 20 then 1 else if x < 30 then 2 else if x < 40 then 3 else if x < 60 then 4
      else if x < 80 then 5 else if x < 100 then 6 else 7) ∧
    (∀ rings h r, r = Pf.ringOf rings h.die h.kind h.unit →
      addHour rings h = putRing { r with now := bumpBin (bumpBin r.now (8 + tempBin h.temp)) (16 + droopBin h.droop) } rings) ∧
    (∀ value u, u = (bitsAt value.toNat 9 2, value.getLsbD 8, bitsAt value.toNat 0 8) → s.svc.ift.stat.toNat % 4 ≠ 1 →
      s.svc.ift.stat.toNat % 4 ≠ 2 → (u.2.1 = true ∨ u.2.2 < 128) →
      exec (.iftcmd value) s = .next (if u.2.1 = true ∧ s.inPartition u.1 u.2.2 = true then s.withIft { s.svc.ift with stat := iftWord 11 u }
        else s.withIft { s.svc.ift with stat := iftWord 1 u, queue := s.svc.ift.queue ++ [u] })) ∧
    (∀ u, s.svc.ift.current = none → s.svc.ift.queue.find? (fun u => s.unowned u || u.2.1) = some u → s.unowned u = true →
      exec .iftStart s = .next (s.withIft { stat := s.svc.ift.report 2 u, queue := s.svc.ift.queue.erase u, current := some u })) ∧
    (∀ u s1, s.svc.ift.current = some u →
      (s1 = s.withIft { s.svc.ift with stat := s.svc.ift.report 7 u, current := none } → exec (.iftComplete true) s = .next
        (ringEvent u.1 (if u.2.1 then 1 else 0) u.2.2 4 (ringEvent u.1 (if u.2.1 then 1 else 0) u.2.2 2 (returnUnit u s1)))) ∧
      (s1 = s.withIft { s.svc.ift with stat := s.svc.ift.report 3 u, current := none } → u.2.1 = false → exec (.iftComplete false) s = .next
        (reportFail u.1 u.2.2 (ringEvent u.1 0 u.2.2 3 (keepRetired u s1))))) ∧
    (∀ value ch, ch = value.toNat % 64 → value.getLsbD 7 = true → s.svc.chMigrating = none → ch < 48 → s.svc.chActive.getLsbD ch = true →
      exec (.chret value) s = .next ((upTo 64).foldl (fun acc v => suspendVf v acc) { s with
        svc := { s.svc with chMigrating := some ch, chSusp := s.pf.vfsusp }, pf := { s.pf with vfsusp := BitVec.allOnes 64 } })) ∧
    (∀ ch act top, s.svc.chMigrating = some ch → (∀ t ∈ s.stands, t.status ≠ .resident) →
      act = s.svc.chActive &&& ~~~(BitVec.ofNat 48 (2 ^ ch)) → top = memtopOf (activeChannels act) →
      exec .channelMigrationComplete s = .next (hostEvent .pf 9 0 0 0 (BitVec.ofNat 64 ch) (ringEvent 0 2 ch 5 (ringEvent 0 2 ch 1 { s with
        mem := s.mem.cutDevice top, slices := s.slices.map fun x => { x with lines := x.lines.filter fun l => 128 * l < top }
        pf := { s.pf with vfsusp := s.svc.chSusp }, svc := { s.svc with chActive := act, chMigrating := none, memtop := top } })))) ∧
    (∀ value, exec (.lnkcmd value) s = .next (if value.getLsbD 4 then trainPort (value.toNat % 16) s else s)) ∧
    (∀ port, s.svc.linkTraining.contains port = true → exec (.linkTrainingComplete port) s = .next { s with
      out := s.svc.podWait ++ s.out
      svc := { s.svc with
        linkUp := s.svc.linkUp ||| BitVec.ofNat 16 (2 ^ port), linkTraining := removeNat port s.svc.linkTraining
        linkRetries := storeNat port 0 s.svc.linkRetries, podWait := [] } }) ∧
    (∀ fn h, exec (.evhead fn h) s = .next (if (h - (s.ring fn).head).toNat ≤ ((s.ring fn).tail - (s.ring fn).head).toNat then
      s.setRing fn { s.ring fn with head := h } else s))

/-- R376 to R379, R381, R383: a reset boots the active bank, counts a failed boot and boots the other bank after the third; an
image is verified and then replaces the inactive bank, unless the flash fails; a report is written after its nonce; the thermal trip
resets every partition, tells every function and takes the module down; VFRSET and the key commands configure the selected VF. What
a reset and a loss of power keep (log 117), the failed-boot count, outcome 2 of an image too large ahead of its signature, and when
the flash fails (log 118), and the counting and the event of the trip, with die 0 (logs 120 and 173), are the model's choice. -/
def Obligations.EventsOfModule : Prop :=
  ∀ (s : State),
    (∀ bank svc, svc = (if s.svc.fwSwitch then s.svc.swapBanks else s.svc) →
      bank = (if s.svc.fwSwitch then 1 - fwBank s.pf.fwstat else fwBank s.pf.fwstat) →
      (Config.firmwareSigned svc.fwActive = true →
        exec .moduleReset s = .next (afterReset svc (fwWord bank 0 0 0) sequencerSigned s)) ∧
      (∀ n, n = (if s.svc.fwSwitch then 0 else fwFailed s.pf.fwstat) → Config.firmwareSigned svc.fwActive = false →
        (n < 2 → exec .moduleReset s = .next (afterReset svc (fwWord bank 0 0 (n + 1)) false s)) ∧
        (2 ≤ n → Config.firmwareSigned svc.fwOther = true →
          exec .moduleReset s = .next (afterReset svc.swapBanks (fwWord (1 - bank) 0 0 0) sequencerSigned s)))) ∧
    (∀ img n code, s.svc.fwPending = none → n = s.pf.fwsize.toNat % 2 ^ 32 → img = s.mem.bytesAt (hostAddr s.pf.fwaddr.toNat) n →
      code = (if Config.bankSize < n then 2 else if Config.firmwareSigned img then 0 else 1) →
      exec .fwVerifyWrite s = .next { s with
        svc := { s.svc with fwPending := some (code, img) }
        pf := { s.pf with fwstat := fwWord (fwBank s.pf.fwstat) 1 (bitsAt s.pf.fwstat.toNat 4 4) (fwFailed s.pf.fwstat) } }) ∧
    (∀ code img, s.svc.fwPending = some (code, img) →
      (code ≠ 0 ∨ Config.flashFails s.free = false → exec .firmwareWriteComplete s = .next { s with
        free := s.free + 1
        svc := { s.svc with fwPending := none, fwOther := if code = 0 then img else s.svc.fwOther },
        pf := { s.pf with fwstat := fwWord (fwBank s.pf.fwstat) 0 code (fwFailed s.pf.fwstat) } }) ∧
      (code = 0 → Config.flashFails s.free = true → exec .firmwareWriteComplete s = .next { s with
        free := s.free + 1
        svc := { s.svc with fwPending := none, fwOther := Config.flashLeaves s.free },
        pf := { s.pf with fwstat := fwWord (fwBank s.pf.fwstat) 0 3 (fwFailed s.pf.fwstat) } })) ∧
    (s.svc.fwPending = none → exec .fwBankSwitch s = .next { s with svc := { s.svc with fwSwitch := true } }) ∧
    (∃ t, exec .powerLoss s = .next t ∧ t.svc.down = true ∧ t.stands = [] ∧ t.svc.rings = s.svc.rings.map (fun r => { r with now := r.flash })) ∧
    (∀ vf, (s.vf vf).atBusy = none → exec (.atcmd vf) s = .next (s.setVf { s.vf vf with atstat := 1, atBusy := some (s.vf vf).ataddr.toNat })) ∧
    (∀ vf a nonce, (s.vf vf).atBusy = some a → s.vfBytes vf a 64 = some nonce →
      (∀ places, s.vfRange vf (a + 64) (332 + 64 * (s.vf vf).load.measures.length) .write = some places →
        exec (.attestationReportComplete vf) s = .next (State.updVf { s with mem := storePieces places (attestation s vf nonce) s.mem } vf
          fun x => { x with atstat := 0, atBusy := none })) ∧
      (s.vfRange vf (a + 64) (332 + 64 * (s.vf vf).load.measures.length) .write = none →
        exec (.attestationReportComplete vf) s = .next (s.setVf { s.vf vf with atstat := 2, atBusy := none }))) ∧
    (∀ s1 s2, s1 = (upTo 64).foldl (fun acc v => resetPartition v acc) s →
      s2 = tripRings ((upTo 64).foldl (fun acc v => hostEvent (.vf v) 8 0 v 0 0 acc) (hostEvent .pf 8 0 0 0 0 s1)) →
      exec .thermalTrip s = .next { s2 with svc := { s2.svc with down := true } }) ∧
    (∀ die value x vf s1, vf = s.pf.vfsel.toNat % 64 → x = BitVec.ofNat 64 (value.toNat % 2 ^ 25) →
      s1 = s.updVf vf (fun v => { v with cfg := { v.cfg with rset := v.cfg.rset.set die x } }) → exec (.vfrset die value) s = .next
        (if rsetRefused s vf die x then { s with pf := { s.pf with cfgstat := BitVec.ofNat 64 (s.pf.cfgstat.toNat % 2 + 2) } }
        else { s1 with pf := { s1.pf with cfgstat := BitVec.ofNat 64 (s1.pf.cfgstat.toNat % 2) } })) ∧
    (∀ key, s.svc.keyPending = none → s.pf.keyaddr.toNat + 132 ≤ 2 ^ 51 →
      key = BitVec.ofNat 1056 (natOfBytesBE (s.mem.bytesAt (hostAddr s.pf.keyaddr.toNat) 132)) →
      exec .vfkeyInstall s = .next (beginKey (some key) (if onCurve key then 0 else 2) s)) ∧
    (s.svc.keyPending = none → exec .vfkeyClear s = .next (beginKey none 0 s)) ∧
    (∀ vf slot key (s1 : State), s1 = { s with svc := { s.svc with keyPending := none }, pf := { s.pf with cfgstat := 0 } } →
      s.svc.keyPending = some (vf, slot, key, 0) → exec .vfKeyCommandComplete s = .next
        (s1.updVf vf fun v => { v with cfg := { v.cfg with keys := putKey slot key v.cfg.keys } })) ∧
    (∀ vf slot key n, n ≠ 0 → s.svc.keyPending = some (vf, slot, key, n) → exec .vfKeyCommandComplete s = .next
      { s with svc := { s.svc with keyPending := none }, pf := { s.pf with cfgstat := BitVec.ofNat 64 (2 * n) } })

/-! ## The whole machine -/

namespace Sys2Proof.Claims

open Sys2Proof.Machine

/-- Words of sequencer instructions, written out from R145 to R151. -/
def seqWords : List (W32 × Instr) :=
  [(0x01545201, .srAluAdd ⟨0x15, 0x11, 0x12, 1⟩), (0x04145210, .sqCmpLt ⟨0x01, 0x11, 0x12, 0⟩),
   (0x25244005, .siCmpi ⟨0x12, 0x11, 5⟩), (0x29100003, .siMovi ⟨0x11, 0, 3⟩), (0x4D140000, .siLdd ⟨0x11, 0x10, 0⟩),
   (0x5D240008, .siStd ⟨0x12, 0x10, 8⟩), (0x61341100, .saAmoAdd ⟨0x13, 0x10, 0x11, 0⟩), (0x8280FFFD, .sbBr ⟨1, 2, 0, 0xFFFD⟩),
   (0x8BFFFFFF, .sjJmp 0x3FFFFFF), (0x94054000, .srJrJump ⟨0, 0x15, 0, 0⟩), (0x98110002, .sbLoop ⟨0, 0, 0x11, 2⟩),
   (0xC1348010, .srWaitTag ⟨0x13, 0x12, 0, 0⟩), (0xCC048030, .srTagp ⟨0, 0x12, 0, 0⟩ 6), (0xE1745200, .ssScmd ⟨0x17, 0x11, 0x12, 0⟩),
   (0xF0002102, .sxSysTrap ⟨0, 0x021⟩), (0xF1400800, .sxSysCsrrd ⟨0x14, 0x008⟩), (0xFC000400, .slLimm 0x400)]

/-- Words of cell instructions, written out from R153 to R162. -/
def cellWords : List (W64 × Instr) :=
  [(0x00410108000C0000, .cvAdd ⟨4, 4, 1, 2, 0, 0, 3, 0, 0, 0, 0, 0⟩), (0x1640810800000020, .cvCmp ⟨4, 2, 1, 2, 0, 0, 0, 0, 0, 0, 2, 0⟩),
   (0x20A1410800000000, .cfFadd ⟨0xA, 5, 1, 2, 0, 0, 0, 0, 0, 0, 0, 0⟩), (0x3441C60000000000, .clLred ⟨4, 7, 6, 0, 0, 0, 0, 0, 0, 0, 0, 0⟩),
   (0x4280020C40000000, .cxMma ⟨8, 0, 2, 3, 4, 0, 0, 0, 0, 0, 0, 0⟩), (0x6041420C100C1400, .cmLd ⟨4, 5, 2, 3, 4, 3, 5, 0, 0, 0⟩),
   (0x8000030000800000, .ccLoop ⟨0, 0, 3, 0, 0, 2, 0, 0, 0, 0, 0, 0⟩), (0x8D00000000000000, .ccEndt ⟨0, 0, 0, 0, 0, 0, 0, 0, 0, 0, 0, 0⟩)]

/-- Skid commands, written out from R164. -/
def skidWords : List (W128 × Instr) :=
  [(0x01000002000713000000000000000000, .skCpygl ⟨0, 2, 7, 0, 1, 0, 3, 0, 0, 0, 0, 0⟩),
   (0x0F020000000B0B000000000000010002, .skSink ⟨2, 0, 0xB, 0, 0, 1, 3, 0, 0, 0, 1, 2⟩),
   (0x10020000000000000000000000000000, .skBlaz ⟨2, 0, 0, 0, 0, 0, 0, 0, 0, 0, 0, 0⟩)]

/-- A step takes the turn t, with the rest of the agenda left, and the module is up. -/
def Takes (s s1 : State) (t : Turn) : Prop := ∃ rest, s.agenda = t :: rest ∧ s.svc.down = false ∧ s1 = { s with agenda := rest }

end Sys2Proof.Claims

open Sys2Proof Sys2Proof.Machine Sys2Proof.Claims

/-- R145 to R164: words written out from the encodings decode to their instructions; an unassigned opcode, a field that must
be zero and is not, and a reserved function (fn 31 of SR.ALU) are refused. -/
def Obligations.DecodeWords : Prop :=
  (∀ p ∈ seqWords, (decodeSeq p.1).toOption = some p.2) ∧ (∀ p ∈ cellWords, (decodeCell p.1).toOption = some p.2) ∧
  (∀ w ∈ [(0x2C000000 : W32), 0xF0000104, 0x2D100003, 0x015452F9], (decodeSeq w).toOption = none) ∧
  (∀ w ∈ [(0x0040000000000010 : W64), 0x0B10000000000000], (decodeCell w).toOption = none) ∧
  (∀ p ∈ skidWords, decodeSkid p.1 = some p.2) ∧ decodeSkid 0 = none ∧ decodeSkid (0x12 <<< 120) = none

/-- R145, R153, R164: decode and encode agree: the word of a well-formed instruction decodes to it, every word that decodes is
the word of its instruction, and two well-formed instructions never share a word. -/
def Obligations.DecodeEncode : Prop :=
  (∀ i w, i.wf = true → encode i = some w → decode w = some i) ∧
  (∀ i w, decode w = some i → encode i = some w) ∧
  (∀ i j w, i.wf = true → j.wf = true → encode i = some w → encode j = some w → i = j)

/-- Every step keeps both memories in their canonical form, whatever its turn is. -/
def Obligations.StepKeepsSafe : Prop := ∀ s t, Safe s → step s = .next t → Safe t

/-- The state after reset: both memories are canonical and empty; no stand, no kernel, no tensor and no record exists; the
registers of R70, R99, R106, R289, R360, R366, R381, R382 and R383 hold the values stated there; every channel is active. That an
unlisted byte reads 0, and that FWSTAT and a context's registers are 0, is the model's choice (logs 1 and 2). -/
def Obligations.ResetState : Prop :=
  Safe State.reset ∧ State.reset.stands = [] ∧ (∀ a, State.reset.mem.byte a = 0 ∧ State.reset.mem.poisoned a = false) ∧
  (∀ d, (State.reset.die d).recs = [] ∧ (State.reset.die d).landing = [] ∧ (State.reset.die d).suspects = [] ∧
    (State.reset.die d).retired = [] ∧ State.reset.cyc d = 0) ∧
  (∀ v tid, State.reset.tensor? v tid = none ∧ State.reset.kernel? v tid = none ∧ (State.reset.vf v).root = none ∧
    (State.reset.vf v).load.klstat = 0 ∧ (State.reset.vf v).mem.ptroot = 0 ∧ (State.reset.vf v).mem.part.psize = 0 ∧
    (State.reset.vf v).cfg.blzper = 0 ∧ (State.reset.vf v).cfg.slice = 0 ∧
    (State.reset.vf v).tens = ⟨0, 0, 0, 0, 0, 0, 0, []⟩ ∧ (State.reset.vf v).load = ⟨0, 0, 0, 0, 0, none, [], [], []⟩ ∧
    (State.reset.vf v).win = ⟨0, 0, 0, 0⟩ ∧ (State.reset.vf v).ev = ⟨0, 0, 0, 0⟩ ∧
    (State.reset.vf v).cfg = ⟨0, 0, 0, 0, PerDie.all 0, 0, 0, 0, 0, 0, 0, 0, []⟩ ∧ (State.reset.vf v).mem.pins = []) ∧
  State.reset.pf = ⟨0, 24, 16, 0, 0, 0, 0, 0, 0, 0, 0, 0, 0, 3400, 0, 0, 0, 0, 0, [], ⟨0, 0, 0, 0⟩⟩ ∧
  (∀ q, (State.reset.ctx q).run = .idle ∧ (State.reset.ctx q).bind = .none ∧ (State.reset.ctx q).wait = none) ∧
  (∀ q r, (State.reset.ctx q).reg r = ⟨0, false⟩) ∧
  State.reset.pf.errwin = 24 ∧ State.reset.pf.errthr = 16 ∧ State.reset.pf.pwrcap = 3400 ∧ State.reset.pf.ridectl = 0 ∧
  State.reset.pf.vfsusp = 0 ∧ State.reset.pf.sllost = 0 ∧ State.reset.pf.fwaddr = 0 ∧ State.reset.pf.fwsize = 0 ∧
  State.reset.svc.ift.stat = 0 ∧ State.reset.svc.chActive = BitVec.allOnes 48 ∧ State.reset.svc.memtop = 288000000000 ∧
  State.reset.svc.linkUp = 0

/-- A step takes the oldest turn of the agenda: a running context's word, one a cycle of its sequencer, an issuing task's word or an engine's oldest
unfinished command that decodes to i is executed as i by that agent, an event as itself; a word that is refused traps, a cell
word that names an absent port with ILLEGAL also where a reserved field is set (R154, R162); while
the module is down only its reset or a loss of power acts (R168, R240, R294, R381, logs 14, 70 and 91). -/
def Obligations.StepRunsDecoded : Prop :=
  ∀ (s s1 : State) (i : Instr),
    (∀ q w s2, Takes s s1 (.seq q) → (s.ctx q).run = .running → s.seqIssued q = false → (s.ctx q).pc % 4 = 0 →
      (s.ctx q).text[(s.ctx q).pc / 4]? = some w → s2 = s1.updCtx q (fun c => { c with issued := some (s.cyc q.die) }) →
      (decodeSeq w = .ok i → step s = exec i { s2 with actor := .seq q }) ∧
      (∀ c, decodeSeq w = .error c → step s = .next (seqTrap q 0x01 (w.setWidth 64) s2))) ∧
    (∀ q, Takes s s1 (.seq q) → s.seqIssued q = true → step s = .next s1) ∧
    (∀ k t tk n w, Takes s s1 (.task k) → s.stand? k.stand = some t → (t.weave k.pos).task? k.nid = some tk →
      t.kern.node? k.pos k.nid = some n → Task.mayIssue (t.weave k.pos) tk = true → n.text[tk.pc]? = some w →
      (decodeCell w = .ok i → step s = exec i { s1 with actor := .task k }) ∧
      (decodeCell w = .error .illegal → step s = .next (cellTrap k 0x01 0 tk.pc (w.extractLsb' 0 32) (w.extractLsb' 32 32) 0 0 s1)) ∧
      (∀ cause, decodeCell w = .error .reservedField → cause = refusedCause n w .reservedField →
        step s = .next (cellTrap k cause 0 tk.pc (w.extractLsb' 0 32) (w.extractLsb' 32 32) 0 0 s1))) ∧
    (∀ (n : NodeDesc) w j, parseCell w = some j → ((∀ p ∈ cellPorts j, (n.port p).en = true) → refusedCause n w .reservedField = 0x02) ∧
      (∀ p ∈ cellPorts j, (n.port p).en = false → refusedCause n w .reservedField = 0x01)) ∧
    (∀ e t g c, Takes s s1 (.engine e) → s.stand? e.stand = some t → t.eng? e.eng = some g → g.halted = false → passDue t g = none →
      g.cmds.find? (fun c => !c.finished) = some c → decodeSkid c.word = some i → mayWork t g c = true →
      (c.started = true → step s = exec i { s1 with actor := .engine e }) ∧
      (c.started = false → step s = exec i { s1.setStand (t.updEng e.eng fun g => { g with
        qhead := g.qhead + 1, cmds := g.cmds.map fun x => if x.seq = c.seq then { x with started := true } else x }) with
        actor := .engine e })) ∧
    (Takes s s1 (.event i) → step s = exec i { s1 with actor := .none }) ∧
    (∀ k, Takes s s1 (.due (.taskFire k)) → step s = exec (.taskFire k) { s1 with actor := .none }) ∧
    (∀ q, Takes s s1 (.due (.seqWaitSatisfied q)) → step s = exec (.seqWaitSatisfied q) { s1 with actor := .none }) ∧
    (∀ st, Takes s s1 (.due (.waveComplete st)) → step s = exec (.waveComplete st) { s1 with actor := .none }) ∧
    (∀ t rest, s.agenda = t :: rest → s.svc.down = true → t ≠ .event .moduleReset → t ≠ .event .powerLoss →
      step s = .next { s with agenda := rest }) ∧
    (s.agenda = [] → step s = .next (newCycle s))

/-- Memory in canonical form: equal bytes are equal data, writing back what a byte holds changes nothing, writes to two
addresses commute, and a store leaves its bytes where it put them and every other byte as it was; a whole word that it
covers takes its poison bit (R334). -/
def Obligations.MemoryLaws : Prop :=
  (∀ m n : Memory, m.wf = true → n.wf = true → (∀ a, m.byte a = n.byte a) → m.bytes = n.bytes) ∧
  (∀ (m : Memory) (a : Nat), m.wf = true → m.setByte a (m.byte a) = m) ∧
  (∀ (m : Memory) (a b : Nat) (x y : Byte), m.wf = true → a ≠ b → (m.setByte a x).setByte b y = (m.setByte b y).setByte a x) ∧
  (∀ (m : Memory) (a : Nat) (x y : Byte), m.wf = true → (m.setByte a x).setByte a y = m.setByte a y) ∧
  (∀ (m : Memory) (a : Nat) (bs : List Byte) (p : Bool), m.wf = true →
    (m.store a bs p).bytesAt a bs.length = bs ∧ (∀ b, b < a ∨ a + bs.length ≤ b → (m.store a bs p).byte b = m.byte b) ∧
    (∀ b, a ≤ 4 * (b / 4) → 4 * (b / 4) + 4 ≤ a + bs.length → (m.store a bs p).poisoned b = p) ∧
    (∀ b, 4 * (b / 4) + 4 ≤ a ∨ a + bs.length ≤ 4 * (b / 4) → (m.store a bs p).poisoned b = m.poisoned b))
end

