-- ==== Sys2Proof/Laws/Coding.lean ====
section
/-! SUPPORT. What the formats of R145, R153 and R164 say of each field: a word built from its fields gives them back, and
so the decoder reads an instruction from its word. -/

namespace Sys2Proof.Laws

theorem srWord_op (op fn : Nat) (f : SR) : (srWord op fn f).extractLsb' 26 6 = BitVec.ofNat 6 op := by
  apply BitVec.eq_of_getLsbD_eq
  intro i hi
  simp only [srWord, BitVec.getLsbD_extractLsb', BitVec.getLsbD_append]
  grind

theorem srWord_fn (op fn : Nat) (f : SR) : (srWord op fn f).extractLsb' 3 5 = BitVec.ofNat 5 fn := by
  apply BitVec.eq_of_getLsbD_eq
  intro i hi
  simp only [srWord, BitVec.getLsbD_extractLsb', BitVec.getLsbD_append]
  grind

theorem srWord_d (op fn : Nat) (f : SR) : (srWord op fn f).extractLsb' 20 6 = f.d := by
  apply BitVec.eq_of_getLsbD_eq
  intro i hi
  simp only [srWord, BitVec.getLsbD_extractLsb', BitVec.getLsbD_append]
  grind

theorem srWord_a (op fn : Nat) (f : SR) : (srWord op fn f).extractLsb' 14 6 = f.a := by
  apply BitVec.eq_of_getLsbD_eq
  intro i hi
  simp only [srWord, BitVec.getLsbD_extractLsb', BitVec.getLsbD_append]
  grind

theorem srWord_b (op fn : Nat) (f : SR) : (srWord op fn f).extractLsb' 8 6 = f.b := by
  apply BitVec.eq_of_getLsbD_eq
  intro i hi
  simp only [srWord, BitVec.getLsbD_extractLsb', BitVec.getLsbD_append]
  grind

theorem srWord_q (op fn : Nat) (f : SR) : (srWord op fn f).extractLsb' 0 3 = f.q := by
  apply BitVec.eq_of_getLsbD_eq
  intro i hi
  simp only [srWord, BitVec.getLsbD_extractLsb', BitVec.getLsbD_append]
  grind

/-- The fields of a word of this format. -/
theorem srFields_word (op fn : Nat) (f : SR) : srFields (srWord op fn f) = f := by
  simp only [srFields, srWord_d, srWord_a, srWord_b, srWord_q]

theorem siWord_op (op : Nat) (f : SI) : (siWord op f).extractLsb' 26 6 = BitVec.ofNat 6 op := by
  apply BitVec.eq_of_getLsbD_eq
  intro i hi
  simp only [siWord, BitVec.getLsbD_extractLsb', BitVec.getLsbD_append]
  grind

theorem siWord_d (op : Nat) (f : SI) : (siWord op f).extractLsb' 20 6 = f.d := by
  apply BitVec.eq_of_getLsbD_eq
  intro i hi
  simp only [siWord, BitVec.getLsbD_extractLsb', BitVec.getLsbD_append]
  grind

theorem siWord_a (op : Nat) (f : SI) : (siWord op f).extractLsb' 14 6 = f.a := by
  apply BitVec.eq_of_getLsbD_eq
  intro i hi
  simp only [siWord, BitVec.getLsbD_extractLsb', BitVec.getLsbD_append]
  grind

theorem siWord_imm14 (op : Nat) (f : SI) : (siWord op f).extractLsb' 0 14 = f.imm14 := by
  apply BitVec.eq_of_getLsbD_eq
  intro i hi
  simp only [siWord, BitVec.getLsbD_extractLsb', BitVec.getLsbD_append]
  grind

/-- The fields of a word of this format. -/
theorem siFields_word (op : Nat) (f : SI) : siFields (siWord op f) = f := by
  simp only [siFields, siWord_d, siWord_a, siWord_imm14]

theorem sbWord_op (op : Nat) (f : SB) : (sbWord op f).extractLsb' 26 6 = BitVec.ofNat 6 op := by
  apply BitVec.eq_of_getLsbD_eq
  intro i hi
  simp only [sbWord, BitVec.getLsbD_extractLsb', BitVec.getLsbD_append]
  grind

theorem sbWord_sense (op : Nat) (f : SB) : (sbWord op f).extractLsb' 25 1 = f.sense := by
  apply BitVec.eq_of_getLsbD_eq
  intro i hi
  simp only [sbWord, BitVec.getLsbD_extractLsb', BitVec.getLsbD_append]
  grind

theorem sbWord_q (op : Nat) (f : SB) : (sbWord op f).extractLsb' 22 3 = f.q := by
  apply BitVec.eq_of_getLsbD_eq
  intro i hi
  simp only [sbWord, BitVec.getLsbD_extractLsb', BitVec.getLsbD_append]
  grind

theorem sbWord_a (op : Nat) (f : SB) : (sbWord op f).extractLsb' 16 6 = f.a := by
  apply BitVec.eq_of_getLsbD_eq
  intro i hi
  simp only [sbWord, BitVec.getLsbD_extractLsb', BitVec.getLsbD_append]
  grind

theorem sbWord_disp16 (op : Nat) (f : SB) : (sbWord op f).extractLsb' 0 16 = f.disp16 := by
  apply BitVec.eq_of_getLsbD_eq
  intro i hi
  simp only [sbWord, BitVec.getLsbD_extractLsb', BitVec.getLsbD_append]
  grind

/-- The fields of a word of this format. -/
theorem sbFields_word (op : Nat) (f : SB) : sbFields (sbWord op f) = f := by
  simp only [sbFields, sbWord_sense, sbWord_q, sbWord_a, sbWord_disp16]

theorem sjWord_op (op : Nat) (x : BitVec 26) : (sjWord op x).extractLsb' 26 6 = BitVec.ofNat 6 op := by
  apply BitVec.eq_of_getLsbD_eq
  intro i hi
  simp only [sjWord, BitVec.getLsbD_extractLsb', BitVec.getLsbD_append]
  grind

theorem sjWord_disp (op : Nat) (x : BitVec 26) : (sjWord op x).extractLsb' 0 26 = x := by
  apply BitVec.eq_of_getLsbD_eq
  intro i hi
  simp only [sjWord, BitVec.getLsbD_extractLsb', BitVec.getLsbD_append]
  grind

theorem sxWord_op (op fn : Nat) (f : SX) : (sxWord op fn f).extractLsb' 26 6 = BitVec.ofNat 6 op := by
  apply BitVec.eq_of_getLsbD_eq
  intro i hi
  simp only [sxWord, BitVec.getLsbD_extractLsb', BitVec.getLsbD_append]
  grind

theorem sxWord_fn (op fn : Nat) (f : SX) : (sxWord op fn f).extractLsb' 0 8 = BitVec.ofNat 8 fn := by
  apply BitVec.eq_of_getLsbD_eq
  intro i hi
  simp only [sxWord, BitVec.getLsbD_extractLsb', BitVec.getLsbD_append]
  grind

theorem sxWord_d (op fn : Nat) (f : SX) : (sxWord op fn f).extractLsb' 20 6 = f.d := by
  apply BitVec.eq_of_getLsbD_eq
  intro i hi
  simp only [sxWord, BitVec.getLsbD_extractLsb', BitVec.getLsbD_append]
  grind

theorem sxWord_sel12 (op fn : Nat) (f : SX) : (sxWord op fn f).extractLsb' 8 12 = f.sel12 := by
  apply BitVec.eq_of_getLsbD_eq
  intro i hi
  simp only [sxWord, BitVec.getLsbD_extractLsb', BitVec.getLsbD_append]
  grind

/-- The fields of a word of this format. -/
theorem sxFields_word (op fn : Nat) (f : SX) : sxFields (sxWord op fn f) = f := by
  simp only [sxFields, sxWord_d, sxWord_sel12]

theorem cgWord_op (op : Nat) (f : CG) : (cgWord op f).extractLsb' 56 8 = BitVec.ofNat 8 op := by
  apply BitVec.eq_of_getLsbD_eq
  intro i hi
  simp only [cgWord, BitVec.getLsbD_extractLsb', BitVec.getLsbD_append]
  grind

theorem cgWord_ty (op : Nat) (f : CG) : (cgWord op f).extractLsb' 52 4 = f.ty := by
  apply BitVec.eq_of_getLsbD_eq
  intro i hi
  simp only [cgWord, BitVec.getLsbD_extractLsb', BitVec.getLsbD_append]
  grind

theorem cgWord_d (op : Nat) (f : CG) : (cgWord op f).extractLsb' 46 6 = f.d := by
  apply BitVec.eq_of_getLsbD_eq
  intro i hi
  simp only [cgWord, BitVec.getLsbD_extractLsb', BitVec.getLsbD_append]
  grind

theorem cgWord_a (op : Nat) (f : CG) : (cgWord op f).extractLsb' 40 6 = f.a := by
  apply BitVec.eq_of_getLsbD_eq
  intro i hi
  simp only [cgWord, BitVec.getLsbD_extractLsb', BitVec.getLsbD_append]
  grind

theorem cgWord_b (op : Nat) (f : CG) : (cgWord op f).extractLsb' 34 6 = f.b := by
  apply BitVec.eq_of_getLsbD_eq
  intro i hi
  simp only [cgWord, BitVec.getLsbD_extractLsb', BitVec.getLsbD_append]
  grind

theorem cgWord_c (op : Nat) (f : CG) : (cgWord op f).extractLsb' 28 6 = f.c := by
  apply BitVec.eq_of_getLsbD_eq
  intro i hi
  simp only [cgWord, BitVec.getLsbD_extractLsb', BitVec.getLsbD_append]
  grind

theorem cgWord_e (op : Nat) (f : CG) : (cgWord op f).extractLsb' 22 6 = f.e := by
  apply BitVec.eq_of_getLsbD_eq
  intro i hi
  simp only [cgWord, BitVec.getLsbD_extractLsb', BitVec.getLsbD_append]
  grind

theorem cgWord_gp (op : Nat) (f : CG) : (cgWord op f).extractLsb' 18 4 = f.gp := by
  apply BitVec.eq_of_getLsbD_eq
  intro i hi
  simp only [cgWord, BitVec.getLsbD_extractLsb', BitVec.getLsbD_append]
  grind

theorem cgWord_gq (op : Nat) (f : CG) : (cgWord op f).extractLsb' 14 4 = f.gq := by
  apply BitVec.eq_of_getLsbD_eq
  intro i hi
  simp only [cgWord, BitVec.getLsbD_extractLsb', BitVec.getLsbD_append]
  grind

theorem cgWord_gm (op : Nat) (f : CG) : (cgWord op f).extractLsb' 12 2 = f.gm := by
  apply BitVec.eq_of_getLsbD_eq
  intro i hi
  simp only [cgWord, BitVec.getLsbD_extractLsb', BitVec.getLsbD_append]
  grind

theorem cgWord_ch (op : Nat) (f : CG) : (cgWord op f).extractLsb' 10 2 = f.ch := by
  apply BitVec.eq_of_getLsbD_eq
  intro i hi
  simp only [cgWord, BitVec.getLsbD_extractLsb', BitVec.getLsbD_append]
  grind

theorem cgWord_aux (op : Nat) (f : CG) : (cgWord op f).extractLsb' 4 6 = f.aux := by
  apply BitVec.eq_of_getLsbD_eq
  intro i hi
  simp only [cgWord, BitVec.getLsbD_extractLsb', BitVec.getLsbD_append]
  grind

theorem cgWord_sc (op : Nat) (f : CG) : (cgWord op f).extractLsb' 0 4 = f.sc := by
  apply BitVec.eq_of_getLsbD_eq
  intro i hi
  simp only [cgWord, BitVec.getLsbD_extractLsb', BitVec.getLsbD_append]
  grind

/-- The fields of a word of this format. -/
theorem cgFields_word (op : Nat) (f : CG) : cgFields (cgWord op f) = f := by
  simp only [cgFields, cgWord_ty, cgWord_d, cgWord_a, cgWord_b, cgWord_c, cgWord_e, cgWord_gp, cgWord_gq, cgWord_gm, cgWord_ch, cgWord_aux, cgWord_sc]

theorem cmWord_op (op : Nat) (f : CM) : (cmWord op f).extractLsb' 56 8 = BitVec.ofNat 8 op := by
  apply BitVec.eq_of_getLsbD_eq
  intro i hi
  simp only [cmWord, BitVec.getLsbD_extractLsb', BitVec.getLsbD_append]
  grind

theorem cmWord_ty (op : Nat) (f : CM) : (cmWord op f).extractLsb' 52 4 = f.ty := by
  apply BitVec.eq_of_getLsbD_eq
  intro i hi
  simp only [cmWord, BitVec.getLsbD_extractLsb', BitVec.getLsbD_append]
  grind

theorem cmWord_d (op : Nat) (f : CM) : (cmWord op f).extractLsb' 46 6 = f.d := by
  apply BitVec.eq_of_getLsbD_eq
  intro i hi
  simp only [cmWord, BitVec.getLsbD_extractLsb', BitVec.getLsbD_append]
  grind

theorem cmWord_a (op : Nat) (f : CM) : (cmWord op f).extractLsb' 40 6 = f.a := by
  apply BitVec.eq_of_getLsbD_eq
  intro i hi
  simp only [cmWord, BitVec.getLsbD_extractLsb', BitVec.getLsbD_append]
  grind

theorem cmWord_b (op : Nat) (f : CM) : (cmWord op f).extractLsb' 34 6 = f.b := by
  apply BitVec.eq_of_getLsbD_eq
  intro i hi
  simp only [cmWord, BitVec.getLsbD_extractLsb', BitVec.getLsbD_append]
  grind

theorem cmWord_own (op : Nat) (f : CM) : (cmWord op f).extractLsb' 26 8 = f.own := by
  apply BitVec.eq_of_getLsbD_eq
  intro i hi
  simp only [cmWord, BitVec.getLsbD_extractLsb', BitVec.getLsbD_append]
  grind

theorem cmWord_pred (op : Nat) (f : CM) : (cmWord op f).extractLsb' 18 8 = f.pred := by
  apply BitVec.eq_of_getLsbD_eq
  intro i hi
  simp only [cmWord, BitVec.getLsbD_extractLsb', BitVec.getLsbD_append]
  grind

theorem cmWord_succ (op : Nat) (f : CM) : (cmWord op f).extractLsb' 10 8 = f.succ := by
  apply BitVec.eq_of_getLsbD_eq
  intro i hi
  simp only [cmWord, BitVec.getLsbD_extractLsb', BitVec.getLsbD_append]
  grind

theorem cmWord_ch (op : Nat) (f : CM) : (cmWord op f).extractLsb' 8 2 = f.ch := by
  apply BitVec.eq_of_getLsbD_eq
  intro i hi
  simp only [cmWord, BitVec.getLsbD_extractLsb', BitVec.getLsbD_append]
  grind

theorem cmWord_gp (op : Nat) (f : CM) : (cmWord op f).extractLsb' 4 4 = f.gp := by
  apply BitVec.eq_of_getLsbD_eq
  intro i hi
  simp only [cmWord, BitVec.getLsbD_extractLsb', BitVec.getLsbD_append]
  grind

theorem cmWord_sc (op : Nat) (f : CM) : (cmWord op f).extractLsb' 0 4 = f.sc := by
  apply BitVec.eq_of_getLsbD_eq
  intro i hi
  simp only [cmWord, BitVec.getLsbD_extractLsb', BitVec.getLsbD_append]
  grind

/-- The fields of a word of this format. -/
theorem cmFields_word (op : Nat) (f : CM) : cmFields (cmWord op f) = f := by
  simp only [cmFields, cmWord_ty, cmWord_d, cmWord_a, cmWord_b, cmWord_own, cmWord_pred, cmWord_succ, cmWord_ch, cmWord_gp, cmWord_sc]

theorem skidWord_op (op : Nat) (f : Skid) : (skidWord op f).extractLsb' 120 8 = BitVec.ofNat 8 op := by
  apply BitVec.eq_of_getLsbD_eq
  intro i hi
  simp only [skidWord, BitVec.getLsbD_extractLsb', BitVec.getLsbD_append]
  grind

theorem skidWord_eng (op : Nat) (f : Skid) : (skidWord op f).extractLsb' 112 8 = f.eng := by
  apply BitVec.eq_of_getLsbD_eq
  intro i hi
  simp only [skidWord, BitVec.getLsbD_extractLsb', BitVec.getLsbD_append]
  grind

theorem skidWord_stid (op : Nat) (f : Skid) : (skidWord op f).extractLsb' 96 16 = f.stid := by
  apply BitVec.eq_of_getLsbD_eq
  intro i hi
  simp only [skidWord, BitVec.getLsbD_extractLsb', BitVec.getLsbD_append]
  grind

theorem skidWord_dtid (op : Nat) (f : Skid) : (skidWord op f).extractLsb' 80 16 = f.dtid := by
  apply BitVec.eq_of_getLsbD_eq
  intro i hi
  simp only [skidWord, BitVec.getLsbD_extractLsb', BitVec.getLsbD_append]
  grind

theorem skidWord_l2op (op : Nat) (f : Skid) : (skidWord op f).extractLsb' 77 3 = f.l2op := by
  apply BitVec.eq_of_getLsbD_eq
  intro i hi
  simp only [skidWord, BitVec.getLsbD_extractLsb', BitVec.getLsbD_append]
  grind

theorem skidWord_fe (op : Nat) (f : Skid) : (skidWord op f).extractLsb' 76 1 = f.fe := by
  apply BitVec.eq_of_getLsbD_eq
  intro i hi
  simp only [skidWord, BitVec.getLsbD_extractLsb', BitVec.getLsbD_append]
  grind

theorem skidWord_pub (op : Nat) (f : Skid) : (skidWord op f).extractLsb' 75 1 = f.pub := by
  apply BitVec.eq_of_getLsbD_eq
  intro i hi
  simp only [skidWord, BitVec.getLsbD_extractLsb', BitVec.getLsbD_append]
  grind

theorem skidWord_scope (op : Nat) (f : Skid) : (skidWord op f).extractLsb' 72 3 = f.scope := by
  apply BitVec.eq_of_getLsbD_eq
  intro i hi
  simp only [skidWord, BitVec.getLsbD_extractLsb', BitVec.getLsbD_append]
  grind

theorem skidWord_route (op : Nat) (f : Skid) : (skidWord op f).extractLsb' 64 8 = f.route := by
  apply BitVec.eq_of_getLsbD_eq
  intro i hi
  simp only [skidWord, BitVec.getLsbD_extractLsb', BitVec.getLsbD_append]
  grind

theorem skidWord_t0 (op : Nat) (f : Skid) : (skidWord op f).extractLsb' 48 16 = f.t0 := by
  apply BitVec.eq_of_getLsbD_eq
  intro i hi
  simp only [skidWord, BitVec.getLsbD_extractLsb', BitVec.getLsbD_append]
  grind

theorem skidWord_t1 (op : Nat) (f : Skid) : (skidWord op f).extractLsb' 32 16 = f.t1 := by
  apply BitVec.eq_of_getLsbD_eq
  intro i hi
  simp only [skidWord, BitVec.getLsbD_extractLsb', BitVec.getLsbD_append]
  grind

theorem skidWord_t2 (op : Nat) (f : Skid) : (skidWord op f).extractLsb' 16 16 = f.t2 := by
  apply BitVec.eq_of_getLsbD_eq
  intro i hi
  simp only [skidWord, BitVec.getLsbD_extractLsb', BitVec.getLsbD_append]
  grind

theorem skidWord_t3 (op : Nat) (f : Skid) : (skidWord op f).extractLsb' 0 16 = f.t3 := by
  apply BitVec.eq_of_getLsbD_eq
  intro i hi
  simp only [skidWord, BitVec.getLsbD_extractLsb', BitVec.getLsbD_append]
  grind

/-- The fields of a word of this format. -/
theorem skidFields_word (op : Nat) (f : Skid) : skidFields (skidWord op f) = f := by
  simp only [skidFields, skidWord_eng, skidWord_stid, skidWord_dtid, skidWord_l2op, skidWord_fe, skidWord_pub, skidWord_scope, skidWord_route, skidWord_t0, skidWord_t1, skidWord_t2, skidWord_t3]

/-! ## Words to instructions -/

theorem op6 {op : Nat} (h : op < 64) : (BitVec.ofNat 6 op).toNat = op := by simp; omega
theorem fn5 {fn : Nat} (h : fn < 32) : (BitVec.ofNat 5 fn).toNat = fn := by simp; omega
theorem op8 {op : Nat} (h : op < 256) : (BitVec.ofNat 8 op).toNat = op := by simp; omega

/-- An SR word holds the instruction of its opcode and function. -/
theorem parseSeq_srWord {op fn : Nat} (f : SR) (hl : seqLayout op = .sr) (h : op < 64) (hf : fn < 32) :
    parseSeq (srWord op fn f) = srInstr op fn f := by
  simp only [parseSeq, srWord_op, srWord_fn, srFields_word, op6 h, fn5 hf, hl]

/-- An SI word holds the instruction of its opcode. -/
theorem parseSeq_siWord {op : Nat} (f : SI) (hl : seqLayout op = .si) (h : op < 64) : parseSeq (siWord op f) = siInstr op f := by
  simp only [parseSeq, siWord_op, siFields_word, op6 h, hl]

/-- An SB word holds the instruction of its opcode. -/
theorem parseSeq_sbWord {op : Nat} (f : SB) (hl : seqLayout op = .sb) (h : op < 64) : parseSeq (sbWord op f) = sbInstr op f := by
  simp only [parseSeq, sbWord_op, sbFields_word, op6 h, hl]

/-- An SJ word holds the instruction of its opcode. -/
theorem parseSeq_sjWord {op : Nat} (x : BitVec 26) (hl : seqLayout op = .sj) (h : op < 64) : parseSeq (sjWord op x) = sjInstr op x := by
  simp only [parseSeq, sjWord_op, sjWord_disp, op6 h, hl]

/-- An SL word holds a prefix. -/
theorem parseSeq_slWord (x : BitVec 26) : parseSeq (sjWord 0x3F x) = some (.slLimm x) := by
  simp only [parseSeq, sjWord_op, sjWord_disp, op6 (show 0x3F < 64 by decide), seqLayout]

/-- An SX word holds the instruction of its opcode and function. -/
theorem parseSeq_sxWord {op fn : Nat} (f : SX) (hl : seqLayout op = .sx) (h : op < 64) (hf : fn < 256) :
    parseSeq (sxWord op fn f) = sxInstr op fn f := by
  simp only [parseSeq, sxWord_op, sxWord_fn, sxFields_word, op6 h, op8 hf, hl]

/-- A CG word holds the instruction of its opcode. -/
theorem parseCell_cgWord {op : Nat} (f : CG) (h : op < 256) (hm : op / 16 ≠ 6) : parseCell (cgWord op f) = cgInstr op f := by
  simp only [parseCell, cgWord_op, cgFields_word, op8 h, hm, if_false]

/-- A CM word holds the instruction of its opcode. -/
theorem parseCell_cmWord {op : Nat} (f : CM) (h : op < 256) (hm : op / 16 = 6) : parseCell (cmWord op f) = cmInstr op f := by
  simp only [parseCell, cmWord_op, cmFields_word, op8 h, hm, if_true]

/-- A skid command holds the instruction of its opcode. -/
theorem decodeSkid_skidWord {op : Nat} (f : Skid) (h : op < 256) : decodeSkid (skidWord op f) = skidInstr op f := by
  simp only [decodeSkid, skidWord_op, skidFields_word, op8 h]

/-- A sequencer word whose instruction is well formed decodes to it. -/
theorem decode_seq {w : W32} {i : Instr} (hp : parseSeq w = some i) (hw : i.wf = true) : decode (.seq w) = some i := by
  simp [decode, decodeSeq, hp, hw, Except.toOption]

/-- A cell word whose instruction passes R162 decodes to it. -/
theorem decode_cell {w : W64} {i : Instr} (hp : parseCell w = some i) (hw : cellCheck i = none) : decode (.cell w) = some i := by
  simp [decode, decodeCell, hp, hw, Except.toOption]

end Sys2Proof.Laws
end

