-- ==== Sys2Proof/Laws/Mem.lean ====
section
/-! SUPPORT. Memory: reading after a write, what a write leaves alone, and that every memory operation keeps the canonical
form (R32, R334). -/

namespace Sys2Proof.Machine

/-! ## Bytes of a list of cells -/

@[simp] theorem cellsWrite_read (a : Nat) (x : Byte) (l : List Host.Cell) (h : cellsWf l = true) :
    cellsRead a (cellsWrite a x l) = x := by
  induction l with
  | nil => by_cases hx : x = Memory.unlisted <;> simp [cellsWrite, cellsRead, hx]
  | cons c r ih =>
    obtain ⟨b, v⟩ := c
    have hr : cellsWf r = true := by
      cases r with
      | nil => rfl
      | cons d r' => simp [cellsWf] at h; exact h.2
    have above : ∀ (l : List Host.Cell) (b : Nat) (v : Byte), cellsWf ((b, v) :: l) = true → a ≤ b →
        cellsRead a l = Memory.unlisted := by
      intro l
      induction l with
      | nil => intros; rfl
      | cons d r' ihr =>
        obtain ⟨e, u⟩ := d
        intro b v hw hb
        simp [cellsWf] at hw
        have : e ≠ a := by omega
        simp only [cellsRead, this, if_false]
        exact ihr e u hw.2 (by omega)
    simp only [cellsWrite]
    split
    · next hab =>
      split
      · next hx =>
        have hne : b ≠ a := by omega
        simp only [cellsRead, hne, if_false, above r b v h (by omega), hx]
      · simp [cellsRead]
    · split
      · next hab heq =>
        subst heq
        split
        · next hx => rw [above r a v h (Nat.le_refl _), hx]
        · simp [cellsRead]
      · next hab hne =>
        simp only [cellsRead, Ne.symm hne, if_false]
        exact ih hr

theorem cellsWrite_read_ne (a b : Nat) (x : Byte) (h : b ≠ a) (l : List Host.Cell) :
    cellsRead b (cellsWrite a x l) = cellsRead b l := by
  induction l with
  | nil => by_cases hx : x = Memory.unlisted <;> simp [cellsWrite, cellsRead, hx, Ne.symm h]
  | cons c r ih =>
    obtain ⟨e, v⟩ := c
    simp only [cellsWrite]
    split
    · split
      · rfl
      · simp [cellsRead, Ne.symm h]
    · split
      · next heq =>
        subst heq
        split <;> simp [cellsRead, Ne.symm h]
      · simp only [cellsRead, ih]

/-- The first address of a list is above a bound. -/
def cellsAbove (a : Nat) : List Host.Cell → Bool
  | [] => true
  | (b, _) :: _ => a < b

theorem cellsWf_cons (a : Nat) (v : Byte) (l : List Host.Cell) :
    cellsWf ((a, v) :: l) = (v != Memory.unlisted && cellsAbove a l && cellsWf l) := by
  cases l with
  | nil => simp [cellsWf, cellsAbove]
  | cons c r => obtain ⟨b, w⟩ := c; simp [cellsWf, cellsAbove]

theorem cellsAbove_trans (a b : Nat) (l : List Host.Cell) (h : a < b) (hl : cellsAbove b l = true) : cellsAbove a l = true := by
  cases l with
  | nil => rfl
  | cons c r => obtain ⟨e, w⟩ := c; simp [cellsAbove] at *; omega

theorem cellsWrite_above (a b : Nat) (x : Byte) (l : List Host.Cell) (hw : cellsWf l = true) (h : b < a)
    (hl : cellsAbove b l = true) : cellsAbove b (cellsWrite a x l) = true := by
  cases l with
  | nil => by_cases hx : x = Memory.unlisted <;> simp [cellsWrite, hx, cellsAbove, h]
  | cons c r =>
    obtain ⟨e, v⟩ := c
    have hbe : b < e := by simpa [cellsAbove] using hl
    rw [cellsWf_cons] at hw
    simp at hw
    simp only [cellsWrite]
    split
    · split <;> simp [cellsAbove, h, hbe]
    · split
      · split
        · exact cellsAbove_trans b e r hbe hw.1.2
        · simp [cellsAbove, h]
      · simp [cellsAbove, hbe]

/-- A write keeps the canonical form. -/
theorem cellsWrite_wf (a : Nat) (x : Byte) (l : List Host.Cell) (h : cellsWf l = true) : cellsWf (cellsWrite a x l) = true := by
  induction l with
  | nil => by_cases hx : x = Memory.unlisted <;> simp [cellsWrite, hx, cellsWf]
  | cons c r ih =>
    obtain ⟨b, v⟩ := c
    have h0 := h
    rw [cellsWf_cons] at h
    simp at h
    obtain ⟨⟨hv, hab⟩, hr⟩ := h
    simp only [cellsWrite]
    split
    · next hlt =>
      split
      · exact h0
      · next hx => rw [cellsWf_cons]; simp [hx, cellsAbove, hlt, h0]
    · split
      · next heq =>
        subst heq
        split
        · exact hr
        · next hx => rw [cellsWf_cons]; simp [hx, hab, hr]
      · next hge hne =>
        rw [cellsWf_cons]
        simp only [ih hr, Bool.and_true, Bool.and_eq_true, bne_iff_ne, ne_eq]
        exact ⟨hv, cellsWrite_above a b x r hr (by omega) hab⟩

/-! ## Rising lists of numbers -/

theorem risingNat_iff (l : List Nat) : risingNat l = true ↔ l.Pairwise (· < ·) := by
  induction l with
  | nil => simp [risingNat]
  | cons a r ih =>
    cases r with
    | nil => simp [risingNat]
    | cons b r' =>
      simp only [risingNat, Bool.and_eq_true, decide_eq_true_eq, ih, List.pairwise_cons, List.mem_cons, forall_eq_or_imp]
      constructor
      · rintro ⟨h, hb, hr⟩
        exact ⟨⟨h, fun x hx => Nat.lt_trans h (hb x hx)⟩, hb, hr⟩
      · rintro ⟨⟨h, _⟩, hb, hr⟩
        exact ⟨h, hb, hr⟩

theorem mem_insertNat (k x : Nat) (l : List Nat) : x ∈ insertNat k l ↔ x = k ∨ x ∈ l := by
  induction l with
  | nil => simp [insertNat]
  | cons j r ih => grind [insertNat]

theorem insertNat_rising (k : Nat) (l : List Nat) (h : risingNat l = true) : risingNat (insertNat k l) = true := by
  rw [risingNat_iff] at *
  induction l with
  | nil => simp [insertNat]
  | cons j r ih =>
    rw [List.pairwise_cons] at h
    simp only [insertNat]
    split
    · next hlt => exact List.pairwise_cons.2 ⟨fun x hx => by
        rcases List.mem_cons.1 hx with rfl | hx
        · exact hlt
        · exact Nat.lt_trans hlt (h.1 x hx), List.pairwise_cons.2 h⟩
    · split
      · exact List.pairwise_cons.2 h
      · refine List.pairwise_cons.2 ⟨fun x hx => ?_, ih h.2⟩
        rcases (mem_insertNat k x r).1 hx with rfl | hx
        · omega
        · exact h.1 x hx

theorem mem_removeNat (k x : Nat) (l : List Nat) : x ∈ removeNat k l → x ∈ l := by
  induction l with
  | nil => simp [removeNat]
  | cons j r ih => grind [removeNat]

theorem removeNat_rising (k : Nat) (l : List Nat) (h : risingNat l = true) : risingNat (removeNat k l) = true := by
  rw [risingNat_iff] at *
  induction l with
  | nil => simp [removeNat]
  | cons j r ih =>
    rw [List.pairwise_cons] at h
    simp only [removeNat]
    split
    · exact ih h.2
    · exact List.pairwise_cons.2 ⟨fun x hx => h.1 x (mem_removeNat k x r hx), ih h.2⟩

theorem flagNat_rising (k : Nat) (on : Bool) (l : List Nat) (h : risingNat l = true) : risingNat (flagNat k on l) = true := by
  unfold flagNat
  split
  · exact insertNat_rising k l h
  · exact removeNat_rising k l h

theorem filter_rising (p : Nat → Bool) (l : List Nat) (h : risingNat l = true) : risingNat (l.filter p) = true := by
  rw [risingNat_iff] at *
  exact h.filter p

theorem filter_cellsAbove (p : Host.Cell → Bool) (a : Nat) (l : List Host.Cell) (hw : cellsWf l = true) (h : cellsAbove a l = true) :
    cellsAbove a (l.filter p) = true := by
  induction l with
  | nil => rfl
  | cons c r ih =>
    obtain ⟨b, v⟩ := c
    rw [cellsWf_cons] at hw
    simp at hw
    rw [List.filter_cons]
    split
    · exact h
    · exact ih hw.2 (cellsAbove_trans a b r (by simpa [cellsAbove] using h) hw.1.2)

theorem filter_cellsWf (p : Host.Cell → Bool) (l : List Host.Cell) (h : cellsWf l = true) : cellsWf (l.filter p) = true := by
  induction l with
  | nil => rfl
  | cons c r ih =>
    obtain ⟨b, v⟩ := c
    rw [cellsWf_cons] at h
    simp at h
    rw [List.filter_cons]
    split
    · rw [cellsWf_cons]; simp [h.1.1, ih h.2, filter_cellsAbove p b r h.2 h.1.2]
    · exact ih h.2

/-! ## Memory -/

theorem Memory.empty_wf : Memory.empty.wf = true := by rfl

/-- A byte reads back as it was written. -/
@[simp] theorem Memory.setByte_byte (m : Memory) (a : Nat) (x : Byte) (h : m.wf = true) : (m.setByte a x).byte a = x := by
  simp only [Memory.wf, Bool.and_eq_true] at h
  exact cellsWrite_read a x m.bytes h.1

/-- Writing a byte leaves the others alone. -/
theorem Memory.setByte_byte_ne (m : Memory) (a b : Nat) (x : Byte) (h : b ≠ a) : (m.setByte a x).byte b = m.byte b :=
  cellsWrite_read_ne a b x h m.bytes

@[simp] theorem Memory.setByte_poison (m : Memory) (a : Nat) (x : Byte) : (m.setByte a x).poison = m.poison := rfl

theorem Memory.setByte_wf (m : Memory) (a : Nat) (x : Byte) (h : m.wf = true) : (m.setByte a x).wf = true := by
  simp only [Memory.wf, Bool.and_eq_true] at *
  exact ⟨cellsWrite_wf a x m.bytes h.1, h.2⟩

theorem Memory.setBytes_wf (m : Memory) (a : Nat) (bs : List Byte) (h : m.wf = true) : (m.setBytes a bs).wf = true := by
  induction bs generalizing m a with
  | nil => exact h
  | cons x xs ih => exact ih (m.setByte a x) (a + 1) (m.setByte_wf a x h)

@[simp] theorem Memory.setBytes_poison (m : Memory) (a : Nat) (bs : List Byte) : (m.setBytes a bs).poison = m.poison := by
  induction bs generalizing m a with
  | nil => rfl
  | cons x xs ih => simp only [Memory.setBytes, ih, Memory.setByte_poison]

/-- Writing bytes leaves every other address alone. -/
theorem Memory.setBytes_byte_ne (m : Memory) (a b : Nat) (bs : List Byte) (h : b < a ∨ a + bs.length ≤ b) :
    (m.setBytes a bs).byte b = m.byte b := by
  induction bs generalizing m a with
  | nil => rfl
  | cons x xs ih =>
    simp only [List.length_cons] at h
    simp only [Memory.setBytes]
    rw [ih (m.setByte a x) (a + 1) (by omega), Memory.setByte_byte_ne m a b x (by omega)]

/-- Bytes read back as they were written. -/
theorem Memory.setBytes_byte (m : Memory) (a k : Nat) (bs : List Byte) (h : m.wf = true) (hk : k < bs.length) :
    (m.setBytes a bs).byte (a + k) = bs[k] := by
  induction bs generalizing m a k with
  | nil => simp at hk
  | cons x xs ih =>
    simp only [Memory.setBytes]
    cases k with
    | zero =>
      show ((m.setByte a x).setBytes (a + 1) xs).byte a = x
      rw [Memory.setBytes_byte_ne _ (a + 1) a xs (by omega), Memory.setByte_byte m a x h]
    | succ k =>
      have := ih (m.setByte a x) (a + 1) k (m.setByte_wf a x h) (by simpa using hk)
      rw [show a + (k + 1) = a + 1 + k by omega, this]
      rfl

theorem Memory.setPoison_wf (m : Memory) (w : Nat) (p : Bool) (h : m.wf = true) : (m.setPoison w p).wf = true := by
  simp only [Memory.wf, Memory.setPoison, Bool.and_eq_true] at *
  exact ⟨h.1, flagNat_rising w p m.poison h.2⟩

@[simp] theorem Memory.setPoison_byte (m : Memory) (w a : Nat) (p : Bool) : (m.setPoison w p).byte a = m.byte a := rfl

/-- A fold of operations that keep the canonical form keeps it. -/
theorem foldl_wf {α : Type} (f : Memory → α → Memory) (l : List α) (m : Memory) (h : m.wf = true)
    (hf : ∀ m x, m.wf = true → (f m x).wf = true) : (l.foldl f m).wf = true := by
  induction l generalizing m with
  | nil => exact h
  | cons x xs ih => exact ih (f m x) (hf m x h)

theorem Memory.markWords_wf (m : Memory) (a n : Nat) (p : Bool) (ws : List Nat) (h : m.wf = true) :
    (m.markWords a n p ws).wf = true := foldl_wf _ ws m h fun x w hx => x.setPoison_wf w _ hx

@[simp] theorem Memory.markWords_byte (m : Memory) (a n b : Nat) (p : Bool) (ws : List Nat) :
    (m.markWords a n p ws).byte b = m.byte b := by
  unfold Memory.markWords
  suffices h : ∀ (g : Nat → Bool) (x : Memory), x.byte b = m.byte b →
      (ws.foldl (fun acc w => acc.setPoison w (g w)) x).byte b = m.byte b from
    h (fun w => storePoison m a n w p) m rfl
  induction ws with
  | nil => intro g x hx; exact hx
  | cons w r ih => intro g x hx; exact ih g (x.setPoison w (g w)) hx

theorem Memory.store_wf (m : Memory) (a : Nat) (bs : List Byte) (p : Bool) (h : m.wf = true) : (m.store a bs p).wf = true :=
  (m.setBytes a bs).markWords_wf a bs.length p _ (m.setBytes_wf a bs h)

/-- A store leaves every other byte alone. -/
theorem Memory.store_byte_ne (m : Memory) (a b : Nat) (bs : List Byte) (p : Bool) (h : b < a ∨ a + bs.length ≤ b) :
    (m.store a bs p).byte b = m.byte b := by
  simp [Memory.store, Memory.setBytes_byte_ne m a b bs h]

/-- Stored bytes read back. -/
theorem Memory.store_byte (m : Memory) (a k : Nat) (bs : List Byte) (p : Bool) (h : m.wf = true) (hk : k < bs.length) :
    (m.store a bs p).byte (a + k) = bs[k] := by
  simp [Memory.store, Memory.setBytes_byte m a k bs h hk]

theorem Memory.applyEl_wf (m : Memory) (code : Nat) (ty : BitVec 4) (el : Nat × W32 × Bool) (h : m.wf = true) :
    (m.applyEl code ty el).wf = true := Memory.setPoison_wf _ _ _ (m.setBytes_wf _ _ h)

theorem Memory.applyOp_wf (m : Memory) (o : SegOp) (h : m.wf = true) : (m.applyOp o).wf = true := by
  cases o with
  | write pa bs p => exact m.store_wf pa bs p h
  | op code ty els => exact foldl_wf _ els m h fun x e hx => x.applyEl_wf code ty e hx
  | away => exact h
  | clear w => exact m.setPoison_wf w false h

theorem Memory.applySeg_wf (m : Memory) (l : List SegEnt) (h : m.wf = true) : (m.applySeg l).wf = true :=
  foldl_wf _ l m h fun x e hx => x.applyOp_wf e.op hx

theorem standView_wf (m : Memory) (seg : List SegEnt) (h : m.wf = true) : (standView m seg).wf = true :=
  Memory.applySeg_wf _ _ h

theorem storePieces_wf (l : List (Nat × Nat)) (bs : List Byte) (m : Memory) (h : m.wf = true) : (storePieces l bs m).wf = true := by
  induction l generalizing bs m with
  | nil => exact h
  | cons x r ih => obtain ⟨pa, n⟩ := x; exact ih _ _ (m.store_wf pa _ false h)

theorem putRegion_wf (m : Memory) (base : Nat) (r : Memory) (h : m.wf = true) : (putRegion m base r).wf = true := by
  have h1 : Memory.wf ⟨m.bytes.filter fun c => !(base ≤ c.1 && c.1 < base + 65536),
      m.poison.filter fun w => !(base / 4 ≤ w && w < base / 4 + 16384)⟩ = true := by
    simp only [Memory.wf, Bool.and_eq_true] at *
    exact ⟨filter_cellsWf _ _ h.1, filter_rising _ _ h.2⟩
  exact foldl_wf _ _ _ (foldl_wf _ _ _ h1 fun x c hx => x.setByte_wf _ _ hx) fun x w hx => x.setPoison_wf _ true hx

theorem Memory.cutDevice_wf (m : Memory) (top : Nat) (h : m.wf = true) : (m.cutDevice top).wf = true := by
  simp only [Memory.wf, Memory.cutDevice, Bool.and_eq_true] at *
  exact ⟨filter_cellsWf _ _ h.1, filter_rising _ _ h.2⟩

end Sys2Proof.Machine
end

