-- ==== Sys2Proof/Laws/PerInstr.lean ====
section
/-! SUPPORT. Decoding gives back what was encoded (R145, R153, R164), instruction by instruction; an event has no word. -/

namespace Sys2Proof.Laws.Coding

/-- The word of a well-formed instruction decodes to it. -/
def Statement (i : Instr) : Prop := ∀ w, encode i = some w → i.wf = true → decode w = some i

theorem srAluAdd : ∀ f, Statement (.srAluAdd f) := by
  intro f w h hw; cases h; exact decode_seq ((parseSeq_srWord f rfl (by decide) (by decide)).trans rfl) hw

theorem srAluSub : ∀ f, Statement (.srAluSub f) := by
  intro f w h hw; cases h; exact decode_seq ((parseSeq_srWord f rfl (by decide) (by decide)).trans rfl) hw

theorem srAluMul : ∀ f, Statement (.srAluMul f) := by
  intro f w h hw; cases h; exact decode_seq ((parseSeq_srWord f rfl (by decide) (by decide)).trans rfl) hw

theorem srAluMulh : ∀ f, Statement (.srAluMulh f) := by
  intro f w h hw; cases h; exact decode_seq ((parseSeq_srWord f rfl (by decide) (by decide)).trans rfl) hw

theorem srAluDiv : ∀ f, Statement (.srAluDiv f) := by
  intro f w h hw; cases h; exact decode_seq ((parseSeq_srWord f rfl (by decide) (by decide)).trans rfl) hw

theorem srAluDivn : ∀ f, Statement (.srAluDivn f) := by
  intro f w h hw; cases h; exact decode_seq ((parseSeq_srWord f rfl (by decide) (by decide)).trans rfl) hw

theorem srAluRem : ∀ f, Statement (.srAluRem f) := by
  intro f w h hw; cases h; exact decode_seq ((parseSeq_srWord f rfl (by decide) (by decide)).trans rfl) hw

theorem srAluRemn : ∀ f, Statement (.srAluRemn f) := by
  intro f w h hw; cases h; exact decode_seq ((parseSeq_srWord f rfl (by decide) (by decide)).trans rfl) hw

theorem srAluAnd : ∀ f, Statement (.srAluAnd f) := by
  intro f w h hw; cases h; exact decode_seq ((parseSeq_srWord f rfl (by decide) (by decide)).trans rfl) hw

theorem srAluOr : ∀ f, Statement (.srAluOr f) := by
  intro f w h hw; cases h; exact decode_seq ((parseSeq_srWord f rfl (by decide) (by decide)).trans rfl) hw

theorem srAluXor : ∀ f, Statement (.srAluXor f) := by
  intro f w h hw; cases h; exact decode_seq ((parseSeq_srWord f rfl (by decide) (by decide)).trans rfl) hw

theorem srAluAndn : ∀ f, Statement (.srAluAndn f) := by
  intro f w h hw; cases h; exact decode_seq ((parseSeq_srWord f rfl (by decide) (by decide)).trans rfl) hw

theorem srAluShl : ∀ f, Statement (.srAluShl f) := by
  intro f w h hw; cases h; exact decode_seq ((parseSeq_srWord f rfl (by decide) (by decide)).trans rfl) hw

theorem srAluShr : ∀ f, Statement (.srAluShr f) := by
  intro f w h hw; cases h; exact decode_seq ((parseSeq_srWord f rfl (by decide) (by decide)).trans rfl) hw

theorem srAluSra : ∀ f, Statement (.srAluSra f) := by
  intro f w h hw; cases h; exact decode_seq ((parseSeq_srWord f rfl (by decide) (by decide)).trans rfl) hw

theorem srAluMin : ∀ f, Statement (.srAluMin f) := by
  intro f w h hw; cases h; exact decode_seq ((parseSeq_srWord f rfl (by decide) (by decide)).trans rfl) hw

theorem srAluMax : ∀ f, Statement (.srAluMax f) := by
  intro f w h hw; cases h; exact decode_seq ((parseSeq_srWord f rfl (by decide) (by decide)).trans rfl) hw

theorem srAluMinn : ∀ f, Statement (.srAluMinn f) := by
  intro f w h hw; cases h; exact decode_seq ((parseSeq_srWord f rfl (by decide) (by decide)).trans rfl) hw

theorem srAluMaxn : ∀ f, Statement (.srAluMaxn f) := by
  intro f w h hw; cases h; exact decode_seq ((parseSeq_srWord f rfl (by decide) (by decide)).trans rfl) hw

theorem srAluClz : ∀ f, Statement (.srAluClz f) := by
  intro f w h hw; cases h; exact decode_seq ((parseSeq_srWord f rfl (by decide) (by decide)).trans rfl) hw

theorem srAluPopc : ∀ f, Statement (.srAluPopc f) := by
  intro f w h hw; cases h; exact decode_seq ((parseSeq_srWord f rfl (by decide) (by decide)).trans rfl) hw

theorem srAluSel : ∀ f, Statement (.srAluSel f) := by
  intro f w h hw; cases h; exact decode_seq ((parseSeq_srWord f rfl (by decide) (by decide)).trans rfl) hw

theorem sqCmpEq : ∀ f, Statement (.sqCmpEq f) := by
  intro f w h hw; cases h; exact decode_seq ((parseSeq_srWord f rfl (by decide) (by decide)).trans rfl) hw

theorem sqCmpNe : ∀ f, Statement (.sqCmpNe f) := by
  intro f w h hw; cases h; exact decode_seq ((parseSeq_srWord f rfl (by decide) (by decide)).trans rfl) hw

theorem sqCmpLt : ∀ f, Statement (.sqCmpLt f) := by
  intro f w h hw; cases h; exact decode_seq ((parseSeq_srWord f rfl (by decide) (by decide)).trans rfl) hw

theorem sqCmpLe : ∀ f, Statement (.sqCmpLe f) := by
  intro f w h hw; cases h; exact decode_seq ((parseSeq_srWord f rfl (by decide) (by decide)).trans rfl) hw

theorem sqCmpLtn : ∀ f, Statement (.sqCmpLtn f) := by
  intro f w h hw; cases h; exact decode_seq ((parseSeq_srWord f rfl (by decide) (by decide)).trans rfl) hw

theorem sqCmpLen : ∀ f, Statement (.sqCmpLen f) := by
  intro f w h hw; cases h; exact decode_seq ((parseSeq_srWord f rfl (by decide) (by decide)).trans rfl) hw

theorem sqCmpQand : ∀ f, Statement (.sqCmpQand f) := by
  intro f w h hw; cases h; exact decode_seq ((parseSeq_srWord f rfl (by decide) (by decide)).trans rfl) hw

theorem sqCmpQor : ∀ f, Statement (.sqCmpQor f) := by
  intro f w h hw; cases h; exact decode_seq ((parseSeq_srWord f rfl (by decide) (by decide)).trans rfl) hw

theorem sqCmpQnot : ∀ f, Statement (.sqCmpQnot f) := by
  intro f w h hw; cases h; exact decode_seq ((parseSeq_srWord f rfl (by decide) (by decide)).trans rfl) hw

theorem siAddi : ∀ f, Statement (.siAddi f) := by
  intro f w h hw; cases h; exact decode_seq ((parseSeq_siWord f rfl (by decide)).trans rfl) hw

theorem siAndi : ∀ f, Statement (.siAndi f) := by
  intro f w h hw; cases h; exact decode_seq ((parseSeq_siWord f rfl (by decide)).trans rfl) hw

theorem siOri : ∀ f, Statement (.siOri f) := by
  intro f w h hw; cases h; exact decode_seq ((parseSeq_siWord f rfl (by decide)).trans rfl) hw

theorem siXori : ∀ f, Statement (.siXori f) := by
  intro f w h hw; cases h; exact decode_seq ((parseSeq_siWord f rfl (by decide)).trans rfl) hw

theorem siShli : ∀ f, Statement (.siShli f) := by
  intro f w h hw; cases h; exact decode_seq ((parseSeq_siWord f rfl (by decide)).trans rfl) hw

theorem siShri : ∀ f, Statement (.siShri f) := by
  intro f w h hw; cases h; exact decode_seq ((parseSeq_siWord f rfl (by decide)).trans rfl) hw

theorem siSrai : ∀ f, Statement (.siSrai f) := by
  intro f w h hw; cases h; exact decode_seq ((parseSeq_siWord f rfl (by decide)).trans rfl) hw

theorem siCmpi : ∀ f, Statement (.siCmpi f) := by
  intro f w h hw; cases h; exact decode_seq ((parseSeq_siWord f rfl (by decide)).trans rfl) hw

theorem siMovi : ∀ f, Statement (.siMovi f) := by
  intro f w h hw; cases h; exact decode_seq ((parseSeq_siWord f rfl (by decide)).trans rfl) hw

theorem siLdb : ∀ f, Statement (.siLdb f) := by
  intro f w h hw; cases h; exact decode_seq ((parseSeq_siWord f rfl (by decide)).trans rfl) hw

theorem siLdh : ∀ f, Statement (.siLdh f) := by
  intro f w h hw; cases h; exact decode_seq ((parseSeq_siWord f rfl (by decide)).trans rfl) hw

theorem siLdw : ∀ f, Statement (.siLdw f) := by
  intro f w h hw; cases h; exact decode_seq ((parseSeq_siWord f rfl (by decide)).trans rfl) hw

theorem siLdd : ∀ f, Statement (.siLdd f) := by
  intro f w h hw; cases h; exact decode_seq ((parseSeq_siWord f rfl (by decide)).trans rfl) hw

theorem siStb : ∀ f, Statement (.siStb f) := by
  intro f w h hw; cases h; exact decode_seq ((parseSeq_siWord f rfl (by decide)).trans rfl) hw

theorem siSth : ∀ f, Statement (.siSth f) := by
  intro f w h hw; cases h; exact decode_seq ((parseSeq_siWord f rfl (by decide)).trans rfl) hw

theorem siStw : ∀ f, Statement (.siStw f) := by
  intro f w h hw; cases h; exact decode_seq ((parseSeq_siWord f rfl (by decide)).trans rfl) hw

theorem siStd : ∀ f, Statement (.siStd f) := by
  intro f w h hw; cases h; exact decode_seq ((parseSeq_siWord f rfl (by decide)).trans rfl) hw

theorem saAmoAdd : ∀ f, Statement (.saAmoAdd f) := by
  intro f w h hw; cases h; exact decode_seq ((parseSeq_srWord f rfl (by decide) (by decide)).trans rfl) hw

theorem saAmoMin : ∀ f, Statement (.saAmoMin f) := by
  intro f w h hw; cases h; exact decode_seq ((parseSeq_srWord f rfl (by decide) (by decide)).trans rfl) hw

theorem saAmoMax : ∀ f, Statement (.saAmoMax f) := by
  intro f w h hw; cases h; exact decode_seq ((parseSeq_srWord f rfl (by decide) (by decide)).trans rfl) hw

theorem saAmoAnd : ∀ f, Statement (.saAmoAnd f) := by
  intro f w h hw; cases h; exact decode_seq ((parseSeq_srWord f rfl (by decide) (by decide)).trans rfl) hw

theorem saAmoOr : ∀ f, Statement (.saAmoOr f) := by
  intro f w h hw; cases h; exact decode_seq ((parseSeq_srWord f rfl (by decide) (by decide)).trans rfl) hw

theorem saAmoXchg : ∀ f, Statement (.saAmoXchg f) := by
  intro f w h hw; cases h; exact decode_seq ((parseSeq_srWord f rfl (by decide) (by decide)).trans rfl) hw

theorem saAmoCas : ∀ f, Statement (.saAmoCas f) := by
  intro f w h hw; cases h; exact decode_seq ((parseSeq_srWord f rfl (by decide) (by decide)).trans rfl) hw

theorem sbBr : ∀ f, Statement (.sbBr f) := by
  intro f w h hw; cases h; exact decode_seq ((parseSeq_sbWord f rfl (by decide)).trans rfl) hw

theorem sbBz : ∀ f, Statement (.sbBz f) := by
  intro f w h hw; cases h; exact decode_seq ((parseSeq_sbWord f rfl (by decide)).trans rfl) hw

theorem sjJmp : ∀ disp26, Statement (.sjJmp disp26) := by
  intro disp26 w h hw; cases h; exact decode_seq ((parseSeq_sjWord disp26 rfl (by decide)).trans rfl) hw

theorem sjCall : ∀ disp26, Statement (.sjCall disp26) := by
  intro disp26 w h hw; cases h; exact decode_seq ((parseSeq_sjWord disp26 rfl (by decide)).trans rfl) hw

theorem sxRet : ∀ f, Statement (.sxRet f) := by
  intro f w h hw; cases h; exact decode_seq ((parseSeq_sxWord f rfl (by decide) (by decide)).trans rfl) hw

theorem srJrJump : ∀ f, Statement (.srJrJump f) := by
  intro f w h hw; cases h; exact decode_seq ((parseSeq_srWord f rfl (by decide) (by decide)).trans rfl) hw

theorem srJrCall : ∀ f, Statement (.srJrCall f) := by
  intro f w h hw; cases h; exact decode_seq ((parseSeq_srWord f rfl (by decide) (by decide)).trans rfl) hw

theorem sbLoop : ∀ f, Statement (.sbLoop f) := by
  intro f w h hw; cases h; exact decode_seq ((parseSeq_sbWord f rfl (by decide)).trans rfl) hw

theorem sxLbrk : ∀ f, Statement (.sxLbrk f) := by
  intro f w h hw; cases h; exact decode_seq ((parseSeq_sxWord f rfl (by decide) (by decide)).trans rfl) hw

theorem srWaitQueue : ∀ f, Statement (.srWaitQueue f) := by
  intro f w h hw; cases h; exact decode_seq ((parseSeq_srWord f rfl (by decide) (by decide)).trans rfl) hw

theorem srWaitTimeline : ∀ f, Statement (.srWaitTimeline f) := by
  intro f w h hw; cases h; exact decode_seq ((parseSeq_srWord f rfl (by decide) (by decide)).trans rfl) hw

theorem srWaitTag : ∀ f, Statement (.srWaitTag f) := by
  intro f w h hw; cases h; exact decode_seq ((parseSeq_srWord f rfl (by decide) (by decide)).trans rfl) hw

theorem sxFence : ∀ f, Statement (.sxFence f) := by
  intro f w h hw; cases h; exact decode_seq ((parseSeq_sxWord f rfl (by decide) (by decide)).trans rfl) hw

theorem sxBar : ∀ f, Statement (.sxBar f) := by
  intro f w h hw; cases h; exact decode_seq ((parseSeq_sxWord f rfl (by decide) (by decide)).trans rfl) hw

theorem srTagp : ∀ f scope, Statement (.srTagp f scope) := by
  intro f scope w h hw
  cases h
  refine decode_seq ((parseSeq_srWord f rfl (by decide) (by omega)).trans ?_) hw
  have : scope.toNat < 8 := scope.isLt
  simp [srInstr, this]

theorem srTagq : ∀ f, Statement (.srTagq f) := by
  intro f w h hw; cases h; exact decode_seq ((parseSeq_srWord f rfl (by decide) (by decide)).trans rfl) hw

theorem srTagg : ∀ f, Statement (.srTagg f) := by
  intro f w h hw; cases h; exact decode_seq ((parseSeq_srWord f rfl (by decide) (by decide)).trans rfl) hw

theorem srTlrdR : ∀ f, Statement (.srTlrdR f) := by
  intro f w h hw; cases h; exact decode_seq ((parseSeq_srWord f rfl (by decide) (by decide)).trans rfl) hw

theorem srTlrdV : ∀ f, Statement (.srTlrdV f) := by
  intro f w h hw; cases h; exact decode_seq ((parseSeq_srWord f rfl (by decide) (by decide)).trans rfl) hw

theorem ssScmd : ∀ f, Statement (.ssScmd f) := by
  intro f w h hw; cases h; exact decode_seq ((parseSeq_srWord f rfl (by decide) (by decide)).trans rfl) hw

theorem ssLnch : ∀ f, Statement (.ssLnch f) := by
  intro f w h hw; cases h; exact decode_seq ((parseSeq_srWord f rfl (by decide) (by decide)).trans rfl) hw

theorem sxGrn : ∀ f, Statement (.sxGrn f) := by
  intro f w h hw; cases h; exact decode_seq ((parseSeq_sxWord f rfl (by decide) (by decide)).trans rfl) hw

theorem srRng : ∀ f, Statement (.srRng f) := by
  intro f w h hw; cases h; exact decode_seq ((parseSeq_srWord f rfl (by decide) (by decide)).trans rfl) hw

theorem sxSysCsrrd : ∀ f, Statement (.sxSysCsrrd f) := by
  intro f w h hw; cases h; exact decode_seq ((parseSeq_sxWord f rfl (by decide) (by decide)).trans rfl) hw

theorem sxSysCsrwr : ∀ f, Statement (.sxSysCsrwr f) := by
  intro f w h hw; cases h; exact decode_seq ((parseSeq_sxWord f rfl (by decide) (by decide)).trans rfl) hw

theorem sxSysTrap : ∀ f, Statement (.sxSysTrap f) := by
  intro f w h hw; cases h; exact decode_seq ((parseSeq_sxWord f rfl (by decide) (by decide)).trans rfl) hw

theorem sxSysEret : ∀ f, Statement (.sxSysEret f) := by
  intro f w h hw; cases h; exact decode_seq ((parseSeq_sxWord f rfl (by decide) (by decide)).trans rfl) hw

theorem sxSysHalt : ∀ f, Statement (.sxSysHalt f) := by
  intro f w h hw; cases h; exact decode_seq ((parseSeq_sxWord f rfl (by decide) (by decide)).trans rfl) hw

theorem sxSysYield : ∀ f, Statement (.sxSysYield f) := by
  intro f w h hw; cases h; exact decode_seq ((parseSeq_sxWord f rfl (by decide) (by decide)).trans rfl) hw

theorem sxWinSave : ∀ f, Statement (.sxWinSave f) := by
  intro f w h hw; cases h; exact decode_seq ((parseSeq_sxWord f rfl (by decide) (by decide)).trans rfl) hw

theorem sxWinRestore : ∀ f, Statement (.sxWinRestore f) := by
  intro f w h hw; cases h; exact decode_seq ((parseSeq_sxWord f rfl (by decide) (by decide)).trans rfl) hw

theorem sxWinFlush : ∀ f, Statement (.sxWinFlush f) := by
  intro f w h hw; cases h; exact decode_seq ((parseSeq_sxWord f rfl (by decide) (by decide)).trans rfl) hw

theorem sxCtxCond : ∀ f, Statement (.sxCtxCond f) := by
  intro f w h hw; cases h; exact decode_seq ((parseSeq_sxWord f rfl (by decide) (by decide)).trans rfl) hw

theorem sxCtxSwitch : ∀ f, Statement (.sxCtxSwitch f) := by
  intro f w h hw; cases h; exact decode_seq ((parseSeq_sxWord f rfl (by decide) (by decide)).trans rfl) hw

theorem slLimm : ∀ imm26, Statement (.slLimm imm26) := by
  intro imm26 w h hw; cases h; exact decode_seq (parseSeq_slWord imm26) hw

theorem cvAdd : ∀ f, Statement (.cvAdd f) := by
  intro f w h hw; cases h; exact decode_cell ((parseCell_cgWord f (by decide) (by decide)).trans rfl) (eq_of_beq hw)

theorem cvSub : ∀ f, Statement (.cvSub f) := by
  intro f w h hw; cases h; exact decode_cell ((parseCell_cgWord f (by decide) (by decide)).trans rfl) (eq_of_beq hw)

theorem cvMul : ∀ f, Statement (.cvMul f) := by
  intro f w h hw; cases h; exact decode_cell ((parseCell_cgWord f (by decide) (by decide)).trans rfl) (eq_of_beq hw)

theorem cvMulh : ∀ f, Statement (.cvMulh f) := by
  intro f w h hw; cases h; exact decode_cell ((parseCell_cgWord f (by decide) (by decide)).trans rfl) (eq_of_beq hw)

theorem cvMad : ∀ f, Statement (.cvMad f) := by
  intro f w h hw; cases h; exact decode_cell ((parseCell_cgWord f (by decide) (by decide)).trans rfl) (eq_of_beq hw)

theorem cvAdds : ∀ f, Statement (.cvAdds f) := by
  intro f w h hw; cases h; exact decode_cell ((parseCell_cgWord f (by decide) (by decide)).trans rfl) (eq_of_beq hw)

theorem cvSubs : ∀ f, Statement (.cvSubs f) := by
  intro f w h hw; cases h; exact decode_cell ((parseCell_cgWord f (by decide) (by decide)).trans rfl) (eq_of_beq hw)

theorem cvMin : ∀ f, Statement (.cvMin f) := by
  intro f w h hw; cases h; exact decode_cell ((parseCell_cgWord f (by decide) (by decide)).trans rfl) (eq_of_beq hw)

theorem cvMax : ∀ f, Statement (.cvMax f) := by
  intro f w h hw; cases h; exact decode_cell ((parseCell_cgWord f (by decide) (by decide)).trans rfl) (eq_of_beq hw)

theorem cvAbs : ∀ f, Statement (.cvAbs f) := by
  intro f w h hw; cases h; exact decode_cell ((parseCell_cgWord f (by decide) (by decide)).trans rfl) (eq_of_beq hw)

theorem cvNeg : ∀ f, Statement (.cvNeg f) := by
  intro f w h hw; cases h; exact decode_cell ((parseCell_cgWord f (by decide) (by decide)).trans rfl) (eq_of_beq hw)

theorem cvAnd : ∀ f, Statement (.cvAnd f) := by
  intro f w h hw; cases h; exact decode_cell ((parseCell_cgWord f (by decide) (by decide)).trans rfl) (eq_of_beq hw)

theorem cvOr : ∀ f, Statement (.cvOr f) := by
  intro f w h hw; cases h; exact decode_cell ((parseCell_cgWord f (by decide) (by decide)).trans rfl) (eq_of_beq hw)

theorem cvXor : ∀ f, Statement (.cvXor f) := by
  intro f w h hw; cases h; exact decode_cell ((parseCell_cgWord f (by decide) (by decide)).trans rfl) (eq_of_beq hw)

theorem cvAndn : ∀ f, Statement (.cvAndn f) := by
  intro f w h hw; cases h; exact decode_cell ((parseCell_cgWord f (by decide) (by decide)).trans rfl) (eq_of_beq hw)

theorem cvSel : ∀ f, Statement (.cvSel f) := by
  intro f w h hw; cases h; exact decode_cell ((parseCell_cgWord f (by decide) (by decide)).trans rfl) (eq_of_beq hw)

theorem cvShl : ∀ f, Statement (.cvShl f) := by
  intro f w h hw; cases h; exact decode_cell ((parseCell_cgWord f (by decide) (by decide)).trans rfl) (eq_of_beq hw)

theorem cvShr : ∀ f, Statement (.cvShr f) := by
  intro f w h hw; cases h; exact decode_cell ((parseCell_cgWord f (by decide) (by decide)).trans rfl) (eq_of_beq hw)

theorem cvSra : ∀ f, Statement (.cvSra f) := by
  intro f w h hw; cases h; exact decode_cell ((parseCell_cgWord f (by decide) (by decide)).trans rfl) (eq_of_beq hw)

theorem cvRot : ∀ f, Statement (.cvRot f) := by
  intro f w h hw; cases h; exact decode_cell ((parseCell_cgWord f (by decide) (by decide)).trans rfl) (eq_of_beq hw)

theorem cvClz : ∀ f, Statement (.cvClz f) := by
  intro f w h hw; cases h; exact decode_cell ((parseCell_cgWord f (by decide) (by decide)).trans rfl) (eq_of_beq hw)

theorem cvPopc : ∀ f, Statement (.cvPopc f) := by
  intro f w h hw; cases h; exact decode_cell ((parseCell_cgWord f (by decide) (by decide)).trans rfl) (eq_of_beq hw)

theorem cvCmp : ∀ f, Statement (.cvCmp f) := by
  intro f w h hw; cases h; exact decode_cell ((parseCell_cgWord f (by decide) (by decide)).trans rfl) (eq_of_beq hw)

theorem cvTest : ∀ f, Statement (.cvTest f) := by
  intro f w h hw; cases h; exact decode_cell ((parseCell_cgWord f (by decide) (by decide)).trans rfl) (eq_of_beq hw)

theorem cvMov : ∀ f, Statement (.cvMov f) := by
  intro f w h hw; cases h; exact decode_cell ((parseCell_cgWord f (by decide) (by decide)).trans rfl) (eq_of_beq hw)

theorem cvMovk : ∀ f, Statement (.cvMovk f) := by
  intro f w h hw; cases h; exact decode_cell ((parseCell_cgWord f (by decide) (by decide)).trans rfl) (eq_of_beq hw)

theorem cvDot4 : ∀ f, Statement (.cvDot4 f) := by
  intro f w h hw; cases h; exact decode_cell ((parseCell_cgWord f (by decide) (by decide)).trans rfl) (eq_of_beq hw)

theorem cvTdot : ∀ f, Statement (.cvTdot f) := by
  intro f w h hw; cases h; exact decode_cell ((parseCell_cgWord f (by decide) (by decide)).trans rfl) (eq_of_beq hw)

theorem cvCvti : ∀ f, Statement (.cvCvti f) := by
  intro f w h hw; cases h; exact decode_cell ((parseCell_cgWord f (by decide) (by decide)).trans rfl) (eq_of_beq hw)

theorem cvNzc : ∀ f, Statement (.cvNzc f) := by
  intro f w h hw; cases h; exact decode_cell ((parseCell_cgWord f (by decide) (by decide)).trans rfl) (eq_of_beq hw)

theorem cvBitr : ∀ f, Statement (.cvBitr f) := by
  intro f w h hw; cases h; exact decode_cell ((parseCell_cgWord f (by decide) (by decide)).trans rfl) (eq_of_beq hw)

theorem cvPset : ∀ f, Statement (.cvPset f) := by
  intro f w h hw; cases h; exact decode_cell ((parseCell_cgWord f (by decide) (by decide)).trans rfl) (eq_of_beq hw)

theorem cfFadd : ∀ f, Statement (.cfFadd f) := by
  intro f w h hw; cases h; exact decode_cell ((parseCell_cgWord f (by decide) (by decide)).trans rfl) (eq_of_beq hw)

theorem cfFsub : ∀ f, Statement (.cfFsub f) := by
  intro f w h hw; cases h; exact decode_cell ((parseCell_cgWord f (by decide) (by decide)).trans rfl) (eq_of_beq hw)

theorem cfFmul : ∀ f, Statement (.cfFmul f) := by
  intro f w h hw; cases h; exact decode_cell ((parseCell_cgWord f (by decide) (by decide)).trans rfl) (eq_of_beq hw)

theorem cfFfma : ∀ f, Statement (.cfFfma f) := by
  intro f w h hw; cases h; exact decode_cell ((parseCell_cgWord f (by decide) (by decide)).trans rfl) (eq_of_beq hw)

theorem cfFmin : ∀ f, Statement (.cfFmin f) := by
  intro f w h hw; cases h; exact decode_cell ((parseCell_cgWord f (by decide) (by decide)).trans rfl) (eq_of_beq hw)

theorem cfFmax : ∀ f, Statement (.cfFmax f) := by
  intro f w h hw; cases h; exact decode_cell ((parseCell_cgWord f (by decide) (by decide)).trans rfl) (eq_of_beq hw)

theorem cfFcmp : ∀ f, Statement (.cfFcmp f) := by
  intro f w h hw; cases h; exact decode_cell ((parseCell_cgWord f (by decide) (by decide)).trans rfl) (eq_of_beq hw)

theorem cfFabs : ∀ f, Statement (.cfFabs f) := by
  intro f w h hw; cases h; exact decode_cell ((parseCell_cgWord f (by decide) (by decide)).trans rfl) (eq_of_beq hw)

theorem cfFneg : ∀ f, Statement (.cfFneg f) := by
  intro f w h hw; cases h; exact decode_cell ((parseCell_cgWord f (by decide) (by decide)).trans rfl) (eq_of_beq hw)

theorem cfFcvt : ∀ f, Statement (.cfFcvt f) := by
  intro f w h hw; cases h; exact decode_cell ((parseCell_cgWord f (by decide) (by decide)).trans rfl) (eq_of_beq hw)

theorem cfFrnd : ∀ f, Statement (.cfFrnd f) := by
  intro f w h hw; cases h; exact decode_cell ((parseCell_cgWord f (by decide) (by decide)).trans rfl) (eq_of_beq hw)

theorem cfFcls : ∀ f, Statement (.cfFcls f) := by
  intro f w h hw; cases h; exact decode_cell ((parseCell_cgWord f (by decide) (by decide)).trans rfl) (eq_of_beq hw)

theorem cfFrcp : ∀ f, Statement (.cfFrcp f) := by
  intro f w h hw; cases h; exact decode_cell ((parseCell_cgWord f (by decide) (by decide)).trans rfl) (eq_of_beq hw)

theorem cfFrsq : ∀ f, Statement (.cfFrsq f) := by
  intro f w h hw; cases h; exact decode_cell ((parseCell_cgWord f (by decide) (by decide)).trans rfl) (eq_of_beq hw)

theorem cfFexp2 : ∀ f, Statement (.cfFexp2 f) := by
  intro f w h hw; cases h; exact decode_cell ((parseCell_cgWord f (by decide) (by decide)).trans rfl) (eq_of_beq hw)

theorem cfFlog2 : ∀ f, Statement (.cfFlog2 f) := by
  intro f w h hw; cases h; exact decode_cell ((parseCell_cgWord f (by decide) (by decide)).trans rfl) (eq_of_beq hw)

theorem cfFsig : ∀ f, Statement (.cfFsig f) := by
  intro f w h hw; cases h; exact decode_cell ((parseCell_cgWord f (by decide) (by decide)).trans rfl) (eq_of_beq hw)

theorem cfFtanh : ∀ f, Statement (.cfFtanh f) := by
  intro f w h hw; cases h; exact decode_cell ((parseCell_cgWord f (by decide) (by decide)).trans rfl) (eq_of_beq hw)

theorem cfFsinp : ∀ f, Statement (.cfFsinp f) := by
  intro f w h hw; cases h; exact decode_cell ((parseCell_cgWord f (by decide) (by decide)).trans rfl) (eq_of_beq hw)

theorem cfFcosp : ∀ f, Statement (.cfFcosp f) := by
  intro f w h hw; cases h; exact decode_cell ((parseCell_cgWord f (by decide) (by decide)).trans rfl) (eq_of_beq hw)

theorem clLred : ∀ f, Statement (.clLred f) := by
  intro f w h hw; cases h; exact decode_cell ((parseCell_cgWord f (by decide) (by decide)).trans rfl) (eq_of_beq hw)

theorem clLscn : ∀ f, Statement (.clLscn f) := by
  intro f w h hw; cases h; exact decode_cell ((parseCell_cgWord f (by decide) (by decide)).trans rfl) (eq_of_beq hw)

theorem clLshf : ∀ f, Statement (.clLshf f) := by
  intro f w h hw; cases h; exact decode_cell ((parseCell_cgWord f (by decide) (by decide)).trans rfl) (eq_of_beq hw)

theorem clLbrd : ∀ f, Statement (.clLbrd f) := by
  intro f w h hw; cases h; exact decode_cell ((parseCell_cgWord f (by decide) (by decide)).trans rfl) (eq_of_beq hw)

theorem clLcmp : ∀ f, Statement (.clLcmp f) := by
  intro f w h hw; cases h; exact decode_cell ((parseCell_cgWord f (by decide) (by decide)).trans rfl) (eq_of_beq hw)

theorem clRngx : ∀ f, Statement (.clRngx f) := by
  intro f w h hw; cases h; exact decode_cell ((parseCell_cgWord f (by decide) (by decide)).trans rfl) (eq_of_beq hw)

theorem cxMzero : ∀ f, Statement (.cxMzero f) := by
  intro f w h hw; cases h; exact decode_cell ((parseCell_cgWord f (by decide) (by decide)).trans rfl) (eq_of_beq hw)

theorem cxMldb : ∀ f, Statement (.cxMldb f) := by
  intro f w h hw; cases h; exact decode_cell ((parseCell_cgWord f (by decide) (by decide)).trans rfl) (eq_of_beq hw)

theorem cxMma : ∀ f, Statement (.cxMma f) := by
  intro f w h hw; cases h; exact decode_cell ((parseCell_cgWord f (by decide) (by decide)).trans rfl) (eq_of_beq hw)

theorem cxMmat : ∀ f, Statement (.cxMmat f) := by
  intro f w h hw; cases h; exact decode_cell ((parseCell_cgWord f (by decide) (by decide)).trans rfl) (eq_of_beq hw)

theorem cxMrd : ∀ f, Statement (.cxMrd f) := by
  intro f w h hw; cases h; exact decode_cell ((parseCell_cgWord f (by decide) (by decide)).trans rfl) (eq_of_beq hw)

theorem cxMdrn : ∀ f, Statement (.cxMdrn f) := by
  intro f w h hw; cases h; exact decode_cell ((parseCell_cgWord f (by decide) (by decide)).trans rfl) (eq_of_beq hw)

theorem cxMchn : ∀ f, Statement (.cxMchn f) := by
  intro f w h hw; cases h; exact decode_cell ((parseCell_cgWord f (by decide) (by decide)).trans rfl) (eq_of_beq hw)

theorem cxMbfy : ∀ f, Statement (.cxMbfy f) := by
  intro f w h hw; cases h; exact decode_cell ((parseCell_cgWord f (by decide) (by decide)).trans rfl) (eq_of_beq hw)

theorem cxTwg : ∀ f, Statement (.cxTwg f) := by
  intro f w h hw; cases h; exact decode_cell ((parseCell_cgWord f (by decide) (by decide)).trans rfl) (eq_of_beq hw)

theorem cxMscl : ∀ f, Statement (.cxMscl f) := by
  intro f w h hw; cases h; exact decode_cell ((parseCell_cgWord f (by decide) (by decide)).trans rfl) (eq_of_beq hw)

theorem cdDxld : ∀ f, Statement (.cdDxld f) := by
  intro f w h hw; cases h; exact decode_cell ((parseCell_cgWord f (by decide) (by decide)).trans rfl) (eq_of_beq hw)

theorem cdDxcf : ∀ f, Statement (.cdDxcf f) := by
  intro f w h hw; cases h; exact decode_cell ((parseCell_cgWord f (by decide) (by decide)).trans rfl) (eq_of_beq hw)

theorem cdDxrn : ∀ f, Statement (.cdDxrn f) := by
  intro f w h hw; cases h; exact decode_cell ((parseCell_cgWord f (by decide) (by decide)).trans rfl) (eq_of_beq hw)

theorem cdDxfn : ∀ f, Statement (.cdDxfn f) := by
  intro f w h hw; cases h; exact decode_cell ((parseCell_cgWord f (by decide) (by decide)).trans rfl) (eq_of_beq hw)

theorem cdDxch : ∀ f, Statement (.cdDxch f) := by
  intro f w h hw; cases h; exact decode_cell ((parseCell_cgWord f (by decide) (by decide)).trans rfl) (eq_of_beq hw)

theorem cmLd : ∀ f, Statement (.cmLd f) := by
  intro f w h hw; cases h; exact decode_cell ((@parseCell_cmWord 0x60 f (by decide) (by decide)).trans rfl) (eq_of_beq hw)

theorem cmSt : ∀ f, Statement (.cmSt f) := by
  intro f w h hw; cases h; exact decode_cell ((@parseCell_cmWord 0x61 f (by decide) (by decide)).trans rfl) (eq_of_beq hw)

theorem cmLdt : ∀ f, Statement (.cmLdt f) := by
  intro f w h hw; cases h; exact decode_cell ((@parseCell_cmWord 0x62 f (by decide) (by decide)).trans rfl) (eq_of_beq hw)

theorem cmStt : ∀ f, Statement (.cmStt f) := by
  intro f w h hw; cases h; exact decode_cell ((@parseCell_cmWord 0x63 f (by decide) (by decide)).trans rfl) (eq_of_beq hw)

theorem cmLdx : ∀ f, Statement (.cmLdx f) := by
  intro f w h hw; cases h; exact decode_cell ((@parseCell_cmWord 0x64 f (by decide) (by decide)).trans rfl) (eq_of_beq hw)

theorem cmUpd : ∀ f, Statement (.cmUpd f) := by
  intro f w h hw; cases h; exact decode_cell ((@parseCell_cmWord 0x65 f (by decide) (by decide)).trans rfl) (eq_of_beq hw)

theorem cmLock : ∀ f, Statement (.cmLock f) := by
  intro f w h hw; cases h; exact decode_cell ((@parseCell_cmWord 0x66 f (by decide) (by decide)).trans rfl) (eq_of_beq hw)

theorem cmUnlk : ∀ f, Statement (.cmUnlk f) := by
  intro f w h hw; cases h; exact decode_cell ((@parseCell_cmWord 0x67 f (by decide) (by decide)).trans rfl) (eq_of_beq hw)

theorem cmPft : ∀ f, Statement (.cmPft f) := by
  intro f w h hw; cases h; exact decode_cell ((@parseCell_cmWord 0x68 f (by decide) (by decide)).trans rfl) (eq_of_beq hw)

theorem cmLdbr : ∀ f, Statement (.cmLdbr f) := by
  intro f w h hw; cases h; exact decode_cell ((@parseCell_cmWord 0x69 f (by decide) (by decide)).trans rfl) (eq_of_beq hw)

theorem cmStbr : ∀ f, Statement (.cmStbr f) := by
  intro f w h hw; cases h; exact decode_cell ((@parseCell_cmWord 0x6A f (by decide) (by decide)).trans rfl) (eq_of_beq hw)

theorem cmFill : ∀ f, Statement (.cmFill f) := by
  intro f w h hw; cases h; exact decode_cell ((@parseCell_cmWord 0x6B f (by decide) (by decide)).trans rfl) (eq_of_beq hw)

theorem cmAtom : ∀ f, Statement (.cmAtom f) := by
  intro f w h hw; cases h; exact decode_cell ((@parseCell_cmWord 0x6C f (by decide) (by decide)).trans rfl) (eq_of_beq hw)

theorem cpRecv : ∀ f, Statement (.cpRecv f) := by
  intro f w h hw; cases h; exact decode_cell ((parseCell_cgWord f (by decide) (by decide)).trans rfl) (eq_of_beq hw)

theorem cpSend : ∀ f, Statement (.cpSend f) := by
  intro f w h hw; cases h; exact decode_cell ((parseCell_cgWord f (by decide) (by decide)).trans rfl) (eq_of_beq hw)

theorem cpPeek : ∀ f, Statement (.cpPeek f) := by
  intro f w h hw; cases h; exact decode_cell ((parseCell_cgWord f (by decide) (by decide)).trans rfl) (eq_of_beq hw)

theorem cpJoin : ∀ f, Statement (.cpJoin f) := by
  intro f w h hw; cases h; exact decode_cell ((parseCell_cgWord f (by decide) (by decide)).trans rfl) (eq_of_beq hw)

theorem cpFilt : ∀ f, Statement (.cpFilt f) := by
  intro f w h hw; cases h; exact decode_cell ((parseCell_cgWord f (by decide) (by decide)).trans rfl) (eq_of_beq hw)

theorem cpMrge : ∀ f, Statement (.cpMrge f) := by
  intro f w h hw; cases h; exact decode_cell ((parseCell_cgWord f (by decide) (by decide)).trans rfl) (eq_of_beq hw)

theorem cpSkip : ∀ f, Statement (.cpSkip f) := by
  intro f w h hw; cases h; exact decode_cell ((parseCell_cgWord f (by decide) (by decide)).trans rfl) (eq_of_beq hw)

theorem cpEos : ∀ f, Statement (.cpEos f) := by
  intro f w h hw; cases h; exact decode_cell ((parseCell_cgWord f (by decide) (by decide)).trans rfl) (eq_of_beq hw)

theorem cpCtxc : ∀ f, Statement (.cpCtxc f) := by
  intro f w h hw; cases h; exact decode_cell ((parseCell_cgWord f (by decide) (by decide)).trans rfl) (eq_of_beq hw)

theorem ccLoop : ∀ f, Statement (.ccLoop f) := by
  intro f w h hw; cases h; exact decode_cell ((parseCell_cgWord f (by decide) (by decide)).trans rfl) (eq_of_beq hw)

theorem ccLbrk : ∀ f, Statement (.ccLbrk f) := by
  intro f w h hw; cases h; exact decode_cell ((parseCell_cgWord f (by decide) (by decide)).trans rfl) (eq_of_beq hw)

theorem ccBra : ∀ f, Statement (.ccBra f) := by
  intro f w h hw; cases h; exact decode_cell ((parseCell_cgWord f (by decide) (by decide)).trans rfl) (eq_of_beq hw)

theorem ccJmp : ∀ f, Statement (.ccJmp f) := by
  intro f w h hw; cases h; exact decode_cell ((parseCell_cgWord f (by decide) (by decide)).trans rfl) (eq_of_beq hw)

theorem ccGrain : ∀ f, Statement (.ccGrain f) := by
  intro f w h hw; cases h; exact decode_cell ((parseCell_cgWord f (by decide) (by decide)).trans rfl) (eq_of_beq hw)

theorem ccTagp : ∀ f, Statement (.ccTagp f) := by
  intro f w h hw; cases h; exact decode_cell ((parseCell_cgWord f (by decide) (by decide)).trans rfl) (eq_of_beq hw)

theorem ccTlw : ∀ f, Statement (.ccTlw f) := by
  intro f w h hw; cases h; exact decode_cell ((parseCell_cgWord f (by decide) (by decide)).trans rfl) (eq_of_beq hw)

theorem ccFenc : ∀ f, Statement (.ccFenc f) := by
  intro f w h hw; cases h; exact decode_cell ((parseCell_cgWord f (by decide) (by decide)).trans rfl) (eq_of_beq hw)

theorem ccBarr : ∀ f, Statement (.ccBarr f) := by
  intro f w h hw; cases h; exact decode_cell ((parseCell_cgWord f (by decide) (by decide)).trans rfl) (eq_of_beq hw)

theorem ccYld : ∀ f, Statement (.ccYld f) := by
  intro f w h hw; cases h; exact decode_cell ((parseCell_cgWord f (by decide) (by decide)).trans rfl) (eq_of_beq hw)

theorem ccTrap : ∀ f, Statement (.ccTrap f) := by
  intro f w h hw; cases h; exact decode_cell ((parseCell_cgWord f (by decide) (by decide)).trans rfl) (eq_of_beq hw)

theorem ccRdsr : ∀ f, Statement (.ccRdsr f) := by
  intro f w h hw; cases h; exact decode_cell ((parseCell_cgWord f (by decide) (by decide)).trans rfl) (eq_of_beq hw)

theorem ccWrsr : ∀ f, Statement (.ccWrsr f) := by
  intro f w h hw; cases h; exact decode_cell ((parseCell_cgWord f (by decide) (by decide)).trans rfl) (eq_of_beq hw)

theorem ccEndt : ∀ f, Statement (.ccEndt f) := by
  intro f w h hw; cases h; exact decode_cell ((parseCell_cgWord f (by decide) (by decide)).trans rfl) (eq_of_beq hw)

theorem skCpygl : ∀ f, Statement (.skCpygl f) := by
  intro f w h hw; cases h; exact (@decodeSkid_skidWord 0x01 f (by decide)).trans rfl

theorem skCpylg : ∀ f, Statement (.skCpylg f) := by
  intro f w h hw; cases h; exact (@decodeSkid_skidWord 0x02 f (by decide)).trans rfl

theorem skCpygg : ∀ f, Statement (.skCpygg f) := by
  intro f w h hw; cases h; exact (@decodeSkid_skidWord 0x03 f (by decide)).trans rfl

theorem skGath : ∀ f, Statement (.skGath f) := by
  intro f w h hw; cases h; exact (@decodeSkid_skidWord 0x04 f (by decide)).trans rfl

theorem skScat : ∀ f, Statement (.skScat f) := by
  intro f w h hw; cases h; exact (@decodeSkid_skidWord 0x05 f (by decide)).trans rfl

theorem skDisp : ∀ f, Statement (.skDisp f) := by
  intro f w h hw; cases h; exact (@decodeSkid_skidWord 0x06 f (by decide)).trans rfl

theorem skCmbn : ∀ f, Statement (.skCmbn f) := by
  intro f w h hw; cases h; exact (@decodeSkid_skidWord 0x07 f (by decide)).trans rfl

theorem skRedc : ∀ f, Statement (.skRedc f) := by
  intro f w h hw; cases h; exact (@decodeSkid_skidWord 0x08 f (by decide)).trans rfl

theorem skFill : ∀ f, Statement (.skFill f) := by
  intro f w h hw; cases h; exact (@decodeSkid_skidWord 0x09 f (by decide)).trans rfl

theorem skPfmc : ∀ f, Statement (.skPfmc f) := by
  intro f w h hw; cases h; exact (@decodeSkid_skidWord 0x0A f (by decide)).trans rfl

theorem skLkmc : ∀ f, Statement (.skLkmc f) := by
  intro f w h hw; cases h; exact (@decodeSkid_skidWord 0x0B f (by decide)).trans rfl

theorem skUlmc : ∀ f, Statement (.skUlmc f) := by
  intro f w h hw; cases h; exact (@decodeSkid_skidWord 0x0C f (by decide)).trans rfl

theorem skColl : ∀ f, Statement (.skColl f) := by
  intro f w h hw; cases h; exact (@decodeSkid_skidWord 0x0D f (by decide)).trans rfl

theorem skStrm : ∀ f, Statement (.skStrm f) := by
  intro f w h hw; cases h; exact (@decodeSkid_skidWord 0x0E f (by decide)).trans rfl

theorem skSink : ∀ f, Statement (.skSink f) := by
  intro f w h hw; cases h; exact (@decodeSkid_skidWord 0x0F f (by decide)).trans rfl

theorem skBlaz : ∀ f, Statement (.skBlaz f) := by
  intro f w h hw; cases h; exact (@decodeSkid_skidWord 0x10 f (by decide)).trans rfl

theorem skNopc : ∀ f, Statement (.skNopc f) := by
  intro f w h hw; cases h; exact (@decodeSkid_skidWord 0x11 f (by decide)).trans rfl

theorem taskFire : ∀ t, Statement (.taskFire t) := by
  intros; intro w h; cases h

theorem instructionCompletion : ∀ t, Statement (.instructionCompletion t) := by
  intros; intro w h; cases h

theorem taskWaitExpired : ∀ t, Statement (.taskWaitExpired t) := by
  intros; intro w h; cases h

theorem backwardBranchLimit : ∀ t, Statement (.backwardBranchLimit t) := by
  intros; intro w h; cases h

theorem inputLineWaitExpired : ∀ t, Statement (.inputLineWaitExpired t) := by
  intros; intro w h; cases h

theorem matrixChunkComplete : ∀ w tile badTries row, Statement (.matrixChunkComplete w tile badTries row) := by
  intros; intro w h; cases h

theorem vfWatchdogExpiry : ∀ vf, Statement (.vfWatchdogExpiry vf) := by
  intros; intro w h; cases h

theorem functionLevelReset : ∀ vf, Statement (.functionLevelReset vf) := by
  intros; intro w h; cases h

theorem ttCommit : ∀ vf, Statement (.ttCommit vf) := by
  intros; intro w h; cases h

theorem ttRead : ∀ vf, Statement (.ttRead vf) := by
  intros; intro w h; cases h

theorem kernelLoad : ∀ vf, Statement (.kernelLoad vf) := by
  intros; intro w h; cases h

theorem kernelUnload : ∀ vf, Statement (.kernelUnload vf) := by
  intros; intro w h; cases h

theorem rootProgramCreate : ∀ vf, Statement (.rootProgramCreate vf) := by
  intros; intro w h; cases h

theorem rootBlockLaunch : ∀ vf, Statement (.rootBlockLaunch vf) := by
  intros; intro w h; cases h

theorem lwpub : ∀ vf ref, Statement (.lwpub vf ref) := by
  intros; intro w h; cases h

theorem lwqref : ∀ vf ref, Statement (.lwqref vf ref) := by
  intros; intro w h; cases h

theorem publication : ∀ die, Statement (.publication die) := by
  intros; intro w h; cases h

theorem tagNotification : ∀ die, Statement (.tagNotification die) := by
  intros; intro w h; cases h

theorem bitmapPoll : ∀ die, Statement (.bitmapPoll die) := by
  intros; intro w h; cases h

theorem generationAdvance : ∀ die, Statement (.generationAdvance die) := by
  intros; intro w h; cases h

theorem blockDispatch : ∀ die stand, Statement (.blockDispatch die stand) := by
  intros; intro w h; cases h

theorem classPromotion : ∀ die, Statement (.classPromotion die) := by
  intros; intro w h; cases h

theorem standPlacement : ∀ die, Statement (.standPlacement die) := by
  intros; intro w h; cases h

theorem suspendedStandReplace : ∀ die, Statement (.suspendedStandReplace die) := by
  intros; intro w h; cases h

theorem trackSegmentHop : ∀ flight, Statement (.trackSegmentHop flight) := by
  intros; intro w h; cases h

theorem inputBusDelivery : ∀ flight, Statement (.inputBusDelivery flight) := by
  intros; intro w h; cases h

theorem ridePacketArrival : ∀ packet, Statement (.ridePacketArrival packet) := by
  intros; intro w h; cases h

theorem firebreakReport : ∀ report, Statement (.firebreakReport report) := by
  intros; intro w h; cases h

theorem rideCongestion : ∀ die ride, Statement (.rideCongestion die ride) := by
  intros; intro w h; cases h

theorem ridePowerUp : ∀ die ride, Statement (.ridePowerUp die ride) := by
  intros; intro w h; cases h

theorem ridePowerDown : ∀ die ride, Statement (.ridePowerDown die ride) := by
  intros; intro w h; cases h

theorem ctxcSwitch : ∀ w, Statement (.ctxcSwitch w) := by
  intros; intro w h; cases h

theorem coppiceWindowEnd : ∀ stand, Statement (.coppiceWindowEnd stand) := by
  intros; intro w h; cases h

theorem seqWaitSatisfied : ∀ c, Statement (.seqWaitSatisfied c) := by
  intros; intro w h; cases h

theorem seqWaitExpired : ∀ c, Statement (.seqWaitExpired c) := by
  intros; intro w h; cases h

theorem scmdQueueStallExpired : ∀ c, Statement (.scmdQueueStallExpired c) := by
  intros; intro w h; cases h

theorem ctxSwitchWaitExpired : ∀ c, Statement (.ctxSwitchWaitExpired c) := by
  intros; intro w h; cases h

theorem barrierExpired : ∀ m, Statement (.barrierExpired m) := by
  intros; intro w h; cases h

theorem l1Eviction : ∀ w cell line, Statement (.l1Eviction w cell line) := by
  intros; intro w h; cases h

theorem sliceService : ∀ sl, Statement (.sliceService sl) := by
  intros; intro w h; cases h

theorem gddrFillReturn : ∀ sl line, Statement (.gddrFillReturn sl line) := by
  intros; intro w h; cases h

theorem translationWalk : ∀ vf unit va, Statement (.translationWalk vf unit va) := by
  intros; intro w h; cases h

theorem tlbinvAll : ∀ vf, Statement (.tlbinvAll vf) := by
  intros; intro w h; cases h

theorem tlbinvPage : ∀ vf va, Statement (.tlbinvPage vf va) := by
  intros; intro w h; cases h

theorem pcmd : ∀ vf, Statement (.pcmd vf) := by
  intros; intro w h; cases h

theorem trapEventDelivery : ∀ c, Statement (.trapEventDelivery c) := by
  intros; intro w h; cases h

theorem tqhead : ∀ c value, Statement (.tqhead c value) := by
  intros; intro w h; cases h

theorem weaveSnapshot : ∀ w, Statement (.weaveSnapshot w) := by
  intros; intro w h; cases h

theorem waveComplete : ∀ stand, Statement (.waveComplete stand) := by
  intros; intro w h; cases h

theorem periodicBlaze : ∀ stand, Statement (.periodicBlaze stand) := by
  intros; intro w h; cases h

theorem preemptStarvation : ∀ die, Statement (.preemptStarvation die) := by
  intros; intro w h; cases h

theorem vfsusp : ∀ value, Statement (.vfsusp value) := by
  intros; intro w h; cases h

theorem hardwareError : ∀ e, Statement (.hardwareError e) := by
  intros; intro w h; cases h

theorem errorWindowReset : ∀ die, Statement (.errorWindowReset die) := by
  intros; intro w h; cases h

theorem growthRingFlush : Statement (.growthRingFlush) := by
  intros; intro w h; cases h

theorem iftcmd : ∀ value, Statement (.iftcmd value) := by
  intros; intro w h; cases h

theorem iftStart : Statement (.iftStart) := by
  intros; intro w h; cases h

theorem iftComplete : ∀ passed, Statement (.iftComplete passed) := by
  intros; intro w h; cases h

theorem chret : ∀ value, Statement (.chret value) := by
  intros; intro w h; cases h

theorem channelMigrationComplete : Statement (.channelMigrationComplete) := by
  intros; intro w h; cases h

theorem moduleReset : Statement (.moduleReset) := by
  intros; intro w h; cases h

theorem fwVerifyWrite : Statement (.fwVerifyWrite) := by
  intros; intro w h; cases h

theorem fwBankSwitch : Statement (.fwBankSwitch) := by
  intros; intro w h; cases h

theorem atcmd : ∀ vf, Statement (.atcmd vf) := by
  intros; intro w h; cases h

theorem lnkcmd : ∀ value, Statement (.lnkcmd value) := by
  intros; intro w h; cases h

theorem linkTrainingComplete : ∀ port, Statement (.linkTrainingComplete port) := by
  intros; intro w h; cases h

theorem thermalTrip : Statement (.thermalTrip) := by
  intros; intro w h; cases h

theorem evhead : ∀ fn value, Statement (.evhead fn value) := by
  intros; intro w h; cases h

theorem vfrset : ∀ die value, Statement (.vfrset die value) := by
  intros; intro w h; cases h

theorem vfkeyInstall : Statement (.vfkeyInstall) := by
  intros; intro w h; cases h

theorem vfkeyClear : Statement (.vfkeyClear) := by
  intros; intro w h; cases h

theorem hostCxlMemAccess : ∀ vf a, Statement (.hostCxlMemAccess vf a) := by
  intros; intro w h; cases h

theorem registerWrite : ∀ sp off x, Statement (.registerWrite sp off x) := by
  intros; intro w h; cases h

theorem chiararexPacketArrival : ∀ p, Statement (.chiararexPacketArrival p) := by
  intros; intro w h; cases h

theorem hostMemoryReply : ∀ e line, Statement (.hostMemoryReply e line) := by
  intros; intro w h; cases h

theorem loaderCommandComplete : ∀ vf, Statement (.loaderCommandComplete vf) := by
  intros; intro w h; cases h

theorem tlbInvalidationComplete : ∀ vf, Statement (.tlbInvalidationComplete vf) := by
  intros; intro w h; cases h

theorem pcmdComplete : ∀ vf, Statement (.pcmdComplete vf) := by
  intros; intro w h; cases h

theorem attestationReportComplete : ∀ vf, Statement (.attestationReportComplete vf) := by
  intros; intro w h; cases h

theorem firmwareWriteComplete : Statement (.firmwareWriteComplete) := by
  intros; intro w h; cases h

theorem vfKeyCommandComplete : Statement (.vfKeyCommandComplete) := by
  intros; intro w h; cases h

theorem powerLoss : Statement (.powerLoss) := by
  intros; intro w h; cases h

theorem growthRingHour : ∀ r, Statement (.growthRingHour r) := by
  intros; intro w h; cases h

end Sys2Proof.Laws.Coding
end

