-- ==== Sys2Proof/Laws/Runs.lean ====
section
/-! SUPPORT. What the frames of an agent's turn do, said once: a sequencer instruction, a cell instruction and a skid command
that nothing holds up run their own effect and nothing else. -/

namespace Sys2Proof.Laws

open Sys2Proof Sys2Proof.Machine

/-! ## Sequencer contexts -/

/-- The context of an identifier carries it. -/
@[simp] theorem State.ctx_id (s : State) (q : SeqId) : (s.ctx q).id = q := by
  unfold State.ctx
  cases h : s.seqs.find? fun c => c.id == q with
  | none => rfl
  | some c => simpa using List.find?_some h

/-- No register that an instruction needs clean is poisoned. -/
theorem firstPoison_none {s : State} {q : SeqId} {i : Instr} {p : Bool} {rs : List Code6} (h : SeqMay s q i p rs) :
    firstPoison (s.ctx q) rs = none := by
  unfold firstPoison
  rw [List.find?_eq_none]
  intro r hr
  simp [h.clean r hr]

/-- An instruction that may run, its guard true where it has one, runs its effect (R147 to R151, R171). -/
theorem runSeq_may {s : State} {q : SeqId} {i : Instr} {u : SeqUse} (h : SeqMay s q i u.prefixed u.reads)
    (hg : ∀ g, u.guard = some g → (s.ctx q).pred g.toNat = true) (body : SeqCtx → State → SeqAns) :
    runSeq i u body s = .next ((body (s.ctx q) s).apply q) := by
  have hl : ¬ ((s.ctx q).limm.isSome = true ∧ u.prefixed = false) := by
    rintro ⟨h1, h2⟩
    rcases h.limm with h3 | h3
    · simp [h3] at h1
    · simp [h2] at h3
  simp only [runSeq, h.actor, h.running, if_true, seqIssue, h.wf, hl, firstPoison_none h]
  cases hu : u.guard with
  | none => simp
  | some g => simp [hg g hu]

/-- A false guard leaves only the pc's advance (R147). -/
theorem runSeq_skipped {s : State} {q : SeqId} {i : Instr} {u : SeqUse} {g : BitVec 3} (h : SeqMay s q i u.prefixed [])
    (hu : u.guard = some g) (hg : (s.ctx q).pred g.toNat = false) (body : SeqCtx → State → SeqAns) :
    runSeq i u body s = .next (ctxNext s q) := by
  have hl : ¬ ((s.ctx q).limm.isSome = true ∧ u.prefixed = false) := by
    rintro ⟨h1, h2⟩
    rcases h.limm with h3 | h3
    · simp [h3] at h1
    · simp [h2] at h3
  simp only [runSeq, h.actor, h.running, if_true, seqIssue, h.wf, hl, hu, hg]
  simp [SeqAns.apply, ctxNext]

/-- A used translation changes no memory. -/
@[simp] theorem seqTouch_mem (c : SeqCtx) (a : W64) (s : State) : (seqTouch c a s).mem = s.mem := by
  unfold seqTouch; split <;> rfl
@[simp] theorem seqTouch_lmem (c : SeqCtx) (a : W64) (s : State) : (seqTouch c a s).lmem = s.lmem := by
  unfold seqTouch; split <;> rfl
@[simp] theorem seqTouch_stand? (c : SeqCtx) (a : W64) (s : State) (n : Nat) : (seqTouch c a s).stand? n = s.stand? n := by
  unfold seqTouch; split <;> rfl

/-! ## Cell tasks -/

/-- An instruction that nothing holds up runs its effect on the state without its operand tokens, and its weave has issued
(R16, R154, R162, R202, R203). -/
theorem runCell_may {s : State} {c : Cell} {i : Instr} (h : CellMay s c i) (body : Cell → State → CellAns) :
    runCell i body s = .next (if (body c (cellDrawn s c i)).issues then noteIssue c ((body c (cellDrawn s c i)).apply i c s)
      else (body c (cellDrawn s c i)).apply i c s) := by
  have ha : cellAns i body c s = body c (cellDrawn s c i) := by
    unfold cellAns
    have hp : ((cellPorts i).any fun p => !(c.n.port p).en) = false := by
      rw [Bool.eq_false_iff]; intro hc; rw [List.any_eq_true] at hc
      obtain ⟨p, hp, hx⟩ := hc
      have := h.ports p hp; simp [this] at hx
    have hd : (c.tk.deferred.find? fun d => d.reached i (cellSc i)) = none := by
      rw [List.find?_eq_none]; intro d hd; simp [h.deferred d hd]
    simp only [h.wf, hp, hd, h.tokens, h.slots, h.data]
    by_cases hs : (cellSc i).getLsbD 3 = true
    · have ht : (c.w.mults.any fun m => m.nid == c.key.nid) = false := by
        rw [Bool.eq_false_iff]; intro hc; rw [List.any_eq_true] at hc
        obtain ⟨m, hm, hx⟩ := hc
        exact h.tiles hs m hm (by simpa using hx)
      have hk : ((upTo 4).find? fun o => decide (s.outSlots c o < (skipToks (nth 0 c.tk.skips o)).length)) = none := by
        rw [List.find?_eq_none]; intro o ho; have := h.skips hs o ho; simp; exact this
      simp [hs, ht, hk, cellDrawn]
    · have hs' : (cellSc i).getLsbD 3 = false := by simpa using hs
      simp only [hs', Bool.false_and, Bool.false_eq_true, if_false, cellDrawn]
      simp
  unfold runCell
  simp only [h.actor, h.cell, h.may, if_true]
  unfold cellIssue
  simp only [ha, h.issue]
  simp

/-! ## Engines -/

/-- A command whose turn it is runs its step, unless a PCMD of its VF holds it (R315). -/
theorem runSkid_turn {s : State} {x : EngAt} {i : Instr} (h : EngTurn s x i) (body : EngAt → State → State) :
    runSkid i body s = .next (if x.c.isHeld s x.st then s else body x s) := by
  unfold runSkid
  simp [h.actor, h.found, h.going, h.word]

theorem runSkid_may {s : State} {x : EngAt} {i : Instr} (h : EngMay s x i) (body : EngAt → State → State) :
    runSkid i body s = .next (body x s) := by
  rw [runSkid_turn h.toEngTurn]
  simp [h.free]

/-- What a command does after a write (R310, R328). -/
@[simp] theorem afterWrite_ok (k : EKey) (c : Cmd) (s s1 : State) (next : State → State) :
    afterWrite k c s next (.ok s1) = next (updCmd k c.seq (fun x => { x with paused := false }) s1) := rfl
@[simp] theorem afterWrite_fault (k : EKey) (c : Cmd) (s : State) (next : State → State) :
    afterWrite k c s next .fault = failCmd k c 0x07 s := rfl
@[simp] theorem afterWrite_full (k : EKey) (c : Cmd) (s : State) (next : State → State) :
    afterWrite k c s next .full = pauseCmd k c s := rfl

end Sys2Proof.Laws
end

