-- ==== Sys2Proof/Laws/Safe.lean ====
section
/-! SUPPORT. The rules by which a function of State is shown to keep both memories in canonical form: what each kind of
answer must hold, and how folds, matches and updates pass it on. -/

namespace Sys2Proof.Laws

open Sys2Proof.Machine

/-- An answer of a step whose next state is safe. -/
def outSafe : Out → Prop
  | .next s => Safe s
  | .fault _ => True
  | .refused _ => True

/-- An answer of a sequencer effect whose state is safe. -/
def seqSafe : SeqAns → Prop
  | .done s => Safe s
  | .branch s _ => Safe s
  | .enter s _ => Safe s
  | .skip s _ => Safe s
  | .trap s _ _ _ => Safe s
  | .trapPast s _ _ => Safe s
  | .wait s _ _ => Safe s
  | .stay s => Safe s

/-- An answer of a cell effect whose state is safe. -/
def cellSafe : CellAns → Prop
  | .done s => Safe s
  | .later s _ => Safe s
  | .goto s _ _ => Safe s
  | .trap s _ _ _ _ _ _ => Safe s
  | .wait _ _ _ _ => True
  | .waitIn s _ _ _ _ => Safe s
  | .hold => True
  | .holdWave => True
  | .deliver _ => True
  | .stay s => Safe s

/-- An answer of a write whose state is safe. -/
def writeSafe : WriteAns → Prop
  | .ok s => Safe s
  | .fault => True
  | .full => True

/-- What one lane gives, safe. -/
def stepSafe : LaneStep → Prop
  | .val s _ => Safe s
  | .bad _ _ => True
  | .stop a => cellSafe a

/-- What the lanes give, safe. -/
def runSafe : LaneRun → Prop
  | .go s _ => Safe s
  | .bad s _ _ _ _ => Safe s
  | .stop a => cellSafe a

/-- What a read of blocks gives, safe. -/
def blockSafe : BlockRead → Prop
  | .ok s _ _ => Safe s
  | .bad _ _ => True
  | .full => True
  | .stalls a => cellSafe a

def scaleSafe : ScaleRead → Prop
  | .ok s _ => Safe s
  | .held => True
  | .bad _ => True

/-- What a fetch brings, safe. -/
def fetchSafe : Fetched → Prop
  | .idle s => Safe s
  | .run _ s => Safe s

/-- A state that may be missing. -/
def optSafe (o : Option State) : Prop := ∀ s, o = some s → Safe s

/-- A state with something beside it, that may be missing. -/
def optFst {α : Type} (o : Option (State × α)) : Prop := ∀ x, o = some x → Safe x.1

/-- An answer that may be missing. -/
def optCell (o : Option CellAns) : Prop := ∀ a, o = some a → cellSafe a

/-- A refusal that answers for the instruction. -/
def errCell {α : Type} (o : Except CellAns α) : Prop := ∀ a, o = .error a → cellSafe a

/-! ## Answers -/

theorem outSafe_next {s : State} (h : Safe s) : outSafe (.next s) := h
theorem outSafe_fault (f : Fault) : outSafe (.fault f) := trivial
theorem outSafe_refused (f : Refusal) : outSafe (.refused f) := trivial
theorem seqSafe_done {s : State} (h : Safe s) : seqSafe (.done s) := h
theorem seqSafe_branch {s : State} {t : Nat} (h : Safe s) : seqSafe (.branch s t) := h
theorem seqSafe_enter {s : State} {t : Nat} (h : Safe s) : seqSafe (.enter s t) := h
theorem seqSafe_skip {s : State} {t : Nat} (h : Safe s) : seqSafe (.skip s t) := h
theorem seqSafe_trap {s : State} {a b : Nat} {i : W64} (h : Safe s) : seqSafe (.trap s a b i) := h
theorem seqSafe_trapPast {s : State} {a : Nat} {i : W64} (h : Safe s) : seqSafe (.trapPast s a i) := h
theorem seqSafe_wait {s : State} {w : SeqWait} {d : Nat} (h : Safe s) : seqSafe (.wait s w d) := h
theorem seqSafe_stay {s : State} (h : Safe s) : seqSafe (.stay s) := h
theorem cellSafe_done {s : State} (h : Safe s) : cellSafe (.done s) := h
theorem cellSafe_later {s : State} {p : Pend} (h : Safe s) : cellSafe (.later s p) := h
theorem cellSafe_goto {s : State} {p : Nat} {l : List LoopEnt} (h : Safe s) : cellSafe (.goto s p l) := h
theorem cellSafe_trap {s : State} {a b : Nat} {c d e f : W32} (h : Safe s) : cellSafe (.trap s a b c d e f) := h
theorem cellSafe_wait {a b : Nat} {c d : W32} : cellSafe (.wait a b c d) := trivial
theorem cellSafe_waitIn {s : State} {a b : Nat} {c d : W32} (h : Safe s) : cellSafe (.waitIn s a b c d) := h
theorem cellSafe_hold : cellSafe .hold := trivial
theorem cellSafe_holdWave : cellSafe .holdWave := trivial
theorem cellSafe_deliver {d : Deferred} : cellSafe (.deliver d) := trivial
theorem cellSafe_stay {s : State} (h : Safe s) : cellSafe (.stay s) := h
theorem writeSafe_ok {s : State} (h : Safe s) : writeSafe (.ok s) := h
theorem writeSafe_fault : writeSafe .fault := trivial
theorem writeSafe_full : writeSafe .full := trivial
theorem runSafe_go {s : State} {o : List (Nat × Lane)} (h : Safe s) : runSafe (.go s o) := h
theorem runSafe_bad {s : State} {o : List (Nat × Lane)} {a b c : Nat} (h : Safe s) : runSafe (.bad s o a b c) := h
theorem runSafe_stop {a : CellAns} (h : cellSafe a) : runSafe (.stop a) := h
theorem stepSafe_val {s : State} {x : Lane} (h : Safe s) : stepSafe (.val s x) := h
theorem stepSafe_bad {a b : Nat} : stepSafe (.bad a b) := trivial
theorem stepSafe_stop {a : CellAns} (h : cellSafe a) : stepSafe (.stop a) := h
theorem blockSafe_ok {s : State} {b : List Byte} {p : Bool} (h : Safe s) : blockSafe (.ok s b p) := h
theorem blockSafe_bad {a b : Nat} : blockSafe (.bad a b) := trivial
theorem blockSafe_full : blockSafe .full := trivial
theorem scaleSafe_ok {s : State} {l : List Int} (h : Safe s) : scaleSafe (.ok s l) := h
theorem scaleSafe_held : scaleSafe .held := trivial
theorem scaleSafe_bad {a : Nat} : scaleSafe (.bad a) := trivial
theorem blockSafe_stalls {a : CellAns} (h : cellSafe a) : blockSafe (.stalls a) := h
theorem fetchSafe_idle {s : State} (h : Safe s) : fetchSafe (.idle s) := h
theorem fetchSafe_run {i : Instr} {s : State} (h : Safe s) : fetchSafe (.run i s) := h
theorem optSafe_some {s : State} (h : Safe s) : optSafe (some s) := fun _ e => by cases e; exact h
theorem optSafe_none : optSafe none := fun _ e => by cases e
theorem optSafe_map {α : Type} {f : α → State} {o : Option α} (h : ∀ x, Safe (f x)) : optSafe (o.map f) := by
  intro a e
  cases o with
  | none => cases e
  | some x => cases e; exact h x
theorem optSafe_findSome {α : Type} {f : α → Option State} {l : List α} (h : ∀ x, optSafe (f x)) : optSafe (l.findSome? f) := by
  intro a e
  obtain ⟨x, _, hx⟩ := List.exists_of_findSome?_eq_some e
  exact h x a hx
theorem optFst_some {α : Type} {x : State × α} (h : Safe x.1) : optFst (some x) := fun _ e => by cases e; exact h
theorem optFst_none {α : Type} : optFst (none : Option (State × α)) := fun _ e => by cases e
theorem optCell_some {a : CellAns} (h : cellSafe a) : optCell (some a) := fun _ e => by cases e; exact h
theorem optCell_none : optCell none := fun _ e => by cases e
theorem optCell_map {α : Type} {f : α → CellAns} {o : Option α} (h : ∀ x, cellSafe (f x)) : optCell (o.map f) := by
  intro a e
  cases o with
  | none => cases e
  | some x => cases e; exact h x
theorem optCell_findSome {α : Type} {f : α → Option CellAns} {l : List α} (h : ∀ x, optCell (f x)) : optCell (l.findSome? f) := by
  intro a e
  obtain ⟨x, _, hx⟩ := List.exists_of_findSome?_eq_some e
  exact h x a hx
theorem errCell_error {α : Type} {a : CellAns} (h : cellSafe a) : errCell (.error a : Except CellAns α) := fun _ e => by cases e; exact h
theorem errCell_ok {α : Type} {x : α} : errCell (.ok x : Except CellAns α) := fun _ e => by cases e
theorem fst_mk {α : Type} {s : State} {x : α} (h : Safe s) : Safe (s, x).1 := h
theorem snd_mk {α : Type} {s : State} {x : α} (h : Safe s) : Safe (x, s).2 := h

/-! ## Out of a match -/

theorem safe_of_some {o : Option State} {s : State} (e : o = some s) (h : optSafe o) : Safe s := h s e
theorem safe_of_pair {α : Type} {o : Option (State × α)} {s : State} {x : α} (e : o = some (s, x)) (h : optFst o) : Safe s := h _ e
theorem safe_of_fst {α : Type} {p : State × α} {s : State} {x : α} (e : p = (s, x)) (h : Safe p.1) : Safe s := by
  subst e; exact h
theorem safe_of_opt1 {α : Type} {o : Option (State × α)} {x : State × α} (e : o = some x) (h : optFst o) : Safe x.1 := h _ e
theorem safe_of_prod {α : Type} {p x : State × α} (e : p = x) (h : Safe p.1) : Safe x.1 := by
  subst e; exact h
theorem safe_of_ok {w : WriteAns} {s : State} (e : w = .ok s) (h : writeSafe w) : Safe s := by subst e; exact h
theorem safe_of_go {w : LaneRun} {s : State} {o : List (Nat × Lane)} (e : w = .go s o) (h : runSafe w) : Safe s := by subst e; exact h
theorem safe_of_bad {w : LaneRun} {s : State} {o : List (Nat × Lane)} {a b c : Nat} (e : w = .bad s o a b c) (h : runSafe w) :
    Safe s := by subst e; exact h
theorem safe_of_stop {w : LaneRun} {a : CellAns} (e : w = .stop a) (h : runSafe w) : cellSafe a := by subst e; exact h
theorem safe_of_val {w : LaneStep} {s : State} {x : Lane} (e : w = .val s x) (h : stepSafe w) : Safe s := by subst e; exact h
theorem safe_of_stopL {w : LaneStep} {a : CellAns} (e : w = .stop a) (h : stepSafe w) : cellSafe a := by subst e; exact h
theorem safe_of_block {w : BlockRead} {s : State} {b : List Byte} {p : Bool} (e : w = .ok s b p) (h : blockSafe w) : Safe s := by
  subst e; exact h
theorem safe_of_out {w : Out} {s : State} (e : w = .next s) (h : outSafe w) : Safe s := by subst e; exact h
theorem safe_of_scale {w : ScaleRead} {s : State} {l : List Int} (e : w = .ok s l) (h : scaleSafe w) : Safe s := by
  rw [e] at h; exact h
theorem safe_of_stalls {w : BlockRead} {a : CellAns} (e : w = .stalls a) (h : blockSafe w) : cellSafe a := by
  subst e; exact h
theorem safe_of_optCell {o : Option CellAns} {a : CellAns} (e : o = some a) (h : optCell o) : cellSafe a := h a e
theorem safe_of_errCell {α : Type} {o : Except CellAns α} {a : CellAns} (e : o = .error a) (h : errCell o) : cellSafe a := h a e

/-! ## Updates and folds -/

theorem safe_mk {a1 a2 a3 m l a6 a7 a8 a9 b1 b2 b3 b4 b5 b6} (hm : m.wf = true) (hl : l.wf = true) :
    Safe (State.mk a1 a2 a3 m l a6 a7 a8 a9 b1 b2 b3 b4 b5 b6) := ⟨hm, hl⟩
theorem safe_mem {s : State} (h : Safe s) : s.mem.wf = true := h.1
theorem safe_lmem {s : State} (h : Safe s) : s.lmem.wf = true := h.2

/-- A fold of operations that keep states safe keeps them safe. -/
theorem safe_foldl {α : Type} {f : State → α → State} {l : List α} {s : State} (h : Safe s)
    (hf : ∀ s x, Safe s → Safe (f s x)) : Safe (l.foldl f s) := by
  induction l generalizing s with
  | nil => exact h
  | cons x xs ih => exact ih (hf s x h)

theorem scaleSafe_foldl {α : Type} {f : ScaleRead → α → ScaleRead} {l : List α} {b : ScaleRead} (h : scaleSafe b)
    (hf : ∀ b x, scaleSafe b → scaleSafe (f b x)) : scaleSafe (l.foldl f b) := by
  induction l generalizing b with
  | nil => exact h
  | cons x l ih => exact ih (hf b x h)

theorem blockSafe_foldl {α : Type} {f : BlockRead → α → BlockRead} {l : List α} {b : BlockRead} (h : blockSafe b)
    (hf : ∀ b x, blockSafe b → blockSafe (f b x)) : blockSafe (l.foldl f b) := by
  induction l generalizing b with
  | nil => exact h
  | cons x xs ih => exact ih (hf b x h)

theorem safe_fold_fst {α β : Type} {f : State × β → α → State × β} {l : List α} {p : State × β} (h : Safe p.1)
    (hf : ∀ p x, Safe p.1 → Safe (f p x).1) : Safe (l.foldl f p).1 := by
  induction l generalizing p with
  | nil => exact h
  | cons x xs ih => exact ih (hf p x h)

theorem safe_setVf {s : State} {v : Vf} (h : Safe s) : Safe (s.setVf v) := h
theorem safe_updVf {s : State} {n : Nat} {f : Vf → Vf} (h : Safe s) : Safe (s.updVf n f) := h
theorem safe_setStand {s : State} {t : Stand} (h : Safe s) : Safe (s.setStand t) := h
theorem safe_updStand {s : State} {n : Nat} {f : Stand → Stand} (h : Safe s) : Safe (s.updStand n f) := by
  unfold State.updStand; split <;> exact h
theorem safe_setCtx {s : State} {c : SeqCtx} (h : Safe s) : Safe (s.setCtx c) := h
theorem safe_updCtx {s : State} {q : SeqId} {f : SeqCtx → SeqCtx} (h : Safe s) : Safe (s.updCtx q f) := h
theorem safe_updDie {s : State} {d : Nat} {f : Die → Die} (h : Safe s) : Safe (s.updDie d f) := h
theorem safe_setSlice {s : State} {x : Slice} (h : Safe s) : Safe (s.setSlice x) := h
theorem safe_emit {s : State} {o : Output} (h : Safe s) : Safe (s.emit o) := by
  unfold State.emit; split <;> exact h

end Sys2Proof.Laws
end

