-- ==== Sys2Proof/Laws/SafeFrame.lean ====
section
/-! SUPPORT. Both memories stay in canonical form through every operation of the shared operations, operands, tags, stands, barriers, the frames of the sequencer and of the cell, memory, the L1, vectors and the matrix unit. -/

namespace Sys2Proof.Laws

open Sys2Proof.Machine

/-! ## Machine/Ops -/

theorem safe_State_setRing (s : State) (f : FnId) (r : EvRing) (h0 : Safe s) : Safe (State.setRing s f r) := by
  unfold State.setRing
  repeat' first
    | with_reducible assumption
    | with_reducible apply safe_mk
    | with_reducible exact safe_mem (by assumption)
    | with_reducible exact safe_lmem (by assumption)
    | (with_reducible apply safe_mem; with_reducible apply safe_updVf)
    | (with_reducible apply safe_lmem; with_reducible apply safe_updVf)
    | split
    | dsimp only

theorem safe_hostEvent (f : FnId) (typ cause vf die : Nat) (data : W64) (s : State) (h6 : Safe s) : Safe (hostEvent f typ cause vf die data s) := by
  unfold hostEvent
  repeat' first
    | with_reducible assumption
    | with_reducible apply Memory.store_wf
    | with_reducible apply safe_mk
    | with_reducible exact safe_mem (by assumption)
    | with_reducible exact safe_lmem (by assumption)
    | (with_reducible apply safe_mem; with_reducible apply safe_emit)
    | (with_reducible apply safe_lmem; with_reducible apply safe_emit)
    | (with_reducible apply safe_mem; with_reducible apply safe_State_setRing)
    | (with_reducible apply safe_lmem; with_reducible apply safe_State_setRing)
    | split
    | dsimp only

theorem safe_appendRecord (q : SeqId) (w : BitVec 256) (cause act : Nat) (event : Bool) (s : State) (h5 : Safe s) : Safe (appendRecord q w cause act event s) := by
  unfold appendRecord
  repeat' first
    | with_reducible assumption
    | with_reducible apply Memory.store_wf
    | with_reducible apply safe_mk
    | with_reducible exact safe_mem (by assumption)
    | with_reducible exact safe_lmem (by assumption)
    | (with_reducible apply safe_mem; with_reducible apply safe_setCtx)
    | (with_reducible apply safe_lmem; with_reducible apply safe_setCtx)
    | split

theorem safe_rootRecord (vf die : Nat) (w : BitVec 256) (cause : Nat) (s : State) (h4 : Safe s) : Safe (rootRecord vf die w cause s) := by
  unfold rootRecord
  repeat' first
    | with_reducible assumption
    | with_reducible apply safe_appendRecord
    | with_reducible apply safe_mk
    | (with_reducible apply safe_mem; with_reducible apply safe_hostEvent)
    | (with_reducible apply safe_lmem; with_reducible apply safe_hostEvent)
    | split

theorem safe_touchRide (die ride : Nat) (s : State) (h2 : Safe s) : Safe (touchRide die ride s) := by
  unfold touchRide
  repeat' first
    | with_reducible assumption
    | with_reducible apply safe_updDie

theorem safe_flitOn (vf die : Nat) (s : State) (h2 : Safe s) : Safe (flitOn vf die s) := by
  unfold flitOn
  repeat' first
    | with_reducible assumption
    | with_reducible apply safe_touchRide

theorem safe_injectPacket (s : State) (p : Packet) (h0 : Safe s) : Safe (injectPacket s p) := by
  unfold injectPacket
  repeat' first
    | with_reducible apply safe_mk
    | with_reducible exact safe_mem (by assumption)
    | with_reducible exact safe_lmem (by assumption)
    | (with_reducible apply safe_mem; with_reducible apply safe_touchRide)
    | (with_reducible apply safe_lmem; with_reducible apply safe_touchRide)
    | split

theorem safe_injectWaiting (s : State) (h0 : Safe s) : Safe (injectWaiting s) := by
  unfold injectWaiting
  repeat' first
    | with_reducible assumption
    | with_reducible apply safe_injectPacket
    | with_reducible apply safe_foldl

theorem safe_launchPacket (die vf : Nat) (sender : Sender) (seq : Nat) (dst : PktDst) (tok : Tok) (s : State) (h6 : Safe s) : Safe (launchPacket die vf sender seq dst tok s) := by
  unfold launchPacket
  repeat' first
    | with_reducible apply safe_injectWaiting
    | with_reducible apply safe_mk
    | with_reducible exact safe_mem (by assumption)
    | with_reducible exact safe_lmem (by assumption)

theorem safe_engineSend (st eng route : Nat) (tok : Tok) (s : State) (h4 : Safe s) : Safe (engineSend st eng route tok s) := by
  unfold engineSend
  repeat' first
    | with_reducible assumption
    | with_reducible apply safe_setStand
    | with_reducible apply safe_mk
    | with_reducible exact safe_mem (by assumption)
    | with_reducible exact safe_lmem (by assumption)
    | (with_reducible apply safe_mem; with_reducible apply safe_launchPacket)
    | (with_reducible apply safe_lmem; with_reducible apply safe_launchPacket)
    | split

theorem safe_weaveSend (w : WKey) (vc route : Nat) (tok : Tok) (s : State) (h4 : Safe s) : Safe (weaveSend w vc route tok s) := by
  unfold weaveSend
  repeat' first
    | with_reducible assumption
    | with_reducible apply safe_setStand
    | with_reducible apply safe_mk
    | with_reducible exact safe_mem (by assumption)
    | with_reducible exact safe_lmem (by assumption)
    | (with_reducible apply safe_mem; with_reducible apply safe_launchPacket)
    | (with_reducible apply safe_lmem; with_reducible apply safe_launchPacket)
    | split
    | dsimp only

theorem safe_emitBlaze (st : Nat) (num : Nat) (fl : WaveFlags) (eng : Nat) (routes : List Nat) (s : State) (h5 : Safe s) : Safe (emitBlaze st num fl eng routes s) := by
  unfold emitBlaze
  repeat' first
    | with_reducible assumption
    | with_reducible apply safe_engineSend
    | with_reducible apply safe_updStand
    | with_reducible apply safe_foldl
    | with_reducible intro _

theorem safe_injectWave (st : Nat) (fl : WaveFlags) (s : State) (h2 : Safe s) : Safe (injectWave st fl s) := by
  unfold injectWave
  repeat' first
    | with_reducible assumption
    | with_reducible apply safe_emitBlaze
    | with_reducible apply safe_setStand
    | with_reducible apply safe_mk
    | with_reducible exact safe_mem (by assumption)
    | with_reducible exact safe_lmem (by assumption)
    | (with_reducible apply safe_mem; with_reducible apply safe_foldl)
    | (with_reducible apply safe_lmem; with_reducible apply safe_foldl)
    | with_reducible intro _
    | split

theorem safe_requestWave (st : Nat) (fl : WaveFlags) (s : State) (h2 : Safe s) : Safe (requestWave st fl s) := by
  unfold requestWave
  repeat' first
    | with_reducible assumption
    | with_reducible apply safe_setStand
    | with_reducible apply safe_mk
    | with_reducible exact safe_mem (by assumption)
    | with_reducible exact safe_lmem (by assumption)
    | (with_reducible apply safe_mem; with_reducible apply safe_injectWave)
    | (with_reducible apply safe_lmem; with_reducible apply safe_injectWave)
    | (with_reducible apply safe_mem; with_reducible apply safe_setStand)
    | (with_reducible apply safe_lmem; with_reducible apply safe_setStand)
    | split
    | dsimp only

theorem safe_holdStand (st : Nat) (s : State) (h1 : Safe s) : Safe (holdStand st s) := by
  unfold holdStand
  repeat' first
    | with_reducible assumption
    | with_reducible apply safe_emitBlaze
    | with_reducible apply safe_setCtx
    | with_reducible apply safe_setStand
    | with_reducible apply safe_mk
    | with_reducible exact safe_mem (by assumption)
    | with_reducible exact safe_lmem (by assumption)
    | (with_reducible apply safe_mem; with_reducible apply safe_foldl)
    | (with_reducible apply safe_lmem; with_reducible apply safe_foldl)
    | (with_reducible apply safe_mem; with_reducible apply safe_injectWave)
    | (with_reducible apply safe_lmem; with_reducible apply safe_injectWave)
    | (with_reducible apply safe_mem; with_reducible apply safe_setStand)
    | (with_reducible apply safe_lmem; with_reducible apply safe_setStand)
    | with_reducible intro _
    | split

theorem safe_standRecord (st : Nat) (r : TrapRec) (own : Bool) (s : State) (h3 : Safe s) : Safe (standRecord st r own s) := by
  unfold standRecord
  repeat' first
    | with_reducible assumption
    | with_reducible apply safe_appendRecord
    | with_reducible apply safe_flitOn
    | with_reducible apply safe_mk
    | with_reducible exact safe_mem (by assumption)
    | with_reducible exact safe_lmem (by assumption)
    | (with_reducible apply safe_mem; with_reducible apply safe_appendRecord)
    | (with_reducible apply safe_lmem; with_reducible apply safe_appendRecord)
    | (with_reducible apply safe_mem; with_reducible apply safe_hostEvent)
    | (with_reducible apply safe_lmem; with_reducible apply safe_hostEvent)
    | split
    | dsimp only

theorem safe_trapStand (st : Nat) (r : TrapRec) (own : Bool) (s : State) (h3 : Safe s) : Safe (trapStand st r own s) := by
  unfold trapStand
  repeat' first
    | with_reducible assumption
    | with_reducible apply safe_holdStand
    | with_reducible apply safe_standRecord

theorem safe_schedule (q : SeqId) (s : State) (h1 : Safe s) : Safe (schedule q s) := by
  unfold schedule
  repeat' first
    | with_reducible assumption
    | with_reducible apply safe_mk
    | with_reducible exact safe_mem (by assumption)
    | with_reducible exact safe_lmem (by assumption)
    | (with_reducible apply safe_mem; with_reducible apply safe_setCtx)
    | (with_reducible apply safe_lmem; with_reducible apply safe_setCtx)
    | split

theorem safe_makeReady (q : SeqId) (s : State) (h1 : Safe s) : Safe (makeReady q s) := by
  unfold makeReady
  repeat' first
    | with_reducible assumption
    | with_reducible apply safe_schedule
    | with_reducible apply safe_updCtx

theorem safe_giveUp (q : SeqId) (r : RunState) (s : State) (h2 : Safe s) : Safe (giveUp q r s) := by
  unfold giveUp
  repeat' first
    | with_reducible assumption
    | with_reducible apply safe_schedule
    | with_reducible apply safe_updCtx

theorem safe_seqStop (q : SeqId) (cause : Nat) (code : Nat) (info epc : W64) (s : State) (h5 : Safe s) : Safe (seqStop q cause code info epc s) := by
  unfold seqStop
  repeat' first
    | with_reducible assumption
    | with_reducible apply safe_giveUp
    | with_reducible apply safe_setCtx
    | with_reducible apply safe_mk
    | (with_reducible apply safe_mem; with_reducible apply safe_giveUp)
    | (with_reducible apply safe_lmem; with_reducible apply safe_giveUp)
    | (with_reducible apply safe_mem; with_reducible apply safe_rootRecord)
    | (with_reducible apply safe_lmem; with_reducible apply safe_rootRecord)
    | (with_reducible apply safe_mem; with_reducible apply safe_trapStand)
    | (with_reducible apply safe_lmem; with_reducible apply safe_trapStand)
    | split

theorem safe_seqTrapAt (q : SeqId) (cause code : Nat) (info epc : W64) (s : State) (h5 : Safe s) : Safe (seqTrapAt q cause code info epc s) := by
  unfold seqTrapAt
  repeat' first
    | with_reducible assumption
    | with_reducible apply safe_mk
    | (with_reducible apply safe_mem; with_reducible apply safe_seqStop)
    | (with_reducible apply safe_lmem; with_reducible apply safe_seqStop)
    | (with_reducible apply safe_mem; with_reducible apply safe_setCtx)
    | (with_reducible apply safe_lmem; with_reducible apply safe_setCtx)
    | split

theorem safe_seqTrap (q : SeqId) (cause : Nat) (info : W64) (s : State) (h3 : Safe s) : Safe (seqTrap q cause info s) := by
  unfold seqTrap
  repeat' first
    | with_reducible assumption
    | with_reducible apply safe_seqTrapAt

theorem safe_cellTrap (k : TKey) (cause code pc : Nat) (op1 op2 op3 op4 : W32) (s : State) (h8 : Safe s) : Safe (cellTrap k cause code pc op1 op2 op3 op4 s) := by
  unfold cellTrap
  repeat' first
    | with_reducible assumption
    | with_reducible apply safe_setStand
    | with_reducible apply safe_mk
    | with_reducible exact safe_mem (by assumption)
    | with_reducible exact safe_lmem (by assumption)
    | (with_reducible apply safe_mem; with_reducible apply safe_trapStand)
    | (with_reducible apply safe_lmem; with_reducible apply safe_trapStand)
    | split
    | dsimp only

/-! ## Machine/Operands -/

theorem safe_State_tlbFill (s : State) (vf unit va : Nat) (h0 : Safe s) : Safe (State.tlbFill s vf unit va) := by
  unfold State.tlbFill
  repeat' first
    | with_reducible assumption
    | with_reducible apply safe_updVf

theorem safe_seqTouch (c : SeqCtx) (a : W64) (s : State) (h2 : Safe s) : Safe (seqTouch c a s) := by
  unfold seqTouch
  repeat' first
    | with_reducible assumption
    | with_reducible apply safe_State_tlbFill
    | with_reducible apply safe_mk
    | with_reducible exact safe_mem (by assumption)
    | with_reducible exact safe_lmem (by assumption)
    | (with_reducible apply safe_mem; with_reducible apply safe_flitOn)
    | (with_reducible apply safe_lmem; with_reducible apply safe_flitOn)
    | split

theorem safe_storeLocal (c : SeqCtx) (off n : Nat) (x : Reg) (s : State) (h4 : Safe s) : Safe (storeLocal c off n x s) := by
  unfold storeLocal
  repeat' first
    | with_reducible apply Memory.store_wf
    | with_reducible apply safe_mk
    | with_reducible exact safe_mem (by assumption)
    | with_reducible exact safe_lmem (by assumption)

theorem safe_writeFrame (q : SeqId) (off : Nat) (rs : List Reg) (s : State) (h3 : Safe s) : Safe (writeFrame q off rs s) := by
  unfold writeFrame
  repeat' first
    | with_reducible apply Memory.store_wf
    | with_reducible apply safe_mk
    | with_reducible exact safe_mem (by assumption)
    | with_reducible exact safe_lmem (by assumption)

theorem safe_spill (q : SeqId) (s : State) (h1 : Safe s) : optSafe (spill q s) := by
  unfold spill
  repeat' first
    | with_reducible assumption
    | with_reducible apply optSafe_some
    | with_reducible apply optSafe_none
    | with_reducible apply safe_setCtx
    | with_reducible apply safe_writeFrame
    | split
    | dsimp only

theorem safe_fill (q : SeqId) (depth : Nat) (s : State) (h2 : Safe s) : Safe (fill q depth s) := by
  unfold fill
  repeat' first
    | with_reducible assumption
    | with_reducible apply safe_setCtx

theorem safe_spillAll (q : SeqId) (n : Nat) (s : State) (h : Safe s) : Safe (spillAll q n s).1 := by
  induction n generalizing s with
  | zero => exact h
  | succ n ih =>
    unfold spillAll
    repeat' first
    | with_reducible assumption
    | (with_reducible apply safe_mem; with_reducible apply ih)
    | (with_reducible apply safe_lmem; with_reducible apply ih)
    | with_reducible apply safe_spill
    | with_reducible apply safe_mk
    | with_reducible exact safe_mem (by assumption)
    | with_reducible exact safe_lmem (by assumption)
    | (with_reducible apply safe_mem; with_reducible refine safe_of_some (by with_reducible assumption) ?_)
    | (with_reducible apply safe_lmem; with_reducible refine safe_of_some (by with_reducible assumption) ?_)
    | split

/-! ## Machine/Tags -/

theorem safe_removeRec (die id : Nat) (s : State) (h2 : Safe s) : Safe (removeRec die id s) := by
  unfold removeRec
  repeat' first
    | with_reducible assumption
    | with_reducible apply safe_updDie
    | with_reducible apply safe_mk
    | with_reducible exact safe_mem (by assumption)
    | with_reducible exact safe_lmem (by assumption)
    | (with_reducible apply safe_mem; with_reducible apply safe_updDie)
    | (with_reducible apply safe_lmem; with_reducible apply safe_updDie)
    | (with_reducible apply safe_mem; with_reducible apply safe_updVf)
    | (with_reducible apply safe_lmem; with_reducible apply safe_updVf)
    | split
    | dsimp only

theorem safe_checkRecord (die : Nat) (r : Rec) (s : State) (h2 : Safe s) : Safe (checkRecord die r s) := by
  unfold checkRecord
  repeat' first
    | with_reducible assumption
    | with_reducible apply safe_removeRec
    | with_reducible apply safe_mk
    | with_reducible exact safe_mem (by assumption)
    | with_reducible exact safe_lmem (by assumption)
    | (with_reducible apply safe_mem; with_reducible apply safe_rootRecord)
    | (with_reducible apply safe_lmem; with_reducible apply safe_rootRecord)
    | split

theorem safe_checkRecords (vf tid : Nat) (s : State) (h2 : Safe s) : Safe (checkRecords vf tid s) := by
  unfold checkRecords
  repeat' first
    | with_reducible assumption
    | with_reducible apply safe_foldl
    | with_reducible apply safe_mk
    | with_reducible exact safe_mem (by assumption)
    | with_reducible exact safe_lmem (by assumption)
    | (with_reducible apply safe_mem; with_reducible apply safe_checkRecord)
    | (with_reducible apply safe_lmem; with_reducible apply safe_checkRecord)
    | with_reducible intro _
    | split

theorem safe_notify (vf : Nat) (ref : W64) (s : State) (h2 : Safe s) : Safe (notify vf ref s) := by
  unfold notify
  repeat' first
    | with_reducible assumption
    | with_reducible apply safe_updDie
    | with_reducible apply safe_foldl
    | with_reducible apply safe_mk
    | with_reducible exact safe_mem (by assumption)
    | with_reducible exact safe_lmem (by assumption)
    | (with_reducible apply safe_mem; with_reducible apply safe_flitOn)
    | (with_reducible apply safe_lmem; with_reducible apply safe_flitOn)
    | with_reducible intro _
    | split

theorem safe_setBit (pa bit : Nat) (s : State) (h2 : Safe s) : Safe (setBit pa bit s) := by
  unfold setBit
  repeat' first
    | with_reducible apply Memory.setByte_wf
    | with_reducible apply safe_mk
    | with_reducible exact safe_mem (by assumption)
    | with_reducible exact safe_lmem (by assumption)

theorem safe_enterTag (vf : Nat) (e : TEnt) (ref : W64) (s : State) (h3 : Safe s) : Safe (enterTag vf e ref s).1 := by
  unfold enterTag
  repeat' first
    | with_reducible assumption
    | with_reducible apply safe_setBit
    | with_reducible apply safe_updVf
    | with_reducible apply safe_mk
    | with_reducible exact safe_mem (by assumption)
    | with_reducible exact safe_lmem (by assumption)
    | (with_reducible apply safe_mem; with_reducible apply safe_updDie)
    | (with_reducible apply safe_lmem; with_reducible apply safe_updDie)
    | split
    | dsimp only

theorem safe_publish (vf : Nat) (stand : Option Nat) (ref : W64) (s : State) (h3 : Safe s) : Safe (publish vf stand ref s).1 := by
  unfold publish
  repeat' first
    | with_reducible assumption
    | with_reducible apply safe_enterTag
    | with_reducible apply safe_mk
    | with_reducible exact safe_mem (by assumption)
    | with_reducible exact safe_lmem (by assumption)
    | (with_reducible apply safe_mem; with_reducible apply safe_enterTag)
    | (with_reducible apply safe_lmem; with_reducible apply safe_enterTag)
    | (with_reducible apply safe_mem; with_reducible apply safe_notify)
    | (with_reducible apply safe_lmem; with_reducible apply safe_notify)
    | split
    | dsimp only

theorem safe_hostPublish (vf : Nat) (ref : W64) (s : State) (h2 : Safe s) : Safe (hostPublish vf ref s) := by
  unfold hostPublish
  repeat' first
    | with_reducible assumption
    | with_reducible apply safe_publish
    | with_reducible apply safe_updVf

theorem safe_hostQuery (vf : Nat) (ref : W64) (s : State) (h2 : Safe s) : Safe (hostQuery vf ref s) := by
  unfold hostQuery
  repeat' first
    | with_reducible assumption
    | with_reducible apply safe_updVf

theorem safe_holdHost (vf : Nat) (x : HostWait) (s : State) (h2 : Safe s) : Safe (holdHost vf x s) := by
  unfold holdHost
  repeat' first
    | with_reducible assumption
    | with_reducible apply safe_updVf

theorem safe_clearBitmapByte (vf : Nat) (e : TEnt) (s : State) (n : Nat) (h2 : Safe s) : Safe (clearBitmapByte vf e s n) := by
  unfold clearBitmapByte
  repeat' first
    | with_reducible apply Memory.setByte_wf
    | with_reducible apply safe_mk
    | with_reducible exact safe_mem (by assumption)
    | with_reducible exact safe_lmem (by assumption)
    | split
    | dsimp only

theorem safe_advance (vf tid : Nat) (s : State) (h2 : Safe s) : Safe (advance vf tid s).1 := by
  unfold advance
  repeat' first
    | with_reducible assumption
    | with_reducible apply safe_clearBitmapByte
    | with_reducible apply safe_updDie
    | with_reducible apply safe_updVf
    | with_reducible apply safe_foldl
    | with_reducible apply safe_mk
    | with_reducible exact safe_mem (by assumption)
    | with_reducible exact safe_lmem (by assumption)
    | (with_reducible apply safe_mem; with_reducible apply safe_checkRecords)
    | (with_reducible apply safe_lmem; with_reducible apply safe_checkRecords)
    | split

theorem safe_enterRec (vf die : Nat) (w : BitVec 1024) (s : State) (h3 : Safe s) : Safe (enterRec vf die w s) := by
  unfold enterRec
  repeat' first
    | with_reducible assumption
    | with_reducible apply safe_checkRecord
    | with_reducible apply safe_updDie

theorem safe_launch (vf die : Nat) (w : BitVec 1024) (s : State) (h3 : Safe s) : Safe (launch vf die w s).1 := by
  unfold launch
  repeat' first
    | with_reducible assumption
    | with_reducible apply safe_mk
    | with_reducible exact safe_mem (by assumption)
    | with_reducible exact safe_lmem (by assumption)
    | (with_reducible apply safe_mem; with_reducible apply safe_enterRec)
    | (with_reducible apply safe_lmem; with_reducible apply safe_enterRec)
    | split
    | dsimp only

/-! ## Machine/Stands -/

theorem safe_feedBlk (st : Nat) (b : Blk) (s : State) (h2 : Safe s) : Safe (feedBlk st b s) := by
  unfold feedBlk
  repeat' first
    | with_reducible apply safe_setStand
    | with_reducible apply safe_updCtx
    | with_reducible apply safe_mk
    | with_reducible exact safe_mem (by assumption)
    | with_reducible exact safe_lmem (by assumption)
    | (with_reducible apply safe_mem; with_reducible apply safe_makeReady)
    | (with_reducible apply safe_lmem; with_reducible apply safe_makeReady)
    | split

theorem safe_feedNext (st : Nat) (s : State) (h1 : Safe s) : Safe (feedNext st s) := by
  unfold feedNext
  repeat' first
    | with_reducible assumption
    | with_reducible apply safe_mk
    | with_reducible exact safe_mem (by assumption)
    | with_reducible exact safe_lmem (by assumption)
    | (with_reducible apply safe_mem; with_reducible apply safe_feedBlk)
    | (with_reducible apply safe_lmem; with_reducible apply safe_feedBlk)
    | split

theorem safe_endFeed (st : Nat) (s : State) (h1 : Safe s) : Safe (endFeed st s) := by
  unfold endFeed
  repeat' first
    | with_reducible assumption
    | with_reducible apply safe_requestWave
    | with_reducible apply safe_schedule
    | with_reducible apply safe_setCtx
    | with_reducible apply safe_setStand
    | with_reducible apply safe_mk
    | with_reducible exact safe_mem (by assumption)
    | with_reducible exact safe_lmem (by assumption)
    | (with_reducible apply safe_mem; with_reducible apply safe_feedNext)
    | (with_reducible apply safe_lmem; with_reducible apply safe_feedNext)
    | (with_reducible apply safe_mem; with_reducible apply safe_schedule)
    | (with_reducible apply safe_lmem; with_reducible apply safe_schedule)
    | split
    | dsimp only

theorem safe_ringEvent (die kind unit ev : Nat) (s : State) (h4 : Safe s) : Safe (ringEvent die kind unit ev s) := by
  unfold ringEvent
  repeat' first
    | with_reducible apply safe_mk
    | with_reducible exact safe_mem (by assumption)
    | with_reducible exact safe_lmem (by assumption)

theorem safe_makeSuspect (die : Nat) (slice : Bool) (unit : Nat) (s : State) (h3 : Safe s) : Safe (makeSuspect die slice unit s) := by
  unfold makeSuspect
  repeat' first
    | with_reducible assumption
    | with_reducible apply safe_hostEvent
    | with_reducible apply safe_ringEvent
    | with_reducible apply safe_updDie

theorem safe_countError (die kind unit : Nat) (s : State) (h3 : Safe s) : Safe (countError die kind unit s) := by
  unfold countError
  repeat' first
    | with_reducible assumption
    | with_reducible apply safe_updDie
    | with_reducible apply safe_mk
    | (with_reducible apply safe_mem; with_reducible apply safe_makeSuspect)
    | (with_reducible apply safe_lmem; with_reducible apply safe_makeSuspect)
    | (with_reducible apply safe_mem; with_reducible apply safe_updDie)
    | (with_reducible apply safe_lmem; with_reducible apply safe_updDie)
    | split

theorem safe_retireComp (die n : Nat) (s : State) (h2 : Safe s) : Safe (retireComp die n s) := by
  unfold retireComp
  repeat' first
    | with_reducible assumption
    | with_reducible apply safe_updDie
    | with_reducible apply safe_mk
    | (with_reducible apply safe_mem; with_reducible apply safe_ringEvent)
    | (with_reducible apply safe_lmem; with_reducible apply safe_ringEvent)

theorem safe_leaveBox (t : Stand) (s : State) (h1 : Safe s) : Safe (leaveBox t s) := by
  unfold leaveBox
  repeat' first
    | with_reducible assumption
    | with_reducible apply safe_foldl
    | with_reducible apply safe_mk
    | with_reducible exact safe_mem (by assumption)
    | with_reducible exact safe_lmem (by assumption)
    | (with_reducible apply safe_mem; with_reducible apply safe_retireComp)
    | (with_reducible apply safe_lmem; with_reducible apply safe_retireComp)
    | with_reducible intro _
    | split

theorem safe_discardTransit (t : Stand) (s : State) (h1 : Safe s) : Safe (discardTransit t s) := by
  unfold discardTransit
  repeat' first
    | with_reducible apply safe_mk
    | with_reducible exact safe_mem (by assumption)
    | with_reducible exact safe_lmem (by assumption)

theorem safe_sendColl (s : State) (p : CollPart) (h0 : Safe s) : Safe (sendColl s p) := by
  unfold sendColl
  repeat' first
    | with_reducible apply safe_mk
    | with_reducible exact safe_mem (by assumption)
    | with_reducible exact safe_lmem (by assumption)
    | (with_reducible apply safe_mem; with_reducible apply safe_emit)
    | (with_reducible apply safe_lmem; with_reducible apply safe_emit)
    | split

theorem safe_updColls (f : List CollPart → List CollPart) (s : State) (h1 : Safe s) : Safe (updColls f s) := by
  unfold updColls
  repeat' first
    | with_reducible apply safe_sendColl
    | with_reducible apply safe_foldl
    | with_reducible apply safe_mk
    | with_reducible exact safe_mem (by assumption)
    | with_reducible exact safe_lmem (by assumption)

theorem safe_withdrawRequests (t : Stand) (s : State) (h1 : Safe s) : Safe (withdrawRequests t s) := by
  unfold withdrawRequests
  repeat' first
    | with_reducible apply safe_mk
    | with_reducible exact safe_mem (by assumption)
    | with_reducible exact safe_lmem (by assumption)

theorem safe_withdrawStand (t : Stand) (img : Option StandImage) (s : State) (h2 : Safe s) : Safe (withdrawStand t img s) := by
  unfold withdrawStand
  repeat' first
    | with_reducible assumption
    | with_reducible apply safe_updColls
    | with_reducible apply safe_withdrawRequests

theorem safe_freeStand (st : Nat) (s : State) (h1 : Safe s) : Safe (freeStand st s) := by
  unfold freeStand
  repeat' first
    | with_reducible assumption
    | with_reducible apply safe_discardTransit
    | with_reducible apply safe_leaveBox
    | with_reducible apply safe_setCtx
    | with_reducible apply safe_mk
    | with_reducible exact safe_mem (by assumption)
    | with_reducible exact safe_lmem (by assumption)
    | (with_reducible apply safe_mem; with_reducible apply safe_schedule)
    | (with_reducible apply safe_lmem; with_reducible apply safe_schedule)
    | (with_reducible apply safe_mem; with_reducible apply safe_withdrawStand)
    | (with_reducible apply safe_lmem; with_reducible apply safe_withdrawStand)
    | split
    | dsimp only

theorem safe_restoreSpill (c : SeqCtx) (bs : List Byte) (s : State) (h2 : Safe s) : Safe (restoreSpill c bs s) := by
  unfold restoreSpill
  repeat' first
    | with_reducible apply Memory.setBytes_wf
    | with_reducible apply safe_mk
    | with_reducible exact safe_mem (by assumption)
    | with_reducible exact safe_lmem (by assumption)

theorem safe_rollback (st : Nat) (s : State) (h1 : Safe s) : Safe (rollback st s) := by
  unfold rollback
  repeat' first
    | with_reducible assumption
    | with_reducible apply safe_discardTransit
    | with_reducible apply safe_feedNext
    | with_reducible apply safe_restoreSpill
    | with_reducible apply safe_schedule
    | with_reducible apply safe_setCtx
    | with_reducible apply safe_setStand
    | with_reducible apply safe_withdrawStand
    | with_reducible apply safe_mk
    | with_reducible exact safe_mem (by assumption)
    | with_reducible exact safe_lmem (by assumption)
    | (with_reducible apply safe_mem; with_reducible apply safe_feedNext)
    | (with_reducible apply safe_lmem; with_reducible apply safe_feedNext)
    | (with_reducible apply safe_mem; with_reducible apply safe_makeReady)
    | (with_reducible apply safe_lmem; with_reducible apply safe_makeReady)
    | (with_reducible apply safe_mem; with_reducible apply safe_requestWave)
    | (with_reducible apply safe_lmem; with_reducible apply safe_requestWave)
    | (with_reducible apply safe_mem; with_reducible apply safe_setCtx)
    | (with_reducible apply safe_lmem; with_reducible apply safe_setCtx)
    | split
    | dsimp only

theorem safe_resumeHeld (st : Nat) (s : State) (h1 : Safe s) : Safe (resumeHeld st s) := by
  unfold resumeHeld
  repeat' first
    | with_reducible assumption
    | with_reducible apply safe_setStand
    | with_reducible apply safe_updCtx
    | with_reducible apply safe_mk
    | with_reducible exact safe_mem (by assumption)
    | with_reducible exact safe_lmem (by assumption)
    | (with_reducible apply safe_mem; with_reducible apply safe_requestWave)
    | (with_reducible apply safe_lmem; with_reducible apply safe_requestWave)
    | (with_reducible apply safe_mem; with_reducible apply safe_updCtx)
    | (with_reducible apply safe_lmem; with_reducible apply safe_updCtx)
    | split

theorem safe_removeBlocks (t : Stand) (s : State) (h1 : Safe s) : Safe (removeBlocks t s) := by
  unfold removeBlocks
  repeat' first
    | with_reducible assumption
    | with_reducible apply safe_hostEvent
    | with_reducible apply safe_removeRec
    | with_reducible apply safe_foldl
    | with_reducible intro _

theorem safe_stopStand (st : Nat) (s : State) (h1 : Safe s) : Safe (stopStand st s) := by
  unfold stopStand
  repeat' first
    | with_reducible assumption
    | with_reducible apply safe_removeBlocks
    | with_reducible apply safe_mk
    | with_reducible exact safe_mem (by assumption)
    | with_reducible exact safe_lmem (by assumption)
    | (with_reducible apply safe_mem; with_reducible apply safe_freeStand)
    | (with_reducible apply safe_lmem; with_reducible apply safe_freeStand)
    | split

theorem safe_applyAct (st act : Nat) (s : State) (h2 : Safe s) : Safe (applyAct st act s) := by
  unfold applyAct
  repeat' first
    | with_reducible assumption
    | with_reducible apply safe_mk
    | (with_reducible apply safe_mem; with_reducible apply safe_resumeHeld)
    | (with_reducible apply safe_lmem; with_reducible apply safe_resumeHeld)
    | (with_reducible apply safe_mem; with_reducible apply safe_rollback)
    | (with_reducible apply safe_lmem; with_reducible apply safe_rollback)
    | (with_reducible apply safe_mem; with_reducible apply safe_stopStand)
    | (with_reducible apply safe_lmem; with_reducible apply safe_stopStand)
    | split

theorem safe_tryLeave (st : Nat) (s : State) (h1 : Safe s) : Safe (tryLeave st s) := by
  unfold tryLeave
  repeat' first
    | with_reducible assumption
    | with_reducible apply safe_mk
    | with_reducible exact safe_mem (by assumption)
    | with_reducible exact safe_lmem (by assumption)
    | (with_reducible apply safe_mem; with_reducible apply safe_applyAct)
    | (with_reducible apply safe_lmem; with_reducible apply safe_applyAct)
    | split
    | dsimp only

theorem safe_handlerReturn (q : SeqId) (s : State) (h1 : Safe s) : Safe (handlerReturn q s) := by
  unfold handlerReturn
  repeat' first
    | with_reducible assumption
    | with_reducible apply safe_updStand
    | with_reducible apply safe_mk
    | with_reducible exact safe_mem (by assumption)
    | with_reducible exact safe_lmem (by assumption)
    | (with_reducible apply safe_mem; with_reducible apply safe_tryLeave)
    | (with_reducible apply safe_lmem; with_reducible apply safe_tryLeave)
    | split

theorem safe_startWaiting (st : Nat) (s : State) (h1 : Safe s) : Safe (startWaiting st s) := by
  unfold startWaiting
  repeat' first
    | with_reducible assumption
    | with_reducible apply safe_setStand
    | with_reducible apply safe_mk
    | with_reducible exact safe_mem (by assumption)
    | with_reducible exact safe_lmem (by assumption)
    | (with_reducible apply safe_mem; with_reducible apply safe_requestWave)
    | (with_reducible apply safe_lmem; with_reducible apply safe_requestWave)
    | split

theorem safe_serviceHead (q : SeqId) (h : W32) (s : State) (h2 : Safe s) : Safe (serviceHead q h s) := by
  unfold serviceHead
  repeat' first
    | with_reducible assumption
    | with_reducible apply safe_setCtx
    | with_reducible apply safe_tryLeave
    | with_reducible apply safe_updStand
    | with_reducible apply safe_mk
    | with_reducible exact safe_mem (by assumption)
    | with_reducible exact safe_lmem (by assumption)
    | (with_reducible apply safe_mem; with_reducible apply safe_setCtx)
    | (with_reducible apply safe_lmem; with_reducible apply safe_setCtx)
    | (with_reducible apply safe_mem; with_reducible apply safe_startWaiting)
    | (with_reducible apply safe_lmem; with_reducible apply safe_startWaiting)
    | split

/-! ## Machine/Barrier -/

theorem safe_State_setBarrier (s : State) (k : BarKey) (b : Option Barrier) (h0 : Safe s) : Safe (State.setBarrier s k b) := by
  unfold State.setBarrier
  repeat' first
    | with_reducible apply safe_mk
    | with_reducible exact safe_mem (by assumption)
    | with_reducible exact safe_lmem (by assumption)

theorem safe_completeMember (bit : Bool) (m : BarMember) (s : State) (h2 : Safe s) : Safe (completeMember bit m s) := by
  unfold completeMember
  repeat' first
    | with_reducible assumption
    | with_reducible apply safe_mk
    | (with_reducible apply safe_mem; with_reducible apply safe_updCtx)
    | (with_reducible apply safe_lmem; with_reducible apply safe_updCtx)
    | (with_reducible apply safe_mem; with_reducible apply safe_updStand)
    | (with_reducible apply safe_lmem; with_reducible apply safe_updStand)
    | split

theorem safe_settleBarrier (k : BarKey) (s : State) (h1 : Safe s) : Safe (settleBarrier k s) := by
  unfold settleBarrier
  repeat' first
    | with_reducible assumption
    | with_reducible apply safe_completeMember
    | with_reducible apply safe_State_setBarrier
    | with_reducible apply safe_mk
    | with_reducible exact safe_mem (by assumption)
    | with_reducible exact safe_lmem (by assumption)
    | (with_reducible apply safe_mem; with_reducible apply safe_foldl)
    | (with_reducible apply safe_lmem; with_reducible apply safe_foldl)
    | with_reducible intro _
    | split

theorem safe_arrive (k : BarKey) (m : BarMember) (bit : Bool) (s : State) (h3 : Safe s) : Safe (arrive k m bit s) := by
  unfold arrive
  repeat' first
    | with_reducible assumption
    | with_reducible apply safe_State_setBarrier
    | with_reducible apply safe_settleBarrier
    | with_reducible apply safe_mk
    | (with_reducible apply safe_mem; with_reducible apply safe_emit)
    | (with_reducible apply safe_lmem; with_reducible apply safe_emit)
    | (with_reducible apply safe_mem; with_reducible apply safe_State_setBarrier)
    | (with_reducible apply safe_lmem; with_reducible apply safe_State_setBarrier)
    | split

theorem safe_withdraw (m : BarMember) (s : State) (h1 : Safe s) : Safe (withdraw m s) := by
  unfold withdraw
  repeat' first
    | with_reducible apply safe_mk
    | with_reducible exact safe_mem (by assumption)
    | with_reducible exact safe_lmem (by assumption)

/-! ## Machine/SeqFrame -/

theorem safe_SeqAns_apply (q : SeqId) (a : SeqAns) (ha : seqSafe a) : Safe (SeqAns.apply q a) := by
  cases a
  all_goals try simp only [seqSafe] at ha
  all_goals
    unfold SeqAns.apply
    repeat' first
    | with_reducible assumption
    | with_reducible apply safe_giveUp
    | with_reducible apply safe_seqTrapAt
    | with_reducible apply safe_updCtx

theorem safe_seqIssue (i : Instr) (u : SeqUse) (body : SeqCtx → State → SeqAns) (q : SeqId) (s : State) (h2 : ∀ c s, Safe s → seqSafe (body c s)) (h4 : Safe s) : Safe (seqIssue i u body q s) := by
  unfold seqIssue
  repeat' first
    | with_reducible assumption
    | with_reducible apply h2
    | with_reducible apply seqSafe_done
    | with_reducible apply safe_mk
    | (with_reducible apply safe_mem; with_reducible apply safe_SeqAns_apply)
    | (with_reducible apply safe_lmem; with_reducible apply safe_SeqAns_apply)
    | (with_reducible apply safe_mem; with_reducible apply safe_seqTrap)
    | (with_reducible apply safe_lmem; with_reducible apply safe_seqTrap)
    | split

theorem safe_runSeq (i : Instr) (u : SeqUse) (body : SeqCtx → State → SeqAns) (s : State) (h2 : ∀ c s, Safe s → seqSafe (body c s)) (h3 : Safe s) : outSafe (runSeq i u body s) := by
  unfold runSeq
  repeat' first
    | with_reducible assumption
    | with_reducible apply outSafe_next
    | with_reducible apply outSafe_fault
    | with_reducible apply safe_seqIssue
    | split

theorem safe_setReg (c : SeqCtx) (d : Code6) (x : Reg) (s : State) (h3 : Safe s) : Safe (setReg c d x s) := by
  unfold setReg
  repeat' first
    | with_reducible assumption
    | with_reducible apply safe_setCtx

theorem safe_setPred (c : SeqCtx) (n : Nat) (b : Bool) (s : State) (h3 : Safe s) : Safe (setPred c n b s) := by
  unfold setPred
  repeat' first
    | with_reducible assumption
    | with_reducible apply safe_setCtx

/-! ## Machine/SeqMem -/

theorem safe_seqLoad (i : Instr) (f : SI) (n : Nat) (s : State) (h3 : Safe s) : outSafe (seqLoad i f n s) := by
  unfold seqLoad
  repeat' first
    | with_reducible assumption
    | with_reducible apply seqSafe_done
    | with_reducible apply seqSafe_trap
    | with_reducible apply seqSafe_stay
    | with_reducible apply safe_runSeq
    | with_reducible apply safe_seqTouch
    | with_reducible apply safe_setReg
    | with_reducible intro _
    | split
    | dsimp only

theorem safe_execSiLdb (f : SI) (s : State) (h1 : Safe s) : outSafe (execSiLdb f s) := by
  unfold execSiLdb
  repeat' first
    | with_reducible assumption
    | with_reducible apply safe_seqLoad

theorem safe_execSiLdh (f : SI) (s : State) (h1 : Safe s) : outSafe (execSiLdh f s) := by
  unfold execSiLdh
  repeat' first
    | with_reducible assumption
    | with_reducible apply safe_seqLoad

theorem safe_execSiLdw (f : SI) (s : State) (h1 : Safe s) : outSafe (execSiLdw f s) := by
  unfold execSiLdw
  repeat' first
    | with_reducible assumption
    | with_reducible apply safe_seqLoad

theorem safe_execSiLdd (f : SI) (s : State) (h1 : Safe s) : outSafe (execSiLdd f s) := by
  unfold execSiLdd
  repeat' first
    | with_reducible assumption
    | with_reducible apply safe_seqLoad

theorem safe_queueStore (q : SeqId) (reg n v : Nat) (s : State) (h4 : Safe s) : Safe (queueStore q reg n v s) := by
  unfold queueStore
  repeat' first
    | with_reducible assumption
    | with_reducible apply safe_mk
    | with_reducible exact safe_mem (by assumption)
    | with_reducible exact safe_lmem (by assumption)
    | (with_reducible apply safe_mem; with_reducible apply safe_serviceHead)
    | (with_reducible apply safe_lmem; with_reducible apply safe_serviceHead)
    | (with_reducible apply safe_mem; with_reducible apply safe_updCtx)
    | (with_reducible apply safe_lmem; with_reducible apply safe_updCtx)
    | split

theorem safe_seqStoreAt (c : SeqCtx) (n : Nat) (x : Reg) (s : State) (p : SeqPlace) (h : Safe s) : seqSafe (seqStoreAt c n x s p) := by
  cases p
  all_goals 
  all_goals
    unfold seqStoreAt
    repeat' first
    | with_reducible assumption
    | with_reducible apply seqSafe_done
    | with_reducible apply seqSafe_wait
    | with_reducible apply seqSafe_stay
    | with_reducible apply safe_queueStore
    | with_reducible apply safe_requestWave
    | with_reducible apply safe_setStand
    | with_reducible apply safe_storeLocal
    | with_reducible apply safe_updCtx
    | with_reducible apply Memory.store_wf
    | with_reducible apply safe_mk
    | with_reducible exact safe_mem (by assumption)
    | with_reducible exact safe_lmem (by assumption)
    | split
    | dsimp only

theorem safe_seqStore (i : Instr) (f : SI) (n : Nat) (s : State) (h3 : Safe s) : outSafe (seqStore i f n s) := by
  unfold seqStore
  repeat' first
    | with_reducible assumption
    | with_reducible apply seqSafe_trap
    | with_reducible apply seqSafe_stay
    | with_reducible apply safe_runSeq
    | with_reducible apply safe_seqStoreAt
    | with_reducible apply safe_seqTouch
    | with_reducible intro _
    | split
    | dsimp only

theorem safe_execSiStb (f : SI) (s : State) (h1 : Safe s) : outSafe (execSiStb f s) := by
  unfold execSiStb
  repeat' first
    | with_reducible assumption
    | with_reducible apply safe_seqStore

theorem safe_execSiSth (f : SI) (s : State) (h1 : Safe s) : outSafe (execSiSth f s) := by
  unfold execSiSth
  repeat' first
    | with_reducible assumption
    | with_reducible apply safe_seqStore

theorem safe_execSiStw (f : SI) (s : State) (h1 : Safe s) : outSafe (execSiStw f s) := by
  unfold execSiStw
  repeat' first
    | with_reducible assumption
    | with_reducible apply safe_seqStore

theorem safe_execSiStd (f : SI) (s : State) (h1 : Safe s) : outSafe (execSiStd f s) := by
  unfold execSiStd
  repeat' first
    | with_reducible assumption
    | with_reducible apply safe_seqStore

theorem safe_commitWord (st pa : Nat) (s : State) (h2 : Safe s) : Safe (commitWord st pa s) := by
  unfold commitWord
  repeat' first
    | with_reducible apply Memory.store_wf
    | with_reducible apply safe_mk
    | with_reducible exact safe_mem (by assumption)
    | with_reducible exact safe_lmem (by assumption)
    | (with_reducible apply safe_mem; with_reducible apply safe_setStand)
    | (with_reducible apply safe_lmem; with_reducible apply safe_setStand)
    | split

theorem safe_commitFor (c : SeqCtx) (pa : Nat) (s : State) (h2 : Safe s) : Safe (commitFor c pa s) := by
  unfold commitFor
  repeat' first
    | with_reducible assumption
    | with_reducible apply safe_commitWord
    | with_reducible apply safe_mk
    | with_reducible exact safe_mem (by assumption)
    | with_reducible exact safe_lmem (by assumption)
    | (with_reducible apply safe_mem; with_reducible apply safe_commitWord)
    | (with_reducible apply safe_lmem; with_reducible apply safe_commitWord)
    | split

theorem safe_amoAt (c : SeqCtx) (d : Code6) (a : W64) (fn : W64 → W64) (s : State) (p : SeqPlace) (h : Safe s) : seqSafe (amoAt c d a fn s p) := by
  cases p
  all_goals 
  all_goals
    unfold amoAt
    repeat' first
    | with_reducible assumption
    | with_reducible apply seqSafe_done
    | with_reducible apply seqSafe_trap
    | with_reducible apply seqSafe_stay
    | with_reducible apply safe_queueStore
    | with_reducible apply safe_setReg
    | with_reducible apply safe_updCtx
    | with_reducible apply Memory.store_wf
    | with_reducible apply safe_mk
    | with_reducible exact safe_mem (by assumption)
    | with_reducible exact safe_lmem (by assumption)
    | (with_reducible apply safe_mem; with_reducible apply safe_commitFor)
    | (with_reducible apply safe_lmem; with_reducible apply safe_commitFor)
    | split
    | dsimp only

theorem safe_seqAmo (i : Instr) (f : SR) (reads : List Code6) (fn : SeqCtx → W64 → W64) (s : State) (h4 : Safe s) : outSafe (seqAmo i f reads fn s) := by
  unfold seqAmo
  repeat' first
    | with_reducible assumption
    | with_reducible apply seqSafe_trap
    | with_reducible apply seqSafe_stay
    | with_reducible apply safe_amoAt
    | with_reducible apply safe_runSeq
    | with_reducible apply safe_seqTouch
    | with_reducible intro _
    | split
    | dsimp only

theorem safe_execSaAmoAdd (f : SR) (s : State) (h1 : Safe s) : outSafe (execSaAmoAdd f s) := by
  unfold execSaAmoAdd
  repeat' first
    | with_reducible assumption
    | with_reducible apply safe_seqAmo

theorem safe_execSaAmoMin (f : SR) (s : State) (h1 : Safe s) : outSafe (execSaAmoMin f s) := by
  unfold execSaAmoMin
  repeat' first
    | with_reducible assumption
    | with_reducible apply safe_seqAmo

theorem safe_execSaAmoMax (f : SR) (s : State) (h1 : Safe s) : outSafe (execSaAmoMax f s) := by
  unfold execSaAmoMax
  repeat' first
    | with_reducible assumption
    | with_reducible apply safe_seqAmo

theorem safe_execSaAmoAnd (f : SR) (s : State) (h1 : Safe s) : outSafe (execSaAmoAnd f s) := by
  unfold execSaAmoAnd
  repeat' first
    | with_reducible assumption
    | with_reducible apply safe_seqAmo

theorem safe_execSaAmoOr (f : SR) (s : State) (h1 : Safe s) : outSafe (execSaAmoOr f s) := by
  unfold execSaAmoOr
  repeat' first
    | with_reducible assumption
    | with_reducible apply safe_seqAmo

theorem safe_execSaAmoXchg (f : SR) (s : State) (h1 : Safe s) : outSafe (execSaAmoXchg f s) := by
  unfold execSaAmoXchg
  repeat' first
    | with_reducible assumption
    | with_reducible apply safe_seqAmo

theorem safe_execSaAmoCas (f : SR) (s : State) (h1 : Safe s) : outSafe (execSaAmoCas f s) := by
  unfold execSaAmoCas
  repeat' first
    | with_reducible assumption
    | with_reducible apply safe_seqAmo

theorem safe_launchWaiting (vf die : Nat) (l : List (BitVec 1024)) (s : State) (h : Safe s) : Safe (launchWaiting vf die l s) := by
  induction l generalizing s with
  | nil => exact safe_updVf h
  | cons w ws ih =>
    unfold launchWaiting
    repeat' first
    | with_reducible assumption
    | (with_reducible apply safe_mem; with_reducible apply ih)
    | (with_reducible apply safe_lmem; with_reducible apply ih)
    | with_reducible apply safe_launch
    | with_reducible apply safe_mk
    | (with_reducible apply safe_mem; with_reducible apply safe_updVf)
    | (with_reducible apply safe_lmem; with_reducible apply safe_updVf)
    | split

theorem safe_rootFirst (c : SeqCtx) (s : State) (h1 : Safe s) : Safe (rootFirst c s) := by
  unfold rootFirst
  repeat' first
    | with_reducible assumption
    | with_reducible apply safe_mk
    | with_reducible exact safe_mem (by assumption)
    | with_reducible exact safe_lmem (by assumption)
    | (with_reducible apply safe_mem; with_reducible apply safe_launchWaiting)
    | (with_reducible apply safe_lmem; with_reducible apply safe_launchWaiting)
    | split

theorem safe_execSsLnch (f : SR) (s : State) (h1 : Safe s) : outSafe (execSsLnch f s) := by
  unfold execSsLnch
  repeat' first
    | with_reducible assumption
    | with_reducible apply seqSafe_done
    | with_reducible apply seqSafe_trap
    | with_reducible apply seqSafe_stay
    | with_reducible apply safe_launch
    | with_reducible apply safe_rootFirst
    | with_reducible apply safe_runSeq
    | with_reducible apply safe_seqTouch
    | with_reducible apply safe_updCtx
    | with_reducible intro _
    | split
    | dsimp only

/-! ## Machine/Ports -/

theorem safe_State_updWeave (s : State) (w : WKey) (f : Weave → Weave) (h0 : Safe s) : Safe (State.updWeave s w f) := by
  unfold State.updWeave
  repeat' first
    | with_reducible assumption
    | with_reducible apply safe_updStand

theorem safe_State_updTask (s : State) (k : TKey) (f : Task → Task) (h0 : Safe s) : Safe (State.updTask s k f) := by
  unfold State.updTask
  repeat' first
    | with_reducible assumption
    | with_reducible apply safe_State_updWeave

theorem safe_noteLate (k : TKey) (port : Nat) (o : Origin) (tok : Tok) (s : State) (h4 : Safe s) : Safe (noteLate k port o tok s) := by
  unfold noteLate
  repeat' first
    | with_reducible assumption
    | with_reducible apply safe_updStand

theorem safe_updCopy (k : TKey) (port : Nat) (f : PortQ → PortQ) (s : State) (h3 : Safe s) : Safe (updCopy k port f s) := by
  unfold updCopy
  repeat' first
    | with_reducible assumption
    | with_reducible apply safe_State_updTask

theorem safe_nodeInput (st : Nat) (p : WPos) (nid port : Nat) (o : Origin) (tok : Tok) (s : State) (h6 : Safe s) : Safe (nodeInput st p nid port o tok s) := by
  unfold nodeInput
  repeat' first
    | with_reducible assumption
    | with_reducible apply safe_noteLate
    | with_reducible apply safe_updCopy
    | with_reducible apply safe_State_updTask
    | with_reducible apply safe_mk
    | with_reducible exact safe_mem (by assumption)
    | with_reducible exact safe_lmem (by assumption)
    | (with_reducible apply safe_mem; with_reducible apply safe_foldl)
    | (with_reducible apply safe_lmem; with_reducible apply safe_foldl)
    | (with_reducible apply safe_mem; with_reducible apply safe_cellTrap)
    | (with_reducible apply safe_lmem; with_reducible apply safe_cellTrap)
    | (with_reducible apply safe_mem; with_reducible apply safe_updCopy)
    | (with_reducible apply safe_lmem; with_reducible apply safe_updCopy)
    | (with_reducible apply safe_mem; with_reducible apply safe_State_updTask)
    | (with_reducible apply safe_lmem; with_reducible apply safe_State_updTask)
    | with_reducible intro _
    | split

theorem safe_engResidue (e : EKey) (s : State) (h1 : Safe s) : Safe (engResidue e s) := by
  unfold engResidue
  repeat' first
    | with_reducible assumption
    | with_reducible apply safe_trapStand
    | with_reducible apply safe_updStand

theorem safe_engInput (e : EKey) (o : Origin) (tok : Tok) (s : State) (h3 : Safe s) : Safe (engInput e o tok s) := by
  unfold engInput
  repeat' first
    | with_reducible assumption
    | with_reducible apply safe_mk
    | (with_reducible apply safe_mem; with_reducible apply safe_engResidue)
    | (with_reducible apply safe_lmem; with_reducible apply safe_engResidue)
    | (with_reducible apply safe_mem; with_reducible apply safe_updStand)
    | (with_reducible apply safe_lmem; with_reducible apply safe_updStand)
    | split

theorem safe_State_enqueue (s : State) (q : QueueAt) (o : Origin) (tok : Tok) (h0 : Safe s) : Safe (State.enqueue s q o tok) := by
  unfold State.enqueue
  repeat' first
    | with_reducible assumption
    | with_reducible apply safe_mk
    | (with_reducible apply safe_mem; with_reducible apply safe_engInput)
    | (with_reducible apply safe_lmem; with_reducible apply safe_engInput)
    | (with_reducible apply safe_mem; with_reducible apply safe_nodeInput)
    | (with_reducible apply safe_lmem; with_reducible apply safe_nodeInput)
    | split

theorem safe_State_arriveCell (s : State) (d : PktDst) (vf : Nat) (o : Origin) (tok : Tok) (h0 : Safe s) : Safe (State.arriveCell s d vf o tok) := by
  unfold State.arriveCell
  repeat' first
    | with_reducible assumption
    | with_reducible apply safe_mk
    | with_reducible exact safe_mem (by assumption)
    | with_reducible exact safe_lmem (by assumption)
    | (with_reducible apply safe_mem; with_reducible apply safe_State_enqueue)
    | (with_reducible apply safe_lmem; with_reducible apply safe_State_enqueue)
    | (with_reducible apply safe_mem; with_reducible apply safe_trapStand)
    | (with_reducible apply safe_lmem; with_reducible apply safe_trapStand)
    | split

theorem safe_portSend (n : NodeDesc) (k : TKey) (toks : List (Nat × Tok)) (s : State) (h3 : Safe s) : Safe (portSend n k toks s) := by
  unfold portSend
  repeat' first
    | with_reducible assumption
    | with_reducible apply safe_weaveSend
    | with_reducible apply safe_foldl
    | with_reducible intro _

theorem safe_gather (n : NodeDesc) (all : List TKey) (k : Nat) (s : State) (h : Safe s) : Safe (gather n all k s) := by
  induction k generalizing s with
  | zero => exact h
  | succ n ih =>
    unfold gather
    repeat' first
    | with_reducible assumption
    | (with_reducible apply safe_mem; with_reducible apply ih)
    | (with_reducible apply safe_lmem; with_reducible apply ih)
    | with_reducible apply safe_portSend
    | with_reducible apply safe_State_updTask
    | with_reducible apply safe_mk
    | with_reducible exact safe_mem (by assumption)
    | with_reducible exact safe_lmem (by assumption)
    | (with_reducible apply safe_mem; with_reducible apply safe_portSend)
    | (with_reducible apply safe_lmem; with_reducible apply safe_portSend)
    | split

theorem safe_Cell_gather (c : Cell) (s : State) (h1 : Safe s) : Safe (Cell.gather c s) := by
  unfold Cell.gather
  repeat' first
    | with_reducible assumption
    | with_reducible apply safe_gather

theorem safe_sendOut (k : TKey) (o : Nat) (tok : Tok) (s : State) (h3 : Safe s) : Safe (sendOut k o tok s) := by
  unfold sendOut
  repeat' first
    | with_reducible assumption
    | with_reducible apply safe_State_updTask
    | with_reducible apply safe_mk
    | with_reducible exact safe_mem (by assumption)
    | with_reducible exact safe_lmem (by assumption)
    | (with_reducible apply safe_mem; with_reducible apply safe_Cell_gather)
    | (with_reducible apply safe_lmem; with_reducible apply safe_Cell_gather)
    | (with_reducible apply safe_mem; with_reducible apply safe_portSend)
    | (with_reducible apply safe_lmem; with_reducible apply safe_portSend)
    | split

theorem safe_sendAll (k : TKey) (o : Nat) (toks : List Tok) (s : State) (h3 : Safe s) : Safe (sendAll k o toks s) := by
  unfold sendAll
  repeat' first
    | with_reducible assumption
    | with_reducible apply safe_sendOut
    | with_reducible apply safe_foldl
    | with_reducible intro _

theorem safe_flushSkips (k : TKey) (s : State) (h1 : Safe s) : Safe (flushSkips k s) := by
  unfold flushSkips
  repeat' first
    | with_reducible assumption
    | with_reducible apply safe_sendAll
    | with_reducible apply safe_foldl
    | with_reducible apply safe_mk
    | with_reducible exact safe_mem (by assumption)
    | with_reducible exact safe_lmem (by assumption)
    | (with_reducible apply safe_mem; with_reducible apply safe_State_updTask)
    | (with_reducible apply safe_lmem; with_reducible apply safe_State_updTask)
    | with_reducible intro _
    | split

theorem safe_sendReport (r : FbReport) (s : State) (h1 : Safe s) : Safe (sendReport r s) := by
  unfold sendReport
  repeat' first
    | with_reducible apply safe_hostEvent
    | with_reducible apply safe_mk
    | with_reducible exact safe_mem (by assumption)
    | with_reducible exact safe_lmem (by assumption)
    | (with_reducible apply safe_mem; with_reducible apply safe_appendRecord)
    | (with_reducible apply safe_lmem; with_reducible apply safe_appendRecord)
    | (with_reducible apply safe_mem; with_reducible apply safe_hostEvent)
    | (with_reducible apply safe_lmem; with_reducible apply safe_hostEvent)
    | split
    | dsimp only

theorem safe_countDrop (die rid : Nat) (s : State) (h2 : Safe s) : Safe (countDrop die rid s) := by
  unfold countDrop
  repeat' first
    | with_reducible assumption
    | with_reducible apply safe_mk
    | with_reducible exact safe_mem (by assumption)
    | with_reducible exact safe_lmem (by assumption)
    | (with_reducible apply safe_mem; with_reducible apply safe_updVf)
    | (with_reducible apply safe_lmem; with_reducible apply safe_updVf)
    | split

theorem safe_guardDrop (g : Guard) (rid : Nat) (hdr : W64) (s : State) (h3 : Safe s) : Safe (guardDrop g rid hdr s) := by
  unfold guardDrop
  repeat' first
    | with_reducible assumption
    | with_reducible apply safe_mk
    | (with_reducible apply safe_mem; with_reducible apply safe_countDrop)
    | (with_reducible apply safe_lmem; with_reducible apply safe_countDrop)
    | (with_reducible apply safe_mem; with_reducible apply safe_sendReport)
    | (with_reducible apply safe_lmem; with_reducible apply safe_sendReport)
    | split
    | dsimp only

/-! ## Machine/CellFrame -/

theorem safe_Cell_undo (c : Cell) (s : State) (h1 : Safe s) : Safe (Cell.undo c s) := by
  unfold Cell.undo
  repeat' first
    | with_reducible assumption
    | with_reducible apply safe_State_updTask

theorem safe_Cell_waitWith (c : Cell) (w : BitVec 256) (s : State) (a : CellAns) (h2 : Safe s) (h3 : cellSafe a) : cellSafe (Cell.waitWith c w s a) := by
  unfold Cell.waitWith
  repeat' first
    | with_reducible assumption
    | with_reducible apply cellSafe_stay
    | with_reducible apply safe_Cell_undo
    | with_reducible apply safe_State_updTask
    | split

theorem safe_CellAns_illegal (i : Instr) (s : State) (op3 op4 : W32) (h1 : Safe s) : cellSafe (CellAns.illegal i s op3 op4) := by
  unfold CellAns.illegal
  repeat' first
    | with_reducible assumption
    | with_reducible apply cellSafe_trap

theorem safe_CellAns_poison (s : State) (code lane : Nat) (h0 : Safe s) : cellSafe (CellAns.poison s code lane) := by
  unfold CellAns.poison
  repeat' first
    | with_reducible assumption
    | with_reducible apply cellSafe_trap

theorem safe_endTask (k : TKey) (s : State) (h1 : Safe s) : Safe (endTask k s) := by
  unfold endTask
  repeat' first
    | with_reducible assumption
    | with_reducible apply safe_flushSkips
    | with_reducible apply safe_State_updTask
    | with_reducible apply safe_mk
    | (with_reducible apply safe_mem; with_reducible apply safe_Cell_gather)
    | (with_reducible apply safe_lmem; with_reducible apply safe_Cell_gather)
    | (with_reducible apply safe_mem; with_reducible apply safe_State_updTask)
    | (with_reducible apply safe_lmem; with_reducible apply safe_State_updTask)
    | split

theorem safe_writeResult (k : TKey) (p : Pend) (s : State) (h2 : Safe s) : Safe (writeResult k p s) := by
  unfold writeResult
  repeat' first
    | with_reducible assumption
    | with_reducible apply safe_sendOut
    | with_reducible apply safe_State_updWeave
    | with_reducible apply safe_foldl
    | with_reducible intro _

theorem safe_keepSlots (k : TKey) (p : Pend) (s : State) (h2 : Safe s) : Safe (keepSlots k p s) := by
  unfold keepSlots
  repeat' first
    | with_reducible assumption
    | with_reducible apply safe_State_updTask

theorem safe_defer (k : TKey) (d : Deferred) (s : State) (h2 : Safe s) : Safe (defer k d s) := by
  unfold defer
  repeat' first
    | with_reducible assumption
    | with_reducible apply safe_State_updTask

theorem safe_deliverFault (c : Cell) (d : Deferred) (s : State) (h2 : Safe s) : Safe (deliverFault c d s) := by
  unfold deliverFault
  repeat' first
    | with_reducible assumption
    | with_reducible apply safe_cellTrap
    | with_reducible apply safe_State_updTask

theorem safe_closeTask (k : TKey) (s : State) (h1 : Safe s) : Safe (closeTask k s) := by
  unfold closeTask
  repeat' first
    | with_reducible assumption
    | with_reducible apply safe_State_updTask
    | with_reducible apply safe_mk
    | with_reducible exact safe_mem (by assumption)
    | with_reducible exact safe_lmem (by assumption)
    | (with_reducible apply safe_mem; with_reducible apply safe_deliverFault)
    | (with_reducible apply safe_lmem; with_reducible apply safe_deliverFault)
    | (with_reducible apply safe_mem; with_reducible apply safe_endTask)
    | (with_reducible apply safe_lmem; with_reducible apply safe_endTask)
    | (with_reducible apply safe_mem; with_reducible apply safe_State_updTask)
    | (with_reducible apply safe_lmem; with_reducible apply safe_State_updTask)
    | split

theorem safe_finishCell (k : TKey) (sc : BitVec 4) (f : Task → Task) (s : State) (h3 : Safe s) : Safe (finishCell k sc f s) := by
  unfold finishCell
  repeat' first
    | with_reducible assumption
    | with_reducible apply safe_State_updTask
    | with_reducible apply safe_mk
    | (with_reducible apply safe_mem; with_reducible apply safe_closeTask)
    | (with_reducible apply safe_lmem; with_reducible apply safe_closeTask)
    | (with_reducible apply safe_mem; with_reducible apply safe_State_updTask)
    | (with_reducible apply safe_lmem; with_reducible apply safe_State_updTask)
    | split

theorem safe_addOps (st n : Nat) (s : State) (h2 : Safe s) : Safe (addOps st n s) := by
  unfold addOps
  repeat' first
    | with_reducible assumption
    | with_reducible apply safe_updStand

theorem safe_ridesOf (st : Nat) (s : State) (h1 : Safe s) : Safe (ridesOf st s) := by
  unfold ridesOf
  repeat' first
    | with_reducible assumption
    | with_reducible apply safe_mk
    | with_reducible exact safe_mem (by assumption)
    | with_reducible exact safe_lmem (by assumption)
    | (with_reducible apply safe_mem; with_reducible apply safe_flitOn)
    | (with_reducible apply safe_lmem; with_reducible apply safe_flitOn)
    | split

theorem safe_addBytes (st n : Nat) (s : State) (h2 : Safe s) : Safe (addBytes st n s) := by
  unfold addBytes
  repeat' first
    | with_reducible assumption
    | with_reducible apply safe_updStand
    | with_reducible apply safe_mk
    | with_reducible exact safe_mem (by assumption)
    | with_reducible exact safe_lmem (by assumption)
    | (with_reducible apply safe_mem; with_reducible apply safe_ridesOf)
    | (with_reducible apply safe_lmem; with_reducible apply safe_ridesOf)
    | split

theorem safe_cellAns (i : Instr) (body : Cell → State → CellAns) (c : Cell) (s : State) (h1 : ∀ c s, Safe s → cellSafe (body c s)) (h3 : Safe s) : cellSafe (cellAns i body c s) := by
  unfold cellAns
  repeat' first
    | with_reducible assumption
    | with_reducible apply h1
    | with_reducible apply cellSafe_trap
    | with_reducible apply cellSafe_wait
    | with_reducible apply cellSafe_hold
    | with_reducible apply cellSafe_deliver
    | with_reducible apply safe_CellAns_illegal
    | with_reducible apply safe_State_updTask
    | split
    | dsimp only

theorem safe_waitTrap (c : Cell) (qid : Nat) (head tail : W32) (s : State) (h4 : Safe s) : Safe (waitTrap c qid head tail s) := by
  unfold waitTrap
  repeat' first
    | with_reducible assumption
    | with_reducible apply safe_cellTrap
    | with_reducible apply safe_State_updTask

theorem safe_cellWait (c : Cell) (qid limit : Nat) (head tail : W32) (s : State) (h5 : Safe s) : Safe (cellWait c qid limit head tail s) := by
  unfold cellWait
  repeat' first
    | with_reducible assumption
    | with_reducible apply safe_mk
    | (with_reducible apply safe_mem; with_reducible apply safe_State_updTask)
    | (with_reducible apply safe_lmem; with_reducible apply safe_State_updTask)
    | (with_reducible apply safe_mem; with_reducible apply safe_waitTrap)
    | (with_reducible apply safe_lmem; with_reducible apply safe_waitTrap)
    | split

theorem safe_CellAns_apply (i : Instr) (c : Cell) (s : State) (a : CellAns) (h : Safe s) (ha : cellSafe a) : Safe (CellAns.apply i c s a) := by
  cases a
  all_goals try simp only [cellSafe] at ha
  all_goals
    unfold CellAns.apply
    repeat' first
    | with_reducible assumption
    | with_reducible apply safe_addOps
    | with_reducible apply safe_cellTrap
    | with_reducible apply safe_cellWait
    | with_reducible apply safe_deliverFault
    | with_reducible apply safe_finishCell
    | with_reducible apply safe_keepSlots
    | with_reducible apply safe_requestWave
    | with_reducible apply safe_State_updTask

theorem safe_noteIssue (c : Cell) (s : State) (h1 : Safe s) : Safe (noteIssue c s) := by
  unfold noteIssue
  repeat' first
    | with_reducible assumption
    | with_reducible apply safe_State_updWeave

theorem safe_cellIssue (i : Instr) (body : Cell → State → CellAns) (c : Cell) (s : State) (h1 : ∀ c s, Safe s → cellSafe (body c s)) (h3 : Safe s) : Safe (cellIssue i body c s) := by
  unfold cellIssue
  repeat' first
    | with_reducible assumption
    | with_reducible apply safe_CellAns_apply
    | with_reducible apply safe_cellAns
    | with_reducible apply safe_mk
    | (with_reducible apply safe_mem; with_reducible apply safe_CellAns_apply)
    | (with_reducible apply safe_lmem; with_reducible apply safe_CellAns_apply)
    | (with_reducible apply safe_mem; with_reducible apply safe_noteIssue)
    | (with_reducible apply safe_lmem; with_reducible apply safe_noteIssue)
    | (with_reducible apply safe_mem; with_reducible apply safe_State_updTask)
    | (with_reducible apply safe_lmem; with_reducible apply safe_State_updTask)
    | split

theorem safe_runCell (i : Instr) (body : Cell → State → CellAns) (s : State) (h1 : ∀ c s, Safe s → cellSafe (body c s)) (h2 : Safe s) : outSafe (runCell i body s) := by
  unfold runCell
  repeat' first
    | with_reducible assumption
    | with_reducible apply outSafe_next
    | with_reducible apply outSafe_fault
    | with_reducible apply safe_cellIssue
    | split

theorem safe_CellAns_write (c : Cell) (p : Pend) (s : State) (h2 : Safe s) : cellSafe (CellAns.write c p s) := by
  unfold CellAns.write
  repeat' first
    | with_reducible assumption
    | with_reducible apply cellSafe_done
    | with_reducible apply safe_writeResult

/-! ## Machine/L1 -/

theorem safe_CellAns_stall (c : Cell) (line : Nat) : cellSafe (CellAns.stall c line) := by
  unfold CellAns.stall
  repeat' first
    | with_reducible apply cellSafe_wait

theorem safe_Cell_lineWait (c : Cell) (lines : List Nat) : optCell (Cell.lineWait c lines) := by
  unfold Cell.lineWait
  repeat' first
    | with_reducible apply cellSafe_deliver
    | with_reducible apply optCell_some
    | with_reducible apply optCell_map
    | with_reducible apply safe_CellAns_stall
    | split

theorem safe_holdOps (st : Nat) (src : SegSrc) (ops : List SegOp) (s : State) (h3 : Safe s) : Safe (holdOps st src ops s) := by
  unfold holdOps
  repeat' first
    | with_reducible assumption
    | with_reducible apply safe_updStand
    | with_reducible apply safe_foldl
    | with_reducible intro _

theorem safe_whileFits (st : Nat) (s : State) (h1 : Safe s) : optSafe (whileFits st s) := by
  unfold whileFits
  repeat' first
    | with_reducible assumption
    | with_reducible apply optSafe_some
    | with_reducible apply optSafe_none
    | split

theorem safe_tryHold (st : Nat) (src : SegSrc) (ops : List SegOp) (s : State) (h3 : Safe s) : optSafe (tryHold st src ops s) := by
  unfold tryHold
  repeat' first
    | with_reducible assumption
    | with_reducible apply optSafe_some
    | with_reducible apply safe_holdOps
    | with_reducible apply safe_whileFits
    | split

theorem safe_holdWeave (k : WKey) (ops : List SegOp) (s : State) (h2 : Safe s) : optSafe (holdWeave k ops s) := by
  unfold holdWeave
  repeat' first
    | with_reducible assumption
    | with_reducible apply safe_addBytes
    | with_reducible apply safe_tryHold

theorem safe_evict (k : WKey) (p : L1Line → Bool) (s : State) (h2 : Safe s) : optSafe (evict k p s) := by
  unfold evict
  repeat' first
    | with_reducible assumption
    | with_reducible apply optSafe_some
    | with_reducible apply safe_holdWeave
    | with_reducible apply safe_State_updWeave
    | split

theorem safe_releaseWeave (k : WKey) (s : State) (h1 : Safe s) : optSafe (releaseWeave k s) := by
  unfold releaseWeave
  repeat' first
    | with_reducible assumption
    | with_reducible apply optSafe_some
    | with_reducible apply safe_holdWeave
    | with_reducible apply safe_State_updWeave
    | split

theorem safe_acquireWeave (k : WKey) (s : State) (h1 : Safe s) : Safe (acquireWeave k s) := by
  unfold acquireWeave
  repeat' first
    | with_reducible assumption
    | with_reducible apply safe_State_updWeave

theorem safe_claimLine (k : WKey) (cell line : Nat) (ch : Nat) (s : State) (h4 : Safe s) : optFst (claimLine k cell line ch s) := by
  unfold claimLine
  repeat' first
    | with_reducible assumption
    | with_reducible apply optFst_some
    | with_reducible apply optFst_none
    | with_reducible apply safe_addBytes
    | with_reducible apply safe_evict
    | with_reducible apply safe_State_updWeave
    | with_reducible apply safe_mk
    | (with_reducible apply safe_mem; with_reducible refine safe_of_some (by with_reducible assumption) ?_)
    | (with_reducible apply safe_lmem; with_reducible refine safe_of_some (by with_reducible assumption) ?_)
    | split
    | dsimp only

theorem safe_l1Read (k : WKey) (cell pa n ch : Nat) (s : State) (h5 : Safe s) : optFst (l1Read k cell pa n ch s) := by
  unfold l1Read
  repeat' first
    | with_reducible assumption
    | with_reducible apply optFst_some
    | with_reducible apply optFst_none
    | with_reducible apply safe_addBytes
    | with_reducible apply safe_claimLine
    | with_reducible apply safe_mk
    | (with_reducible apply safe_mem; with_reducible refine safe_of_opt1 (by with_reducible assumption) ?_)
    | (with_reducible apply safe_lmem; with_reducible refine safe_of_opt1 (by with_reducible assumption) ?_)
    | split

theorem safe_l1Write (k : WKey) (cell pa ch : Nat) (bs : List Byte) (p : Bool) (s : State) (h6 : Safe s) : optSafe (l1Write k cell pa ch bs p s) := by
  unfold l1Write
  repeat' first
    | with_reducible assumption
    | with_reducible apply optSafe_none
    | with_reducible apply safe_claimLine
    | with_reducible apply safe_holdWeave
    | with_reducible apply safe_State_updWeave
    | with_reducible apply safe_whileFits
    | with_reducible apply safe_mk
    | (with_reducible apply safe_mem; with_reducible refine safe_of_opt1 (by with_reducible assumption) ?_)
    | (with_reducible apply safe_lmem; with_reducible refine safe_of_opt1 (by with_reducible assumption) ?_)
    | split

theorem safe_l1Update (k : WKey) (cell pa op : Nat) (ty : BitVec 4) (x : Lane) (s : State) (h6 : Safe s) : optSafe (l1Update k cell pa op ty x s) := by
  unfold l1Update
  repeat' first
    | with_reducible assumption
    | with_reducible apply optSafe_some
    | with_reducible apply optSafe_none
    | with_reducible apply safe_evict
    | with_reducible apply safe_holdWeave
    | with_reducible apply safe_State_updWeave
    | with_reducible apply safe_whileFits
    | with_reducible apply safe_mk
    | (with_reducible apply safe_mem; with_reducible refine safe_of_some (by with_reducible assumption) ?_)
    | (with_reducible apply safe_lmem; with_reducible refine safe_of_some (by with_reducible assumption) ?_)
    | split
    | dsimp only

/-! ## Machine/Tiles -/

theorem safe_fillSlice (home : SliceId) (line : Nat) (s : State) (h2 : Safe s) : Safe (fillSlice home line s) := by
  unfold fillSlice
  repeat' first
    | with_reducible assumption
    | with_reducible apply safe_mk
    | with_reducible exact safe_mem (by assumption)
    | with_reducible exact safe_lmem (by assumption)
    | (with_reducible apply safe_mem; with_reducible apply safe_setSlice)
    | (with_reducible apply safe_lmem; with_reducible apply safe_setSlice)
    | split

theorem safe_pinLine (vf : Nat) (p : Phys) (s : State) (h2 : Safe s) : Safe (pinLine vf p s).1 := by
  unfold pinLine
  repeat' first
    | with_reducible assumption
    | with_reducible apply safe_updVf
    | with_reducible apply safe_mk
    | with_reducible exact safe_mem (by assumption)
    | with_reducible exact safe_lmem (by assumption)
    | (with_reducible apply safe_mem; with_reducible apply safe_fillSlice)
    | (with_reducible apply safe_lmem; with_reducible apply safe_fillSlice)
    | split
    | dsimp only

theorem safe_unpinLine (vf : Nat) (pa : Nat) (s : State) (h2 : Safe s) : Safe (unpinLine vf pa s).1 := by
  unfold unpinLine
  repeat' first
    | with_reducible assumption
    | with_reducible apply safe_mk
    | with_reducible exact safe_mem (by assumption)
    | with_reducible exact safe_lmem (by assumption)
    | (with_reducible apply safe_mem; with_reducible apply safe_updVf)
    | (with_reducible apply safe_lmem; with_reducible apply safe_updVf)
    | split
    | dsimp only

/-! ## Machine/CellV -/

theorem safe_laneWise (i : Instr) (f : CG) (g : Cell → Nat → (Nat → W32) → W32) (s : State) (h3 : Safe s) : outSafe (laneWise i f g s) := by
  unfold laneWise
  repeat' first
    | with_reducible assumption
    | with_reducible apply safe_runCell
    | with_reducible apply safe_CellAns_write
    | with_reducible intro _

theorem safe_elementwise (i : Instr) (f : CG) (g : Nat → Nat → Nat → Nat → Nat) (s : State) (h3 : Safe s) : outSafe (elementwise i f g s) := by
  unfold elementwise
  repeat' first
    | with_reducible assumption
    | with_reducible apply safe_laneWise

theorem safe_predWise (i : Instr) (f : CG) (traps : Bool) (g : Cell → Nat → (Nat → W32) → Bool) (s : State) (h4 : Safe s) : outSafe (predWise i f traps g s) := by
  unfold predWise
  repeat' first
    | with_reducible assumption
    | with_reducible apply safe_CellAns_poison
    | with_reducible apply safe_runCell
    | with_reducible apply safe_CellAns_write
    | with_reducible intro _
    | split

theorem safe_execCvAdd (f : CG) (s : State) (h1 : Safe s) : outSafe (execCvAdd f s) := by
  unfold execCvAdd
  repeat' first
    | with_reducible assumption
    | with_reducible apply safe_elementwise

theorem safe_execCvSub (f : CG) (s : State) (h1 : Safe s) : outSafe (execCvSub f s) := by
  unfold execCvSub
  repeat' first
    | with_reducible assumption
    | with_reducible apply safe_elementwise

theorem safe_execCvMul (f : CG) (s : State) (h1 : Safe s) : outSafe (execCvMul f s) := by
  unfold execCvMul
  repeat' first
    | with_reducible assumption
    | with_reducible apply safe_elementwise

theorem safe_execCvMulh (f : CG) (s : State) (h1 : Safe s) : outSafe (execCvMulh f s) := by
  unfold execCvMulh
  repeat' first
    | with_reducible assumption
    | with_reducible apply safe_elementwise

theorem safe_execCvMad (f : CG) (s : State) (h1 : Safe s) : outSafe (execCvMad f s) := by
  unfold execCvMad
  repeat' first
    | with_reducible assumption
    | with_reducible apply safe_elementwise

theorem safe_execCvAdds (f : CG) (s : State) (h1 : Safe s) : outSafe (execCvAdds f s) := by
  unfold execCvAdds
  repeat' first
    | with_reducible assumption
    | with_reducible apply safe_elementwise

theorem safe_execCvSubs (f : CG) (s : State) (h1 : Safe s) : outSafe (execCvSubs f s) := by
  unfold execCvSubs
  repeat' first
    | with_reducible assumption
    | with_reducible apply safe_elementwise

theorem safe_execCvMin (f : CG) (s : State) (h1 : Safe s) : outSafe (execCvMin f s) := by
  unfold execCvMin
  repeat' first
    | with_reducible assumption
    | with_reducible apply safe_elementwise

theorem safe_execCvMax (f : CG) (s : State) (h1 : Safe s) : outSafe (execCvMax f s) := by
  unfold execCvMax
  repeat' first
    | with_reducible assumption
    | with_reducible apply safe_elementwise

theorem safe_execCvAbs (f : CG) (s : State) (h1 : Safe s) : outSafe (execCvAbs f s) := by
  unfold execCvAbs
  repeat' first
    | with_reducible assumption
    | with_reducible apply safe_elementwise

theorem safe_execCvNeg (f : CG) (s : State) (h1 : Safe s) : outSafe (execCvNeg f s) := by
  unfold execCvNeg
  repeat' first
    | with_reducible assumption
    | with_reducible apply safe_elementwise

theorem safe_execCvAnd (f : CG) (s : State) (h1 : Safe s) : outSafe (execCvAnd f s) := by
  unfold execCvAnd
  repeat' first
    | with_reducible assumption
    | with_reducible apply safe_laneWise

theorem safe_execCvOr (f : CG) (s : State) (h1 : Safe s) : outSafe (execCvOr f s) := by
  unfold execCvOr
  repeat' first
    | with_reducible assumption
    | with_reducible apply safe_laneWise

theorem safe_execCvXor (f : CG) (s : State) (h1 : Safe s) : outSafe (execCvXor f s) := by
  unfold execCvXor
  repeat' first
    | with_reducible assumption
    | with_reducible apply safe_laneWise

theorem safe_execCvAndn (f : CG) (s : State) (h1 : Safe s) : outSafe (execCvAndn f s) := by
  unfold execCvAndn
  repeat' first
    | with_reducible assumption
    | with_reducible apply safe_laneWise

theorem safe_execCvSel (f : CG) (s : State) (h1 : Safe s) : outSafe (execCvSel f s) := by
  unfold execCvSel
  repeat' first
    | with_reducible assumption
    | with_reducible apply safe_laneWise

theorem safe_execCvShl (f : CG) (s : State) (h1 : Safe s) : outSafe (execCvShl f s) := by
  unfold execCvShl
  repeat' first
    | with_reducible assumption
    | with_reducible apply safe_elementwise

theorem safe_execCvShr (f : CG) (s : State) (h1 : Safe s) : outSafe (execCvShr f s) := by
  unfold execCvShr
  repeat' first
    | with_reducible assumption
    | with_reducible apply safe_elementwise

theorem safe_execCvSra (f : CG) (s : State) (h1 : Safe s) : outSafe (execCvSra f s) := by
  unfold execCvSra
  repeat' first
    | with_reducible assumption
    | with_reducible apply safe_elementwise

theorem safe_execCvRot (f : CG) (s : State) (h1 : Safe s) : outSafe (execCvRot f s) := by
  unfold execCvRot
  repeat' first
    | with_reducible assumption
    | with_reducible apply safe_elementwise

theorem safe_execCvClz (f : CG) (s : State) (h1 : Safe s) : outSafe (execCvClz f s) := by
  unfold execCvClz
  repeat' first
    | with_reducible assumption
    | with_reducible apply safe_elementwise

theorem safe_execCvPopc (f : CG) (s : State) (h1 : Safe s) : outSafe (execCvPopc f s) := by
  unfold execCvPopc
  repeat' first
    | with_reducible assumption
    | with_reducible apply safe_elementwise

theorem safe_execCvMov (f : CG) (s : State) (h1 : Safe s) : outSafe (execCvMov f s) := by
  unfold execCvMov
  repeat' first
    | with_reducible assumption
    | with_reducible apply safe_laneWise

theorem safe_execCvBitr (f : CG) (s : State) (h1 : Safe s) : outSafe (execCvBitr f s) := by
  unfold execCvBitr
  repeat' first
    | with_reducible assumption
    | with_reducible apply safe_elementwise

theorem safe_execCvCmp (f : CG) (s : State) (h1 : Safe s) : outSafe (execCvCmp f s) := by
  unfold execCvCmp
  repeat' first
    | with_reducible assumption
    | with_reducible apply safe_predWise

theorem safe_execCvTest (f : CG) (s : State) (h1 : Safe s) : outSafe (execCvTest f s) := by
  unfold execCvTest
  repeat' first
    | with_reducible assumption
    | with_reducible apply safe_predWise

theorem safe_execCvPset (f : CG) (s : State) (h1 : Safe s) : outSafe (execCvPset f s) := by
  unfold execCvPset
  repeat' first
    | with_reducible assumption
    | with_reducible apply safe_predWise

theorem safe_execCvMovk (f : CG) (s : State) (h1 : Safe s) : outSafe (execCvMovk f s) := by
  unfold execCvMovk
  repeat' first
    | with_reducible assumption
    | with_reducible apply safe_runCell
    | with_reducible apply safe_CellAns_write
    | with_reducible intro _

theorem safe_execCvDot4 (f : CG) (s : State) (h1 : Safe s) : outSafe (execCvDot4 f s) := by
  unfold execCvDot4
  repeat' first
    | with_reducible assumption
    | with_reducible apply safe_laneWise

theorem safe_markT2 (k : WKey) (bad : Bool) (s : State) (h2 : Safe s) : Safe (markT2 k bad s) := by
  unfold markT2
  repeat' first
    | with_reducible assumption
    | with_reducible apply safe_mk
    | with_reducible exact safe_mem (by assumption)
    | with_reducible exact safe_lmem (by assumption)
    | (with_reducible apply safe_mem; with_reducible apply safe_State_updWeave)
    | (with_reducible apply safe_lmem; with_reducible apply safe_State_updWeave)
    | split

theorem safe_execCvTdot (f : CG) (s : State) (h1 : Safe s) : outSafe (execCvTdot f s) := by
  unfold execCvTdot
  repeat' first
    | with_reducible assumption
    | with_reducible apply safe_markT2
    | with_reducible apply safe_runCell
    | with_reducible apply safe_CellAns_write
    | with_reducible intro _

theorem safe_execCvCvti (f : CG) (s : State) (h1 : Safe s) : outSafe (execCvCvti f s) := by
  unfold execCvCvti
  repeat' first
    | with_reducible assumption
    | with_reducible apply safe_laneWise

theorem safe_execCvNzc (f : CG) (s : State) (h1 : Safe s) : outSafe (execCvNzc f s) := by
  unfold execCvNzc
  repeat' first
    | with_reducible assumption
    | with_reducible apply safe_laneWise

/-! ## Machine/CellX -/

theorem safe_regionTrap (i : Instr) (c : Cell) (s : State) (off pitch rows size : Nat) (h2 : Safe s) : optCell (regionTrap i c s off pitch rows size) := by
  unfold regionTrap
  repeat' first
    | with_reducible assumption
    | with_reducible apply cellSafe_trap
    | with_reducible apply optCell_some
    | with_reducible apply optCell_none
    | with_reducible apply safe_CellAns_illegal
    | split

theorem safe_regionWait (c : Cell) (off pitch rows size : Nat) : optCell (regionWait c off pitch rows size) := by
  unfold regionWait
  repeat' first
    | with_reducible apply safe_Cell_lineWait

theorem safe_Cell_weave (c : Cell) (g : Weave → Weave) (s : State) (h2 : Safe s) : Safe (Cell.weave c g s) := by
  unfold Cell.weave
  repeat' first
    | with_reducible assumption
    | with_reducible apply safe_State_updWeave

theorem safe_execCxMzero (f : CG) (s : State) (h1 : Safe s) : outSafe (execCxMzero f s) := by
  unfold execCxMzero
  repeat' first
    | with_reducible assumption
    | with_reducible apply cellSafe_done
    | with_reducible apply cellSafe_hold
    | with_reducible apply safe_runCell
    | with_reducible apply safe_Cell_weave
    | with_reducible intro _
    | split

theorem safe_execCxMldb (f : CG) (s : State) (h1 : Safe s) : outSafe (execCxMldb f s) := by
  unfold execCxMldb
  repeat' first
    | with_reducible assumption
    | with_reducible apply cellSafe_done
    | with_reducible apply safe_CellAns_illegal
    | with_reducible apply safe_regionTrap
    | with_reducible apply safe_regionWait
    | with_reducible apply safe_runCell
    | with_reducible apply safe_Cell_weave
    | (with_reducible refine safe_of_optCell (by with_reducible assumption) ?_)
    | with_reducible intro _
    | split
    | dsimp only

theorem safe_countMult (k : WKey) (g : Nat) (m : Mult) (s : State) (h3 : Safe s) : Safe (countMult k g m s) := by
  unfold countMult
  repeat' first
    | with_reducible assumption
    | with_reducible apply safe_addOps
    | with_reducible apply safe_markT2
    | with_reducible apply safe_State_updWeave

theorem safe_pushMult (k : WKey) (m : Mult) (s : State) (h2 : Safe s) : Safe (pushMult k m s) := by
  unfold pushMult
  repeat' first
    | with_reducible assumption
    | with_reducible apply safe_State_updWeave

theorem safe_multLead (i : Instr) (f : CG) (tern lead : Bool) (c : Cell) (s : State) (h5 : Safe s) : cellSafe (multLead i f tern lead c s) := by
  unfold multLead
  repeat' first
    | with_reducible assumption
    | with_reducible apply cellSafe_done
    | with_reducible apply safe_countMult
    | with_reducible apply safe_CellAns_illegal
    | with_reducible apply safe_pushMult
    | with_reducible apply safe_regionTrap
    | with_reducible apply safe_regionWait
    | with_reducible apply safe_Cell_weave
    | (with_reducible refine safe_of_optCell (by with_reducible assumption) ?_)
    | split
    | dsimp only

theorem safe_multFollow (i : Instr) (f : CG) (tern : Bool) (c : Cell) (s : State) (h4 : Safe s) : cellSafe (multFollow i f tern c s) := by
  unfold multFollow
  repeat' first
    | with_reducible assumption
    | with_reducible apply cellSafe_done
    | with_reducible apply safe_countMult
    | with_reducible apply safe_CellAns_illegal
    | with_reducible apply safe_pushMult
    | with_reducible apply safe_updStand
    | split

theorem safe_multBody (i : Instr) (f : CG) (tern : Bool) (c : Cell) (s : State) (h4 : Safe s) : cellSafe (multBody i f tern c s) := by
  unfold multBody
  repeat' first
    | with_reducible assumption
    | with_reducible apply safe_multFollow
    | with_reducible apply safe_multLead
    | split

theorem safe_execCxMma (f : CG) (s : State) (h1 : Safe s) : outSafe (execCxMma f s) := by
  unfold execCxMma
  repeat' first
    | with_reducible assumption
    | with_reducible apply safe_multBody
    | with_reducible apply safe_runCell

theorem safe_execCxMmat (f : CG) (s : State) (h1 : Safe s) : outSafe (execCxMmat f s) := by
  unfold execCxMmat
  repeat' first
    | with_reducible assumption
    | with_reducible apply safe_multBody
    | with_reducible apply safe_runCell

theorem safe_execCxMrd (f : CG) (s : State) (h1 : Safe s) : outSafe (execCxMrd f s) := by
  unfold execCxMrd
  repeat' first
    | with_reducible assumption
    | with_reducible apply cellSafe_hold
    | with_reducible apply safe_CellAns_illegal
    | with_reducible apply safe_runCell
    | with_reducible apply safe_CellAns_write
    | with_reducible intro _
    | split
    | dsimp only

theorem safe_drainScale (c : Cell) (e : TEnt) (row : Nat) (s : State) (l : List Int) (h3 : Safe s) : scaleSafe (drainScale c e row s l) := by
  unfold drainScale
  repeat' first
    | with_reducible assumption
    | with_reducible apply scaleSafe_ok
    | with_reducible apply scaleSafe_held
    | with_reducible apply scaleSafe_bad
    | with_reducible apply safe_addBytes
    | with_reducible apply safe_State_tlbFill
    | split
    | dsimp only

theorem safe_drainScales (c : Cell) (e : TEnt) (row0 rows : Nat) (s : State) (h : Safe s) : scaleSafe (drainScales c e row0 rows s) := by
  unfold drainScales
  split
  · exact h
  · refine scaleSafe_foldl h fun b k hb => ?_
    cases b with
    | ok s1 l => exact safe_drainScale c e _ s1 l hb
    | held => exact hb
    | bad a => exact hb

theorem safe_drainBody (f : CG) (c : Cell) (off pitch : Nat) (scale : Nat → Int) (s : State) (h5 : Safe s) : Safe (drainBody f c off pitch scale s) := by
  unfold drainBody
  repeat' first
    | with_reducible assumption
    | with_reducible apply safe_mk
    | (with_reducible apply safe_mem; with_reducible apply safe_defer)
    | (with_reducible apply safe_lmem; with_reducible apply safe_defer)
    | (with_reducible apply safe_mem; with_reducible apply safe_Cell_weave)
    | (with_reducible apply safe_lmem; with_reducible apply safe_Cell_weave)
    | split

theorem safe_execCxMdrn (f : CG) (s : State) (h1 : Safe s) : outSafe (execCxMdrn f s) := by
  unfold execCxMdrn
  repeat' first
    | with_reducible assumption
    | with_reducible apply cellSafe_done
    | with_reducible apply cellSafe_trap
    | with_reducible apply cellSafe_hold
    | with_reducible apply safe_drainBody
    | with_reducible apply safe_drainScales
    | with_reducible apply safe_regionTrap
    | with_reducible apply safe_runCell
    | with_reducible apply safe_Cell_waitWith
    | with_reducible apply safe_mk
    | (with_reducible refine safe_of_optCell (by with_reducible assumption) ?_)
    | (with_reducible apply safe_mem; with_reducible refine safe_of_scale (by with_reducible assumption) ?_)
    | (with_reducible apply safe_lmem; with_reducible refine safe_of_scale (by with_reducible assumption) ?_)
    | with_reducible intro _
    | split
    | dsimp only

theorem safe_execCxMscl (f : CG) (s : State) (h1 : Safe s) : outSafe (execCxMscl f s) := by
  unfold execCxMscl
  repeat' first
    | with_reducible assumption
    | with_reducible apply cellSafe_done
    | with_reducible apply cellSafe_hold
    | with_reducible apply safe_CellAns_illegal
    | with_reducible apply safe_runCell
    | with_reducible apply safe_Cell_weave
    | with_reducible intro _
    | split
    | dsimp only

theorem safe_execCxMchn (f : CG) (s : State) (h1 : Safe s) : outSafe (execCxMchn f s) := by
  unfold execCxMchn
  repeat' first
    | with_reducible assumption
    | with_reducible apply cellSafe_done
    | with_reducible apply cellSafe_trap
    | with_reducible apply cellSafe_hold
    | with_reducible apply safe_CellAns_illegal
    | with_reducible apply safe_runCell
    | with_reducible apply safe_State_updWeave
    | with_reducible apply safe_Cell_weave
    | with_reducible apply safe_foldl
    | with_reducible intro _
    | split
    | dsimp only

theorem safe_execCxTwg (f : CG) (s : State) (h1 : Safe s) : outSafe (execCxTwg f s) := by
  unfold execCxTwg
  repeat' first
    | with_reducible assumption
    | with_reducible apply safe_CellAns_illegal
    | with_reducible apply safe_runCell
    | with_reducible apply safe_Cell_weave
    | with_reducible apply safe_CellAns_write
    | with_reducible intro _
    | split
    | dsimp only

theorem safe_stageWait (c : Cell) (s : State) (h1 : Safe s) : cellSafe (stageWait c s) := by
  unfold stageWait
  repeat' first
    | with_reducible assumption
    | with_reducible apply cellSafe_hold
    | with_reducible apply cellSafe_stay
    | with_reducible apply safe_Cell_undo
    | with_reducible apply safe_State_updTask
    | split

theorem safe_execCxMbfy (f : CG) (s : State) (h1 : Safe s) : outSafe (execCxMbfy f s) := by
  unfold execCxMbfy
  repeat' first
    | with_reducible assumption
    | with_reducible apply cellSafe_done
    | with_reducible apply safe_addOps
    | with_reducible apply safe_CellAns_illegal
    | with_reducible apply safe_runCell
    | with_reducible apply safe_stageWait
    | with_reducible apply safe_Cell_weave
    | with_reducible intro _
    | split
    | dsimp only

theorem safe_placeStep (k : WKey) (g : Nat) (m : Mult) (s : State) (h3 : Safe s) : Safe (placeStep k g m s) := by
  unfold placeStep
  repeat' first
    | with_reducible assumption
    | with_reducible apply safe_countMult
    | with_reducible apply safe_State_updWeave

theorem safe_dropMult (k : WKey) (m : Mult) (cause : Nat) (op1 op2 op3 : W32) (s : State) (h6 : Safe s) : Safe (dropMult k m cause op1 op2 op3 s) := by
  unfold dropMult
  repeat' first
    | with_reducible assumption
    | with_reducible apply safe_defer
    | with_reducible apply safe_State_updWeave

theorem safe_takeStep (k : WKey) (t : Stand) (w : Weave) (m : Mult) (x : Link) (s : State) (h5 : Safe s) : Safe (takeStep k t w m x s) := by
  unfold takeStep
  repeat' first
    | with_reducible assumption
    | with_reducible apply safe_countMult
    | with_reducible apply safe_State_updWeave
    | with_reducible apply safe_mk
    | (with_reducible apply safe_mem; with_reducible apply safe_dropMult)
    | (with_reducible apply safe_lmem; with_reducible apply safe_dropMult)
    | (with_reducible apply safe_mem; with_reducible apply safe_updStand)
    | (with_reducible apply safe_lmem; with_reducible apply safe_updStand)
    | split

theorem safe_linkStep (k : WKey) (t : Stand) (w : Weave) (m : Mult) (s : State) (h4 : Safe s) : Safe (linkStep k t w m s) := by
  unfold linkStep
  repeat' first
    | with_reducible assumption
    | with_reducible apply safe_mk
    | with_reducible exact safe_mem (by assumption)
    | with_reducible exact safe_lmem (by assumption)
    | (with_reducible apply safe_mem; with_reducible apply safe_placeStep)
    | (with_reducible apply safe_lmem; with_reducible apply safe_placeStep)
    | (with_reducible apply safe_mem; with_reducible apply safe_takeStep)
    | (with_reducible apply safe_lmem; with_reducible apply safe_takeStep)
    | split

theorem safe_execMatrixChunkComplete (k : WKey) (tile : Nat) (badTries : Nat) (row : Nat) (s : State) (h4 : Safe s) : outSafe (execMatrixChunkComplete k tile badTries row s) := by
  unfold execMatrixChunkComplete
  repeat' first
    | with_reducible assumption
    | with_reducible apply outSafe_next
    | with_reducible apply safe_countError
    | with_reducible apply safe_defer
    | with_reducible apply safe_linkStep
    | with_reducible apply safe_State_updWeave
    | split
    | dsimp only

end Sys2Proof.Laws
end

