-- ==== Sys2Proof/Laws/SafeUnits.lean ====
section
/-! SUPPORT. Both memories stay in canonical form through every operation of cell memory, synchronisation, engines, the fetches, the clock, placement, skid commands and blazes. -/

namespace Sys2Proof.Laws

open Sys2Proof.Machine

/-! ## Machine/CellM -/

theorem safe_eachLane (one : State → Nat → LaneStep) (hf : ∀ s l, Safe s → stepSafe (one s l)) (l : List Nat) (s : State) (out : List (Nat × Lane)) (h : Safe s) : runSafe (eachLane one l s out) := by
  induction l generalizing s out with
  | nil => exact h
  | cons w ws ih =>
    unfold eachLane
    repeat' first
    | with_reducible assumption
    | with_reducible apply ih
    | with_reducible apply hf
    | with_reducible apply runSafe_bad
    | with_reducible apply runSafe_stop
    | with_reducible apply safe_mk
    | (with_reducible refine safe_of_stopL (by with_reducible assumption) ?_)
    | (with_reducible apply safe_mem; with_reducible refine safe_of_val (by with_reducible assumption) ?_)
    | (with_reducible apply safe_lmem; with_reducible refine safe_of_val (by with_reducible assumption) ?_)
    | split

theorem safe_finishLoad (c : Cell) (d : Code6) (r : LaneRun) (hr : runSafe r) : cellSafe (finishLoad c d r) := by
  cases r with
  | stop a => exact hr
  | go s out => exact safe_CellAns_write _ _ _ hr
  | bad s out cause addr lane => exact safe_CellAns_write _ _ _ (safe_defer _ _ _ hr)

theorem safe_finishStore (c : Cell) (r : LaneRun) (hr : runSafe r) : cellSafe (finishStore c r) := by
  cases r with
  | stop a => exact hr
  | go s out => exact hr
  | bad s out cause addr lane => exact safe_defer _ _ _ hr

theorem safe_Cell_touch (c : Cell) (l a : Nat) (s : State) (h3 : Safe s) : Safe (Cell.touch c l a s) := by
  unfold Cell.touch
  repeat' first
    | with_reducible assumption
    | with_reducible apply safe_State_tlbFill

theorem safe_loadLane (c : Cell) (ty : BitVec 4) (ch : Nat) (addr : Nat → Nat) (s : State) (l : Nat) (h4 : Safe s) : stepSafe (loadLane c ty ch addr s l) := by
  unfold loadLane
  repeat' first
    | with_reducible assumption
    | with_reducible apply cellSafe_hold
    | with_reducible apply cellSafe_holdWave
    | with_reducible apply cellSafe_deliver
    | with_reducible apply stepSafe_val
    | with_reducible apply stepSafe_bad
    | with_reducible apply stepSafe_stop
    | with_reducible apply safe_l1Read
    | with_reducible apply safe_CellAns_stall
    | with_reducible apply safe_Cell_touch
    | with_reducible apply safe_mk
    | (with_reducible apply safe_mem; with_reducible refine safe_of_opt1 (by with_reducible assumption) ?_)
    | (with_reducible apply safe_lmem; with_reducible refine safe_of_opt1 (by with_reducible assumption) ?_)
    | split
    | dsimp only

theorem safe_storeLane (c : Cell) (ty : BitVec 4) (ch : Nat) (addr : Nat → Nat) (x : Vec) (s : State) (l : Nat) (h5 : Safe s) : stepSafe (storeLane c ty ch addr x s l) := by
  unfold storeLane
  repeat' first
    | with_reducible assumption
    | with_reducible apply stepSafe_val
    | with_reducible apply stepSafe_bad
    | with_reducible apply stepSafe_stop
    | with_reducible apply cellSafe_hold
    | with_reducible apply cellSafe_holdWave
    | with_reducible apply cellSafe_deliver
    | with_reducible apply safe_l1Write
    | with_reducible apply safe_Cell_touch
    | with_reducible apply safe_State_updWeave
    | with_reducible apply safe_mk
    | (with_reducible apply safe_mem; with_reducible refine safe_of_some (by with_reducible assumption) ?_)
    | (with_reducible apply safe_lmem; with_reducible refine safe_of_some (by with_reducible assumption) ?_)
    | split
    | dsimp only

theorem safe_cmElem (i : Instr) (f : CM) (store : Bool) (addr : Cell → Vec → Nat → Nat)
    (check : Cell → Vec → List Nat → Option (W32 × W32)) (s : State) (h5 : Safe s) : outSafe (cmElem i f store addr check s) := by
  unfold cmElem
  repeat' first
    | with_reducible assumption
    | with_reducible apply safe_eachLane
    | with_reducible apply safe_finishLoad
    | with_reducible apply safe_finishStore
    | with_reducible apply safe_CellAns_illegal
    | with_reducible apply safe_loadLane
    | with_reducible apply safe_CellAns_poison
    | with_reducible apply safe_runCell
    | with_reducible apply safe_storeLane
    | with_reducible intro _
    | split
    | dsimp only

theorem safe_execCmLd (f : CM) (s : State) (h1 : Safe s) : outSafe (execCmLd f s) := by
  unfold execCmLd
  repeat' first
    | with_reducible assumption
    | with_reducible apply safe_cmElem

theorem safe_execCmSt (f : CM) (s : State) (h1 : Safe s) : outSafe (execCmSt f s) := by
  unfold execCmSt
  repeat' first
    | with_reducible assumption
    | with_reducible apply safe_cmElem

theorem safe_execCmLdbr (f : CM) (s : State) (h1 : Safe s) : outSafe (execCmLdbr f s) := by
  unfold execCmLdbr
  repeat' first
    | with_reducible assumption
    | with_reducible apply safe_cmElem

theorem safe_execCmStbr (f : CM) (s : State) (h1 : Safe s) : outSafe (execCmStbr f s) := by
  unfold execCmStbr
  repeat' first
    | with_reducible assumption
    | with_reducible apply safe_cmElem

theorem safe_sendReplies (k : WKey) (route : Nat) (toks : List Tok) (s : State) (h3 : Safe s) : Safe (sendReplies k route toks s) := by
  unfold sendReplies
  repeat' first
    | with_reducible assumption
    | with_reducible apply safe_setStand
    | with_reducible apply safe_foldl
    | with_reducible apply safe_mk
    | with_reducible exact safe_mem (by assumption)
    | with_reducible exact safe_lmem (by assumption)
    | (with_reducible apply safe_mem; with_reducible apply safe_launchPacket)
    | (with_reducible apply safe_lmem; with_reducible apply safe_launchPacket)
    | with_reducible intro _
    | split

theorem safe_execCmLdx (f : CM) (s : State) (h1 : Safe s) : outSafe (execCmLdx f s) := by
  unfold execCmLdx
  repeat' first
    | with_reducible assumption
    | with_reducible apply cellSafe_done
    | with_reducible apply cellSafe_wait
    | with_reducible apply safe_eachLane
    | with_reducible apply safe_CellAns_illegal
    | with_reducible apply safe_loadLane
    | with_reducible apply safe_CellAns_poison
    | with_reducible apply safe_runCell
    | with_reducible apply safe_sendReplies
    | with_reducible apply safe_mk
    | (with_reducible refine safe_of_stop (by with_reducible assumption) ?_)
    | (with_reducible apply safe_mem; with_reducible refine safe_of_go (by with_reducible assumption) ?_)
    | (with_reducible apply safe_lmem; with_reducible refine safe_of_go (by with_reducible assumption) ?_)
    | (with_reducible apply safe_mem; with_reducible refine safe_of_bad (by with_reducible assumption) ?_)
    | (with_reducible apply safe_lmem; with_reducible refine safe_of_bad (by with_reducible assumption) ?_)
    | with_reducible intro _
    | split
    | dsimp only

theorem safe_tileArgs (c : Cell) (f : CM) (srcs : List (Option Nat)) (write : Bool) (s : State) (h4 : Safe s) : errCell (tileArgs c f srcs write s) := by
  unfold tileArgs
  repeat' first
    | with_reducible assumption
    | with_reducible apply cellSafe_trap
    | with_reducible apply errCell_error
    | with_reducible apply errCell_ok
    | with_reducible apply safe_CellAns_poison
    | split
    | dsimp only

theorem safe_Cell_touchTile (c : Cell) (x : TileArgs) (s : State) (h2 : Safe s) : Safe (Cell.touchTile c x s) := by
  unfold Cell.touchTile
  repeat' first
    | with_reducible assumption
    | with_reducible apply safe_Cell_touch
    | with_reducible apply safe_foldl
    | with_reducible intro _

theorem safe_execCmLdt (f : CM) (s : State) (h1 : Safe s) : outSafe (execCmLdt f s) := by
  unfold execCmLdt
  repeat' first
    | with_reducible assumption
    | with_reducible apply cellSafe_done
    | with_reducible apply cellSafe_hold
    | with_reducible apply cellSafe_holdWave
    | with_reducible apply cellSafe_deliver
    | with_reducible apply safe_addBytes
    | with_reducible apply safe_defer
    | with_reducible apply safe_evict
    | with_reducible apply safe_runCell
    | with_reducible apply safe_tileArgs
    | with_reducible apply safe_Cell_touchTile
    | with_reducible apply safe_State_updWeave
    | with_reducible apply safe_Cell_waitWith
    | with_reducible apply safe_mk
    | (with_reducible refine safe_of_errCell (by with_reducible assumption) ?_)
    | (with_reducible apply safe_mem; with_reducible refine safe_of_some (by with_reducible assumption) ?_)
    | (with_reducible apply safe_lmem; with_reducible refine safe_of_some (by with_reducible assumption) ?_)
    | with_reducible intro _
    | split
    | dsimp only

theorem safe_execCmStt (f : CM) (s : State) (h1 : Safe s) : outSafe (execCmStt f s) := by
  unfold execCmStt
  repeat' first
    | with_reducible assumption
    | with_reducible apply cellSafe_done
    | with_reducible apply cellSafe_hold
    | with_reducible apply cellSafe_holdWave
    | with_reducible apply cellSafe_deliver
    | with_reducible apply safe_addBytes
    | with_reducible apply safe_defer
    | with_reducible apply safe_evict
    | with_reducible apply safe_runCell
    | with_reducible apply safe_CellAns_stall
    | with_reducible apply safe_tileArgs
    | with_reducible apply safe_Cell_touchTile
    | with_reducible apply safe_tryHold
    | with_reducible apply safe_Cell_waitWith
    | with_reducible apply safe_mk
    | (with_reducible refine safe_of_errCell (by with_reducible assumption) ?_)
    | (with_reducible apply safe_mem; with_reducible refine safe_of_some (by with_reducible assumption) ?_)
    | (with_reducible apply safe_lmem; with_reducible refine safe_of_some (by with_reducible assumption) ?_)
    | with_reducible intro _
    | split
    | dsimp only

theorem safe_updLane (c : Cell) (f : CM) (x : Vec) (s : State) (l : Nat) (h3 : Safe s) : stepSafe (updLane c f x s l) := by
  unfold updLane
  repeat' first
    | with_reducible assumption
    | with_reducible apply stepSafe_val
    | with_reducible apply stepSafe_bad
    | with_reducible apply stepSafe_stop
    | with_reducible apply cellSafe_hold
    | with_reducible apply cellSafe_holdWave
    | with_reducible apply safe_l1Update
    | with_reducible apply safe_Cell_touch
    | with_reducible apply safe_mk
    | (with_reducible apply safe_mem; with_reducible refine safe_of_some (by with_reducible assumption) ?_)
    | (with_reducible apply safe_lmem; with_reducible refine safe_of_some (by with_reducible assumption) ?_)
    | split
    | dsimp only

theorem safe_execCmUpd (f : CM) (s : State) (h1 : Safe s) : outSafe (execCmUpd f s) := by
  unfold execCmUpd
  repeat' first
    | with_reducible assumption
    | with_reducible apply safe_eachLane
    | with_reducible apply safe_finishStore
    | with_reducible apply safe_CellAns_poison
    | with_reducible apply safe_runCell
    | with_reducible apply safe_updLane
    | with_reducible intro _
    | split
    | dsimp only

theorem safe_atomLane (c : Cell) (f : CM) (s : State) (l : Nat) (h2 : Safe s) : stepSafe (atomLane c f s l) := by
  unfold atomLane
  repeat' first
    | with_reducible assumption
    | with_reducible apply stepSafe_val
    | with_reducible apply stepSafe_bad
    | with_reducible apply stepSafe_stop
    | with_reducible apply cellSafe_hold
    | with_reducible apply cellSafe_holdWave
    | with_reducible apply safe_addBytes
    | with_reducible apply safe_evict
    | with_reducible apply safe_Cell_touch
    | with_reducible apply Memory.store_wf
    | with_reducible apply safe_mk
    | (with_reducible apply safe_mem; with_reducible apply safe_commitWord)
    | (with_reducible apply safe_lmem; with_reducible apply safe_commitWord)
    | (with_reducible apply safe_mem; with_reducible refine safe_of_some (by with_reducible assumption) ?_)
    | (with_reducible apply safe_lmem; with_reducible refine safe_of_some (by with_reducible assumption) ?_)
    | split
    | dsimp only

theorem safe_execCmAtom (f : CM) (s : State) (h1 : Safe s) : outSafe (execCmAtom f s) := by
  unfold execCmAtom
  repeat' first
    | with_reducible assumption
    | with_reducible apply safe_atomLane
    | with_reducible apply safe_eachLane
    | with_reducible apply safe_finishLoad
    | with_reducible apply safe_CellAns_poison
    | with_reducible apply safe_runCell
    | with_reducible apply safe_writeResult
    | with_reducible apply safe_mk
    | (with_reducible apply safe_mem; with_reducible refine safe_of_bad (by with_reducible assumption) ?_)
    | (with_reducible apply safe_lmem; with_reducible refine safe_of_bad (by with_reducible assumption) ?_)
    | with_reducible intro _
    | split
    | dsimp only

theorem safe_lockLane (c : Cell) (f : CM) (lock : Bool) (s : State) (l : Nat) (h3 : Safe s) : stepSafe (lockLane c f lock s l) := by
  unfold lockLane
  repeat' first
    | with_reducible assumption
    | with_reducible apply stepSafe_val
    | with_reducible apply stepSafe_bad
    | with_reducible apply stepSafe_stop
    | with_reducible apply cellSafe_hold
    | with_reducible apply cellSafe_holdWave
    | with_reducible apply safe_addBytes
    | with_reducible apply safe_evict
    | with_reducible apply safe_pinLine
    | with_reducible apply safe_Cell_touch
    | with_reducible apply safe_unpinLine
    | with_reducible apply safe_mk
    | (with_reducible apply safe_mem; with_reducible refine safe_of_some (by with_reducible assumption) ?_)
    | (with_reducible apply safe_lmem; with_reducible refine safe_of_some (by with_reducible assumption) ?_)
    | split
    | dsimp only

theorem safe_cmLockForm (i : Instr) (f : CM) (lock : Bool) (s : State) (h3 : Safe s) : outSafe (cmLockForm i f lock s) := by
  unfold cmLockForm
  repeat' first
    | with_reducible assumption
    | with_reducible apply safe_eachLane
    | with_reducible apply safe_finishLoad
    | with_reducible apply safe_lockLane
    | with_reducible apply safe_CellAns_poison
    | with_reducible apply safe_runCell
    | with_reducible apply safe_writeResult
    | with_reducible apply safe_mk
    | (with_reducible apply safe_mem; with_reducible refine safe_of_bad (by with_reducible assumption) ?_)
    | (with_reducible apply safe_lmem; with_reducible refine safe_of_bad (by with_reducible assumption) ?_)
    | with_reducible intro _
    | split
    | dsimp only

theorem safe_execCmLock (f : CM) (s : State) (h1 : Safe s) : outSafe (execCmLock f s) := by
  unfold execCmLock
  repeat' first
    | with_reducible assumption
    | with_reducible apply safe_cmLockForm

theorem safe_execCmUnlk (f : CM) (s : State) (h1 : Safe s) : outSafe (execCmUnlk f s) := by
  unfold execCmUnlk
  repeat' first
    | with_reducible assumption
    | with_reducible apply safe_cmLockForm

theorem safe_prefetchLane (c : Cell) (f : CM) (b : Vec) (s : State) (l : Nat) (h3 : Safe s) : Safe (prefetchLane c f b s l) := by
  unfold prefetchLane
  repeat' first
    | with_reducible assumption
    | with_reducible apply safe_claimLine
    | with_reducible apply safe_Cell_touch
    | with_reducible apply safe_mk
    | with_reducible exact safe_mem (by assumption)
    | with_reducible exact safe_lmem (by assumption)
    | (with_reducible apply safe_mem; with_reducible apply safe_fillSlice)
    | (with_reducible apply safe_lmem; with_reducible apply safe_fillSlice)
    | (with_reducible apply safe_mem; with_reducible apply safe_Cell_touch)
    | (with_reducible apply safe_lmem; with_reducible apply safe_Cell_touch)
    | (with_reducible apply safe_mem; with_reducible refine safe_of_opt1 (by with_reducible assumption) ?_)
    | (with_reducible apply safe_lmem; with_reducible refine safe_of_opt1 (by with_reducible assumption) ?_)
    | split
    | dsimp only

theorem safe_execCmPft (f : CM) (s : State) (h1 : Safe s) : outSafe (execCmPft f s) := by
  unfold execCmPft
  repeat' first
    | with_reducible assumption
    | with_reducible apply cellSafe_done
    | with_reducible apply cellSafe_hold
    | with_reducible apply safe_CellAns_poison
    | with_reducible apply safe_prefetchLane
    | with_reducible apply safe_runCell
    | with_reducible apply safe_foldl
    | with_reducible intro _
    | split
    | dsimp only

theorem safe_execCmFill (f : CM) (s : State) (h1 : Safe s) : outSafe (execCmFill f s) := by
  unfold execCmFill
  repeat' first
    | with_reducible assumption
    | with_reducible apply cellSafe_done
    | with_reducible apply cellSafe_trap
    | with_reducible apply cellSafe_deliver
    | with_reducible apply safe_CellAns_poison
    | with_reducible apply safe_runCell
    | with_reducible apply safe_State_updWeave
    | with_reducible intro _
    | split
    | dsimp only

/-! ## Machine/SeqSync -/

theorem safe_seqWait (w : SeqWait) (limit : Nat) (info : W64) (c : SeqCtx) (s : State) (h4 : Safe s) : seqSafe (seqWait w limit info c s) := by
  unfold seqWait
  repeat' first
    | with_reducible assumption
    | with_reducible apply seqSafe_done
    | with_reducible apply seqSafe_trap
    | with_reducible apply seqSafe_wait
    | split

theorem safe_execSrWaitQueue (f : SR) (s : State) (h1 : Safe s) : outSafe (execSrWaitQueue f s) := by
  unfold execSrWaitQueue
  repeat' first
    | with_reducible assumption
    | with_reducible apply seqSafe_trap
    | with_reducible apply safe_runSeq
    | with_reducible apply safe_seqWait
    | with_reducible intro _
    | split
    | dsimp only

theorem safe_execSrWaitTimeline (f : SR) (s : State) (h1 : Safe s) : outSafe (execSrWaitTimeline f s) := by
  unfold execSrWaitTimeline
  repeat' first
    | with_reducible assumption
    | with_reducible apply seqSafe_trap
    | with_reducible apply safe_runSeq
    | with_reducible apply safe_seqWait
    | with_reducible intro _
    | split
    | dsimp only

theorem safe_execSrWaitTag (f : SR) (s : State) (h1 : Safe s) : outSafe (execSrWaitTag f s) := by
  unfold execSrWaitTag
  repeat' first
    | with_reducible assumption
    | with_reducible apply safe_runSeq
    | with_reducible apply safe_seqWait
    | with_reducible intro _

theorem safe_execSxFence (f : SX) (s : State) (h1 : Safe s) : outSafe (execSxFence f s) := by
  unfold execSxFence
  repeat' first
    | with_reducible assumption
    | with_reducible apply seqSafe_done
    | with_reducible apply safe_runSeq
    | with_reducible intro _

theorem safe_execSxBar (f : SX) (s : State) (h1 : Safe s) : outSafe (execSxBar f s) := by
  unfold execSxBar
  repeat' first
    | with_reducible assumption
    | with_reducible apply seqSafe_done
    | with_reducible apply seqSafe_trap
    | with_reducible apply seqSafe_wait
    | with_reducible apply safe_arrive
    | with_reducible apply safe_runSeq
    | with_reducible apply safe_setCtx
    | with_reducible apply safe_updCtx
    | with_reducible intro _
    | split
    | dsimp only

theorem safe_holdPub (st : Nat) (p : HeldPub) (c : SeqCtx) (s : State) (h3 : Safe s) : Safe (holdPub st p c s) := by
  unfold holdPub
  repeat' first
    | with_reducible assumption
    | with_reducible apply safe_setCtx
    | with_reducible apply safe_updStand

theorem safe_execSrTagp (f : SR) (scope : BitVec 3) (s : State) (h2 : Safe s) : outSafe (execSrTagp f scope s) := by
  unfold execSrTagp
  repeat' first
    | with_reducible assumption
    | with_reducible apply seqSafe_done
    | with_reducible apply seqSafe_trap
    | with_reducible apply safe_holdPub
    | with_reducible apply safe_publish
    | with_reducible apply safe_runSeq
    | with_reducible apply safe_updCtx
    | with_reducible intro _
    | split
    | dsimp only

theorem safe_execSrTagq (f : SR) (s : State) (h1 : Safe s) : outSafe (execSrTagq f s) := by
  unfold execSrTagq
  repeat' first
    | with_reducible assumption
    | with_reducible apply seqSafe_done
    | with_reducible apply seqSafe_trap
    | with_reducible apply safe_runSeq
    | with_reducible apply safe_setReg
    | with_reducible intro _
    | split
    | dsimp only

theorem safe_execSrTagg (f : SR) (s : State) (h1 : Safe s) : outSafe (execSrTagg f s) := by
  unfold execSrTagg
  repeat' first
    | with_reducible assumption
    | with_reducible apply seqSafe_done
    | with_reducible apply seqSafe_trap
    | with_reducible apply safe_advance
    | with_reducible apply safe_holdPub
    | with_reducible apply safe_runSeq
    | with_reducible intro _
    | split
    | dsimp only

theorem safe_seqTlrd (i : Instr) (f : SR) (v : Bool) (s : State) (h3 : Safe s) : outSafe (seqTlrd i f v s) := by
  unfold seqTlrd
  repeat' first
    | with_reducible assumption
    | with_reducible apply seqSafe_done
    | with_reducible apply seqSafe_trap
    | with_reducible apply safe_runSeq
    | with_reducible apply safe_setReg
    | with_reducible apply safe_updStand
    | with_reducible intro _
    | split
    | dsimp only

theorem safe_execSrTlrdR (f : SR) (s : State) (h1 : Safe s) : outSafe (execSrTlrdR f s) := by
  unfold execSrTlrdR
  repeat' first
    | with_reducible assumption
    | with_reducible apply safe_seqTlrd

theorem safe_execSrTlrdV (f : SR) (s : State) (h1 : Safe s) : outSafe (execSrTlrdV f s) := by
  unfold execSrTlrdV
  repeat' first
    | with_reducible assumption
    | with_reducible apply safe_seqTlrd

/-! ## Machine/Engine -/

theorem safe_updEngine (k : EKey) (f : Eng → Eng) (s : State) (h2 : Safe s) : Safe (updEngine k f s) := by
  unfold updEngine
  repeat' first
    | with_reducible assumption
    | with_reducible apply safe_updStand

theorem safe_updCmd (k : EKey) (seq : Nat) (f : Cmd → Cmd) (s : State) (h3 : Safe s) : Safe (updCmd k seq f s) := by
  unfold updCmd
  repeat' first
    | with_reducible assumption
    | with_reducible apply safe_updEngine

theorem safe_dropRequests (k : EKey) (seq : Nat) (s : State) (h2 : Safe s) : Safe (dropRequests k seq s) := by
  unfold dropRequests
  repeat' first
    | with_reducible apply safe_mk
    | with_reducible exact safe_mem (by assumption)
    | with_reducible exact safe_lmem (by assumption)

theorem safe_lateBlaze (k : EKey) (seq : Nat) (s : State) (h2 : Safe s) : Safe (lateBlaze k seq s) := by
  unfold lateBlaze
  repeat' first
    | with_reducible assumption
    | with_reducible apply safe_updStand
    | with_reducible apply safe_mk
    | with_reducible exact safe_mem (by assumption)
    | with_reducible exact safe_lmem (by assumption)
    | (with_reducible apply safe_mem; with_reducible apply safe_emitBlaze)
    | (with_reducible apply safe_lmem; with_reducible apply safe_emitBlaze)
    | split

theorem safe_endCmd (k : EKey) (c : Cmd) (s : State) (h2 : Safe s) : Safe (endCmd k c s) := by
  unfold endCmd
  repeat' first
    | with_reducible assumption
    | with_reducible apply safe_lateBlaze
    | with_reducible apply safe_updCmd
    | with_reducible apply safe_updEngine

theorem safe_requestPub (k : EKey) (c : Cmd) (s : State) (h2 : Safe s) : Safe (requestPub k c s) := by
  unfold requestPub
  repeat' first
    | with_reducible assumption
    | with_reducible apply safe_mk
    | with_reducible exact safe_mem (by assumption)
    | with_reducible exact safe_lmem (by assumption)
    | (with_reducible apply safe_mem; with_reducible apply safe_updStand)
    | (with_reducible apply safe_lmem; with_reducible apply safe_updStand)
    | split

theorem safe_withdrawPub (k : EKey) (c : Cmd) (s : State) (h2 : Safe s) : Safe (withdrawPub k c s) := by
  unfold withdrawPub
  repeat' first
    | with_reducible assumption
    | with_reducible apply safe_updStand

theorem safe_finishCmd (k : EKey) (c : Cmd) (s : State) (h2 : Safe s) : Safe (finishCmd k c s) := by
  unfold finishCmd
  repeat' first
    | with_reducible assumption
    | with_reducible apply safe_endCmd
    | with_reducible apply safe_requestPub

theorem safe_endStream (k : EKey) (c : Cmd) (s : State) (h2 : Safe s) : Safe (endStream k c s) := by
  unfold endStream
  repeat' first
    | with_reducible assumption
    | with_reducible apply safe_mk
    | (with_reducible apply safe_mem; with_reducible apply safe_finishCmd)
    | (with_reducible apply safe_lmem; with_reducible apply safe_finishCmd)
    | (with_reducible apply safe_mem; with_reducible apply safe_updCmd)
    | (with_reducible apply safe_lmem; with_reducible apply safe_updCmd)
    | split

theorem safe_dropPart (k : EKey) (c : Cmd) (s : State) (h2 : Safe s) : Safe (dropPart k c s) := by
  unfold dropPart
  repeat' first
    | with_reducible assumption
    | with_reducible apply safe_mk
    | with_reducible exact safe_mem (by assumption)
    | with_reducible exact safe_lmem (by assumption)
    | (with_reducible apply safe_mem; with_reducible apply safe_updColls)
    | (with_reducible apply safe_lmem; with_reducible apply safe_updColls)
    | split

theorem safe_failCmd (k : EKey) (c : Cmd) (cause : Nat) (s : State) (h3 : Safe s) : Safe (failCmd k c cause s) := by
  unfold failCmd
  repeat' first
    | with_reducible assumption
    | with_reducible apply safe_dropPart
    | with_reducible apply safe_dropRequests
    | with_reducible apply safe_endCmd
    | with_reducible apply safe_trapStand
    | with_reducible apply safe_updEngine
    | with_reducible apply safe_withdrawPub

theorem safe_rejectCmd (k : EKey) (c : Cmd) (s : State) (h2 : Safe s) : Safe (rejectCmd k c s) := by
  unfold rejectCmd
  repeat' first
    | with_reducible assumption
    | with_reducible apply safe_updEngine
    | with_reducible apply safe_withdrawPub

theorem safe_touchEls (t : Stand) (x : Side) (ixs : List (List Nat)) (s : State) (h3 : Safe s) : Safe (touchEls t x ixs s) := by
  unfold touchEls
  repeat' first
    | with_reducible assumption
    | with_reducible apply safe_State_tlbFill
    | with_reducible apply safe_mk
    | with_reducible exact safe_mem (by assumption)
    | with_reducible exact safe_lmem (by assumption)
    | (with_reducible apply safe_mem; with_reducible apply safe_foldl)
    | (with_reducible apply safe_lmem; with_reducible apply safe_foldl)
    | with_reducible intro _
    | split

theorem safe_updStore (st : Nat) (p : WPos) (f : Memory → Memory) (s : State) (h3 : Safe s) : Safe (updStore st p f s) := by
  unfold updStore
  repeat' first
    | with_reducible assumption
    | with_reducible apply safe_State_updWeave

theorem safe_holdEng (k : EKey) (ops : List SegOp) (s : State) (h2 : Safe s) : writeSafe (holdEng k ops s) := by
  unfold holdEng
  repeat' first
    | with_reducible assumption
    | with_reducible apply writeSafe_ok
    | with_reducible apply writeSafe_full
    | with_reducible apply safe_tryHold
    | with_reducible apply safe_mk
    | (with_reducible apply safe_mem; with_reducible refine safe_of_some (by with_reducible assumption) ?_)
    | (with_reducible apply safe_lmem; with_reducible refine safe_of_some (by with_reducible assumption) ?_)
    | split

theorem safe_writeEls (k : EKey) (x : Side) (ixs : List (List Nat)) (els : List TileEl) (s : State) (h4 : Safe s) : writeSafe (writeEls k x ixs els s) := by
  unfold writeEls
  repeat' first
    | with_reducible assumption
    | with_reducible apply writeSafe_ok
    | with_reducible apply writeSafe_fault
    | with_reducible apply safe_addBytes
    | with_reducible apply safe_holdEng
    | with_reducible apply safe_touchEls
    | with_reducible apply safe_updStore
    | split

theorem safe_reduceEls (k : EKey) (code : Nat) (x : Side) (ixs : List (List Nat)) (els : List TileEl) (s : State) (h5 : Safe s) : writeSafe (reduceEls k code x ixs els s) := by
  unfold reduceEls
  repeat' first
    | with_reducible assumption
    | with_reducible apply writeSafe_ok
    | with_reducible apply writeSafe_fault
    | with_reducible apply safe_addBytes
    | with_reducible apply safe_holdEng
    | with_reducible apply safe_updStore
    | split

theorem safe_putEls (k : EKey) (c : Cmd) (x : Side) (ixs : List (List Nat)) (els : List TileEl) (s : State) (h5 : Safe s) : writeSafe (putEls k c x ixs els s) := by
  unfold putEls
  repeat' first
    | with_reducible assumption
    | with_reducible apply safe_holdEng
    | with_reducible apply safe_reduceEls
    | with_reducible apply safe_writeEls
    | split
    | dsimp only

theorem safe_pauseCmd (k : EKey) (c : Cmd) (s : State) (h2 : Safe s) : Safe (pauseCmd k c s) := by
  unfold pauseCmd
  repeat' first
    | with_reducible assumption
    | with_reducible apply safe_requestWave
    | with_reducible apply safe_updCmd

theorem safe_afterWrite (k : EKey) (c : Cmd) (s : State) (next : State → State) (a : WriteAns) (h : Safe s) (hf : ∀ s, Safe s → Safe (next s)) (ha : writeSafe a) : Safe (afterWrite k c s next a) := by
  cases a
  all_goals try simp only [writeSafe] at ha
  all_goals
    unfold afterWrite
    repeat' first
    | with_reducible assumption
    | with_reducible apply hf
    | with_reducible apply safe_failCmd
    | with_reducible apply safe_pauseCmd
    | with_reducible apply safe_updCmd

theorem safe_setFull (st : Nat) (p : WPos) (ls : List Nat) (s : State) (h3 : Safe s) : Safe (setFull st p ls s) := by
  unfold setFull
  repeat' first
    | with_reducible assumption
    | with_reducible apply safe_State_updWeave

theorem safe_markFull (k : EKey) (c : Cmd) (b : Side) (moved : List (List Nat × List Nat)) (s : State) (h4 : Safe s) : Safe (markFull k c b moved s) := by
  unfold markFull
  repeat' first
    | with_reducible assumption
    | with_reducible apply safe_mk
    | with_reducible exact safe_mem (by assumption)
    | with_reducible exact safe_lmem (by assumption)
    | (with_reducible apply safe_mem; with_reducible apply safe_setFull)
    | (with_reducible apply safe_lmem; with_reducible apply safe_setFull)
    | split

theorem safe_moveEls (k : EKey) (c : Cmd) (a b : Side) (ps : List (List Nat × List Nat)) (s : State) (h5 : Safe s) : writeSafe (moveEls k c a b ps s) := by
  unfold moveEls
  repeat' first
    | with_reducible assumption
    | with_reducible apply writeSafe_fault
    | with_reducible apply safe_putEls
    | with_reducible apply safe_mk
    | (with_reducible apply safe_mem; with_reducible apply safe_addBytes)
    | (with_reducible apply safe_lmem; with_reducible apply safe_addBytes)
    | (with_reducible apply safe_mem; with_reducible apply safe_touchEls)
    | (with_reducible apply safe_lmem; with_reducible apply safe_touchEls)
    | split

theorem safe_failReply (k : EKey) (c : Cmd) (cause line : Nat) (s : State) (h4 : Safe s) : Safe (failReply k c cause line s) := by
  unfold failReply
  repeat' first
    | with_reducible assumption
    | with_reducible apply safe_mk
    | (with_reducible apply safe_mem; with_reducible apply safe_failCmd)
    | (with_reducible apply safe_lmem; with_reducible apply safe_failCmd)
    | (with_reducible apply safe_mem; with_reducible apply safe_updCmd)
    | (with_reducible apply safe_lmem; with_reducible apply safe_updCmd)
    | split

theorem safe_takeEls (k : EKey) (c : Cmd) (a b : Side) (ps : List (List Nat × List Nat)) (todo : List Nat) (fail : State → State)
    (s : State) (h6 : ∀ s, Safe s → Safe (fail s)) (h7 : Safe s) : Safe (takeEls k c a b ps todo fail s) := by
  unfold takeEls
  repeat' first
    | with_reducible assumption
    | (with_reducible apply safe_mem; with_reducible apply h6)
    | (with_reducible apply safe_lmem; with_reducible apply h6)
    | with_reducible apply safe_mk
    | with_reducible exact safe_mem (by assumption)
    | with_reducible exact safe_lmem (by assumption)
    | (with_reducible apply safe_mem; with_reducible apply safe_addBytes)
    | (with_reducible apply safe_lmem; with_reducible apply safe_addBytes)
    | (with_reducible apply safe_mem; with_reducible apply safe_updCmd)
    | (with_reducible apply safe_lmem; with_reducible apply safe_updCmd)
    | split

theorem safe_writeDue (k : EKey) (c : Cmd) (a b : Side) (s : State) (h4 : Safe s) : Safe (writeDue k c a b s) := by
  unfold writeDue
  repeat' first
    | with_reducible assumption
    | with_reducible apply safe_afterWrite
    | with_reducible apply safe_markFull
    | with_reducible apply safe_putEls
    | with_reducible apply safe_updCmd
    | with_reducible intro _

theorem safe_dropForeign (i : SliceId) (s : State) (h1 : Safe s) : Safe (dropForeign i s) := by
  unfold dropForeign
  repeat' first
    | with_reducible apply safe_guardDrop
    | with_reducible apply safe_mk
    | with_reducible exact safe_mem (by assumption)
    | with_reducible exact safe_lmem (by assumption)

theorem safe_admitReq (x : State × List (Nat × Nat)) (r : SliceReq) (h0 : Safe x.1) : Safe (admitReq x r).1 := by
  unfold admitReq
  repeat' first
    | with_reducible apply safe_mk
    | with_reducible exact safe_mem (by assumption)
    | with_reducible exact safe_lmem (by assumption)
    | (with_reducible apply safe_mem; with_reducible apply safe_dropForeign)
    | (with_reducible apply safe_lmem; with_reducible apply safe_dropForeign)
    | (with_reducible apply safe_mem; with_reducible apply safe_setSlice)
    | (with_reducible apply safe_lmem; with_reducible apply safe_setSlice)
    | split
    | dsimp only

theorem safe_admitReqs (s : State) (h : Safe s) : Safe (admitReqs s) := by
  have hf : ∀ (l : List SliceReq) (x : State × List (Nat × Nat)), Safe x.1 → Safe (l.foldl admitReq x).1 := by
    intro l
    induction l with
    | nil => intro x hx; exact hx
    | cons r rs ih => intro x hx; exact ih _ (safe_admitReq x r hx)
  exact safe_injectWaiting _ (hf _ _ h)

theorem safe_issueLine (k : EKey) (c : Cmd) (t : Stand) (todo : List Nat) (s : State) (h4 : Safe s) : Safe (issueLine k c t todo s) := by
  unfold issueLine
  repeat' first
    | with_reducible assumption
    | with_reducible apply safe_State_tlbFill
    | with_reducible apply safe_touchRide
    | with_reducible apply safe_mk
    | with_reducible exact safe_mem (by assumption)
    | with_reducible exact safe_lmem (by assumption)
    | (with_reducible apply safe_mem; with_reducible apply safe_admitReqs)
    | (with_reducible apply safe_lmem; with_reducible apply safe_admitReqs)
    | (with_reducible apply safe_mem; with_reducible apply safe_failCmd)
    | (with_reducible apply safe_lmem; with_reducible apply safe_failCmd)
    | (with_reducible apply safe_mem; with_reducible apply safe_updCmd)
    | (with_reducible apply safe_lmem; with_reducible apply safe_updCmd)
    | split

theorem safe_countRefused (vf n : Nat) (s : State) (h2 : Safe s) : Safe (countRefused vf n s) := by
  unfold countRefused
  repeat' first
    | with_reducible assumption
    | with_reducible apply safe_updVf

theorem safe_moveLine (r : SliceReq) (s0 : State) (h1 : Safe s0) : Safe (moveLine r s0) := by
  unfold moveLine
  repeat' first
    | with_reducible assumption
    | with_reducible apply safe_failReply
    | with_reducible apply safe_pinLine
    | with_reducible apply safe_touchRide
    | with_reducible apply safe_unpinLine
    | with_reducible apply safe_mk
    | with_reducible exact safe_mem (by assumption)
    | with_reducible exact safe_lmem (by assumption)
    | (with_reducible apply safe_mem; with_reducible apply safe_countRefused)
    | (with_reducible apply safe_lmem; with_reducible apply safe_countRefused)
    | (with_reducible apply safe_mem; with_reducible apply safe_failReply)
    | (with_reducible apply safe_lmem; with_reducible apply safe_failReply)
    | (with_reducible apply safe_mem; with_reducible apply safe_pinLine)
    | (with_reducible apply safe_lmem; with_reducible apply safe_pinLine)
    | (with_reducible apply safe_mem; with_reducible apply safe_takeEls)
    | (with_reducible apply safe_lmem; with_reducible apply safe_takeEls)
    | (with_reducible apply safe_mem; with_reducible apply safe_touchRide)
    | (with_reducible apply safe_lmem; with_reducible apply safe_touchRide)
    | (with_reducible apply safe_mem; with_reducible apply safe_updCmd)
    | (with_reducible apply safe_lmem; with_reducible apply safe_updCmd)
    | split
    | dsimp only

theorem safe_copyOut (k : EKey) (c : Cmd) (a b : Side) (s : State) (h4 : Safe s) : Safe (copyOut k c a b s) := by
  unfold copyOut
  repeat' first
    | with_reducible assumption
    | with_reducible apply safe_moveEls
    | with_reducible apply safe_updCmd
    | with_reducible apply safe_mk
    | (with_reducible apply safe_mem; with_reducible apply safe_afterWrite)
    | (with_reducible apply safe_lmem; with_reducible apply safe_afterWrite)
    | (with_reducible apply safe_mem; with_reducible apply safe_finishCmd)
    | (with_reducible apply safe_lmem; with_reducible apply safe_finishCmd)
    | (with_reducible apply safe_mem; with_reducible apply safe_updCmd)
    | (with_reducible apply safe_lmem; with_reducible apply safe_updCmd)
    | split

theorem safe_moverStep (x : EngAt) (s : State) (h1 : Safe s) : Safe (moverStep x s) := by
  unfold moverStep
  repeat' first
    | with_reducible assumption
    | with_reducible apply safe_failCmd
    | with_reducible apply safe_finishCmd
    | with_reducible apply safe_markFull
    | with_reducible apply safe_moveEls
    | with_reducible apply safe_mk
    | (with_reducible apply safe_mem; with_reducible apply safe_afterWrite)
    | (with_reducible apply safe_lmem; with_reducible apply safe_afterWrite)
    | (with_reducible apply safe_mem; with_reducible apply safe_copyOut)
    | (with_reducible apply safe_lmem; with_reducible apply safe_copyOut)
    | (with_reducible apply safe_mem; with_reducible apply safe_finishCmd)
    | (with_reducible apply safe_lmem; with_reducible apply safe_finishCmd)
    | (with_reducible apply safe_mem; with_reducible apply safe_issueLine)
    | (with_reducible apply safe_lmem; with_reducible apply safe_issueLine)
    | (with_reducible apply safe_mem; with_reducible apply safe_rejectCmd)
    | (with_reducible apply safe_lmem; with_reducible apply safe_rejectCmd)
    | (with_reducible apply safe_mem; with_reducible apply safe_takeEls)
    | (with_reducible apply safe_lmem; with_reducible apply safe_takeEls)
    | (with_reducible apply safe_mem; with_reducible apply safe_writeDue)
    | (with_reducible apply safe_lmem; with_reducible apply safe_writeDue)
    | with_reducible intro _
    | split

theorem safe_lineStep (x : EngAt) (s : State) (h1 : Safe s) : Safe (lineStep x s) := by
  unfold lineStep
  repeat' first
    | with_reducible assumption
    | with_reducible apply safe_mk
    | with_reducible exact safe_mem (by assumption)
    | with_reducible exact safe_lmem (by assumption)
    | (with_reducible apply safe_mem; with_reducible apply safe_countRefused)
    | (with_reducible apply safe_lmem; with_reducible apply safe_countRefused)
    | (with_reducible apply safe_mem; with_reducible apply safe_finishCmd)
    | (with_reducible apply safe_lmem; with_reducible apply safe_finishCmd)
    | (with_reducible apply safe_mem; with_reducible apply safe_issueLine)
    | (with_reducible apply safe_lmem; with_reducible apply safe_issueLine)
    | (with_reducible apply safe_mem; with_reducible apply safe_rejectCmd)
    | (with_reducible apply safe_lmem; with_reducible apply safe_rejectCmd)
    | (with_reducible apply safe_mem; with_reducible apply safe_updCmd)
    | (with_reducible apply safe_lmem; with_reducible apply safe_updCmd)
    | split

theorem safe_takeToken (k : EKey) (s : State) (h1 : Safe s) : Safe (takeToken k s) := by
  unfold takeToken
  repeat' first
    | with_reducible assumption
    | with_reducible apply safe_addBytes
    | with_reducible apply safe_updEngine

theorem safe_sendTok (k : EKey) (route : Nat) (tok : Tok) (s : State) (h3 : Safe s) : Safe (sendTok k route tok s) := by
  unfold sendTok
  repeat' first
    | with_reducible assumption
    | with_reducible apply safe_addBytes
    | with_reducible apply safe_engineSend

theorem safe_enginePass (k : EKey) (w : Wave) (g : Eng) (s : State) (h3 : Safe s) : Safe (enginePass k w g s) := by
  unfold enginePass
  repeat' first
    | with_reducible assumption
    | with_reducible apply safe_updStand

/-! ## Machine/Fetch -/

theorem safe_noteSeq (q : SeqId) (s : State) (h1 : Safe s) : Safe (noteSeq q s) := by
  unfold noteSeq
  repeat' first
    | with_reducible assumption
    | with_reducible apply safe_updCtx

theorem safe_fetchSeq (q : SeqId) (s : State) (h1 : Safe s) : fetchSafe (fetchSeq q s) := by
  unfold fetchSeq
  repeat' first
    | with_reducible assumption
    | with_reducible apply fetchSafe_idle
    | with_reducible apply fetchSafe_run
    | with_reducible apply safe_noteSeq
    | with_reducible apply safe_seqTrap
    | with_reducible apply safe_mk
    | (with_reducible apply safe_mem; with_reducible apply safe_noteSeq)
    | (with_reducible apply safe_lmem; with_reducible apply safe_noteSeq)
    | split
    | dsimp only

theorem safe_fetchTask (k : TKey) (s : State) (h1 : Safe s) : fetchSafe (fetchTask k s) := by
  unfold fetchTask
  repeat' first
    | with_reducible assumption
    | with_reducible apply fetchSafe_idle
    | with_reducible apply fetchSafe_run
    | with_reducible apply safe_cellTrap
    | with_reducible apply safe_setStand
    | with_reducible apply safe_mk
    | with_reducible exact safe_mem (by assumption)
    | with_reducible exact safe_lmem (by assumption)
    | split
    | dsimp only

theorem safe_fetchEngine (e : EKey) (s : State) (h1 : Safe s) : fetchSafe (fetchEngine e s) := by
  unfold fetchEngine
  repeat' first
    | with_reducible assumption
    | with_reducible apply fetchSafe_idle
    | with_reducible apply fetchSafe_run
    | with_reducible apply safe_enginePass
    | with_reducible apply safe_mk
    | with_reducible exact safe_mem (by assumption)
    | with_reducible exact safe_lmem (by assumption)
    | (with_reducible apply safe_mem; with_reducible apply safe_setStand)
    | (with_reducible apply safe_lmem; with_reducible apply safe_setStand)
    | split

theorem safe_oneStand (s : State) (cell : List W64) (cmds : List Cmd) (fired : Bool) (h0 : Safe s) : Safe (oneStand s cell cmds fired) := by
  unfold oneStand
  repeat' first
    | with_reducible apply safe_setCtx
    | with_reducible apply safe_mk
    | with_reducible exact safe_mem (by assumption)
    | with_reducible exact safe_lmem (by assumption)

theorem safe_placeWord (s : State) (nbits w : Nat) (h0 : Safe s) : Safe (placeWord s nbits w) := by
  unfold placeWord
  repeat' first
    | with_reducible assumption
    | with_reducible apply safe_mk
    | with_reducible exact safe_mem (by assumption)
    | with_reducible exact safe_lmem (by assumption)
    | (with_reducible apply safe_mem; with_reducible apply safe_oneStand)
    | (with_reducible apply safe_lmem; with_reducible apply safe_oneStand)
    | (with_reducible apply safe_mem; with_reducible apply safe_setCtx)
    | (with_reducible apply safe_lmem; with_reducible apply safe_setCtx)
    | split
    | dsimp only

/-! ## Machine/Cycle -/

theorem safe_newCycle (s : State) (h0 : Safe s) : Safe (newCycle s) := by
  unfold newCycle
  repeat' first
    | with_reducible apply safe_mk
    | with_reducible exact safe_mem (by assumption)
    | with_reducible exact safe_lmem (by assumption)
    | dsimp only

/-! ## Machine/CellEvents -/

theorem safe_execTaskFire (k : TKey) (s : State) (h1 : Safe s) : outSafe (execTaskFire k s) := by
  unfold execTaskFire
  repeat' first
    | with_reducible assumption
    | with_reducible apply outSafe_next
    | with_reducible apply safe_State_updTask
    | with_reducible apply safe_mk
    | with_reducible exact safe_mem (by assumption)
    | with_reducible exact safe_lmem (by assumption)
    | (with_reducible apply safe_mem; with_reducible apply safe_acquireWeave)
    | (with_reducible apply safe_lmem; with_reducible apply safe_acquireWeave)
    | (with_reducible apply safe_mem; with_reducible apply safe_State_updTask)
    | (with_reducible apply safe_lmem; with_reducible apply safe_State_updTask)
    | split

theorem safe_execInstructionCompletion (k : TKey) (s : State) (h1 : Safe s) : outSafe (execInstructionCompletion k s) := by
  unfold execInstructionCompletion
  repeat' first
    | with_reducible assumption
    | with_reducible apply outSafe_next
    | with_reducible apply safe_State_updTask
    | with_reducible apply safe_writeResult
    | with_reducible apply safe_mk
    | (with_reducible apply safe_mem; with_reducible apply safe_closeTask)
    | (with_reducible apply safe_lmem; with_reducible apply safe_closeTask)
    | (with_reducible apply safe_mem; with_reducible apply safe_writeResult)
    | (with_reducible apply safe_lmem; with_reducible apply safe_writeResult)
    | split

theorem safe_execTaskWaitExpired (k : TKey) (s : State) (h1 : Safe s) : outSafe (execTaskWaitExpired k s) := by
  unfold execTaskWaitExpired
  repeat' first
    | with_reducible assumption
    | with_reducible apply outSafe_next
    | with_reducible apply safe_dropMult
    | with_reducible apply safe_waitTrap
    | split

theorem safe_execBackwardBranchLimit (k : TKey) (s : State) (h1 : Safe s) : outSafe (execBackwardBranchLimit k s) := by
  unfold execBackwardBranchLimit
  repeat' first
    | with_reducible assumption
    | with_reducible apply outSafe_next
    | with_reducible apply safe_cellTrap
    | split

theorem safe_execInputLineWaitExpired (k : TKey) (s : State) (h1 : Safe s) : outSafe (execInputLineWaitExpired k s) := by
  unfold execInputLineWaitExpired
  repeat' first
    | with_reducible assumption
    | with_reducible apply outSafe_next
    | with_reducible apply safe_cellTrap
    | with_reducible apply safe_State_updTask
    | split

theorem safe_wakeTrapped (q : SeqId) (s : State) (h1 : Safe s) : Safe (wakeTrapped q s) := by
  unfold wakeTrapped
  repeat' first
    | with_reducible assumption
    | with_reducible apply safe_updCtx
    | with_reducible apply safe_mk
    | with_reducible exact safe_mem (by assumption)
    | with_reducible exact safe_lmem (by assumption)
    | (with_reducible apply safe_mem; with_reducible apply safe_makeReady)
    | (with_reducible apply safe_lmem; with_reducible apply safe_makeReady)
    | split

theorem safe_taskBarrierExpired (k : TKey) (s : State) (h1 : Safe s) : Safe (taskBarrierExpired k s) := by
  unfold taskBarrierExpired
  repeat' first
    | with_reducible assumption
    | with_reducible apply safe_withdraw
    | with_reducible apply safe_mk
    | with_reducible exact safe_mem (by assumption)
    | with_reducible exact safe_lmem (by assumption)
    | (with_reducible apply safe_mem; with_reducible apply safe_waitTrap)
    | (with_reducible apply safe_lmem; with_reducible apply safe_waitTrap)
    | split

theorem safe_barrierTimeout (m : BarMember) (info : SeqCtx → W64) (s : State) (h2 : Safe s) : Safe (barrierTimeout m info s) := by
  unfold barrierTimeout
  repeat' first
    | with_reducible assumption
    | with_reducible apply safe_seqTrap
    | with_reducible apply safe_withdraw
    | with_reducible apply safe_mk
    | with_reducible exact safe_mem (by assumption)
    | with_reducible exact safe_lmem (by assumption)
    | (with_reducible apply safe_mem; with_reducible apply safe_taskBarrierExpired)
    | (with_reducible apply safe_lmem; with_reducible apply safe_taskBarrierExpired)
    | (with_reducible apply safe_mem; with_reducible apply safe_wakeTrapped)
    | (with_reducible apply safe_lmem; with_reducible apply safe_wakeTrapped)
    | split
    | dsimp only

theorem safe_execL1Eviction (w : WKey) (cell line : Nat) (s : State) (h3 : Safe s) : outSafe (execL1Eviction w cell line s) := by
  unfold execL1Eviction
  repeat' first
    | with_reducible assumption
    | with_reducible apply outSafe_next
    | with_reducible apply safe_evict
    | with_reducible apply safe_requestWave
    | with_reducible apply safe_mk
    | (with_reducible apply safe_mem; with_reducible refine safe_of_some (by with_reducible assumption) ?_)
    | (with_reducible apply safe_lmem; with_reducible refine safe_of_some (by with_reducible assumption) ?_)
    | split

/-! ## Machine/Place -/

theorem safe_reportPub (st : Nat) (p : HeldPub) (cause : Nat) (s : State) (h3 : Safe s) : Safe (reportPub st p cause s) := by
  unfold reportPub
  repeat' first
    | with_reducible assumption
    | with_reducible apply safe_appendRecord
    | with_reducible apply safe_updCtx
    | with_reducible apply safe_mk
    | with_reducible exact safe_mem (by assumption)
    | with_reducible exact safe_lmem (by assumption)
    | (with_reducible apply safe_mem; with_reducible apply safe_hostEvent)
    | (with_reducible apply safe_lmem; with_reducible apply safe_hostEvent)
    | (with_reducible apply safe_mem; with_reducible apply safe_updCtx)
    | (with_reducible apply safe_lmem; with_reducible apply safe_updCtx)
    | split
    | dsimp only

theorem safe_homeStep (die : Nat) (adv : Bool) (s : State) (h2 : Safe s) : Safe (homeStep die adv s) := by
  unfold homeStep
  repeat' first
    | with_reducible assumption
    | with_reducible apply safe_advance
    | with_reducible apply safe_publish
    | with_reducible apply safe_updDie
    | with_reducible apply safe_mk
    | with_reducible exact safe_mem (by assumption)
    | with_reducible exact safe_lmem (by assumption)
    | (with_reducible apply safe_mem; with_reducible apply safe_advance)
    | (with_reducible apply safe_lmem; with_reducible apply safe_advance)
    | (with_reducible apply safe_mem; with_reducible apply safe_publish)
    | (with_reducible apply safe_lmem; with_reducible apply safe_publish)
    | (with_reducible apply safe_mem; with_reducible apply safe_reportPub)
    | (with_reducible apply safe_lmem; with_reducible apply safe_reportPub)
    | split
    | dsimp only

theorem safe_execPublication (die : Nat) (s : State) (h1 : Safe s) : outSafe (execPublication die s) := by
  unfold execPublication
  repeat' first
    | with_reducible assumption
    | with_reducible apply outSafe_next
    | with_reducible apply safe_homeStep

theorem safe_execGenerationAdvance (die : Nat) (s : State) (h1 : Safe s) : outSafe (execGenerationAdvance die s) := by
  unfold execGenerationAdvance
  repeat' first
    | with_reducible assumption
    | with_reducible apply outSafe_next
    | with_reducible apply safe_homeStep

theorem safe_execLwpub (vf : Nat) (ref : W64) (s : State) (h2 : Safe s) : outSafe (execLwpub vf ref s) := by
  unfold execLwpub
  repeat' first
    | with_reducible assumption
    | with_reducible apply outSafe_next
    | with_reducible apply safe_mk
    | (with_reducible apply safe_mem; with_reducible apply safe_holdHost)
    | (with_reducible apply safe_lmem; with_reducible apply safe_holdHost)
    | (with_reducible apply safe_mem; with_reducible apply safe_hostPublish)
    | (with_reducible apply safe_lmem; with_reducible apply safe_hostPublish)
    | split

theorem safe_execLwqref (vf : Nat) (ref : W64) (s : State) (h2 : Safe s) : outSafe (execLwqref vf ref s) := by
  unfold execLwqref
  repeat' first
    | with_reducible assumption
    | with_reducible apply outSafe_next
    | with_reducible apply safe_updVf
    | with_reducible apply safe_mk
    | (with_reducible apply safe_mem; with_reducible apply safe_holdHost)
    | (with_reducible apply safe_lmem; with_reducible apply safe_holdHost)
    | (with_reducible apply safe_mem; with_reducible apply safe_hostQuery)
    | (with_reducible apply safe_lmem; with_reducible apply safe_hostQuery)
    | split

theorem safe_execTagNotification (die : Nat) (s : State) (h1 : Safe s) : outSafe (execTagNotification die s) := by
  unfold execTagNotification
  repeat' first
    | with_reducible assumption
    | with_reducible apply outSafe_next
    | with_reducible apply safe_updDie
    | split

theorem safe_execBitmapPoll (die : Nat) (s : State) (h1 : Safe s) : outSafe (execBitmapPoll die s) := by
  unfold execBitmapPoll
  repeat' first
    | with_reducible assumption
    | with_reducible apply outSafe_next
    | with_reducible apply safe_updDie
    | split

theorem safe_execClassPromotion (die : Nat) (s : State) (h1 : Safe s) : outSafe (execClassPromotion die s) := by
  unfold execClassPromotion
  repeat' first
    | with_reducible assumption
    | with_reducible apply outSafe_next
    | with_reducible apply safe_updDie

theorem safe_acquireStand (t : Stand) (s : State) (h1 : Safe s) : Safe (acquireStand t s) := by
  unfold acquireStand
  repeat' first
    | with_reducible assumption
    | with_reducible apply safe_acquireWeave
    | with_reducible apply safe_foldl
    | with_reducible intro _

theorem safe_execBlockDispatch (die stand : Nat) (s : State) (h2 : Safe s) : outSafe (execBlockDispatch die stand s) := by
  unfold execBlockDispatch
  repeat' first
    | with_reducible assumption
    | with_reducible apply outSafe_next
    | with_reducible apply safe_acquireStand
    | with_reducible apply safe_feedBlk
    | with_reducible apply safe_setStand
    | with_reducible apply safe_updDie
    | split

theorem safe_placeFresh (vf die : Nat) (k : Kernel) (g : Nat) (x : Site) (s : State) (h5 : Safe s) : Safe (placeFresh vf die k g x s) := by
  unfold placeFresh
  repeat' first
    | with_reducible apply safe_setCtx
    | with_reducible apply safe_mk
    | with_reducible exact safe_mem (by assumption)
    | with_reducible exact safe_lmem (by assumption)

theorem safe_bindCarried (c : SeqCtx) (region : Memory) (q : SeqId) (s : State) (h3 : Safe s) : Safe (bindCarried c region q s) := by
  unfold bindCarried
  repeat' first
    | with_reducible apply safe_setCtx
    | with_reducible apply putRegion_wf
    | with_reducible apply safe_mk
    | with_reducible exact safe_mem (by assumption)
    | with_reducible exact safe_lmem (by assumption)
    | (with_reducible apply safe_mem; with_reducible apply safe_makeReady)
    | (with_reducible apply safe_lmem; with_reducible apply safe_makeReady)
    | (with_reducible apply safe_mem; with_reducible apply safe_setCtx)
    | (with_reducible apply safe_lmem; with_reducible apply safe_setCtx)
    | split

theorem safe_placeAgain (t : Stand) (x : Site) (s : State) (h2 : Safe s) : Safe (placeAgain t x s) := by
  unfold placeAgain
  repeat' first
    | with_reducible assumption
    | with_reducible apply safe_bindCarried
    | with_reducible apply safe_feedNext
    | with_reducible apply safe_setStand

theorem safe_putAside (t : Stand) (status : Status) (s : State) (h2 : Safe s) : Safe (putAside t status s) := by
  unfold putAside
  repeat' first
    | with_reducible assumption
    | with_reducible apply safe_leaveBox
    | with_reducible apply safe_schedule
    | with_reducible apply safe_setCtx
    | with_reducible apply safe_setStand
    | with_reducible apply safe_withdrawRequests

theorem safe_moveStand (t : Stand) (col row : Nat) (s : State) (h3 : Safe s) : Safe (moveStand t col row s) := by
  unfold moveStand
  repeat' first
    | with_reducible assumption
    | with_reducible apply safe_leaveBox
    | with_reducible apply safe_schedule
    | with_reducible apply safe_setStand
    | with_reducible apply safe_mk
    | (with_reducible apply safe_mem; with_reducible apply safe_bindCarried)
    | (with_reducible apply safe_lmem; with_reducible apply safe_bindCarried)
    | (with_reducible apply safe_mem; with_reducible apply safe_setCtx)
    | (with_reducible apply safe_lmem; with_reducible apply safe_setCtx)
    | (with_reducible apply safe_mem; with_reducible apply safe_setStand)
    | (with_reducible apply safe_lmem; with_reducible apply safe_setStand)
    | split

theorem safe_execSuspendedStandReplace (die : Nat) (s : State) (h1 : Safe s) : outSafe (execSuspendedStandReplace die s) := by
  unfold execSuspendedStandReplace
  repeat' first
    | with_reducible assumption
    | with_reducible apply outSafe_next
    | with_reducible apply safe_placeAgain
    | split

theorem safe_satisfyRequest (die : Nat) (r : Rec) (s : State) (h2 : Safe s) : optSafe (satisfyRequest die r s) := by
  unfold satisfyRequest
  repeat' first
    | with_reducible assumption
    | with_reducible apply optSafe_none
    | with_reducible apply optSafe_map
    | with_reducible apply safe_placeAgain
    | with_reducible apply safe_placeFresh
    | with_reducible intro _
    | split

theorem safe_removeIdle (t : Stand) (s : State) (h1 : Safe s) : Safe (removeIdle t s) := by
  unfold removeIdle
  repeat' first
    | with_reducible assumption
    | with_reducible apply safe_setStand
    | with_reducible apply safe_mk
    | (with_reducible apply safe_mem; with_reducible apply safe_freeStand)
    | (with_reducible apply safe_lmem; with_reducible apply safe_freeStand)
    | (with_reducible apply safe_mem; with_reducible apply safe_requestWave)
    | (with_reducible apply safe_lmem; with_reducible apply safe_requestWave)
    | split

theorem safe_removeUntil (die : Nat) (r : Rec) (n : Nat) (s : State) (h : Safe s) : Safe (removeUntil die r n s).1 := by
  induction n generalizing s with
  | zero => exact h
  | succ n ih =>
    unfold removeUntil
    repeat' first
    | with_reducible assumption
    | (with_reducible apply safe_mem; with_reducible apply ih)
    | (with_reducible apply safe_lmem; with_reducible apply ih)
    | with_reducible apply safe_removeIdle
    | with_reducible apply safe_satisfyRequest
    | with_reducible apply safe_mk
    | with_reducible exact safe_mem (by assumption)
    | with_reducible exact safe_lmem (by assumption)
    | (with_reducible apply safe_mem; with_reducible apply safe_removeIdle)
    | (with_reducible apply safe_lmem; with_reducible apply safe_removeIdle)
    | (with_reducible apply safe_mem; with_reducible refine safe_of_some (by with_reducible assumption) ?_)
    | (with_reducible apply safe_lmem; with_reducible refine safe_of_some (by with_reducible assumption) ?_)
    | split
    | dsimp only

theorem safe_compact (die : Nat) (k : Kernel) (s : State) (h2 : Safe s) : Safe (compact die k s).1 := by
  unfold compact
  repeat' first
    | with_reducible assumption
    | with_reducible apply safe_requestWave
    | with_reducible apply safe_updStand
    | with_reducible apply safe_mk
    | with_reducible exact safe_mem (by assumption)
    | with_reducible exact safe_lmem (by assumption)
    | (with_reducible apply safe_mem; with_reducible apply safe_foldl)
    | (with_reducible apply safe_lmem; with_reducible apply safe_foldl)
    | with_reducible intro _
    | split

theorem safe_remedy (die : Nat) (r : Rec) (s : State) (h2 : Safe s) : Safe (remedy die r s).1 := by
  unfold remedy
  repeat' first
    | with_reducible assumption
    | with_reducible apply safe_removeUntil
    | with_reducible apply safe_mk
    | with_reducible exact safe_mem (by assumption)
    | with_reducible exact safe_lmem (by assumption)
    | (with_reducible apply safe_mem; with_reducible apply safe_compact)
    | (with_reducible apply safe_lmem; with_reducible apply safe_compact)
    | (with_reducible apply safe_mem; with_reducible apply safe_removeUntil)
    | (with_reducible apply safe_lmem; with_reducible apply safe_removeUntil)
    | split
    | dsimp only

theorem safe_remedies (die : Nat) (l : List Rec) (s : State) (h : Safe s) : Safe (remedies die l s) := by
  induction l generalizing s with
  | nil => exact h
  | cons w ws ih =>
    unfold remedies
    repeat' first
    | with_reducible assumption
    | (with_reducible apply safe_mem; with_reducible apply ih)
    | (with_reducible apply safe_lmem; with_reducible apply ih)
    | with_reducible apply safe_remedy
    | with_reducible apply safe_mk
    | (with_reducible apply safe_mem; with_reducible apply safe_remedy)
    | (with_reducible apply safe_lmem; with_reducible apply safe_remedy)
    | split

theorem safe_execStandPlacement (die : Nat) (s : State) (h : Safe s) : outSafe (execStandPlacement die s) := by
  unfold execStandPlacement
  split
  · exact h
  · dsimp only
    split
    · exact safe_of_some (by assumption) (optSafe_findSome fun r => safe_satisfyRequest die r s h)
    · exact safe_remedies die _ s h

theorem safe_preempt (t : Stand) (s : State) (h1 : Safe s) : Safe (preempt t s) := by
  unfold preempt
  repeat' first
    | with_reducible assumption
    | with_reducible apply safe_setStand
    | with_reducible apply safe_mk
    | (with_reducible apply safe_mem; with_reducible apply safe_putAside)
    | (with_reducible apply safe_lmem; with_reducible apply safe_putAside)
    | (with_reducible apply safe_mem; with_reducible apply safe_requestWave)
    | (with_reducible apply safe_lmem; with_reducible apply safe_requestWave)
    | (with_reducible apply safe_mem; with_reducible apply safe_setStand)
    | (with_reducible apply safe_lmem; with_reducible apply safe_setStand)
    | split

theorem safe_execPreemptStarvation (die : Nat) (s : State) (h1 : Safe s) : outSafe (execPreemptStarvation die s) := by
  unfold execPreemptStarvation
  repeat' first
    | with_reducible assumption
    | with_reducible apply outSafe_next
    | with_reducible apply safe_preempt
    | split

theorem safe_suspendVf (vf : Nat) (s : State) (h1 : Safe s) : Safe (suspendVf vf s) := by
  unfold suspendVf
  repeat' first
    | with_reducible assumption
    | with_reducible apply safe_foldl
    | with_reducible apply safe_mk
    | with_reducible exact safe_mem (by assumption)
    | with_reducible exact safe_lmem (by assumption)
    | (with_reducible apply safe_mem; with_reducible apply safe_preempt)
    | (with_reducible apply safe_lmem; with_reducible apply safe_preempt)
    | with_reducible intro _
    | split

theorem safe_execVfsusp (value : W64) (s : State) (h1 : Safe s) : outSafe (execVfsusp value s) := by
  unfold execVfsusp
  repeat' first
    | with_reducible assumption
    | with_reducible apply outSafe_next
    | with_reducible apply safe_foldl
    | with_reducible apply safe_mk
    | with_reducible exact safe_mem (by assumption)
    | with_reducible exact safe_lmem (by assumption)
    | (with_reducible apply safe_mem; with_reducible apply safe_suspendVf)
    | (with_reducible apply safe_lmem; with_reducible apply safe_suspendVf)
    | with_reducible intro _
    | split

/-! ## Machine/Skid -/

theorem safe_runSkid (i : Instr) (body : EngAt → State → State) (s : State) (h1 : ∀ x s, Safe s → Safe (body x s)) (h2 : Safe s) : outSafe (runSkid i body s) := by
  unfold runSkid
  repeat' first
    | with_reducible assumption
    | (with_reducible apply safe_mem; with_reducible apply h1)
    | (with_reducible apply safe_lmem; with_reducible apply h1)
    | with_reducible apply outSafe_next
    | with_reducible apply outSafe_fault
    | with_reducible apply safe_mk
    | with_reducible exact safe_mem (by assumption)
    | with_reducible exact safe_lmem (by assumption)
    | split

theorem safe_execSkCpygl (f : Skid) (s : State) (h1 : Safe s) : outSafe (execSkCpygl f s) := by
  unfold execSkCpygl
  repeat' first
    | with_reducible assumption
    | with_reducible apply safe_moverStep
    | with_reducible apply safe_runSkid

theorem safe_execSkCpylg (f : Skid) (s : State) (h1 : Safe s) : outSafe (execSkCpylg f s) := by
  unfold execSkCpylg
  repeat' first
    | with_reducible assumption
    | with_reducible apply safe_moverStep
    | with_reducible apply safe_runSkid

theorem safe_execSkCpygg (f : Skid) (s : State) (h1 : Safe s) : outSafe (execSkCpygg f s) := by
  unfold execSkCpygg
  repeat' first
    | with_reducible assumption
    | with_reducible apply safe_moverStep
    | with_reducible apply safe_runSkid

theorem safe_execSkRedc (f : Skid) (s : State) (h1 : Safe s) : outSafe (execSkRedc f s) := by
  unfold execSkRedc
  repeat' first
    | with_reducible assumption
    | with_reducible apply safe_moverStep
    | with_reducible apply safe_runSkid

theorem safe_execSkPfmc (f : Skid) (s : State) (h1 : Safe s) : outSafe (execSkPfmc f s) := by
  unfold execSkPfmc
  repeat' first
    | with_reducible assumption
    | with_reducible apply safe_lineStep
    | with_reducible apply safe_runSkid

theorem safe_execSkLkmc (f : Skid) (s : State) (h1 : Safe s) : outSafe (execSkLkmc f s) := by
  unfold execSkLkmc
  repeat' first
    | with_reducible assumption
    | with_reducible apply safe_lineStep
    | with_reducible apply safe_runSkid

theorem safe_execSkUlmc (f : Skid) (s : State) (h1 : Safe s) : outSafe (execSkUlmc f s) := by
  unfold execSkUlmc
  repeat' first
    | with_reducible assumption
    | with_reducible apply safe_lineStep
    | with_reducible apply safe_runSkid

theorem safe_writeTile (k : EKey) (c : Cmd) (b : Side) (el : List Nat → TileEl) (s : State) (done : State → State) (h4 : Safe s) (h5 : ∀ s, Safe s → Safe (done s)) : Safe (writeTile k c b el s done) := by
  unfold writeTile
  repeat' first
    | with_reducible assumption
    | (with_reducible apply safe_mem; with_reducible apply h5)
    | (with_reducible apply safe_lmem; with_reducible apply h5)
    | with_reducible apply safe_updCmd
    | with_reducible apply safe_writeEls
    | with_reducible apply safe_mk
    | (with_reducible apply safe_mem; with_reducible apply safe_afterWrite)
    | (with_reducible apply safe_lmem; with_reducible apply safe_afterWrite)
    | split

theorem safe_execSkFill (f : Skid) (s : State) (h1 : Safe s) : outSafe (execSkFill f s) := by
  unfold execSkFill
  repeat' first
    | with_reducible assumption
    | with_reducible apply safe_finishCmd
    | with_reducible apply safe_runSkid
    | with_reducible apply safe_mk
    | with_reducible exact safe_mem (by assumption)
    | with_reducible exact safe_lmem (by assumption)
    | (with_reducible apply safe_mem; with_reducible apply safe_rejectCmd)
    | (with_reducible apply safe_lmem; with_reducible apply safe_rejectCmd)
    | (with_reducible apply safe_mem; with_reducible apply safe_setFull)
    | (with_reducible apply safe_lmem; with_reducible apply safe_setFull)
    | (with_reducible apply safe_mem; with_reducible apply safe_writeTile)
    | (with_reducible apply safe_lmem; with_reducible apply safe_writeTile)
    | with_reducible intro _
    | split

theorem safe_execSkStrm (f : Skid) (s : State) (h1 : Safe s) : outSafe (execSkStrm f s) := by
  unfold execSkStrm
  repeat' first
    | with_reducible assumption
    | with_reducible apply safe_runSkid
    | with_reducible apply safe_sendTok
    | with_reducible apply safe_touchEls
    | with_reducible apply safe_mk
    | with_reducible exact safe_mem (by assumption)
    | with_reducible exact safe_lmem (by assumption)
    | (with_reducible apply safe_mem; with_reducible apply safe_endStream)
    | (with_reducible apply safe_lmem; with_reducible apply safe_endStream)
    | (with_reducible apply safe_mem; with_reducible apply safe_rejectCmd)
    | (with_reducible apply safe_lmem; with_reducible apply safe_rejectCmd)
    | (with_reducible apply safe_mem; with_reducible apply safe_updCmd)
    | (with_reducible apply safe_lmem; with_reducible apply safe_updCmd)
    | with_reducible intro _
    | split
    | dsimp only

theorem safe_execSkSink (f : Skid) (s : State) (h1 : Safe s) : outSafe (execSkSink f s) := by
  unfold execSkSink
  repeat' first
    | with_reducible assumption
    | with_reducible apply safe_runSkid
    | with_reducible apply safe_takeToken
    | with_reducible apply safe_writeEls
    | with_reducible apply safe_mk
    | with_reducible exact safe_mem (by assumption)
    | with_reducible exact safe_lmem (by assumption)
    | (with_reducible apply safe_mem; with_reducible apply safe_afterWrite)
    | (with_reducible apply safe_lmem; with_reducible apply safe_afterWrite)
    | (with_reducible apply safe_mem; with_reducible apply safe_failCmd)
    | (with_reducible apply safe_lmem; with_reducible apply safe_failCmd)
    | (with_reducible apply safe_mem; with_reducible apply safe_finishCmd)
    | (with_reducible apply safe_lmem; with_reducible apply safe_finishCmd)
    | (with_reducible apply safe_mem; with_reducible apply safe_rejectCmd)
    | (with_reducible apply safe_lmem; with_reducible apply safe_rejectCmd)
    | (with_reducible apply safe_mem; with_reducible apply safe_takeToken)
    | (with_reducible apply safe_lmem; with_reducible apply safe_takeToken)
    | (with_reducible apply safe_mem; with_reducible apply safe_updCmd)
    | (with_reducible apply safe_lmem; with_reducible apply safe_updCmd)
    | with_reducible intro _
    | split

theorem safe_execSkGath (f : Skid) (s : State) (h1 : Safe s) : outSafe (execSkGath f s) := by
  unfold execSkGath
  repeat' first
    | with_reducible assumption
    | with_reducible apply safe_runSkid
    | with_reducible apply safe_sendTok
    | with_reducible apply safe_takeToken
    | with_reducible apply safe_touchEls
    | with_reducible apply safe_mk
    | with_reducible exact safe_mem (by assumption)
    | with_reducible exact safe_lmem (by assumption)
    | (with_reducible apply safe_mem; with_reducible apply safe_endStream)
    | (with_reducible apply safe_lmem; with_reducible apply safe_endStream)
    | (with_reducible apply safe_mem; with_reducible apply safe_failCmd)
    | (with_reducible apply safe_lmem; with_reducible apply safe_failCmd)
    | (with_reducible apply safe_mem; with_reducible apply safe_rejectCmd)
    | (with_reducible apply safe_lmem; with_reducible apply safe_rejectCmd)
    | (with_reducible apply safe_mem; with_reducible apply safe_sendTok)
    | (with_reducible apply safe_lmem; with_reducible apply safe_sendTok)
    | with_reducible intro _
    | split

theorem safe_scatterAll (k : EKey) (b : Side) (l : List (List Nat × TileEl)) (s : State) (h : Safe s) : optFst (scatterAll k b l s) := by
  induction l generalizing s with
  | nil => exact optFst_some h
  | cons w ws ih =>
    unfold scatterAll
    repeat' first
    | with_reducible assumption
    | with_reducible apply ih
    | with_reducible apply optFst_some
    | with_reducible apply optFst_none
    | with_reducible apply safe_writeEls
    | with_reducible apply safe_mk
    | (with_reducible apply safe_mem; with_reducible refine safe_of_ok (by with_reducible assumption) ?_)
    | (with_reducible apply safe_lmem; with_reducible refine safe_of_ok (by with_reducible assumption) ?_)
    | split

theorem safe_execSkScat (f : Skid) (s : State) (h1 : Safe s) : outSafe (execSkScat f s) := by
  unfold execSkScat
  repeat' first
    | with_reducible assumption
    | with_reducible apply safe_runSkid
    | with_reducible apply safe_scatterAll
    | with_reducible apply safe_takeToken
    | with_reducible apply safe_updCmd
    | with_reducible apply safe_mk
    | with_reducible exact safe_mem (by assumption)
    | with_reducible exact safe_lmem (by assumption)
    | (with_reducible apply safe_mem; with_reducible apply safe_failCmd)
    | (with_reducible apply safe_lmem; with_reducible apply safe_failCmd)
    | (with_reducible apply safe_mem; with_reducible apply safe_finishCmd)
    | (with_reducible apply safe_lmem; with_reducible apply safe_finishCmd)
    | (with_reducible apply safe_mem; with_reducible apply safe_pauseCmd)
    | (with_reducible apply safe_lmem; with_reducible apply safe_pauseCmd)
    | (with_reducible apply safe_mem; with_reducible apply safe_rejectCmd)
    | (with_reducible apply safe_lmem; with_reducible apply safe_rejectCmd)
    | (with_reducible apply safe_mem; with_reducible apply safe_takeToken)
    | (with_reducible apply safe_lmem; with_reducible apply safe_takeToken)
    | (with_reducible apply safe_mem; with_reducible apply safe_updCmd)
    | (with_reducible apply safe_lmem; with_reducible apply safe_updCmd)
    | (with_reducible apply safe_mem; with_reducible refine safe_of_opt1 (by with_reducible assumption) ?_)
    | (with_reducible apply safe_lmem; with_reducible refine safe_of_opt1 (by with_reducible assumption) ?_)
    | with_reducible intro _
    | split
    | dsimp only

theorem safe_dispLane (x : EngAt) (f : Skid) (a : Side) (per : Nat) (l : Lane) (sub : Nat) (s : State) (h6 : Safe s) : Safe (dispLane x f a per l sub s) := by
  unfold dispLane
  repeat' first
    | with_reducible assumption
    | with_reducible apply safe_sendTok
    | with_reducible apply safe_touchEls
    | with_reducible apply safe_updCmd
    | with_reducible apply safe_mk
    | with_reducible exact safe_mem (by assumption)
    | with_reducible exact safe_lmem (by assumption)
    | (with_reducible apply safe_mem; with_reducible apply safe_failCmd)
    | (with_reducible apply safe_lmem; with_reducible apply safe_failCmd)
    | (with_reducible apply safe_mem; with_reducible apply safe_updCmd)
    | (with_reducible apply safe_lmem; with_reducible apply safe_updCmd)
    | (with_reducible apply safe_mem; with_reducible apply safe_updEngine)
    | (with_reducible apply safe_lmem; with_reducible apply safe_updEngine)
    | split
    | dsimp only

theorem safe_execSkDisp (f : Skid) (s : State) (h1 : Safe s) : outSafe (execSkDisp f s) := by
  unfold execSkDisp
  repeat' first
    | with_reducible assumption
    | with_reducible apply safe_runSkid
    | with_reducible apply safe_sendTok
    | with_reducible apply safe_takeToken
    | with_reducible apply safe_mk
    | with_reducible exact safe_mem (by assumption)
    | with_reducible exact safe_lmem (by assumption)
    | (with_reducible apply safe_mem; with_reducible apply safe_dispLane)
    | (with_reducible apply safe_lmem; with_reducible apply safe_dispLane)
    | (with_reducible apply safe_mem; with_reducible apply safe_endStream)
    | (with_reducible apply safe_lmem; with_reducible apply safe_endStream)
    | (with_reducible apply safe_mem; with_reducible apply safe_failCmd)
    | (with_reducible apply safe_lmem; with_reducible apply safe_failCmd)
    | (with_reducible apply safe_mem; with_reducible apply safe_rejectCmd)
    | (with_reducible apply safe_lmem; with_reducible apply safe_rejectCmd)
    | (with_reducible apply safe_mem; with_reducible apply safe_takeToken)
    | (with_reducible apply safe_lmem; with_reducible apply safe_takeToken)
    | (with_reducible apply safe_mem; with_reducible apply safe_updCmd)
    | (with_reducible apply safe_lmem; with_reducible apply safe_updCmd)
    | with_reducible intro _
    | split
    | dsimp only

theorem safe_cmbRecord (x : EngAt) (b : Side) (hd : Tok) (vals : List Lane) (rest : List Tok) (s : State) (h5 : Safe s) : Safe (cmbRecord x b hd vals rest s) := by
  unfold cmbRecord
  repeat' first
    | with_reducible assumption
    | with_reducible apply safe_takeToken
    | with_reducible apply safe_updCmd
    | with_reducible apply safe_updEngine
    | with_reducible apply safe_writeEls
    | with_reducible apply safe_mk
    | (with_reducible apply safe_mem; with_reducible apply safe_afterWrite)
    | (with_reducible apply safe_lmem; with_reducible apply safe_afterWrite)
    | (with_reducible apply safe_mem; with_reducible apply safe_updEngine)
    | (with_reducible apply safe_lmem; with_reducible apply safe_updEngine)
    | with_reducible intro _
    | split
    | dsimp only

theorem safe_execSkCmbn (f : Skid) (s : State) (h1 : Safe s) : outSafe (execSkCmbn f s) := by
  unfold execSkCmbn
  repeat' first
    | with_reducible assumption
    | with_reducible apply safe_runSkid
    | with_reducible apply safe_takeToken
    | with_reducible apply safe_updEngine
    | with_reducible apply safe_mk
    | with_reducible exact safe_mem (by assumption)
    | with_reducible exact safe_lmem (by assumption)
    | (with_reducible apply safe_mem; with_reducible apply safe_cmbRecord)
    | (with_reducible apply safe_lmem; with_reducible apply safe_cmbRecord)
    | (with_reducible apply safe_mem; with_reducible apply safe_failCmd)
    | (with_reducible apply safe_lmem; with_reducible apply safe_failCmd)
    | (with_reducible apply safe_mem; with_reducible apply safe_finishCmd)
    | (with_reducible apply safe_lmem; with_reducible apply safe_finishCmd)
    | (with_reducible apply safe_mem; with_reducible apply safe_rejectCmd)
    | (with_reducible apply safe_lmem; with_reducible apply safe_rejectCmd)
    | (with_reducible apply safe_mem; with_reducible apply safe_takeToken)
    | (with_reducible apply safe_lmem; with_reducible apply safe_takeToken)
    | (with_reducible apply safe_mem; with_reducible apply safe_updCmd)
    | (with_reducible apply safe_lmem; with_reducible apply safe_updCmd)
    | with_reducible intro _
    | split
    | dsimp only

theorem safe_settleColl (vf scope dtid tile l2op ty : Nat) (s : State) (h6 : Safe s) : Safe (settleColl vf scope dtid tile l2op ty s) := by
  unfold settleColl
  repeat' first
    | with_reducible apply safe_mk
    | with_reducible exact safe_mem (by assumption)
    | with_reducible exact safe_lmem (by assumption)
    | split
    | dsimp only

theorem safe_contribute (k : EKey) (c : Cmd) (els : List (W32 × Bool)) (s : State) (h3 : Safe s) : Safe (contribute k c els s) := by
  unfold contribute
  repeat' first
    | with_reducible assumption
    | with_reducible apply safe_updCmd
    | with_reducible apply safe_updColls

theorem safe_execSkColl (f : Skid) (s : State) (h1 : Safe s) : outSafe (execSkColl f s) := by
  unfold execSkColl
  repeat' first
    | with_reducible assumption
    | with_reducible apply safe_finishCmd
    | with_reducible apply safe_runSkid
    | with_reducible apply safe_mk
    | with_reducible exact safe_mem (by assumption)
    | with_reducible exact safe_lmem (by assumption)
    | (with_reducible apply safe_mem; with_reducible apply safe_addBytes)
    | (with_reducible apply safe_lmem; with_reducible apply safe_addBytes)
    | (with_reducible apply safe_mem; with_reducible apply safe_contribute)
    | (with_reducible apply safe_lmem; with_reducible apply safe_contribute)
    | (with_reducible apply safe_mem; with_reducible apply safe_failCmd)
    | (with_reducible apply safe_lmem; with_reducible apply safe_failCmd)
    | (with_reducible apply safe_mem; with_reducible apply safe_rejectCmd)
    | (with_reducible apply safe_lmem; with_reducible apply safe_rejectCmd)
    | (with_reducible apply safe_mem; with_reducible apply safe_settleColl)
    | (with_reducible apply safe_lmem; with_reducible apply safe_settleColl)
    | (with_reducible apply safe_mem; with_reducible apply safe_writeTile)
    | (with_reducible apply safe_lmem; with_reducible apply safe_writeTile)
    | with_reducible intro _
    | split

theorem safe_execSkBlaz (f : Skid) (s : State) (h1 : Safe s) : outSafe (execSkBlaz f s) := by
  unfold execSkBlaz
  repeat' first
    | with_reducible assumption
    | with_reducible apply safe_requestWave
    | with_reducible apply safe_runSkid
    | with_reducible apply safe_updCmd
    | with_reducible intro _

theorem safe_execSkNopc (f : Skid) (s : State) (h1 : Safe s) : outSafe (execSkNopc f s) := by
  unfold execSkNopc
  repeat' first
    | with_reducible assumption
    | with_reducible apply safe_finishCmd
    | with_reducible apply safe_runSkid
    | with_reducible intro _

/-! ## Machine/Blaze -/

theorem safe_flushL1 (k : WKey) (s : State) (h1 : Safe s) : Safe (flushL1 k s) := by
  unfold flushL1
  repeat' first
    | with_reducible assumption
    | with_reducible apply safe_releaseWeave
    | with_reducible apply safe_State_updWeave
    | with_reducible apply safe_mk
    | (with_reducible apply safe_mem; with_reducible apply safe_holdOps)
    | (with_reducible apply safe_lmem; with_reducible apply safe_holdOps)
    | (with_reducible apply safe_mem; with_reducible refine safe_of_some (by with_reducible assumption) ?_)
    | (with_reducible apply safe_lmem; with_reducible refine safe_of_some (by with_reducible assumption) ?_)
    | split

theorem safe_nodeBlaze (n : NodeDesc) (all : List TKey) (home : TKey) (tok : Tok) (s : State) (h4 : Safe s) : Safe (nodeBlaze n all home tok s) := by
  unfold nodeBlaze
  repeat' first
    | with_reducible assumption
    | with_reducible apply safe_portSend
    | with_reducible apply safe_mk
    | (with_reducible apply safe_mem; with_reducible apply safe_gather)
    | (with_reducible apply safe_lmem; with_reducible apply safe_gather)
    | (with_reducible apply safe_mem; with_reducible apply safe_portSend)
    | (with_reducible apply safe_lmem; with_reducible apply safe_portSend)
    | split

theorem safe_forwardBlaze (t : Stand) (p : WPos) (tok : Tok) (s : State) (h3 : Safe s) : Safe (forwardBlaze t p tok s) := by
  unfold forwardBlaze
  repeat' first
    | with_reducible assumption
    | with_reducible apply safe_foldl
    | with_reducible apply safe_mk
    | with_reducible exact safe_mem (by assumption)
    | with_reducible exact safe_lmem (by assumption)
    | (with_reducible apply safe_mem; with_reducible apply safe_nodeBlaze)
    | (with_reducible apply safe_lmem; with_reducible apply safe_nodeBlaze)
    | with_reducible intro _
    | split
    | dsimp only

theorem safe_snapWeave (t : Stand) (x : Wave) (w : Weave) (s : State) (h3 : Safe s) : Safe (snapWeave t x w s) := by
  unfold snapWeave
  repeat' first
    | with_reducible assumption
    | with_reducible apply safe_forwardBlaze
    | with_reducible apply safe_setStand

theorem safe_execWeaveSnapshot (k : WKey) (s : State) (h1 : Safe s) : outSafe (execWeaveSnapshot k s) := by
  unfold execWeaveSnapshot
  repeat' first
    | with_reducible assumption
    | with_reducible apply outSafe_next
    | with_reducible apply safe_flushL1
    | with_reducible apply safe_snapWeave
    | split
    | dsimp only

theorem safe_commitOps (l : List SegEnt) (s : State) (h1 : Safe s) : Safe (commitOps l s) := by
  unfold commitOps
  repeat' first
    | with_reducible assumption
    | with_reducible apply Memory.applyOp_wf
    | with_reducible apply safe_foldl
    | with_reducible apply safe_mk
    | with_reducible exact safe_mem (by assumption)
    | with_reducible exact safe_lmem (by assumption)
    | (with_reducible apply safe_mem; with_reducible apply safe_emit)
    | (with_reducible apply safe_lmem; with_reducible apply safe_emit)
    | with_reducible intro _
    | split
    | dsimp only

theorem safe_commitSeg (t : Stand) (s : State) (h1 : Safe s) : Safe (commitSeg t s) := by
  unfold commitSeg
  repeat' first
    | with_reducible assumption
    | with_reducible apply safe_commitOps
    | with_reducible apply safe_updStand

theorem safe_handOver (t : Stand) (p : HeldPub) (s : State) (h2 : Safe s) : Safe (handOver t p s) := by
  unfold handOver
  repeat' first
    | with_reducible assumption
    | with_reducible apply safe_flitOn
    | with_reducible apply safe_updDie

theorem safe_appendLog (die : Nat) (w : W128) (s : State) (h2 : Safe s) : Safe (appendLog die w s) := by
  unfold appendLog
  repeat' first
    | with_reducible assumption
    | with_reducible apply safe_mk
    | (with_reducible apply safe_mem; with_reducible apply safe_updDie)
    | (with_reducible apply safe_lmem; with_reducible apply safe_updDie)
    | split
    | dsimp only

theorem safe_logCommit (t : Stand) (x : Wave) (ps : List HeldPub) (s : State) (h3 : Safe s) : Safe (logCommit t x ps s) := by
  unfold logCommit
  repeat' first
    | with_reducible assumption
    | with_reducible apply safe_appendLog
    | with_reducible apply safe_foldl
    | with_reducible intro _

theorem safe_dropColls (t : Stand) (x : Wave) (s : State) (h2 : Safe s) : Safe (dropColls t x s) := by
  unfold dropColls
  repeat' first
    | with_reducible apply safe_mk
    | with_reducible exact safe_mem (by assumption)
    | with_reducible exact safe_lmem (by assumption)

theorem safe_commitWave (t : Stand) (x : Wave) (s : State) (h2 : Safe s) : Safe (commitWave t x s) := by
  unfold commitWave
  repeat' first
    | with_reducible assumption
    | with_reducible apply safe_commitSeg
    | with_reducible apply safe_dropColls
    | with_reducible apply safe_logCommit
    | with_reducible apply safe_setStand
    | with_reducible apply safe_updStand

theorem safe_haltComplete (t : Stand) (x : Wave) (s : State) (h2 : Safe s) : Safe (haltComplete t x s) := by
  unfold haltComplete
  repeat' first
    | with_reducible assumption
    | with_reducible apply safe_setStand
    | with_reducible apply safe_mk
    | (with_reducible apply safe_mem; with_reducible apply safe_putAside)
    | (with_reducible apply safe_lmem; with_reducible apply safe_putAside)
    | (with_reducible apply safe_mem; with_reducible apply safe_tryLeave)
    | (with_reducible apply safe_lmem; with_reducible apply safe_tryLeave)
    | split

theorem safe_closeBlocks (t : Stand) (fl : WaveFlags) (s : State) (h2 : Safe s) : Safe (closeBlocks t fl s) := by
  unfold closeBlocks
  repeat' first
    | with_reducible assumption
    | with_reducible apply safe_removeRec
    | with_reducible apply safe_updStand
    | with_reducible apply safe_foldl
    | with_reducible apply safe_mk
    | with_reducible exact safe_mem (by assumption)
    | with_reducible exact safe_lmem (by assumption)
    | (with_reducible apply safe_mem; with_reducible apply safe_updVf)
    | (with_reducible apply safe_lmem; with_reducible apply safe_updVf)
    | with_reducible intro _
    | split

theorem safe_afterWave (t : Stand) (fl : WaveFlags) (s : State) (h2 : Safe s) : Safe (afterWave t fl s) := by
  unfold afterWave
  repeat' first
    | with_reducible assumption
    | with_reducible apply safe_mk
    | (with_reducible apply safe_mem; with_reducible apply safe_moveStand)
    | (with_reducible apply safe_lmem; with_reducible apply safe_moveStand)
    | (with_reducible apply safe_mem; with_reducible apply safe_putAside)
    | (with_reducible apply safe_lmem; with_reducible apply safe_putAside)
    | (with_reducible apply safe_mem; with_reducible apply safe_setStand)
    | (with_reducible apply safe_lmem; with_reducible apply safe_setStand)
    | split

theorem safe_nextWave (st : Nat) (s : State) (h1 : Safe s) : Safe (nextWave st s) := by
  unfold nextWave
  repeat' first
    | with_reducible assumption
    | with_reducible apply safe_requestWave
    | with_reducible apply safe_setStand
    | with_reducible apply safe_mk
    | with_reducible exact safe_mem (by assumption)
    | with_reducible exact safe_lmem (by assumption)
    | (with_reducible apply safe_mem; with_reducible apply safe_feedNext)
    | (with_reducible apply safe_lmem; with_reducible apply safe_feedNext)
    | (with_reducible apply safe_mem; with_reducible apply safe_injectWave)
    | (with_reducible apply safe_lmem; with_reducible apply safe_injectWave)
    | split

theorem safe_endWave (t : Stand) (x : Wave) (s : State) (h2 : Safe s) : Safe (endWave t x s) := by
  unfold endWave
  repeat' first
    | with_reducible assumption
    | with_reducible apply safe_afterWave
    | with_reducible apply safe_closeBlocks
    | with_reducible apply safe_setStand
    | with_reducible apply safe_mk
    | (with_reducible apply safe_mem; with_reducible apply safe_closeBlocks)
    | (with_reducible apply safe_lmem; with_reducible apply safe_closeBlocks)
    | (with_reducible apply safe_mem; with_reducible apply safe_nextWave)
    | (with_reducible apply safe_lmem; with_reducible apply safe_nextWave)
    | split
    | dsimp only

theorem safe_afterCommit (t : Stand) (x : Wave) (s : State) (h2 : Safe s) : Safe (afterCommit t x s) := by
  unfold afterCommit
  repeat' first
    | with_reducible assumption
    | with_reducible apply safe_setStand
    | with_reducible apply safe_mk
    | with_reducible exact safe_mem (by assumption)
    | with_reducible exact safe_lmem (by assumption)
    | (with_reducible apply safe_mem; with_reducible apply safe_endWave)
    | (with_reducible apply safe_lmem; with_reducible apply safe_endWave)
    | (with_reducible apply safe_mem; with_reducible apply safe_handOver)
    | (with_reducible apply safe_lmem; with_reducible apply safe_handOver)
    | split

theorem safe_execWaveComplete (st : Nat) (s : State) (h1 : Safe s) : outSafe (execWaveComplete st s) := by
  unfold execWaveComplete
  repeat' first
    | with_reducible assumption
    | with_reducible apply outSafe_next
    | with_reducible apply safe_afterCommit
    | with_reducible apply safe_commitWave
    | with_reducible apply safe_haltComplete
    | split

theorem safe_execPeriodicBlaze (st : Nat) (s : State) (h1 : Safe s) : outSafe (execPeriodicBlaze st s) := by
  unfold execPeriodicBlaze
  repeat' first
    | with_reducible assumption
    | with_reducible apply outSafe_next
    | with_reducible apply safe_requestWave
    | split

end Sys2Proof.Laws
end

