-- ==== Sys2Proof/Laws/SafeInstr.lean ====
section
/-! SUPPORT. Both memories stay in canonical form through every operation of the families of cell and sequencer instructions. -/

namespace Sys2Proof.Laws

open Sys2Proof.Machine

/-! ## Machine/CellC -/

theorem safe_execCcLoop (f : CG) (s : State) (h1 : Safe s) : outSafe (execCcLoop f s) := by
  unfold execCcLoop
  repeat' first
    | with_reducible assumption
    | with_reducible apply cellSafe_goto
    | with_reducible apply safe_CellAns_illegal
    | with_reducible apply safe_CellAns_poison
    | with_reducible apply safe_runCell
    | with_reducible intro _
    | split
    | dsimp only

theorem safe_execCcLbrk (f : CG) (s : State) (h1 : Safe s) : outSafe (execCcLbrk f s) := by
  unfold execCcLbrk
  repeat' first
    | with_reducible assumption
    | with_reducible apply cellSafe_goto
    | with_reducible apply safe_CellAns_illegal
    | with_reducible apply safe_runCell
    | with_reducible intro _
    | split

theorem safe_cellBranch (i : Instr) (f : CG) (c : Cell) (s : State) (h3 : Safe s) : cellSafe (cellBranch i f c s) := by
  unfold cellBranch
  repeat' first
    | with_reducible assumption
    | with_reducible apply cellSafe_goto
    | with_reducible apply cellSafe_wait
    | with_reducible apply safe_CellAns_illegal
    | with_reducible apply safe_State_updTask
    | split
    | dsimp only

theorem safe_execCcBra (f : CG) (s : State) (h1 : Safe s) : outSafe (execCcBra f s) := by
  unfold execCcBra
  repeat' first
    | with_reducible assumption
    | with_reducible apply cellSafe_done
    | with_reducible apply safe_cellBranch
    | with_reducible apply safe_runCell
    | with_reducible intro _
    | split

theorem safe_execCcJmp (f : CG) (s : State) (h1 : Safe s) : outSafe (execCcJmp f s) := by
  unfold execCcJmp
  repeat' first
    | with_reducible assumption
    | with_reducible apply safe_cellBranch
    | with_reducible apply safe_runCell

theorem safe_execCcGrain (f : CG) (s : State) (h1 : Safe s) : outSafe (execCcGrain f s) := by
  unfold execCcGrain
  repeat' first
    | with_reducible assumption
    | with_reducible apply safe_runCell
    | with_reducible apply safe_CellAns_write
    | with_reducible intro _

theorem safe_execCcRdsr (f : CG) (s : State) (h1 : Safe s) : outSafe (execCcRdsr f s) := by
  unfold execCcRdsr
  repeat' first
    | with_reducible assumption
    | with_reducible apply safe_runCell
    | with_reducible apply safe_CellAns_write
    | with_reducible intro _

theorem safe_execCcWrsr (f : CG) (s : State) (h1 : Safe s) : outSafe (execCcWrsr f s) := by
  unfold execCcWrsr
  repeat' first
    | with_reducible assumption
    | with_reducible apply cellSafe_done
    | with_reducible apply safe_CellAns_poison
    | with_reducible apply safe_runCell
    | with_reducible apply safe_State_updTask
    | with_reducible apply safe_State_updWeave
    | with_reducible intro _
    | split
    | dsimp only

theorem safe_execCcTagp (f : CG) (s : State) (h1 : Safe s) : outSafe (execCcTagp f s) := by
  unfold execCcTagp
  repeat' first
    | with_reducible assumption
    | with_reducible apply cellSafe_done
    | with_reducible apply safe_CellAns_poison
    | with_reducible apply safe_runCell
    | with_reducible apply safe_updStand
    | with_reducible intro _
    | split
    | dsimp only

theorem safe_execCcTlw (f : CG) (s : State) (h1 : Safe s) : outSafe (execCcTlw f s) := by
  unfold execCcTlw
  repeat' first
    | with_reducible assumption
    | with_reducible apply cellSafe_done
    | with_reducible apply cellSafe_trap
    | with_reducible apply cellSafe_wait
    | with_reducible apply safe_acquireWeave
    | with_reducible apply safe_CellAns_poison
    | with_reducible apply safe_runCell
    | with_reducible intro _
    | split
    | dsimp only

theorem safe_execCcFenc (f : CG) (s : State) (h1 : Safe s) : outSafe (execCcFenc f s) := by
  unfold execCcFenc
  repeat' first
    | with_reducible assumption
    | with_reducible apply cellSafe_done
    | with_reducible apply cellSafe_holdWave
    | with_reducible apply safe_acquireWeave
    | with_reducible apply safe_releaseWeave
    | with_reducible apply safe_runCell
    | with_reducible apply safe_mk
    | (with_reducible apply safe_mem; with_reducible apply safe_acquireWeave)
    | (with_reducible apply safe_lmem; with_reducible apply safe_acquireWeave)
    | (with_reducible apply safe_mem; with_reducible refine safe_of_some (by with_reducible assumption) ?_)
    | (with_reducible apply safe_lmem; with_reducible refine safe_of_some (by with_reducible assumption) ?_)
    | with_reducible intro _
    | split
    | dsimp only

theorem safe_barrWait (k : BarKey) (s : State) (h1 : Safe s) : cellSafe (barrWait k s) := by
  unfold barrWait
  repeat' first
    | with_reducible assumption
    | with_reducible apply cellSafe_waitIn

theorem safe_cellArrive (f : CG) (c : Cell) (k : BarKey) (bit : Bool) (s : State) (h4 : Safe s) : cellSafe (cellArrive f c k bit s) := by
  unfold cellArrive
  repeat' first
    | with_reducible assumption
    | with_reducible apply cellSafe_holdWave
    | with_reducible apply cellSafe_stay
    | with_reducible apply safe_arrive
    | with_reducible apply safe_barrWait
    | with_reducible apply safe_keepSlots
    | with_reducible apply safe_releaseWeave
    | with_reducible apply safe_mk
    | (with_reducible apply safe_mem; with_reducible refine safe_of_some (by with_reducible assumption) ?_)
    | (with_reducible apply safe_lmem; with_reducible refine safe_of_some (by with_reducible assumption) ?_)
    | split
    | dsimp only

theorem safe_execCcBarr (f : CG) (s : State) (h1 : Safe s) : outSafe (execCcBarr f s) := by
  unfold execCcBarr
  repeat' first
    | with_reducible assumption
    | with_reducible apply cellSafe_trap
    | with_reducible apply safe_barrWait
    | with_reducible apply safe_cellArrive
    | with_reducible apply safe_CellAns_poison
    | with_reducible apply safe_runCell
    | with_reducible apply safe_Cell_undo
    | with_reducible intro _
    | split
    | dsimp only

theorem safe_execCcYld (f : CG) (s : State) (h1 : Safe s) : outSafe (execCcYld f s) := by
  unfold execCcYld
  repeat' first
    | with_reducible assumption
    | with_reducible apply cellSafe_done
    | with_reducible apply safe_runCell
    | with_reducible intro _

theorem safe_execCcTrap (f : CG) (s : State) (h1 : Safe s) : outSafe (execCcTrap f s) := by
  unfold execCcTrap
  repeat' first
    | with_reducible assumption
    | with_reducible apply cellSafe_trap
    | with_reducible apply safe_runCell
    | with_reducible apply safe_State_updTask
    | with_reducible intro _

theorem safe_execCcEndt (f : CG) (s : State) (h1 : Safe s) : outSafe (execCcEndt f s) := by
  unfold execCcEndt
  repeat' first
    | with_reducible assumption
    | with_reducible apply cellSafe_done
    | with_reducible apply safe_runCell
    | with_reducible intro _

/-! ## Machine/CellD -/

theorem safe_readBlocks (c : Cell) (addr n : Nat) (s : State) (h : Safe s) : blockSafe (readBlocks c addr n s) := by
  unfold readBlocks
  refine blockSafe_foldl h fun b k hb => ?_
  cases b with
  | ok s1 bs p =>
    have h1 : Safe s1 := hb
    dsimp only
    split
    · exact blockSafe_bad
    · split
      · exact blockSafe_stalls (safe_of_optCell (by assumption) (safe_Cell_lineWait _ _))
      · exact h1
    · split
      · exact blockSafe_stalls trivial
      · split
        · exact blockSafe_full
        · exact safe_addBytes _ _ _ (safe_Cell_touch _ _ _ _ (safe_of_some (by assumption) (safe_evict _ _ _ h1)))
  | bad a b => exact hb
  | full => exact hb
  | stalls a => exact hb

theorem safe_installImage (i : Instr) (f : CG) (c : Cell) (src : Nat) (bs : List Byte) (poison : Bool) (s : State) (h6 : Safe s) : cellSafe (installImage i f c src bs poison s) := by
  unfold installImage
  repeat' first
    | with_reducible assumption
    | with_reducible apply cellSafe_done
    | with_reducible apply cellSafe_trap
    | with_reducible apply safe_CellAns_poison
    | with_reducible apply safe_State_updWeave
    | split

theorem safe_dxldStore (i : Instr) (f : CG) (c : Cell) (src : Nat) (s : State) (h4 : Safe s) : cellSafe (dxldStore i f c src s) := by
  unfold dxldStore
  repeat' first
    | with_reducible assumption
    | with_reducible apply cellSafe_trap
    | with_reducible apply safe_installImage
    | with_reducible apply safe_Cell_lineWait
    | (with_reducible refine safe_of_optCell (by with_reducible assumption) ?_)
    | split
    | dsimp only

theorem safe_dxldMem (i : Instr) (f : CG) (c : Cell) (src : Nat) (s : State) (h4 : Safe s) : cellSafe (dxldMem i f c src s) := by
  unfold dxldMem
  repeat' first
    | with_reducible assumption
    | with_reducible apply cellSafe_trap
    | with_reducible apply cellSafe_holdWave
    | with_reducible apply safe_installImage
    | with_reducible apply safe_CellAns_poison
    | with_reducible apply safe_readBlocks
    | with_reducible apply safe_mk
    | (with_reducible refine safe_of_stalls (by with_reducible assumption) ?_)
    | (with_reducible apply safe_mem; with_reducible refine safe_of_block (by with_reducible assumption) ?_)
    | (with_reducible apply safe_lmem; with_reducible refine safe_of_block (by with_reducible assumption) ?_)
    | split

theorem safe_execCdDxld (f : CG) (s : State) (h1 : Safe s) : outSafe (execCdDxld f s) := by
  unfold execCdDxld
  repeat' first
    | with_reducible assumption
    | with_reducible apply cellSafe_trap
    | with_reducible apply cellSafe_hold
    | with_reducible apply safe_dxldMem
    | with_reducible apply safe_dxldStore
    | with_reducible apply safe_CellAns_poison
    | with_reducible apply safe_runCell
    | with_reducible intro _
    | split
    | dsimp only

theorem safe_execCdDxcf (f : CG) (s : State) (h1 : Safe s) : outSafe (execCdDxcf f s) := by
  unfold execCdDxcf
  repeat' first
    | with_reducible assumption
    | with_reducible apply cellSafe_done
    | with_reducible apply cellSafe_hold
    | with_reducible apply safe_CellAns_illegal
    | with_reducible apply safe_CellAns_poison
    | with_reducible apply safe_runCell
    | with_reducible apply safe_State_updWeave
    | with_reducible intro _
    | split
    | dsimp only

theorem safe_passBody (i : Instr) (f : CG) (rev : Bool) (c : Cell) (s : State) (h4 : Safe s) : cellSafe (passBody i f rev c s) := by
  unfold passBody
  repeat' first
    | with_reducible assumption
    | with_reducible apply cellSafe_later
    | with_reducible apply cellSafe_trap
    | with_reducible apply cellSafe_hold
    | with_reducible apply safe_CellAns_illegal
    | with_reducible apply safe_CellAns_poison
    | with_reducible apply safe_State_updWeave
    | split
    | dsimp only

theorem safe_execCdDxrn (f : CG) (s : State) (h1 : Safe s) : outSafe (execCdDxrn f s) := by
  unfold execCdDxrn
  repeat' first
    | with_reducible assumption
    | with_reducible apply safe_passBody
    | with_reducible apply safe_runCell

theorem safe_execCdDxch (f : CG) (s : State) (h1 : Safe s) : outSafe (execCdDxch f s) := by
  unfold execCdDxch
  repeat' first
    | with_reducible assumption
    | with_reducible apply safe_passBody
    | with_reducible apply safe_runCell

theorem safe_execCdDxfn (f : CG) (s : State) (h1 : Safe s) : outSafe (execCdDxfn f s) := by
  unfold execCdDxfn
  repeat' first
    | with_reducible assumption
    | with_reducible apply cellSafe_hold
    | with_reducible apply safe_runCell
    | with_reducible apply safe_CellAns_write
    | with_reducible intro _
    | split
    | dsimp only

/-! ## Machine/CellF -/

theorem safe_floatWise (i : Instr) (f : CG) (g : RM → FVal → FVal → FVal → FVal) (s : State) (h3 : Safe s) : outSafe (floatWise i f g s) := by
  unfold floatWise
  repeat' first
    | with_reducible assumption
    | with_reducible apply safe_laneWise

theorem safe_encWise (i : Instr) (f : CG) (g : FFmt → Nat → Nat) (s : State) (h3 : Safe s) : outSafe (encWise i f g s) := by
  unfold encWise
  repeat' first
    | with_reducible assumption
    | with_reducible apply safe_laneWise

theorem safe_execCfFadd (f : CG) (s : State) (h1 : Safe s) : outSafe (execCfFadd f s) := by
  unfold execCfFadd
  repeat' first
    | with_reducible assumption
    | with_reducible apply safe_floatWise

theorem safe_execCfFsub (f : CG) (s : State) (h1 : Safe s) : outSafe (execCfFsub f s) := by
  unfold execCfFsub
  repeat' first
    | with_reducible assumption
    | with_reducible apply safe_floatWise

theorem safe_execCfFmul (f : CG) (s : State) (h1 : Safe s) : outSafe (execCfFmul f s) := by
  unfold execCfFmul
  repeat' first
    | with_reducible assumption
    | with_reducible apply safe_floatWise

theorem safe_execCfFfma (f : CG) (s : State) (h1 : Safe s) : outSafe (execCfFfma f s) := by
  unfold execCfFfma
  repeat' first
    | with_reducible assumption
    | with_reducible apply safe_floatWise

theorem safe_execCfFmin (f : CG) (s : State) (h1 : Safe s) : outSafe (execCfFmin f s) := by
  unfold execCfFmin
  repeat' first
    | with_reducible assumption
    | with_reducible apply safe_floatWise

theorem safe_execCfFmax (f : CG) (s : State) (h1 : Safe s) : outSafe (execCfFmax f s) := by
  unfold execCfFmax
  repeat' first
    | with_reducible assumption
    | with_reducible apply safe_floatWise

theorem safe_execCfFrnd (f : CG) (s : State) (h1 : Safe s) : outSafe (execCfFrnd f s) := by
  unfold execCfFrnd
  repeat' first
    | with_reducible assumption
    | with_reducible apply safe_floatWise

theorem safe_execCfFabs (f : CG) (s : State) (h1 : Safe s) : outSafe (execCfFabs f s) := by
  unfold execCfFabs
  repeat' first
    | with_reducible assumption
    | with_reducible apply safe_encWise

theorem safe_execCfFneg (f : CG) (s : State) (h1 : Safe s) : outSafe (execCfFneg f s) := by
  unfold execCfFneg
  repeat' first
    | with_reducible assumption
    | with_reducible apply safe_encWise

theorem safe_execCfFcls (f : CG) (s : State) (h1 : Safe s) : outSafe (execCfFcls f s) := by
  unfold execCfFcls
  repeat' first
    | with_reducible assumption
    | with_reducible apply safe_encWise

theorem safe_execCfFcmp (f : CG) (s : State) (h1 : Safe s) : outSafe (execCfFcmp f s) := by
  unfold execCfFcmp
  repeat' first
    | with_reducible assumption
    | with_reducible apply safe_predWise

theorem safe_specialWise (i : Instr) (f : CG) (fn : SpecFn) (s : State) (h3 : Safe s) : outSafe (specialWise i f fn s) := by
  unfold specialWise
  repeat' first
    | with_reducible assumption
    | with_reducible apply cellSafe_later
    | with_reducible apply safe_runCell
    | with_reducible intro _

theorem safe_execCfFrcp (f : CG) (s : State) (h1 : Safe s) : outSafe (execCfFrcp f s) := by
  unfold execCfFrcp
  repeat' first
    | with_reducible assumption
    | with_reducible apply safe_specialWise

theorem safe_execCfFrsq (f : CG) (s : State) (h1 : Safe s) : outSafe (execCfFrsq f s) := by
  unfold execCfFrsq
  repeat' first
    | with_reducible assumption
    | with_reducible apply safe_specialWise

theorem safe_execCfFexp2 (f : CG) (s : State) (h1 : Safe s) : outSafe (execCfFexp2 f s) := by
  unfold execCfFexp2
  repeat' first
    | with_reducible assumption
    | with_reducible apply safe_specialWise

theorem safe_execCfFlog2 (f : CG) (s : State) (h1 : Safe s) : outSafe (execCfFlog2 f s) := by
  unfold execCfFlog2
  repeat' first
    | with_reducible assumption
    | with_reducible apply safe_specialWise

theorem safe_execCfFsig (f : CG) (s : State) (h1 : Safe s) : outSafe (execCfFsig f s) := by
  unfold execCfFsig
  repeat' first
    | with_reducible assumption
    | with_reducible apply safe_specialWise

theorem safe_execCfFtanh (f : CG) (s : State) (h1 : Safe s) : outSafe (execCfFtanh f s) := by
  unfold execCfFtanh
  repeat' first
    | with_reducible assumption
    | with_reducible apply safe_specialWise

theorem safe_execCfFsinp (f : CG) (s : State) (h1 : Safe s) : outSafe (execCfFsinp f s) := by
  unfold execCfFsinp
  repeat' first
    | with_reducible assumption
    | with_reducible apply safe_specialWise

theorem safe_execCfFcosp (f : CG) (s : State) (h1 : Safe s) : outSafe (execCfFcosp f s) := by
  unfold execCfFcosp
  repeat' first
    | with_reducible assumption
    | with_reducible apply safe_specialWise

theorem safe_execCfFcvt (f : CG) (s : State) (h1 : Safe s) : outSafe (execCfFcvt f s) := by
  unfold execCfFcvt
  repeat' first
    | with_reducible assumption
    | with_reducible apply cellSafe_trap
    | with_reducible apply safe_runCell
    | with_reducible apply safe_CellAns_write
    | with_reducible intro _
    | split

/-! ## Machine/CellL -/

theorem safe_execClLred (f : CG) (s : State) (h1 : Safe s) : outSafe (execClLred f s) := by
  unfold execClLred
  repeat' first
    | with_reducible assumption
    | with_reducible apply safe_runCell
    | with_reducible apply safe_CellAns_write
    | with_reducible intro _

theorem safe_execClLscn (f : CG) (s : State) (h1 : Safe s) : outSafe (execClLscn f s) := by
  unfold execClLscn
  repeat' first
    | with_reducible assumption
    | with_reducible apply safe_runCell
    | with_reducible apply safe_CellAns_write
    | with_reducible intro _

theorem safe_execClLshf (f : CG) (s : State) (h1 : Safe s) : outSafe (execClLshf f s) := by
  unfold execClLshf
  repeat' first
    | with_reducible assumption
    | with_reducible apply safe_runCell
    | with_reducible apply safe_CellAns_write
    | with_reducible intro _

theorem safe_execClLbrd (f : CG) (s : State) (h1 : Safe s) : outSafe (execClLbrd f s) := by
  unfold execClLbrd
  repeat' first
    | with_reducible assumption
    | with_reducible apply safe_CellAns_illegal
    | with_reducible apply safe_runCell
    | with_reducible apply safe_CellAns_write
    | with_reducible intro _
    | split
    | dsimp only

theorem safe_execClLcmp (f : CG) (s : State) (h1 : Safe s) : outSafe (execClLcmp f s) := by
  unfold execClLcmp
  repeat' first
    | with_reducible assumption
    | with_reducible apply safe_runCell
    | with_reducible apply safe_CellAns_write
    | with_reducible intro _

theorem safe_execClRngx (f : CG) (s : State) (h1 : Safe s) : outSafe (execClRngx f s) := by
  unfold execClRngx
  repeat' first
    | with_reducible assumption
    | with_reducible apply safe_runCell
    | with_reducible apply safe_CellAns_write
    | with_reducible intro _

/-! ## Machine/CellP -/

theorem safe_portWait (c : Cell) (p limit : Nat) : cellSafe (portWait c p limit) := by
  unfold portWait
  repeat' first
    | with_reducible apply cellSafe_wait

theorem safe_slotWait (c : Cell) (s : State) (o n : Nat) (h1 : Safe s) : optCell (slotWait c s o n) := by
  unfold slotWait
  repeat' first
    | with_reducible apply cellSafe_wait
    | with_reducible apply optCell_some
    | with_reducible apply optCell_none
    | split

theorem safe_faultTrap (p : Nat) (t : Tok) (s : State) (h2 : Safe s) : cellSafe (faultTrap p t s) := by
  unfold faultTrap
  repeat' first
    | with_reducible assumption
    | with_reducible apply cellSafe_trap

theorem safe_dequeueN (k : TKey) (p n : Nat) (s : State) (h3 : Safe s) : Safe (dequeueN k p n s) := by
  unfold dequeueN
  repeat' first
    | with_reducible assumption
    | with_reducible apply safe_State_updTask

theorem safe_execCpRecv (f : CG) (s : State) (h1 : Safe s) : outSafe (execCpRecv f s) := by
  unfold execCpRecv
  repeat' first
    | with_reducible assumption
    | with_reducible apply safe_dequeueN
    | with_reducible apply safe_faultTrap
    | with_reducible apply safe_portWait
    | with_reducible apply safe_runCell
    | with_reducible apply safe_CellAns_write
    | with_reducible apply safe_mk
    | (with_reducible apply safe_mem; with_reducible apply safe_acquireWeave)
    | (with_reducible apply safe_lmem; with_reducible apply safe_acquireWeave)
    | (with_reducible apply safe_mem; with_reducible apply safe_dequeueN)
    | (with_reducible apply safe_lmem; with_reducible apply safe_dequeueN)
    | with_reducible intro _
    | split
    | dsimp only

theorem safe_execCpPeek (f : CG) (s : State) (h1 : Safe s) : outSafe (execCpPeek f s) := by
  unfold execCpPeek
  repeat' first
    | with_reducible assumption
    | with_reducible apply safe_portWait
    | with_reducible apply safe_runCell
    | with_reducible apply safe_CellAns_write
    | with_reducible intro _
    | split
    | dsimp only

theorem safe_execCpSend (f : CG) (s : State) (h1 : Safe s) : outSafe (execCpSend f s) := by
  unfold execCpSend
  repeat' first
    | with_reducible assumption
    | with_reducible apply cellSafe_done
    | with_reducible apply cellSafe_holdWave
    | with_reducible apply safe_CellAns_poison
    | with_reducible apply safe_releaseWeave
    | with_reducible apply safe_runCell
    | with_reducible apply safe_sendOut
    | with_reducible apply safe_slotWait
    | with_reducible apply safe_mk
    | (with_reducible refine safe_of_optCell (by with_reducible assumption) ?_)
    | (with_reducible apply safe_mem; with_reducible refine safe_of_some (by with_reducible assumption) ?_)
    | (with_reducible apply safe_lmem; with_reducible refine safe_of_some (by with_reducible assumption) ?_)
    | with_reducible intro _
    | split
    | dsimp only

theorem safe_setSkip (k : TKey) (o n : Nat) (s : State) (h3 : Safe s) : Safe (setSkip k o n s) := by
  unfold setSkip
  repeat' first
    | with_reducible assumption
    | with_reducible apply safe_State_updTask

theorem safe_execCpEos (f : CG) (s : State) (h1 : Safe s) : outSafe (execCpEos f s) := by
  unfold execCpEos
  repeat' first
    | with_reducible assumption
    | with_reducible apply cellSafe_done
    | with_reducible apply safe_runCell
    | with_reducible apply safe_sendAll
    | with_reducible apply safe_setSkip
    | with_reducible apply safe_slotWait
    | (with_reducible refine safe_of_optCell (by with_reducible assumption) ?_)
    | with_reducible intro _
    | split
    | dsimp only

theorem safe_execCpCtxc (f : CG) (s : State) (h1 : Safe s) : outSafe (execCpCtxc f s) := by
  unfold execCpCtxc
  repeat' first
    | with_reducible assumption
    | with_reducible apply cellSafe_done
    | with_reducible apply safe_CellAns_poison
    | with_reducible apply safe_runCell
    | with_reducible apply safe_sendOut
    | with_reducible apply safe_slotWait
    | (with_reducible refine safe_of_optCell (by with_reducible assumption) ?_)
    | with_reducible intro _
    | split
    | dsimp only

theorem safe_execCpFilt (f : CG) (s : State) (h1 : Safe s) : outSafe (execCpFilt f s) := by
  unfold execCpFilt
  repeat' first
    | with_reducible assumption
    | with_reducible apply cellSafe_done
    | with_reducible apply optCell_findSome
    | with_reducible apply safe_CellAns_illegal
    | with_reducible apply safe_CellAns_poison
    | with_reducible apply safe_runCell
    | with_reducible apply safe_sendAll
    | with_reducible apply safe_setSkip
    | with_reducible apply safe_slotWait
    | with_reducible apply safe_foldl
    | (with_reducible refine safe_of_optCell (by with_reducible assumption) ?_)
    | with_reducible intro _
    | split
    | dsimp only

theorem safe_execCpSkip (f : CG) (s : State) (h1 : Safe s) : outSafe (execCpSkip f s) := by
  unfold execCpSkip
  repeat' first
    | with_reducible assumption
    | with_reducible apply cellSafe_done
    | with_reducible apply safe_CellAns_poison
    | with_reducible apply safe_runCell
    | with_reducible apply safe_sendAll
    | with_reducible apply safe_setSkip
    | with_reducible apply safe_slotWait
    | (with_reducible refine safe_of_optCell (by with_reducible assumption) ?_)
    | with_reducible intro _
    | split
    | dsimp only

theorem safe_mergeTake (c : Cell) (arms : List MergeArm) (s : State) (h2 : Safe s) : Safe (mergeTake c arms s) := by
  unfold mergeTake
  repeat' first
    | with_reducible assumption
    | with_reducible apply safe_dequeueN
    | with_reducible apply safe_State_updTask
    | with_reducible apply safe_foldl
    | with_reducible intro _

theorem safe_execCpMrge (f : CG) (s : State) (h1 : Safe s) : outSafe (execCpMrge f s) := by
  unfold execCpMrge
  repeat' first
    | with_reducible assumption
    | with_reducible apply cellSafe_waitIn
    | with_reducible apply safe_CellAns_illegal
    | with_reducible apply safe_mergeTake
    | with_reducible apply safe_runCell
    | with_reducible apply safe_CellAns_write
    | with_reducible apply safe_foldl
    | with_reducible apply safe_mk
    | with_reducible exact safe_mem (by assumption)
    | with_reducible exact safe_lmem (by assumption)
    | (with_reducible apply safe_mem; with_reducible apply safe_State_updTask)
    | (with_reducible apply safe_lmem; with_reducible apply safe_State_updTask)
    | with_reducible intro _
    | split
    | dsimp only

theorem safe_joinStep (f : CG) (c : Cell) (pa pb : Nat) (ha hb : Tok) (s : State) (h6 : Safe s) : cellSafe (joinStep f c pa pb ha hb s) := by
  unfold joinStep
  repeat' first
    | with_reducible assumption
    | with_reducible apply safe_CellAns_write
    | with_reducible apply safe_mk
    | with_reducible exact safe_mem (by assumption)
    | with_reducible exact safe_lmem (by assumption)
    | (with_reducible apply safe_mem; with_reducible apply safe_dequeueN)
    | (with_reducible apply safe_lmem; with_reducible apply safe_dequeueN)
    | split

theorem safe_joinReset (i : Instr) (f : CG) (c : Cell) (p : Nat) (kind : BitVec 4) (s : State) (h5 : Safe s) : cellSafe (joinReset i f c p kind s) := by
  unfold joinReset
  repeat' first
    | with_reducible assumption
    | with_reducible apply cellSafe_waitIn
    | with_reducible apply safe_dequeueN
    | with_reducible apply safe_faultTrap
    | with_reducible apply safe_CellAns_illegal
    | with_reducible apply safe_CellAns_write
    | split
    | dsimp only

theorem safe_execCpJoin (f : CG) (s : State) (h1 : Safe s) : outSafe (execCpJoin f s) := by
  unfold execCpJoin
  repeat' first
    | with_reducible assumption
    | with_reducible apply safe_faultTrap
    | with_reducible apply safe_CellAns_illegal
    | with_reducible apply safe_joinReset
    | with_reducible apply safe_joinStep
    | with_reducible apply safe_CellAns_poison
    | with_reducible apply safe_portWait
    | with_reducible apply safe_runCell
    | with_reducible apply safe_CellAns_write
    | with_reducible intro _
    | split
    | dsimp only

/-! ## Machine/SeqCmd -/

theorem safe_issueColl (k : EKey) (c : Cmd) (s : State) (h2 : Safe s) : Safe (issueColl k c s) := by
  unfold issueColl
  repeat' first
    | with_reducible assumption
    | with_reducible apply safe_mk
    | with_reducible exact safe_mem (by assumption)
    | with_reducible exact safe_lmem (by assumption)
    | (with_reducible apply safe_mem; with_reducible apply safe_updColls)
    | (with_reducible apply safe_lmem; with_reducible apply safe_updColls)
    | split

theorem safe_submitCmd (k : EKey) (cmd : Cmd) (s : State) (h2 : Safe s) : Safe (submitCmd k cmd s) := by
  unfold submitCmd
  repeat' first
    | with_reducible assumption
    | with_reducible apply safe_issueColl
    | with_reducible apply safe_updEngine
    | with_reducible apply safe_mk
    | (with_reducible apply safe_mem; with_reducible apply safe_requestPub)
    | (with_reducible apply safe_lmem; with_reducible apply safe_requestPub)
    | (with_reducible apply safe_mem; with_reducible apply safe_updEngine)
    | (with_reducible apply safe_lmem; with_reducible apply safe_updEngine)
    | split

theorem safe_execSsScmd (f : SR) (s : State) (h1 : Safe s) : outSafe (execSsScmd f s) := by
  unfold execSsScmd
  repeat' first
    | with_reducible assumption
    | with_reducible apply seqSafe_done
    | with_reducible apply seqSafe_trapPast
    | with_reducible apply seqSafe_wait
    | with_reducible apply safe_runSeq
    | with_reducible apply safe_setReg
    | with_reducible apply safe_submitCmd
    | with_reducible intro _
    | split
    | dsimp only

theorem safe_injectCtxc (st n : Nat) (s : State) (h2 : Safe s) : Safe (injectCtxc st n s) := by
  unfold injectCtxc
  repeat' first
    | with_reducible assumption
    | with_reducible apply safe_engineSend
    | with_reducible apply safe_setStand
    | with_reducible apply safe_foldl
    | with_reducible apply safe_mk
    | with_reducible exact safe_mem (by assumption)
    | with_reducible exact safe_lmem (by assumption)
    | (with_reducible apply safe_mem; with_reducible apply safe_foldl)
    | (with_reducible apply safe_lmem; with_reducible apply safe_foldl)
    | with_reducible intro _
    | split

theorem safe_execSxCtxCond (f : SX) (s : State) (h1 : Safe s) : outSafe (execSxCtxCond f s) := by
  unfold execSxCtxCond
  repeat' first
    | with_reducible assumption
    | with_reducible apply seqSafe_done
    | with_reducible apply seqSafe_trap
    | with_reducible apply seqSafe_stay
    | with_reducible apply safe_injectCtxc
    | with_reducible apply safe_runSeq
    | with_reducible intro _
    | split
    | dsimp only

theorem safe_execSxCtxSwitch (f : SX) (s : State) (h1 : Safe s) : outSafe (execSxCtxSwitch f s) := by
  unfold execSxCtxSwitch
  repeat' first
    | with_reducible assumption
    | with_reducible apply seqSafe_trap
    | with_reducible apply safe_runSeq
    | with_reducible apply safe_seqWait
    | with_reducible intro _
    | split

/-! ## Machine/SeqCtl -/

theorem safe_seqBranch (i : Instr) (disp : Int) (c : SeqCtx) (s : State) (h3 : Safe s) : seqSafe (seqBranch i disp c s) := by
  unfold seqBranch
  repeat' first
    | with_reducible assumption
    | with_reducible apply seqSafe_branch
    | with_reducible apply seqSafe_trap
    | split

theorem safe_execSbBr (f : SB) (s : State) (h1 : Safe s) : outSafe (execSbBr f s) := by
  unfold execSbBr
  repeat' first
    | with_reducible assumption
    | with_reducible apply seqSafe_done
    | with_reducible apply safe_runSeq
    | with_reducible apply safe_seqBranch
    | with_reducible intro _
    | split

theorem safe_execSbBz (f : SB) (s : State) (h1 : Safe s) : outSafe (execSbBz f s) := by
  unfold execSbBz
  repeat' first
    | with_reducible assumption
    | with_reducible apply seqSafe_done
    | with_reducible apply safe_runSeq
    | with_reducible apply safe_seqBranch
    | with_reducible intro _
    | split

theorem safe_execSjJmp (disp : BitVec 26) (s : State) (h1 : Safe s) : outSafe (execSjJmp disp s) := by
  unfold execSjJmp
  repeat' first
    | with_reducible assumption
    | with_reducible apply safe_runSeq
    | with_reducible apply safe_seqBranch

theorem safe_seqCall (t : Nat) (c : SeqCtx) (s : State) (h2 : Safe s) : seqSafe (seqCall t c s) := by
  unfold seqCall
  repeat' first
    | with_reducible assumption
    | with_reducible apply seqSafe_enter
    | with_reducible apply seqSafe_trap
    | with_reducible apply safe_spill
    | with_reducible apply safe_updCtx
    | with_reducible apply safe_mk
    | (with_reducible apply safe_mem; with_reducible refine safe_of_some (by with_reducible assumption) ?_)
    | (with_reducible apply safe_lmem; with_reducible refine safe_of_some (by with_reducible assumption) ?_)
    | split

theorem safe_execSjCall (disp : BitVec 26) (s : State) (h1 : Safe s) : outSafe (execSjCall disp s) := by
  unfold execSjCall
  repeat' first
    | with_reducible assumption
    | with_reducible apply seqSafe_trap
    | with_reducible apply safe_runSeq
    | with_reducible apply safe_seqCall
    | with_reducible intro _
    | split

theorem safe_execSrJrJump (f : SR) (s : State) (h1 : Safe s) : outSafe (execSrJrJump f s) := by
  unfold execSrJrJump
  repeat' first
    | with_reducible assumption
    | with_reducible apply seqSafe_branch
    | with_reducible apply seqSafe_trap
    | with_reducible apply safe_runSeq
    | with_reducible intro _
    | split
    | dsimp only

theorem safe_execSrJrCall (f : SR) (s : State) (h1 : Safe s) : outSafe (execSrJrCall f s) := by
  unfold execSrJrCall
  repeat' first
    | with_reducible assumption
    | with_reducible apply seqSafe_trap
    | with_reducible apply safe_runSeq
    | with_reducible apply safe_seqCall
    | with_reducible intro _
    | split
    | dsimp only

theorem safe_haltRoot (c : SeqCtx) (s : State) (h1 : Safe s) : Safe (haltRoot c s) := by
  unfold haltRoot
  repeat' first
    | with_reducible assumption
    | with_reducible apply safe_giveUp
    | with_reducible apply safe_setCtx

theorem safe_endEntry (c : SeqCtx) (s : State) (h1 : Safe s) : Safe (endEntry c s) := by
  unfold endEntry
  repeat' first
    | with_reducible assumption
    | with_reducible apply safe_mk
    | (with_reducible apply safe_mem; with_reducible apply safe_endFeed)
    | (with_reducible apply safe_lmem; with_reducible apply safe_endFeed)
    | (with_reducible apply safe_mem; with_reducible apply safe_haltRoot)
    | (with_reducible apply safe_lmem; with_reducible apply safe_haltRoot)
    | split

theorem safe_seqRet (c : SeqCtx) (s : State) (h1 : Safe s) : seqSafe (seqRet c s) := by
  unfold seqRet
  repeat' first
    | with_reducible assumption
    | with_reducible apply seqSafe_enter
    | with_reducible apply seqSafe_trap
    | with_reducible apply safe_fill
    | with_reducible apply safe_updCtx
    | split
    | dsimp only

theorem safe_execSxRet (f : SX) (s : State) (h1 : Safe s) : outSafe (execSxRet f s) := by
  unfold execSxRet
  repeat' first
    | with_reducible assumption
    | with_reducible apply seqSafe_stay
    | with_reducible apply safe_endEntry
    | with_reducible apply safe_runSeq
    | with_reducible apply safe_seqRet
    | with_reducible intro _
    | split

theorem safe_execSbLoop (f : SB) (s : State) (h1 : Safe s) : outSafe (execSbLoop f s) := by
  unfold execSbLoop
  repeat' first
    | with_reducible assumption
    | with_reducible apply seqSafe_enter
    | with_reducible apply seqSafe_skip
    | with_reducible apply seqSafe_trap
    | with_reducible apply safe_runSeq
    | with_reducible apply safe_setCtx
    | with_reducible intro _
    | split
    | dsimp only

theorem safe_execSxLbrk (f : SX) (s : State) (h1 : Safe s) : outSafe (execSxLbrk f s) := by
  unfold execSxLbrk
  repeat' first
    | with_reducible assumption
    | with_reducible apply seqSafe_enter
    | with_reducible apply seqSafe_trap
    | with_reducible apply safe_runSeq
    | with_reducible apply safe_setCtx
    | with_reducible intro _
    | split

theorem safe_execSxWinSave (f : SX) (s : State) (h1 : Safe s) : outSafe (execSxWinSave f s) := by
  unfold execSxWinSave
  repeat' first
    | with_reducible assumption
    | with_reducible apply seqSafe_done
    | with_reducible apply seqSafe_trap
    | with_reducible apply safe_runSeq
    | with_reducible apply safe_spill
    | with_reducible apply safe_mk
    | (with_reducible apply safe_mem; with_reducible refine safe_of_some (by with_reducible assumption) ?_)
    | (with_reducible apply safe_lmem; with_reducible refine safe_of_some (by with_reducible assumption) ?_)
    | with_reducible intro _
    | split

theorem safe_execSxWinRestore (f : SX) (s : State) (h1 : Safe s) : outSafe (execSxWinRestore f s) := by
  unfold execSxWinRestore
  repeat' first
    | with_reducible assumption
    | with_reducible apply seqSafe_done
    | with_reducible apply safe_fill
    | with_reducible apply safe_runSeq
    | with_reducible apply safe_updCtx
    | with_reducible intro _
    | split

theorem safe_execSxWinFlush (f : SX) (s : State) (h1 : Safe s) : outSafe (execSxWinFlush f s) := by
  unfold execSxWinFlush
  repeat' first
    | with_reducible assumption
    | with_reducible apply seqSafe_done
    | with_reducible apply seqSafe_trap
    | with_reducible apply safe_runSeq
    | with_reducible apply safe_spillAll
    | with_reducible intro _
    | split
    | dsimp only

/-! ## Machine/SeqSys -/

theorem safe_csrWrite (c : SeqCtx) (n : Nat) (v : W64) (s : State) (h3 : Safe s) : optSafe (csrWrite c n v s) := by
  unfold csrWrite
  repeat' first
    | with_reducible assumption
    | with_reducible apply optSafe_some
    | with_reducible apply optSafe_none
    | with_reducible apply safe_setCtx
    | with_reducible apply safe_updStand
    | split

theorem safe_execSxSysCsrrd (f : SX) (s : State) (h1 : Safe s) : outSafe (execSxSysCsrrd f s) := by
  unfold execSxSysCsrrd
  repeat' first
    | with_reducible assumption
    | with_reducible apply seqSafe_done
    | with_reducible apply seqSafe_trap
    | with_reducible apply safe_runSeq
    | with_reducible apply safe_setReg
    | with_reducible intro _
    | split

theorem safe_execSxSysCsrwr (f : SX) (s : State) (h1 : Safe s) : outSafe (execSxSysCsrwr f s) := by
  unfold execSxSysCsrwr
  repeat' first
    | with_reducible assumption
    | with_reducible apply seqSafe_done
    | with_reducible apply seqSafe_trap
    | with_reducible apply safe_csrWrite
    | with_reducible apply safe_runSeq
    | with_reducible apply safe_mk
    | (with_reducible apply safe_mem; with_reducible refine safe_of_some (by with_reducible assumption) ?_)
    | (with_reducible apply safe_lmem; with_reducible refine safe_of_some (by with_reducible assumption) ?_)
    | with_reducible intro _
    | split

theorem safe_execSxSysTrap (f : SX) (s : State) (h1 : Safe s) : outSafe (execSxSysTrap f s) := by
  unfold execSxSysTrap
  repeat' first
    | with_reducible assumption
    | with_reducible apply seqSafe_trap
    | with_reducible apply safe_runSeq
    | with_reducible intro _

theorem safe_idleAgain (c : SeqCtx) (s : State) (h1 : Safe s) : Safe (idleAgain c s) := by
  unfold idleAgain
  repeat' first
    | with_reducible assumption
    | with_reducible apply safe_giveUp
    | with_reducible apply safe_setCtx

theorem safe_feedAfter (c : SeqCtx) (s : State) (h1 : Safe s) : Safe (feedAfter c s) := by
  unfold feedAfter
  repeat' first
    | with_reducible assumption
    | with_reducible apply safe_mk
    | with_reducible exact safe_mem (by assumption)
    | with_reducible exact safe_lmem (by assumption)
    | (with_reducible apply safe_mem; with_reducible apply safe_feedNext)
    | (with_reducible apply safe_lmem; with_reducible apply safe_feedNext)
    | split

theorem safe_execSxSysEret (f : SX) (s : State) (h1 : Safe s) : outSafe (execSxSysEret f s) := by
  unfold execSxSysEret
  repeat' first
    | with_reducible assumption
    | with_reducible apply seqSafe_trap
    | with_reducible apply seqSafe_stay
    | with_reducible apply safe_feedAfter
    | with_reducible apply safe_handlerReturn
    | with_reducible apply safe_idleAgain
    | with_reducible apply safe_runSeq
    | with_reducible apply safe_setCtx
    | with_reducible intro _
    | split

theorem safe_execSxSysHalt (f : SX) (s : State) (h1 : Safe s) : outSafe (execSxSysHalt f s) := by
  unfold execSxSysHalt
  repeat' first
    | with_reducible assumption
    | with_reducible apply seqSafe_stay
    | with_reducible apply safe_feedAfter
    | with_reducible apply safe_haltRoot
    | with_reducible apply safe_runSeq
    | with_reducible apply safe_setCtx
    | with_reducible apply safe_mk
    | (with_reducible apply safe_mem; with_reducible apply safe_endFeed)
    | (with_reducible apply safe_lmem; with_reducible apply safe_endFeed)
    | (with_reducible apply safe_mem; with_reducible apply safe_handlerReturn)
    | (with_reducible apply safe_lmem; with_reducible apply safe_handlerReturn)
    | (with_reducible apply safe_mem; with_reducible apply safe_idleAgain)
    | (with_reducible apply safe_lmem; with_reducible apply safe_idleAgain)
    | with_reducible intro _
    | split

theorem safe_execSxSysYield (f : SX) (s : State) (h1 : Safe s) : outSafe (execSxSysYield f s) := by
  unfold execSxSysYield
  repeat' first
    | with_reducible assumption
    | with_reducible apply seqSafe_stay
    | with_reducible apply safe_makeReady
    | with_reducible apply safe_runSeq
    | with_reducible apply safe_setCtx
    | with_reducible intro _

theorem safe_execSxGrn (f : SX) (s : State) (h1 : Safe s) : outSafe (execSxGrn f s) := by
  unfold execSxGrn
  repeat' first
    | with_reducible assumption
    | with_reducible apply seqSafe_done
    | with_reducible apply safe_runSeq
    | with_reducible apply safe_setReg
    | with_reducible intro _

/-! ## Machine/SeqAlu -/

theorem safe_seqAlu2 (i : Instr) (f : SR) (fn : W64 → W64 → W64) (s : State) (h3 : Safe s) : outSafe (seqAlu2 i f fn s) := by
  unfold seqAlu2
  repeat' first
    | with_reducible assumption
    | with_reducible apply seqSafe_done
    | with_reducible apply safe_runSeq
    | with_reducible apply safe_setReg
    | with_reducible intro _

theorem safe_seqAlu1 (i : Instr) (f : SR) (fn : W64 → W64) (s : State) (h3 : Safe s) : outSafe (seqAlu1 i f fn s) := by
  unfold seqAlu1
  repeat' first
    | with_reducible assumption
    | with_reducible apply seqSafe_done
    | with_reducible apply safe_runSeq
    | with_reducible apply safe_setReg
    | with_reducible intro _

theorem safe_execSrAluAdd (f : SR) (s : State) (h1 : Safe s) : outSafe (execSrAluAdd f s) := by
  unfold execSrAluAdd
  repeat' first
    | with_reducible assumption
    | with_reducible apply safe_seqAlu2

theorem safe_execSrAluSub (f : SR) (s : State) (h1 : Safe s) : outSafe (execSrAluSub f s) := by
  unfold execSrAluSub
  repeat' first
    | with_reducible assumption
    | with_reducible apply safe_seqAlu2

theorem safe_execSrAluMul (f : SR) (s : State) (h1 : Safe s) : outSafe (execSrAluMul f s) := by
  unfold execSrAluMul
  repeat' first
    | with_reducible assumption
    | with_reducible apply safe_seqAlu2

theorem safe_execSrAluMulh (f : SR) (s : State) (h1 : Safe s) : outSafe (execSrAluMulh f s) := by
  unfold execSrAluMulh
  repeat' first
    | with_reducible assumption
    | with_reducible apply safe_seqAlu2

theorem safe_execSrAluDiv (f : SR) (s : State) (h1 : Safe s) : outSafe (execSrAluDiv f s) := by
  unfold execSrAluDiv
  repeat' first
    | with_reducible assumption
    | with_reducible apply safe_seqAlu2

theorem safe_execSrAluDivn (f : SR) (s : State) (h1 : Safe s) : outSafe (execSrAluDivn f s) := by
  unfold execSrAluDivn
  repeat' first
    | with_reducible assumption
    | with_reducible apply safe_seqAlu2

theorem safe_execSrAluRem (f : SR) (s : State) (h1 : Safe s) : outSafe (execSrAluRem f s) := by
  unfold execSrAluRem
  repeat' first
    | with_reducible assumption
    | with_reducible apply safe_seqAlu2

theorem safe_execSrAluRemn (f : SR) (s : State) (h1 : Safe s) : outSafe (execSrAluRemn f s) := by
  unfold execSrAluRemn
  repeat' first
    | with_reducible assumption
    | with_reducible apply safe_seqAlu2

theorem safe_execSrAluAnd (f : SR) (s : State) (h1 : Safe s) : outSafe (execSrAluAnd f s) := by
  unfold execSrAluAnd
  repeat' first
    | with_reducible assumption
    | with_reducible apply safe_seqAlu2

theorem safe_execSrAluOr (f : SR) (s : State) (h1 : Safe s) : outSafe (execSrAluOr f s) := by
  unfold execSrAluOr
  repeat' first
    | with_reducible assumption
    | with_reducible apply safe_seqAlu2

theorem safe_execSrAluXor (f : SR) (s : State) (h1 : Safe s) : outSafe (execSrAluXor f s) := by
  unfold execSrAluXor
  repeat' first
    | with_reducible assumption
    | with_reducible apply safe_seqAlu2

theorem safe_execSrAluAndn (f : SR) (s : State) (h1 : Safe s) : outSafe (execSrAluAndn f s) := by
  unfold execSrAluAndn
  repeat' first
    | with_reducible assumption
    | with_reducible apply safe_seqAlu2

theorem safe_execSrAluShl (f : SR) (s : State) (h1 : Safe s) : outSafe (execSrAluShl f s) := by
  unfold execSrAluShl
  repeat' first
    | with_reducible assumption
    | with_reducible apply safe_seqAlu2

theorem safe_execSrAluShr (f : SR) (s : State) (h1 : Safe s) : outSafe (execSrAluShr f s) := by
  unfold execSrAluShr
  repeat' first
    | with_reducible assumption
    | with_reducible apply safe_seqAlu2

theorem safe_execSrAluSra (f : SR) (s : State) (h1 : Safe s) : outSafe (execSrAluSra f s) := by
  unfold execSrAluSra
  repeat' first
    | with_reducible assumption
    | with_reducible apply safe_seqAlu2

theorem safe_execSrAluMin (f : SR) (s : State) (h1 : Safe s) : outSafe (execSrAluMin f s) := by
  unfold execSrAluMin
  repeat' first
    | with_reducible assumption
    | with_reducible apply safe_seqAlu2

theorem safe_execSrAluMax (f : SR) (s : State) (h1 : Safe s) : outSafe (execSrAluMax f s) := by
  unfold execSrAluMax
  repeat' first
    | with_reducible assumption
    | with_reducible apply safe_seqAlu2

theorem safe_execSrAluMinn (f : SR) (s : State) (h1 : Safe s) : outSafe (execSrAluMinn f s) := by
  unfold execSrAluMinn
  repeat' first
    | with_reducible assumption
    | with_reducible apply safe_seqAlu2

theorem safe_execSrAluMaxn (f : SR) (s : State) (h1 : Safe s) : outSafe (execSrAluMaxn f s) := by
  unfold execSrAluMaxn
  repeat' first
    | with_reducible assumption
    | with_reducible apply safe_seqAlu2

theorem safe_execSrAluClz (f : SR) (s : State) (h1 : Safe s) : outSafe (execSrAluClz f s) := by
  unfold execSrAluClz
  repeat' first
    | with_reducible assumption
    | with_reducible apply safe_seqAlu1

theorem safe_execSrAluPopc (f : SR) (s : State) (h1 : Safe s) : outSafe (execSrAluPopc f s) := by
  unfold execSrAluPopc
  repeat' first
    | with_reducible assumption
    | with_reducible apply safe_seqAlu1

theorem safe_execSrAluSel (f : SR) (s : State) (h1 : Safe s) : outSafe (execSrAluSel f s) := by
  unfold execSrAluSel
  repeat' first
    | with_reducible assumption
    | with_reducible apply seqSafe_done
    | with_reducible apply safe_runSeq
    | with_reducible apply safe_setReg
    | with_reducible intro _

theorem safe_seqCmp (i : Instr) (f : SR) (cc : Nat) (s : State) (h3 : Safe s) : outSafe (seqCmp i f cc s) := by
  unfold seqCmp
  repeat' first
    | with_reducible assumption
    | with_reducible apply seqSafe_done
    | with_reducible apply safe_runSeq
    | with_reducible apply safe_setPred
    | with_reducible intro _

theorem safe_execSqCmpEq (f : SR) (s : State) (h1 : Safe s) : outSafe (execSqCmpEq f s) := by
  unfold execSqCmpEq
  repeat' first
    | with_reducible assumption
    | with_reducible apply safe_seqCmp

theorem safe_execSqCmpNe (f : SR) (s : State) (h1 : Safe s) : outSafe (execSqCmpNe f s) := by
  unfold execSqCmpNe
  repeat' first
    | with_reducible assumption
    | with_reducible apply safe_seqCmp

theorem safe_execSqCmpLt (f : SR) (s : State) (h1 : Safe s) : outSafe (execSqCmpLt f s) := by
  unfold execSqCmpLt
  repeat' first
    | with_reducible assumption
    | with_reducible apply safe_seqCmp

theorem safe_execSqCmpLe (f : SR) (s : State) (h1 : Safe s) : outSafe (execSqCmpLe f s) := by
  unfold execSqCmpLe
  repeat' first
    | with_reducible assumption
    | with_reducible apply safe_seqCmp

theorem safe_execSqCmpLtn (f : SR) (s : State) (h1 : Safe s) : outSafe (execSqCmpLtn f s) := by
  unfold execSqCmpLtn
  repeat' first
    | with_reducible assumption
    | with_reducible apply safe_seqCmp

theorem safe_execSqCmpLen (f : SR) (s : State) (h1 : Safe s) : outSafe (execSqCmpLen f s) := by
  unfold execSqCmpLen
  repeat' first
    | with_reducible assumption
    | with_reducible apply safe_seqCmp

theorem safe_seqPred (i : Instr) (f : SR) (fn : Bool → Bool → Bool) (s : State) (h3 : Safe s) : outSafe (seqPred i f fn s) := by
  unfold seqPred
  repeat' first
    | with_reducible assumption
    | with_reducible apply seqSafe_done
    | with_reducible apply safe_runSeq
    | with_reducible apply safe_setPred
    | with_reducible intro _

theorem safe_execSqCmpQand (f : SR) (s : State) (h1 : Safe s) : outSafe (execSqCmpQand f s) := by
  unfold execSqCmpQand
  repeat' first
    | with_reducible assumption
    | with_reducible apply safe_seqPred

theorem safe_execSqCmpQor (f : SR) (s : State) (h1 : Safe s) : outSafe (execSqCmpQor f s) := by
  unfold execSqCmpQor
  repeat' first
    | with_reducible assumption
    | with_reducible apply safe_seqPred

theorem safe_execSqCmpQnot (f : SR) (s : State) (h1 : Safe s) : outSafe (execSqCmpQnot f s) := by
  unfold execSqCmpQnot
  repeat' first
    | with_reducible assumption
    | with_reducible apply safe_seqPred

theorem safe_seqImm (i : Instr) (f : SI) (fn : W64 → W64 → W64) (s : State) (h3 : Safe s) : outSafe (seqImm i f fn s) := by
  unfold seqImm
  repeat' first
    | with_reducible assumption
    | with_reducible apply seqSafe_done
    | with_reducible apply safe_runSeq
    | with_reducible apply safe_setReg
    | with_reducible intro _

theorem safe_seqShift (i : Instr) (f : SI) (fn : W64 → Nat → W64) (s : State) (h3 : Safe s) : outSafe (seqShift i f fn s) := by
  unfold seqShift
  repeat' first
    | with_reducible assumption
    | with_reducible apply seqSafe_done
    | with_reducible apply safe_runSeq
    | with_reducible apply safe_setReg
    | with_reducible intro _

theorem safe_execSiAddi (f : SI) (s : State) (h1 : Safe s) : outSafe (execSiAddi f s) := by
  unfold execSiAddi
  repeat' first
    | with_reducible assumption
    | with_reducible apply safe_seqImm

theorem safe_execSiAndi (f : SI) (s : State) (h1 : Safe s) : outSafe (execSiAndi f s) := by
  unfold execSiAndi
  repeat' first
    | with_reducible assumption
    | with_reducible apply safe_seqImm

theorem safe_execSiOri (f : SI) (s : State) (h1 : Safe s) : outSafe (execSiOri f s) := by
  unfold execSiOri
  repeat' first
    | with_reducible assumption
    | with_reducible apply safe_seqImm

theorem safe_execSiXori (f : SI) (s : State) (h1 : Safe s) : outSafe (execSiXori f s) := by
  unfold execSiXori
  repeat' first
    | with_reducible assumption
    | with_reducible apply safe_seqImm

theorem safe_execSiShli (f : SI) (s : State) (h1 : Safe s) : outSafe (execSiShli f s) := by
  unfold execSiShli
  repeat' first
    | with_reducible assumption
    | with_reducible apply safe_seqShift

theorem safe_execSiShri (f : SI) (s : State) (h1 : Safe s) : outSafe (execSiShri f s) := by
  unfold execSiShri
  repeat' first
    | with_reducible assumption
    | with_reducible apply safe_seqShift

theorem safe_execSiSrai (f : SI) (s : State) (h1 : Safe s) : outSafe (execSiSrai f s) := by
  unfold execSiSrai
  repeat' first
    | with_reducible assumption
    | with_reducible apply safe_seqShift

theorem safe_execSiCmpi (f : SI) (s : State) (h1 : Safe s) : outSafe (execSiCmpi f s) := by
  unfold execSiCmpi
  repeat' first
    | with_reducible assumption
    | with_reducible apply seqSafe_done
    | with_reducible apply safe_runSeq
    | with_reducible apply safe_setPred
    | with_reducible intro _

theorem safe_execSiMovi (f : SI) (s : State) (h1 : Safe s) : outSafe (execSiMovi f s) := by
  unfold execSiMovi
  repeat' first
    | with_reducible assumption
    | with_reducible apply seqSafe_done
    | with_reducible apply safe_runSeq
    | with_reducible apply safe_setReg
    | with_reducible intro _

theorem safe_execSlLimm (imm : BitVec 26) (s : State) (h1 : Safe s) : outSafe (execSlLimm imm s) := by
  unfold execSlLimm
  repeat' first
    | with_reducible assumption
    | with_reducible apply seqSafe_stay
    | with_reducible apply safe_runSeq
    | with_reducible apply safe_setCtx
    | with_reducible intro _

theorem safe_execSrRng (f : SR) (s : State) (h1 : Safe s) : outSafe (execSrRng f s) := by
  unfold execSrRng
  repeat' first
    | with_reducible assumption
    | with_reducible apply seqSafe_done
    | with_reducible apply seqSafe_trap
    | with_reducible apply safe_runSeq
    | with_reducible apply safe_setCtx
    | with_reducible intro _
    | split

end Sys2Proof.Laws
end

