-- ==== Sys2Proof/Laws/SafeEvents.lean ====
section
/-! SUPPORT. Both memories stay in canonical form through every operation of the coppice, the fabric, the register reads, the slices, the loader and the service processor. -/

namespace Sys2Proof.Laws

open Sys2Proof.Machine

/-! ## Machine/Coppice -/

theorem safe_execCoppiceWindowEnd (st : Nat) (s : State) (h1 : Safe s) : outSafe (execCoppiceWindowEnd st s) := by
  unfold execCoppiceWindowEnd
  repeat' first
    | with_reducible assumption
    | with_reducible apply outSafe_next
    | with_reducible apply safe_requestWave
    | with_reducible apply safe_setStand
    | split
    | dsimp only

theorem safe_switchWeave (t : Stand) (w : Weave) (n : Nat) (s : State) (h3 : Safe s) : Safe (switchWeave t w n s) := by
  unfold switchWeave
  repeat' first
    | with_reducible assumption
    | with_reducible apply safe_setStand
    | with_reducible apply safe_foldl
    | with_reducible apply safe_mk
    | with_reducible exact safe_mem (by assumption)
    | with_reducible exact safe_lmem (by assumption)
    | (with_reducible apply safe_mem; with_reducible apply safe_foldl)
    | (with_reducible apply safe_lmem; with_reducible apply safe_foldl)
    | (with_reducible apply safe_mem; with_reducible apply safe_weaveSend)
    | (with_reducible apply safe_lmem; with_reducible apply safe_weaveSend)
    | with_reducible intro _
    | split

theorem safe_settleSwitch (st : Nat) (s : State) (h1 : Safe s) : Safe (settleSwitch st s) := by
  unfold settleSwitch
  repeat' first
    | with_reducible assumption
    | with_reducible apply safe_updStand

theorem safe_execCtxcSwitch (k : WKey) (s : State) (h1 : Safe s) : outSafe (execCtxcSwitch k s) := by
  unfold execCtxcSwitch
  repeat' first
    | with_reducible assumption
    | with_reducible apply outSafe_next
    | with_reducible apply safe_settleSwitch
    | with_reducible apply safe_switchWeave
    | split

/-! ## Machine/Fabric -/

theorem safe_execFirebreakReport (n : Nat) (s : State) (h1 : Safe s) : outSafe (execFirebreakReport n s) := by
  unfold execFirebreakReport
  repeat' first
    | with_reducible assumption
    | with_reducible apply outSafe_next
    | with_reducible apply safe_mk
    | with_reducible exact safe_mem (by assumption)
    | with_reducible exact safe_lmem (by assumption)
    | (with_reducible apply safe_mem; with_reducible apply safe_sendReport)
    | (with_reducible apply safe_lmem; with_reducible apply safe_sendReport)
    | split

theorem safe_dropFlight (n : Nat) (s : State) (h1 : Safe s) : Safe (dropFlight n s) := by
  unfold dropFlight
  repeat' first
    | with_reducible apply safe_mk
    | with_reducible exact safe_mem (by assumption)
    | with_reducible exact safe_lmem (by assumption)

theorem safe_boxCheck (t : Stand) (w : SwitchSet) (x y : Nat) (f : Flight) (go : State → State) (s : State) (h5 : ∀ s, Safe s → Safe (go s)) (h6 : Safe s) : Safe (boxCheck t w x y f go s) := by
  unfold boxCheck
  repeat' first
    | with_reducible assumption
    | (with_reducible apply safe_mem; with_reducible apply h5)
    | (with_reducible apply safe_lmem; with_reducible apply h5)
    | with_reducible apply safe_dropFlight
    | with_reducible apply safe_mk
    | (with_reducible apply safe_mem; with_reducible apply safe_trapStand)
    | (with_reducible apply safe_lmem; with_reducible apply safe_trapStand)
    | split

theorem safe_driveTrack (die : Nat) (w : SwitchSet) (x y : Nat) (f : Flight) (s : State) (h5 : Safe s) : Safe (driveTrack die w x y f s) := by
  unfold driveTrack
  repeat' first
    | with_reducible assumption
    | with_reducible apply safe_dropFlight
    | with_reducible apply safe_mk
    | with_reducible exact safe_mem (by assumption)
    | with_reducible exact safe_lmem (by assumption)
    | (with_reducible apply safe_mem; with_reducible apply safe_dropFlight)
    | (with_reducible apply safe_lmem; with_reducible apply safe_dropFlight)
    | (with_reducible apply safe_mem; with_reducible apply safe_guardDrop)
    | (with_reducible apply safe_lmem; with_reducible apply safe_guardDrop)
    | split
    | dsimp only

theorem safe_execTrackSegmentHop (n : Nat) (s : State) (h1 : Safe s) : outSafe (execTrackSegmentHop n s) := by
  unfold execTrackSegmentHop
  repeat' first
    | with_reducible assumption
    | with_reducible apply outSafe_next
    | with_reducible apply safe_boxCheck
    | with_reducible apply safe_driveTrack
    | with_reducible apply safe_dropFlight
    | split

theorem safe_execInputBusDelivery (n : Nat) (s : State) (h1 : Safe s) : outSafe (execInputBusDelivery n s) := by
  unfold execInputBusDelivery
  repeat' first
    | with_reducible assumption
    | with_reducible apply outSafe_next
    | with_reducible apply safe_State_arriveCell
    | with_reducible apply safe_dropFlight
    | with_reducible apply safe_guardDrop
    | split

theorem safe_updOrder (q : QueueAt) (f : PortQ → PortQ) (s : State) (h2 : Safe s) : Safe (updOrder q f s) := by
  unfold updOrder
  repeat' first
    | with_reducible assumption
    | with_reducible apply safe_mk
    | (with_reducible apply safe_mem; with_reducible apply safe_updStand)
    | (with_reducible apply safe_lmem; with_reducible apply safe_updStand)
    | (with_reducible apply safe_mem; with_reducible apply safe_State_updTask)
    | (with_reducible apply safe_lmem; with_reducible apply safe_State_updTask)
    | split

theorem safe_replyDone (k : Sender) (tok : Tok) (s : State) (h2 : Safe s) : Safe (replyDone k tok s) := by
  unfold replyDone
  repeat' first
    | with_reducible assumption
    | with_reducible apply safe_mk
    | with_reducible exact safe_mem (by assumption)
    | with_reducible exact safe_lmem (by assumption)
    | (with_reducible apply safe_mem; with_reducible apply safe_State_updWeave)
    | (with_reducible apply safe_lmem; with_reducible apply safe_State_updWeave)
    | split

theorem safe_deliverNext (q : QueueAt) (d : PktDst) (k : Sender) (tok : Tok) (s : State) (h4 : Safe s) : Safe (deliverNext q d k tok s) := by
  unfold deliverNext
  repeat' first
    | with_reducible assumption
    | with_reducible apply safe_State_enqueue
    | with_reducible apply safe_updOrder
    | with_reducible apply safe_mk
    | (with_reducible apply safe_mem; with_reducible apply safe_replyDone)
    | (with_reducible apply safe_lmem; with_reducible apply safe_replyDone)
    | (with_reducible apply safe_mem; with_reducible apply safe_updOrder)
    | (with_reducible apply safe_lmem; with_reducible apply safe_updOrder)
    | split

theorem safe_deliverEarly (q : QueueAt) (d : PktDst) (k : Sender) (n : Nat) (s : State) (h : Safe s) : Safe (deliverEarly q d k n s) := by
  induction n generalizing s with
  | zero => exact h
  | succ n ih =>
    unfold deliverEarly
    repeat' first
    | with_reducible assumption
    | (with_reducible apply safe_mem; with_reducible apply ih)
    | (with_reducible apply safe_lmem; with_reducible apply ih)
    | with_reducible apply safe_deliverNext
    | with_reducible apply safe_updOrder
    | with_reducible apply safe_mk
    | with_reducible exact safe_mem (by assumption)
    | with_reducible exact safe_lmem (by assumption)
    | split

theorem safe_orderIn (q : QueueAt) (d : PktDst) (k : Sender) (seq : Nat) (tok : Tok) (s : State) (h5 : Safe s) : Safe (orderIn q d k seq tok s) := by
  unfold orderIn
  repeat' first
    | with_reducible assumption
    | with_reducible apply safe_deliverNext
    | with_reducible apply safe_mk
    | (with_reducible apply safe_mem; with_reducible apply safe_deliverEarly)
    | (with_reducible apply safe_lmem; with_reducible apply safe_deliverEarly)
    | (with_reducible apply safe_mem; with_reducible apply safe_updOrder)
    | (with_reducible apply safe_lmem; with_reducible apply safe_updOrder)
    | split

theorem safe_startOrder (all : List Packet) (q : QueueAt) (p : Packet) (s : State) (h3 : Safe s) : Safe (startOrder all q p s) := by
  unfold startOrder
  repeat' first
    | with_reducible assumption
    | with_reducible apply safe_mk
    | with_reducible exact safe_mem (by assumption)
    | with_reducible exact safe_lmem (by assumption)
    | (with_reducible apply safe_mem; with_reducible apply safe_updOrder)
    | (with_reducible apply safe_lmem; with_reducible apply safe_updOrder)
    | split

theorem safe_packetArrive (p : Packet) (s : State) (h1 : Safe s) : Safe (packetArrive p s) := by
  unfold packetArrive
  repeat' first
    | with_reducible apply safe_State_arriveCell
    | with_reducible apply safe_guardDrop
    | with_reducible apply safe_replyDone
    | with_reducible apply safe_startOrder
    | with_reducible apply safe_mk
    | with_reducible exact safe_mem (by assumption)
    | with_reducible exact safe_lmem (by assumption)
    | (with_reducible apply safe_mem; with_reducible apply safe_orderIn)
    | (with_reducible apply safe_lmem; with_reducible apply safe_orderIn)
    | (with_reducible apply safe_mem; with_reducible apply safe_replyDone)
    | (with_reducible apply safe_lmem; with_reducible apply safe_replyDone)
    | split
    | dsimp only

theorem safe_execRidePacketArrival (n : Nat) (s : State) (h1 : Safe s) : outSafe (execRidePacketArrival n s) := by
  unfold execRidePacketArrival
  repeat' first
    | with_reducible assumption
    | with_reducible apply outSafe_next
    | with_reducible apply safe_packetArrive
    | with_reducible apply safe_mk
    | with_reducible exact safe_mem (by assumption)
    | with_reducible exact safe_lmem (by assumption)
    | (with_reducible apply safe_mem; with_reducible apply safe_injectWaiting)
    | (with_reducible apply safe_lmem; with_reducible apply safe_injectWaiting)
    | split

theorem safe_updRide (die k : Nat) (f : Ride → Ride) (s : State) (h3 : Safe s) : Safe (updRide die k f s) := by
  unfold updRide
  repeat' first
    | with_reducible assumption
    | with_reducible apply safe_updDie

theorem safe_beginPowerUp (die k : Nat) (s : State) (h2 : Safe s) : Safe (beginPowerUp die k s) := by
  unfold beginPowerUp
  repeat' first
    | with_reducible assumption
    | with_reducible apply safe_mk
    | with_reducible exact safe_mem (by assumption)
    | with_reducible exact safe_lmem (by assumption)
    | (with_reducible apply safe_mem; with_reducible apply safe_updRide)
    | (with_reducible apply safe_lmem; with_reducible apply safe_updRide)
    | split

theorem safe_execRideCongestion (die k : Nat) (s : State) (h2 : Safe s) : outSafe (execRideCongestion die k s) := by
  unfold execRideCongestion
  repeat' first
    | with_reducible assumption
    | with_reducible apply outSafe_next
    | with_reducible apply safe_beginPowerUp
    | with_reducible apply safe_updRide

theorem safe_execRidePowerUp (die k : Nat) (s : State) (h2 : Safe s) : outSafe (execRidePowerUp die k s) := by
  unfold execRidePowerUp
  repeat' first
    | with_reducible assumption
    | with_reducible apply outSafe_next
    | with_reducible apply safe_injectWaiting
    | with_reducible apply safe_updRide
    | with_reducible apply safe_mk
    | with_reducible exact safe_mem (by assumption)
    | with_reducible exact safe_lmem (by assumption)
    | (with_reducible apply safe_mem; with_reducible apply safe_beginPowerUp)
    | (with_reducible apply safe_lmem; with_reducible apply safe_beginPowerUp)
    | split

theorem safe_execRidePowerDown (die k : Nat) (s : State) (h2 : Safe s) : outSafe (execRidePowerDown die k s) := by
  unfold execRidePowerDown
  repeat' first
    | with_reducible assumption
    | with_reducible apply outSafe_next
    | with_reducible apply safe_updRide
    | split

theorem safe_podBytes (vf : Nat) (mask : Byte) (p : Bool) (va : Nat) (l : List Byte) (s : State) (h : Safe s) : Safe (podBytes vf mask p va l s) := by
  induction l generalizing va s with
  | nil => exact h
  | cons w ws ih =>
    unfold podBytes
    repeat' first
    | with_reducible apply ih
    | with_reducible apply Memory.store_wf
    | with_reducible apply safe_mk
    | with_reducible exact safe_mem (by assumption)
    | with_reducible exact safe_lmem (by assumption)
    | split
    | dsimp only

theorem safe_podWrite (vf va : Nat) (bs : List Byte) (mask : Byte) (p : Bool) (s : State) (h5 : Safe s) : Safe (podWrite vf va bs mask p s) := by
  unfold podWrite
  repeat' first
    | with_reducible assumption
    | with_reducible apply Memory.store_wf
    | with_reducible apply safe_mk
    | with_reducible exact safe_mem (by assumption)
    | with_reducible exact safe_lmem (by assumption)
    | (with_reducible apply safe_mem; with_reducible apply safe_podBytes)
    | (with_reducible apply safe_lmem; with_reducible apply safe_podBytes)
    | split
    | dsimp only

theorem safe_execChiararexPacketArrival (p : PodPacket) (s : State) (h1 : Safe s) : outSafe (execChiararexPacketArrival p s) := by
  unfold execChiararexPacketArrival
  repeat' first
    | with_reducible assumption
    | with_reducible apply outSafe_next
    | with_reducible apply safe_podWrite
    | with_reducible apply safe_State_setBarrier
    | with_reducible apply safe_settleBarrier
    | with_reducible apply safe_mk
    | with_reducible exact safe_mem (by assumption)
    | with_reducible exact safe_lmem (by assumption)
    | split
    | dsimp only

/-! ## Machine/Regs -/

theorem safe_readRegister (sp : RegSpace) (off width : Nat) (s : State) (h3 : Safe s) : Safe (readRegister sp off width s).2 := by
  unfold readRegister
  repeat' first
    | with_reducible apply safe_mk
    | with_reducible exact safe_mem (by assumption)
    | with_reducible exact safe_lmem (by assumption)
    | split
    | dsimp only

/-! ## Machine/Slices -/

theorem safe_serveOldest (sl : SliceId) (s : State) (h1 : Safe s) : Safe (serveOldest sl s) := by
  unfold serveOldest
  repeat' first
    | with_reducible assumption
    | with_reducible apply safe_setSlice
    | with_reducible apply safe_mk
    | with_reducible exact safe_mem (by assumption)
    | with_reducible exact safe_lmem (by assumption)
    | (with_reducible apply safe_mem; with_reducible apply safe_moveLine)
    | (with_reducible apply safe_lmem; with_reducible apply safe_moveLine)
    | (with_reducible apply safe_mem; with_reducible apply safe_setSlice)
    | (with_reducible apply safe_lmem; with_reducible apply safe_setSlice)
    | split

theorem safe_execSliceService (sl : SliceId) (s : State) (h1 : Safe s) : outSafe (execSliceService sl s) := by
  unfold execSliceService
  repeat' first
    | with_reducible assumption
    | with_reducible apply outSafe_next
    | with_reducible apply safe_admitReqs
    | with_reducible apply safe_serveOldest

theorem safe_replyReqs (sl : SliceId) (p : SliceReq → Bool) (s : State) (h2 : Safe s) : Safe (replyReqs sl p s) := by
  unfold replyReqs
  repeat' first
    | with_reducible assumption
    | with_reducible apply safe_admitReqs
    | with_reducible apply safe_moveLine
    | with_reducible apply safe_setSlice
    | with_reducible apply safe_foldl
    | with_reducible intro _

theorem safe_execGddrFillReturn (sl : SliceId) (line : Nat) (s : State) (h2 : Safe s) : outSafe (execGddrFillReturn sl line s) := by
  unfold execGddrFillReturn
  repeat' first
    | with_reducible assumption
    | with_reducible apply outSafe_next
    | with_reducible apply safe_replyReqs
    | with_reducible apply safe_mk
    | with_reducible exact safe_mem (by assumption)
    | with_reducible exact safe_lmem (by assumption)
    | (with_reducible apply safe_mem; with_reducible apply safe_fillSlice)
    | (with_reducible apply safe_lmem; with_reducible apply safe_fillSlice)
    | split
    | dsimp only

theorem safe_execHostMemoryReply (e : EKey) (line : Nat) (s : State) (h2 : Safe s) : outSafe (execHostMemoryReply e line s) := by
  unfold execHostMemoryReply
  repeat' first
    | with_reducible assumption
    | with_reducible apply outSafe_next
    | with_reducible apply safe_replyReqs
    | with_reducible apply safe_foldl
    | with_reducible intro _
    | split

theorem safe_execTranslationWalk (vf unit : Nat) (va : BitVec 57) (s : State) (h3 : Safe s) : outSafe (execTranslationWalk vf unit va s) := by
  unfold execTranslationWalk
  repeat' first
    | with_reducible assumption
    | with_reducible apply outSafe_next
    | with_reducible apply safe_flitOn
    | with_reducible apply safe_State_tlbFill

theorem safe_beginInv (vf : Nat) (what : Option Nat) (s : State) (h2 : Safe s) : Safe (beginInv vf what s) := by
  unfold beginInv
  repeat' first
    | with_reducible assumption
    | with_reducible apply safe_updVf

theorem safe_execTlbinvAll (vf : Nat) (s : State) (h1 : Safe s) : outSafe (execTlbinvAll vf s) := by
  unfold execTlbinvAll
  repeat' first
    | with_reducible assumption
    | with_reducible apply outSafe_next
    | with_reducible apply safe_beginInv

theorem safe_execTlbinvPage (vf : Nat) (va : BitVec 57) (s : State) (h2 : Safe s) : outSafe (execTlbinvPage vf va s) := by
  unfold execTlbinvPage
  repeat' first
    | with_reducible assumption
    | with_reducible apply outSafe_next
    | with_reducible apply safe_beginInv

theorem safe_execTlbInvalidationComplete (vf : Nat) (s : State) (h1 : Safe s) : outSafe (execTlbInvalidationComplete vf s) := by
  unfold execTlbInvalidationComplete
  repeat' first
    | with_reducible assumption
    | with_reducible apply outSafe_next
    | with_reducible apply safe_updVf

theorem safe_execPcmd (vf : Nat) (s : State) (h1 : Safe s) : outSafe (execPcmd vf s) := by
  unfold execPcmd
  repeat' first
    | with_reducible assumption
    | with_reducible apply outSafe_next
    | with_reducible apply safe_updVf

theorem safe_drainSlice (vf : Nat) (s : State) (i : SliceId) (h1 : Safe s) : Safe (drainSlice vf s i) := by
  unfold drainSlice
  repeat' first
    | with_reducible assumption
    | with_reducible apply safe_moveLine
    | with_reducible apply safe_setSlice
    | with_reducible apply safe_foldl
    | with_reducible intro _

theorem safe_placePin (vf : Nat) (s : State) (l : Nat) (h1 : Safe s) : Safe (placePin vf s l) := by
  unfold placePin
  repeat' first
    | with_reducible assumption
    | with_reducible apply safe_mk
    | with_reducible exact safe_mem (by assumption)
    | with_reducible exact safe_lmem (by assumption)
    | (with_reducible apply safe_mem; with_reducible apply safe_fillSlice)
    | (with_reducible apply safe_lmem; with_reducible apply safe_fillSlice)
    | split

theorem safe_installPart (vf : Nat) (s : State) (h1 : Safe s) : Safe (installPart vf s) := by
  unfold installPart
  repeat' first
    | with_reducible assumption
    | with_reducible apply safe_admitReqs
    | with_reducible apply safe_drainSlice
    | with_reducible apply safe_placePin
    | with_reducible apply safe_updVf
    | with_reducible apply safe_foldl
    | with_reducible apply safe_mk
    | (with_reducible apply safe_mem; with_reducible apply safe_foldl)
    | (with_reducible apply safe_lmem; with_reducible apply safe_foldl)
    | with_reducible intro _

theorem safe_hostAccess (vf : Nat) (s : State) (a : HostAccess) (h1 : Safe s) : Safe (hostAccess vf s a) := by
  unfold hostAccess
  repeat' first
    | with_reducible assumption
    | with_reducible apply safe_readRegister
    | with_reducible apply Memory.store_wf
    | with_reducible apply safe_mk
    | with_reducible exact safe_mem (by assumption)
    | with_reducible exact safe_lmem (by assumption)
    | (with_reducible apply safe_mem; with_reducible apply safe_emit)
    | (with_reducible apply safe_lmem; with_reducible apply safe_emit)
    | split
    | dsimp only

theorem safe_execHostCxlMemAccess (vf : Nat) (a : HostAccess) (s : State) (h2 : Safe s) : outSafe (execHostCxlMemAccess vf a s) := by
  unfold execHostCxlMemAccess
  repeat' first
    | with_reducible assumption
    | with_reducible apply outSafe_next
    | with_reducible apply safe_holdHost
    | with_reducible apply safe_hostAccess
    | split

theorem safe_hostWaited (vf : Nat) (s : State) (w : HostWait) (h : Safe s) : Safe (hostWaited vf s w) := by
  cases w with
  | access a => exact safe_hostAccess vf s a h
  | publish ref => exact safe_hostPublish vf ref s h
  | query ref => exact safe_hostQuery vf ref s h

theorem safe_execPcmdComplete (vf : Nat) (s : State) (h1 : Safe s) : outSafe (execPcmdComplete vf s) := by
  unfold execPcmdComplete
  repeat' first
    | with_reducible assumption
    | with_reducible apply outSafe_next
    | with_reducible apply safe_hostWaited
    | with_reducible apply safe_installPart
    | with_reducible apply safe_updVf
    | with_reducible apply safe_foldl
    | split

theorem safe_onWeave (k : WKey) (f : Weave → Weave) (s : State) (h2 : Safe s) : Safe (onWeave k f s) := by
  unfold onWeave
  repeat' first
    | with_reducible assumption
    | with_reducible apply safe_updStand

theorem safe_onTask (k : TKey) (f : Task → Task) (s : State) (h2 : Safe s) : Safe (onTask k f s) := by
  unfold onTask
  repeat' first
    | with_reducible assumption
    | with_reducible apply safe_updStand

theorem safe_residueTrap (k : TKey) (lane unit : Nat) (s : State) (h3 : Safe s) : Safe (residueTrap k lane unit s) := by
  unfold residueTrap
  repeat' first
    | with_reducible assumption
    | with_reducible apply safe_mk
    | with_reducible exact safe_mem (by assumption)
    | with_reducible exact safe_lmem (by assumption)
    | (with_reducible apply safe_mem; with_reducible apply safe_cellTrap)
    | (with_reducible apply safe_lmem; with_reducible apply safe_cellTrap)
    | split

theorem safe_trainPort (port : Nat) (s : State) (h1 : Safe s) : Safe (trainPort port s) := by
  unfold trainPort
  repeat' first
    | with_reducible assumption
    | with_reducible apply safe_mk
    | with_reducible exact safe_mem (by assumption)
    | with_reducible exact safe_lmem (by assumption)
    | (with_reducible apply safe_mem; with_reducible apply safe_ringEvent)
    | (with_reducible apply safe_lmem; with_reducible apply safe_ringEvent)
    | split
    | dsimp only

theorem safe_linkError (port : Nat) (corrected : Bool) (s : State) (h2 : Safe s) : Safe (linkError port corrected s) := by
  unfold linkError
  repeat' first
    | with_reducible assumption
    | with_reducible apply safe_mk
    | with_reducible exact safe_mem (by assumption)
    | with_reducible exact safe_lmem (by assumption)
    | (with_reducible apply safe_mem; with_reducible apply safe_trainPort)
    | (with_reducible apply safe_lmem; with_reducible apply safe_trainPort)
    | split
    | dsimp only

theorem safe_badEntry (st die idx : Nat) (s : State) (h3 : Safe s) : Safe (badEntry st die idx s) := by
  unfold badEntry
  repeat' first
    | with_reducible assumption
    | with_reducible apply safe_updStand

theorem safe_instrError (k : TKey) (lane unit tries : Nat) (s : State) (h4 : Safe s) : Safe (instrError k lane unit tries s) := by
  unfold instrError
  repeat' first
    | with_reducible assumption
    | with_reducible apply safe_State_updTask
    | with_reducible apply safe_mk
    | with_reducible exact safe_mem (by assumption)
    | with_reducible exact safe_lmem (by assumption)
    | (with_reducible apply safe_mem; with_reducible apply safe_residueTrap)
    | (with_reducible apply safe_lmem; with_reducible apply safe_residueTrap)
    | split

theorem safe_butterflyError (k : TKey) (row tries : Nat) (s : State) (h3 : Safe s) : Safe (butterflyError k row tries s) := by
  unfold butterflyError
  repeat' first
    | with_reducible apply safe_execCxMbfy
    | with_reducible apply safe_onWeave
    | with_reducible apply safe_mk
    | with_reducible exact safe_mem (by assumption)
    | with_reducible exact safe_lmem (by assumption)
    | (with_reducible apply safe_mem; with_reducible apply safe_defer)
    | (with_reducible apply safe_lmem; with_reducible apply safe_defer)
    | (with_reducible apply safe_mem; with_reducible refine safe_of_out (by with_reducible assumption) ?_)
    | (with_reducible apply safe_lmem; with_reducible refine safe_of_out (by with_reducible assumption) ?_)
    | split
    | dsimp only

theorem safe_errEffect (e : ErrReport) (s : State) (h1 : Safe s) : Safe (errEffect e s) := by
  unfold errEffect
  repeat' first
    | with_reducible assumption
    | with_reducible apply Memory.setPoison_wf
    | with_reducible apply safe_mk
    | with_reducible exact safe_mem (by assumption)
    | with_reducible exact safe_lmem (by assumption)
    | (with_reducible apply safe_mem; with_reducible apply safe_badEntry)
    | (with_reducible apply safe_lmem; with_reducible apply safe_badEntry)
    | (with_reducible apply safe_mem; with_reducible apply safe_butterflyError)
    | (with_reducible apply safe_lmem; with_reducible apply safe_butterflyError)
    | (with_reducible apply safe_mem; with_reducible apply safe_instrError)
    | (with_reducible apply safe_lmem; with_reducible apply safe_instrError)
    | (with_reducible apply safe_mem; with_reducible apply safe_onTask)
    | (with_reducible apply safe_lmem; with_reducible apply safe_onTask)
    | (with_reducible apply safe_mem; with_reducible apply safe_onWeave)
    | (with_reducible apply safe_lmem; with_reducible apply safe_onWeave)
    | (with_reducible apply safe_mem; with_reducible apply safe_residueTrap)
    | (with_reducible apply safe_lmem; with_reducible apply safe_residueTrap)
    | (with_reducible apply safe_mem; with_reducible apply safe_setCtx)
    | (with_reducible apply safe_lmem; with_reducible apply safe_setCtx)
    | (with_reducible apply safe_mem; with_reducible apply safe_updDie)
    | (with_reducible apply safe_lmem; with_reducible apply safe_updDie)
    | (with_reducible apply safe_mem; with_reducible apply safe_updEngine)
    | (with_reducible apply safe_lmem; with_reducible apply safe_updEngine)
    | (with_reducible apply safe_mem; with_reducible apply safe_updVf)
    | (with_reducible apply safe_lmem; with_reducible apply safe_updVf)
    | split
    | dsimp only

theorem safe_noteError (e : ErrReport) (s : State) (h1 : Safe s) : Safe (noteError e s) := by
  unfold noteError
  repeat' first
    | with_reducible assumption
    | with_reducible apply safe_mk
    | with_reducible exact safe_mem (by assumption)
    | with_reducible exact safe_lmem (by assumption)
    | (with_reducible apply safe_mem; with_reducible apply safe_countError)
    | (with_reducible apply safe_lmem; with_reducible apply safe_countError)
    | split

theorem safe_execHardwareError (e : ErrReport) (s : State) (h1 : Safe s) : outSafe (execHardwareError e s) := by
  unfold execHardwareError
  repeat' first
    | with_reducible assumption
    | with_reducible apply outSafe_next
    | with_reducible apply safe_linkError
    | with_reducible apply safe_noteError
    | with_reducible apply safe_mk
    | (with_reducible apply safe_mem; with_reducible apply safe_errEffect)
    | (with_reducible apply safe_lmem; with_reducible apply safe_errEffect)
    | (with_reducible apply safe_mem; with_reducible apply safe_noteError)
    | (with_reducible apply safe_lmem; with_reducible apply safe_noteError)
    | split

theorem safe_execErrorWindowReset (die : Nat) (s : State) (h1 : Safe s) : outSafe (execErrorWindowReset die s) := by
  unfold execErrorWindowReset
  repeat' first
    | with_reducible assumption
    | with_reducible apply outSafe_next
    | with_reducible apply safe_updDie
    | with_reducible apply safe_mk
    | with_reducible exact safe_mem (by assumption)
    | with_reducible exact safe_lmem (by assumption)
    | split

/-! ## Machine/Loader -/

theorem safe_execTtCommit (vf : Nat) (s : State) (h1 : Safe s) : outSafe (execTtCommit vf s) := by
  unfold execTtCommit
  repeat' first
    | with_reducible assumption
    | with_reducible apply outSafe_next
    | with_reducible apply safe_checkRecords
    | with_reducible apply safe_setVf
    | split
    | dsimp only

theorem safe_execTtRead (vf : Nat) (s : State) (h1 : Safe s) : outSafe (execTtRead vf s) := by
  unfold execTtRead
  repeat' first
    | with_reducible assumption
    | with_reducible apply outSafe_next
    | with_reducible apply safe_setVf

theorem safe_addMeasure (vf : Nat) (bs : List Byte) (s : State) (h2 : Safe s) : Safe (addMeasure vf bs s) := by
  unfold addMeasure
  repeat' first
    | with_reducible assumption
    | with_reducible apply safe_updVf

theorem safe_checkAll (vf : Nat) (l : List Nat) (s : State) (h : Safe s) : Safe (checkAll vf l s) := by
  induction l generalizing s with
  | nil => exact h
  | cons w ws ih =>
    unfold checkAll
    repeat' first
    | with_reducible assumption
    | with_reducible apply ih
    | with_reducible apply safe_checkRecords

theorem safe_installData (vf : Nat) (o : Obj) (dbase : Nat) (table : List (Nat × BitVec 256)) (places : List (Nat × Nat)) (s : State) (h5 : Safe s) : Safe (installData vf o dbase table places s) := by
  unfold installData
  repeat' first
    | with_reducible apply safe_checkAll
    | with_reducible apply safe_updVf
    | with_reducible apply storePieces_wf
    | with_reducible apply safe_mk
    | with_reducible exact safe_mem (by assumption)
    | with_reducible exact safe_lmem (by assumption)

theorem safe_installKernel (vf : Nat) (o : Obj) (s : State) (h2 : Safe s) : Safe (installKernel vf o s).2 := by
  unfold installKernel
  repeat' first
    | with_reducible assumption
    | with_reducible apply safe_updVf
    | with_reducible apply safe_mk
    | with_reducible exact safe_mem (by assumption)
    | with_reducible exact safe_lmem (by assumption)
    | (with_reducible apply safe_mem; with_reducible apply safe_installData)
    | (with_reducible apply safe_lmem; with_reducible apply safe_installData)
    | split
    | dsimp only

theorem safe_loadObject (vf : Nat) (root : Bool) (go : Obj → List Byte → State → Nat × State) (s : State) (h2 : ∀ o b s, Safe s → Safe (go o b s).2) (h3 : Safe s) : Safe (loadObject vf root go s).2.2 := by
  unfold loadObject
  repeat' first
    | with_reducible assumption
    | (with_reducible apply safe_mem; with_reducible apply h2)
    | (with_reducible apply safe_lmem; with_reducible apply h2)
    | with_reducible apply safe_addMeasure
    | with_reducible apply safe_mk
    | with_reducible exact safe_mem (by assumption)
    | with_reducible exact safe_lmem (by assumption)
    | split
    | dsimp only

theorem safe_beginCmd (vf : Nat) (r : Nat × Nat × State) (h1 : Safe r.2.2) : Safe (beginCmd vf r) := by
  unfold beginCmd
  repeat' first
    | with_reducible assumption
    | with_reducible apply safe_updVf

theorem safe_execKernelLoad (vf : Nat) (s : State) (h1 : Safe s) : outSafe (execKernelLoad vf s) := by
  unfold execKernelLoad
  repeat' first
    | with_reducible assumption
    | with_reducible apply outSafe_next
    | with_reducible apply safe_beginCmd
    | with_reducible apply safe_loadObject
    | with_reducible apply safe_mk
    | with_reducible exact safe_mem (by assumption)
    | with_reducible exact safe_lmem (by assumption)
    | (with_reducible apply safe_mem; with_reducible apply safe_installKernel)
    | (with_reducible apply safe_lmem; with_reducible apply safe_installKernel)
    | with_reducible intro _
    | split

theorem safe_execKernelUnload (vf : Nat) (s : State) (h1 : Safe s) : outSafe (execKernelUnload vf s) := by
  unfold execKernelUnload
  repeat' first
    | with_reducible assumption
    | with_reducible apply outSafe_next
    | with_reducible apply safe_beginCmd
    | with_reducible apply safe_mk
    | with_reducible exact safe_mem (by assumption)
    | with_reducible exact safe_lmem (by assumption)
    | (with_reducible apply safe_mem; with_reducible apply safe_setVf)
    | (with_reducible apply safe_lmem; with_reducible apply safe_setVf)
    | split
    | dsimp only

theorem safe_discardRoot (vf : Nat) (s : State) (h1 : Safe s) : Safe (discardRoot vf s) := by
  unfold discardRoot
  repeat' first
    | with_reducible apply safe_setCtx
    | with_reducible apply safe_updVf
    | with_reducible apply safe_mk
    | with_reducible exact safe_mem (by assumption)
    | with_reducible exact safe_lmem (by assumption)
    | (with_reducible apply safe_mem; with_reducible apply safe_schedule)
    | (with_reducible apply safe_lmem; with_reducible apply safe_schedule)
    | split

theorem safe_createRoot (vf : Nat) (o : Obj) (s : State) (h2 : Safe s) : Safe (createRoot vf o s).2 := by
  unfold createRoot
  repeat' first
    | with_reducible assumption
    | with_reducible apply safe_discardRoot
    | with_reducible apply safe_installData
    | with_reducible apply safe_setCtx
    | with_reducible apply safe_mk
    | with_reducible exact safe_mem (by assumption)
    | with_reducible exact safe_lmem (by assumption)
    | (with_reducible apply safe_mem; with_reducible apply safe_updVf)
    | (with_reducible apply safe_lmem; with_reducible apply safe_updVf)
    | split
    | dsimp only

theorem safe_execRootProgramCreate (vf : Nat) (s : State) (h1 : Safe s) : outSafe (execRootProgramCreate vf s) := by
  unfold execRootProgramCreate
  repeat' first
    | with_reducible assumption
    | with_reducible apply outSafe_next
    | with_reducible apply safe_beginCmd
    | with_reducible apply safe_loadObject
    | with_reducible apply safe_mk
    | with_reducible exact safe_mem (by assumption)
    | with_reducible exact safe_lmem (by assumption)
    | (with_reducible apply safe_mem; with_reducible apply safe_createRoot)
    | (with_reducible apply safe_lmem; with_reducible apply safe_createRoot)
    | with_reducible intro _
    | split

theorem safe_execLoaderCommandComplete (vf : Nat) (s : State) (h1 : Safe s) : outSafe (execLoaderCommandComplete vf s) := by
  unfold execLoaderCommandComplete
  repeat' first
    | with_reducible assumption
    | with_reducible apply outSafe_next
    | with_reducible apply safe_setVf
    | with_reducible apply safe_mk
    | (with_reducible apply safe_mem; with_reducible apply safe_makeReady)
    | (with_reducible apply safe_lmem; with_reducible apply safe_makeReady)
    | (with_reducible apply safe_mem; with_reducible apply safe_setVf)
    | (with_reducible apply safe_lmem; with_reducible apply safe_setVf)
    | split
    | dsimp only

theorem safe_execRootBlockLaunch (vf : Nat) (s : State) (h1 : Safe s) : outSafe (execRootBlockLaunch vf s) := by
  unfold execRootBlockLaunch
  repeat' first
    | with_reducible assumption
    | with_reducible apply outSafe_next
    | with_reducible apply safe_mk
    | with_reducible exact safe_mem (by assumption)
    | with_reducible exact safe_lmem (by assumption)
    | (with_reducible apply safe_mem; with_reducible apply safe_launchWaiting)
    | (with_reducible apply safe_lmem; with_reducible apply safe_launchWaiting)
    | split
    | dsimp only

/-! ## Machine/SeqEvents -/

theorem safe_endWait (c : SeqCtx) (w : SeqWait) (s : State) (h2 : Safe s) : Safe (endWait c w s) := by
  unfold endWait
  repeat' first
    | with_reducible assumption
    | with_reducible apply safe_setCtx
    | with_reducible apply safe_mk
    | with_reducible exact safe_mem (by assumption)
    | with_reducible exact safe_lmem (by assumption)
    | (with_reducible apply safe_mem; with_reducible apply safe_makeReady)
    | (with_reducible apply safe_lmem; with_reducible apply safe_makeReady)
    | split

theorem safe_execSeqWaitSatisfied (q : SeqId) (s : State) (h1 : Safe s) : outSafe (execSeqWaitSatisfied q s) := by
  unfold execSeqWaitSatisfied
  repeat' first
    | with_reducible assumption
    | with_reducible apply outSafe_next
    | with_reducible apply safe_endWait
    | with_reducible apply safe_seqTrap
    | with_reducible apply safe_wakeTrapped
    | split
    | dsimp only

theorem safe_waitTimeout (q : SeqId) (kind : SeqWait → Bool) (s : State) (h2 : Safe s) : Safe (waitTimeout q kind s) := by
  unfold waitTimeout
  repeat' first
    | with_reducible assumption
    | with_reducible apply safe_seqTrap
    | with_reducible apply safe_mk
    | with_reducible exact safe_mem (by assumption)
    | with_reducible exact safe_lmem (by assumption)
    | (with_reducible apply safe_mem; with_reducible apply safe_wakeTrapped)
    | (with_reducible apply safe_lmem; with_reducible apply safe_wakeTrapped)
    | split

theorem safe_execSeqWaitExpired (q : SeqId) (s : State) (h1 : Safe s) : outSafe (execSeqWaitExpired q s) := by
  unfold execSeqWaitExpired
  repeat' first
    | with_reducible assumption
    | with_reducible apply outSafe_next
    | with_reducible apply safe_waitTimeout

theorem safe_execScmdQueueStallExpired (q : SeqId) (s : State) (h1 : Safe s) : outSafe (execScmdQueueStallExpired q s) := by
  unfold execScmdQueueStallExpired
  repeat' first
    | with_reducible assumption
    | with_reducible apply outSafe_next
    | with_reducible apply safe_waitTimeout

theorem safe_execCtxSwitchWaitExpired (q : SeqId) (s : State) (h1 : Safe s) : outSafe (execCtxSwitchWaitExpired q s) := by
  unfold execCtxSwitchWaitExpired
  repeat' first
    | with_reducible assumption
    | with_reducible apply outSafe_next
    | with_reducible apply safe_waitTimeout

theorem safe_execBarrierExpired (m : BarMember) (s : State) (h1 : Safe s) : outSafe (execBarrierExpired m s) := by
  unfold execBarrierExpired
  repeat' first
    | with_reducible assumption
    | with_reducible apply outSafe_next
    | with_reducible apply safe_barrierTimeout

theorem safe_execTrapEventDelivery (q : SeqId) (s : State) (h1 : Safe s) : outSafe (execTrapEventDelivery q s) := by
  unfold execTrapEventDelivery
  repeat' first
    | with_reducible assumption
    | with_reducible apply outSafe_next
    | with_reducible apply safe_makeReady
    | with_reducible apply safe_setCtx
    | with_reducible apply safe_withdraw
    | split
    | dsimp only

theorem safe_execTqhead (q : SeqId) (h : W32) (s : State) (h2 : Safe s) : outSafe (execTqhead q h s) := by
  unfold execTqhead
  repeat' first
    | with_reducible assumption
    | with_reducible apply outSafe_next
    | with_reducible apply safe_serviceHead

/-! ## Machine/Service -/

theorem safe_dropRecords (vf : Nat) (s : State) (h1 : Safe s) : Safe (dropRecords vf s) := by
  unfold dropRecords
  repeat' first
    | with_reducible apply safe_mk
    | with_reducible exact safe_mem (by assumption)
    | with_reducible exact safe_lmem (by assumption)

theorem safe_dropStands (vf : Nat) (s : State) (h1 : Safe s) : Safe (dropStands vf s) := by
  unfold dropStands
  repeat' first
    | with_reducible assumption
    | with_reducible apply safe_freeStand
    | with_reducible apply safe_foldl
    | with_reducible intro _

theorem safe_resetPartition (vf : Nat) (s : State) (h1 : Safe s) : Safe (resetPartition vf s) := by
  unfold resetPartition
  repeat' first
    | with_reducible assumption
    | with_reducible apply safe_discardRoot
    | with_reducible apply safe_dropRecords
    | with_reducible apply safe_dropStands
    | with_reducible apply safe_updVf

theorem safe_execVfWatchdogExpiry (vf : Nat) (s : State) (h1 : Safe s) : outSafe (execVfWatchdogExpiry vf s) := by
  unfold execVfWatchdogExpiry
  repeat' first
    | with_reducible assumption
    | with_reducible apply outSafe_next
    | with_reducible apply safe_hostEvent
    | with_reducible apply safe_resetPartition
    | split
    | dsimp only

theorem safe_execFunctionLevelReset (vf : Nat) (s : State) (h1 : Safe s) : outSafe (execFunctionLevelReset vf s) := by
  unfold execFunctionLevelReset
  repeat' first
    | with_reducible assumption
    | with_reducible apply outSafe_next
    | with_reducible apply safe_resetPartition

theorem safe_execGrowthRingFlush (s : State) (h0 : Safe s) : outSafe (execGrowthRingFlush s) := by
  unfold execGrowthRingFlush
  repeat' first
    | with_reducible apply outSafe_next
    | with_reducible apply safe_mk
    | with_reducible exact safe_mem (by assumption)
    | with_reducible exact safe_lmem (by assumption)

theorem safe_execGrowthRingHour (r : List HourBins) (s : State) (h1 : Safe s) : outSafe (execGrowthRingHour r s) := by
  unfold execGrowthRingHour
  repeat' first
    | with_reducible apply outSafe_next
    | with_reducible apply safe_mk
    | with_reducible exact safe_mem (by assumption)
    | with_reducible exact safe_lmem (by assumption)

theorem safe_State_withIft (s : State) (i : Ift) (h0 : Safe s) : Safe (State.withIft s i) := by
  unfold State.withIft
  repeat' first
    | with_reducible apply safe_mk
    | with_reducible exact safe_mem (by assumption)
    | with_reducible exact safe_lmem (by assumption)

theorem safe_execIftcmd (value : W32) (s : State) (h1 : Safe s) : outSafe (execIftcmd value s) := by
  unfold execIftcmd
  repeat' first
    | with_reducible assumption
    | with_reducible apply outSafe_next
    | with_reducible apply safe_State_withIft
    | split
    | dsimp only

theorem safe_execIftStart (s : State) (h0 : Safe s) : outSafe (execIftStart s) := by
  unfold execIftStart
  repeat' first
    | with_reducible assumption
    | with_reducible apply outSafe_next
    | with_reducible apply safe_State_withIft
    | split
    | dsimp only

theorem safe_reportFail (die comp : Nat) (s : State) (h2 : Safe s) : Safe (reportFail die comp s) := by
  unfold reportFail
  repeat' first
    | with_reducible assumption
    | with_reducible apply safe_hostEvent
    | with_reducible apply safe_foldl
    | with_reducible apply safe_mk
    | with_reducible exact safe_mem (by assumption)
    | with_reducible exact safe_lmem (by assumption)
    | (with_reducible apply safe_mem; with_reducible apply safe_hostEvent)
    | (with_reducible apply safe_lmem; with_reducible apply safe_hostEvent)
    | with_reducible intro _
    | split

theorem safe_returnUnit (u : TestUnit) (s : State) (h1 : Safe s) : Safe (returnUnit u s) := by
  unfold returnUnit
  repeat' first
    | with_reducible assumption
    | with_reducible apply safe_updDie

theorem safe_keepRetired (u : TestUnit) (s : State) (h1 : Safe s) : Safe (keepRetired u s) := by
  unfold keepRetired
  repeat' first
    | with_reducible assumption
    | with_reducible apply safe_updDie
    | with_reducible apply safe_mk
    | with_reducible exact safe_mem (by assumption)
    | with_reducible exact safe_lmem (by assumption)
    | (with_reducible apply safe_mem; with_reducible apply safe_ringEvent)
    | (with_reducible apply safe_lmem; with_reducible apply safe_ringEvent)
    | split

theorem safe_execIftComplete (passed : Bool) (s : State) (h1 : Safe s) : outSafe (execIftComplete passed s) := by
  unfold execIftComplete
  repeat' first
    | with_reducible assumption
    | with_reducible apply outSafe_next
    | with_reducible apply safe_keepRetired
    | with_reducible apply safe_reportFail
    | with_reducible apply safe_returnUnit
    | with_reducible apply safe_ringEvent
    | with_reducible apply safe_State_withIft
    | split

theorem safe_execChret (value : W32) (s : State) (h1 : Safe s) : outSafe (execChret value s) := by
  unfold execChret
  repeat' first
    | with_reducible assumption
    | with_reducible apply outSafe_next
    | with_reducible apply safe_suspendVf
    | with_reducible apply safe_foldl
    | with_reducible apply safe_mk
    | with_reducible exact safe_mem (by assumption)
    | with_reducible exact safe_lmem (by assumption)
    | with_reducible intro _
    | split
    | dsimp only

theorem safe_execChannelMigrationComplete (s : State) (h0 : Safe s) : outSafe (execChannelMigrationComplete s) := by
  unfold execChannelMigrationComplete
  repeat' first
    | with_reducible assumption
    | with_reducible apply outSafe_next
    | with_reducible apply safe_hostEvent
    | with_reducible apply safe_ringEvent
    | with_reducible apply Memory.cutDevice_wf
    | with_reducible apply safe_mk
    | with_reducible exact safe_mem (by assumption)
    | with_reducible exact safe_lmem (by assumption)
    | split

theorem safe_afterReset (svc : Service) (fwstat : W64) (up : Bool) (s : State) (h3 : Safe s) : Safe (afterReset svc fwstat up s) := by
  unfold afterReset
  repeat' first
    | rfl
    | with_reducible apply Memory.cutDevice_wf
    | with_reducible apply safe_mk
    | with_reducible exact safe_mem (by assumption)

theorem safe_execModuleReset (s : State) (h0 : Safe s) : outSafe (execModuleReset s) := by
  unfold execModuleReset
  repeat' first
    | with_reducible assumption
    | with_reducible apply outSafe_next
    | with_reducible apply safe_afterReset
    | split
    | dsimp only

theorem safe_execFwVerifyWrite (s : State) (h0 : Safe s) : outSafe (execFwVerifyWrite s) := by
  unfold execFwVerifyWrite
  repeat' first
    | with_reducible assumption
    | with_reducible apply outSafe_next
    | with_reducible apply safe_mk
    | with_reducible exact safe_mem (by assumption)
    | with_reducible exact safe_lmem (by assumption)
    | split

theorem safe_execFirmwareWriteComplete (s : State) (h0 : Safe s) : outSafe (execFirmwareWriteComplete s) := by
  unfold execFirmwareWriteComplete
  repeat' first
    | with_reducible assumption
    | with_reducible apply outSafe_next
    | with_reducible apply safe_mk
    | with_reducible exact safe_mem (by assumption)
    | with_reducible exact safe_lmem (by assumption)
    | split

theorem safe_execFwBankSwitch (s : State) (h0 : Safe s) : outSafe (execFwBankSwitch s) := by
  unfold execFwBankSwitch
  repeat' first
    | with_reducible assumption
    | with_reducible apply outSafe_next
    | with_reducible apply safe_mk
    | with_reducible exact safe_mem (by assumption)
    | with_reducible exact safe_lmem (by assumption)
    | split

theorem safe_execPowerLoss (s : State) (h0 : Safe s) : outSafe (execPowerLoss s) := by
  unfold execPowerLoss
  repeat' first
    | with_reducible assumption
    | with_reducible apply outSafe_next
    | with_reducible apply safe_afterReset

theorem safe_execAtcmd (vf : Nat) (s : State) (h1 : Safe s) : outSafe (execAtcmd vf s) := by
  unfold execAtcmd
  repeat' first
    | with_reducible assumption
    | with_reducible apply outSafe_next
    | with_reducible apply safe_setVf
    | split
    | dsimp only

theorem safe_execAttestationReportComplete (vf : Nat) (s : State) (h1 : Safe s) : outSafe (execAttestationReportComplete vf s) := by
  unfold execAttestationReportComplete
  repeat' first
    | with_reducible assumption
    | with_reducible apply outSafe_next
    | with_reducible apply safe_setVf
    | with_reducible apply safe_updVf
    | with_reducible apply storePieces_wf
    | with_reducible apply safe_mk
    | with_reducible exact safe_mem (by assumption)
    | with_reducible exact safe_lmem (by assumption)
    | split
    | dsimp only

theorem safe_execLnkcmd (value : W32) (s : State) (h1 : Safe s) : outSafe (execLnkcmd value s) := by
  unfold execLnkcmd
  repeat' first
    | with_reducible assumption
    | with_reducible apply outSafe_next
    | with_reducible apply safe_mk
    | with_reducible exact safe_mem (by assumption)
    | with_reducible exact safe_lmem (by assumption)
    | (with_reducible apply safe_mem; with_reducible apply safe_trainPort)
    | (with_reducible apply safe_lmem; with_reducible apply safe_trainPort)
    | split

theorem safe_execLinkTrainingComplete (port : Nat) (s : State) (h1 : Safe s) : outSafe (execLinkTrainingComplete port s) := by
  unfold execLinkTrainingComplete
  repeat' first
    | with_reducible assumption
    | with_reducible apply outSafe_next
    | with_reducible apply safe_mk
    | with_reducible exact safe_mem (by assumption)
    | with_reducible exact safe_lmem (by assumption)
    | split

theorem safe_tripRings (s : State) (h0 : Safe s) : Safe (tripRings s) := by
  unfold tripRings
  repeat' first
    | with_reducible assumption
    | with_reducible apply safe_ringEvent
    | with_reducible apply safe_foldl
    | with_reducible intro _

theorem safe_execThermalTrip (s : State) (h0 : Safe s) : outSafe (execThermalTrip s) := by
  unfold execThermalTrip
  repeat' first
    | with_reducible assumption
    | with_reducible apply outSafe_next
    | with_reducible apply safe_hostEvent
    | with_reducible apply safe_resetPartition
    | with_reducible apply safe_foldl
    | with_reducible apply safe_mk
    | (with_reducible apply safe_mem; with_reducible apply safe_tripRings)
    | (with_reducible apply safe_lmem; with_reducible apply safe_tripRings)
    | with_reducible intro _

theorem safe_execEvhead (fn : FnId) (value : W32) (s : State) (h2 : Safe s) : outSafe (execEvhead fn value s) := by
  unfold execEvhead
  repeat' first
    | with_reducible assumption
    | with_reducible apply outSafe_next
    | with_reducible apply safe_State_setRing
    | split
    | dsimp only

theorem safe_setOutcome (n : Nat) (s : State) (h1 : Safe s) : Safe (setOutcome n s) := by
  unfold setOutcome
  repeat' first
    | with_reducible apply safe_mk
    | with_reducible exact safe_mem (by assumption)
    | with_reducible exact safe_lmem (by assumption)

theorem safe_execVfrset (die : Nat) (value : W32) (s : State) (h2 : Safe s) : outSafe (execVfrset die value s) := by
  unfold execVfrset
  repeat' first
    | with_reducible assumption
    | with_reducible apply outSafe_next
    | with_reducible apply safe_setOutcome
    | with_reducible apply safe_updVf
    | split
    | dsimp only

theorem safe_beginKey (key : Option (BitVec 1056)) (outcome : Nat) (s : State) (h2 : Safe s) : Safe (beginKey key outcome s) := by
  unfold beginKey
  repeat' first
    | with_reducible apply safe_mk
    | with_reducible exact safe_mem (by assumption)
    | with_reducible exact safe_lmem (by assumption)

theorem safe_execVfkeyInstall (s : State) (h0 : Safe s) : outSafe (execVfkeyInstall s) := by
  unfold execVfkeyInstall
  repeat' first
    | with_reducible assumption
    | with_reducible apply outSafe_next
    | with_reducible apply safe_beginKey
    | split
    | dsimp only

theorem safe_execVfkeyClear (s : State) (h0 : Safe s) : outSafe (execVfkeyClear s) := by
  unfold execVfkeyClear
  repeat' first
    | with_reducible assumption
    | with_reducible apply outSafe_next
    | with_reducible apply safe_beginKey
    | split

theorem safe_execVfKeyCommandComplete (s : State) (h0 : Safe s) : outSafe (execVfKeyCommandComplete s) := by
  unfold execVfKeyCommandComplete
  repeat' first
    | with_reducible assumption
    | with_reducible apply outSafe_next
    | with_reducible apply safe_mk
    | with_reducible exact safe_mem (by assumption)
    | with_reducible exact safe_lmem (by assumption)
    | (with_reducible apply safe_mem; with_reducible apply safe_updVf)
    | (with_reducible apply safe_lmem; with_reducible apply safe_updVf)
    | split
    | dsimp only

theorem safe_powerMapped (s : State) (h0 : Safe s) : Safe (powerMapped s) := by
  unfold powerMapped
  repeat' first
    | with_reducible apply safe_mk
    | with_reducible exact safe_mem (by assumption)
    | with_reducible exact safe_lmem (by assumption)
    | split
    | dsimp only

theorem safe_onCfg (f : VfCfg → VfCfg) (s : State) (h1 : Safe s) : Safe (onCfg f s) := by
  unfold onCfg
  repeat' first
    | with_reducible assumption
    | with_reducible apply safe_updVf

theorem safe_writePf (off : Nat) (v : W64) (s : State) (h2 : Safe s) : Safe (writePf off v s) := by
  unfold writePf
  repeat' first
    | with_reducible assumption
    | with_reducible apply safe_mk
    | with_reducible exact safe_mem (by assumption)
    | with_reducible exact safe_lmem (by assumption)
    | (with_reducible apply safe_mem; with_reducible apply safe_onCfg)
    | (with_reducible apply safe_lmem; with_reducible apply safe_onCfg)
    | (with_reducible apply safe_mem; with_reducible apply safe_powerMapped)
    | (with_reducible apply safe_lmem; with_reducible apply safe_powerMapped)
    | split
    | dsimp only

theorem safe_execRegisterWrite (sp : RegSpace) (off : BitVec 12) (x : RegWrite) (s : State) (h3 : Safe s) : outSafe (execRegisterWrite sp off x s) := by
  unfold execRegisterWrite
  repeat' first
    | with_reducible assumption
    | with_reducible apply outSafe_next
    | with_reducible apply safe_updVf
    | with_reducible apply safe_writePf
    | split

end Sys2Proof.Laws
end

