-- ==== Sys2Proof/Laws/State.lean ====
section
/-! SUPPORT. What each update of State leaves alone, field by field, and reading back what was put. -/

namespace Sys2Proof.Machine

@[simp] theorem State.setVf_agenda (s : State) (v : Vf) : (s.setVf v).agenda = s.agenda := rfl
@[simp] theorem State.setVf_actor (s : State) (v : Vf) : (s.setVf v).actor = s.actor := rfl
@[simp] theorem State.setVf_free (s : State) (v : Vf) : (s.setVf v).free = s.free := rfl
@[simp] theorem State.setVf_mem (s : State) (v : Vf) : (s.setVf v).mem = s.mem := rfl
@[simp] theorem State.setVf_lmem (s : State) (v : Vf) : (s.setVf v).lmem = s.lmem := rfl
@[simp] theorem State.setVf_seqs (s : State) (v : Vf) : (s.setVf v).seqs = s.seqs := rfl
@[simp] theorem State.setVf_stands (s : State) (v : Vf) : (s.setVf v).stands = s.stands := rfl
@[simp] theorem State.setVf_nextStand (s : State) (v : Vf) : (s.setVf v).nextStand = s.nextStand := rfl
@[simp] theorem State.setVf_dies (s : State) (v : Vf) : (s.setVf v).dies = s.dies := rfl
@[simp] theorem State.setVf_slices (s : State) (v : Vf) : (s.setVf v).slices = s.slices := rfl
@[simp] theorem State.setVf_fab (s : State) (v : Vf) : (s.setVf v).fab = s.fab := rfl
@[simp] theorem State.setVf_pf (s : State) (v : Vf) : (s.setVf v).pf = s.pf := rfl
@[simp] theorem State.setVf_svc (s : State) (v : Vf) : (s.setVf v).svc = s.svc := rfl
@[simp] theorem State.setVf_out (s : State) (v : Vf) : (s.setVf v).out = s.out := rfl

@[simp] theorem State.updVf_agenda (s : State) (n : Nat) (f : Vf → Vf) : (s.updVf n f).agenda = s.agenda := rfl
@[simp] theorem State.updVf_actor (s : State) (n : Nat) (f : Vf → Vf) : (s.updVf n f).actor = s.actor := rfl
@[simp] theorem State.updVf_free (s : State) (n : Nat) (f : Vf → Vf) : (s.updVf n f).free = s.free := rfl
@[simp] theorem State.updVf_mem (s : State) (n : Nat) (f : Vf → Vf) : (s.updVf n f).mem = s.mem := rfl
@[simp] theorem State.updVf_lmem (s : State) (n : Nat) (f : Vf → Vf) : (s.updVf n f).lmem = s.lmem := rfl
@[simp] theorem State.updVf_seqs (s : State) (n : Nat) (f : Vf → Vf) : (s.updVf n f).seqs = s.seqs := rfl
@[simp] theorem State.updVf_stands (s : State) (n : Nat) (f : Vf → Vf) : (s.updVf n f).stands = s.stands := rfl
@[simp] theorem State.updVf_nextStand (s : State) (n : Nat) (f : Vf → Vf) : (s.updVf n f).nextStand = s.nextStand := rfl
@[simp] theorem State.updVf_dies (s : State) (n : Nat) (f : Vf → Vf) : (s.updVf n f).dies = s.dies := rfl
@[simp] theorem State.updVf_slices (s : State) (n : Nat) (f : Vf → Vf) : (s.updVf n f).slices = s.slices := rfl
@[simp] theorem State.updVf_fab (s : State) (n : Nat) (f : Vf → Vf) : (s.updVf n f).fab = s.fab := rfl
@[simp] theorem State.updVf_pf (s : State) (n : Nat) (f : Vf → Vf) : (s.updVf n f).pf = s.pf := rfl
@[simp] theorem State.updVf_svc (s : State) (n : Nat) (f : Vf → Vf) : (s.updVf n f).svc = s.svc := rfl
@[simp] theorem State.updVf_out (s : State) (n : Nat) (f : Vf → Vf) : (s.updVf n f).out = s.out := rfl

@[simp] theorem State.setStand_agenda (s : State) (t : Stand) : (s.setStand t).agenda = s.agenda := rfl
@[simp] theorem State.setStand_actor (s : State) (t : Stand) : (s.setStand t).actor = s.actor := rfl
@[simp] theorem State.setStand_free (s : State) (t : Stand) : (s.setStand t).free = s.free := rfl
@[simp] theorem State.setStand_mem (s : State) (t : Stand) : (s.setStand t).mem = s.mem := rfl
@[simp] theorem State.setStand_lmem (s : State) (t : Stand) : (s.setStand t).lmem = s.lmem := rfl
@[simp] theorem State.setStand_seqs (s : State) (t : Stand) : (s.setStand t).seqs = s.seqs := rfl
@[simp] theorem State.setStand_nextStand (s : State) (t : Stand) : (s.setStand t).nextStand = s.nextStand := rfl
@[simp] theorem State.setStand_dies (s : State) (t : Stand) : (s.setStand t).dies = s.dies := rfl
@[simp] theorem State.setStand_vfs (s : State) (t : Stand) : (s.setStand t).vfs = s.vfs := rfl
@[simp] theorem State.setStand_slices (s : State) (t : Stand) : (s.setStand t).slices = s.slices := rfl
@[simp] theorem State.setStand_fab (s : State) (t : Stand) : (s.setStand t).fab = s.fab := rfl
@[simp] theorem State.setStand_pf (s : State) (t : Stand) : (s.setStand t).pf = s.pf := rfl
@[simp] theorem State.setStand_svc (s : State) (t : Stand) : (s.setStand t).svc = s.svc := rfl
@[simp] theorem State.setStand_out (s : State) (t : Stand) : (s.setStand t).out = s.out := rfl

@[simp] theorem State.setCtx_agenda (s : State) (c : SeqCtx) : (s.setCtx c).agenda = s.agenda := rfl
@[simp] theorem State.setCtx_actor (s : State) (c : SeqCtx) : (s.setCtx c).actor = s.actor := rfl
@[simp] theorem State.setCtx_free (s : State) (c : SeqCtx) : (s.setCtx c).free = s.free := rfl
@[simp] theorem State.setCtx_mem (s : State) (c : SeqCtx) : (s.setCtx c).mem = s.mem := rfl
@[simp] theorem State.setCtx_lmem (s : State) (c : SeqCtx) : (s.setCtx c).lmem = s.lmem := rfl
@[simp] theorem State.setCtx_stands (s : State) (c : SeqCtx) : (s.setCtx c).stands = s.stands := rfl
@[simp] theorem State.setCtx_nextStand (s : State) (c : SeqCtx) : (s.setCtx c).nextStand = s.nextStand := rfl
@[simp] theorem State.setCtx_dies (s : State) (c : SeqCtx) : (s.setCtx c).dies = s.dies := rfl
@[simp] theorem State.setCtx_vfs (s : State) (c : SeqCtx) : (s.setCtx c).vfs = s.vfs := rfl
@[simp] theorem State.setCtx_slices (s : State) (c : SeqCtx) : (s.setCtx c).slices = s.slices := rfl
@[simp] theorem State.setCtx_fab (s : State) (c : SeqCtx) : (s.setCtx c).fab = s.fab := rfl
@[simp] theorem State.setCtx_pf (s : State) (c : SeqCtx) : (s.setCtx c).pf = s.pf := rfl
@[simp] theorem State.setCtx_svc (s : State) (c : SeqCtx) : (s.setCtx c).svc = s.svc := rfl
@[simp] theorem State.setCtx_out (s : State) (c : SeqCtx) : (s.setCtx c).out = s.out := rfl

@[simp] theorem State.updCtx_agenda (s : State) (q : SeqId) (f : SeqCtx → SeqCtx) : (s.updCtx q f).agenda = s.agenda := rfl
@[simp] theorem State.updCtx_actor (s : State) (q : SeqId) (f : SeqCtx → SeqCtx) : (s.updCtx q f).actor = s.actor := rfl
@[simp] theorem State.updCtx_free (s : State) (q : SeqId) (f : SeqCtx → SeqCtx) : (s.updCtx q f).free = s.free := rfl
@[simp] theorem State.updCtx_mem (s : State) (q : SeqId) (f : SeqCtx → SeqCtx) : (s.updCtx q f).mem = s.mem := rfl
@[simp] theorem State.updCtx_lmem (s : State) (q : SeqId) (f : SeqCtx → SeqCtx) : (s.updCtx q f).lmem = s.lmem := rfl
@[simp] theorem State.updCtx_stands (s : State) (q : SeqId) (f : SeqCtx → SeqCtx) : (s.updCtx q f).stands = s.stands := rfl
@[simp] theorem State.updCtx_nextStand (s : State) (q : SeqId) (f : SeqCtx → SeqCtx) : (s.updCtx q f).nextStand = s.nextStand := rfl
@[simp] theorem State.updCtx_dies (s : State) (q : SeqId) (f : SeqCtx → SeqCtx) : (s.updCtx q f).dies = s.dies := rfl
@[simp] theorem State.updCtx_vfs (s : State) (q : SeqId) (f : SeqCtx → SeqCtx) : (s.updCtx q f).vfs = s.vfs := rfl
@[simp] theorem State.updCtx_slices (s : State) (q : SeqId) (f : SeqCtx → SeqCtx) : (s.updCtx q f).slices = s.slices := rfl
@[simp] theorem State.updCtx_fab (s : State) (q : SeqId) (f : SeqCtx → SeqCtx) : (s.updCtx q f).fab = s.fab := rfl
@[simp] theorem State.updCtx_pf (s : State) (q : SeqId) (f : SeqCtx → SeqCtx) : (s.updCtx q f).pf = s.pf := rfl
@[simp] theorem State.updCtx_svc (s : State) (q : SeqId) (f : SeqCtx → SeqCtx) : (s.updCtx q f).svc = s.svc := rfl
@[simp] theorem State.updCtx_out (s : State) (q : SeqId) (f : SeqCtx → SeqCtx) : (s.updCtx q f).out = s.out := rfl

@[simp] theorem State.updDie_agenda (s : State) (d : Nat) (f : Die → Die) : (s.updDie d f).agenda = s.agenda := rfl
@[simp] theorem State.updDie_actor (s : State) (d : Nat) (f : Die → Die) : (s.updDie d f).actor = s.actor := rfl
@[simp] theorem State.updDie_free (s : State) (d : Nat) (f : Die → Die) : (s.updDie d f).free = s.free := rfl
@[simp] theorem State.updDie_mem (s : State) (d : Nat) (f : Die → Die) : (s.updDie d f).mem = s.mem := rfl
@[simp] theorem State.updDie_lmem (s : State) (d : Nat) (f : Die → Die) : (s.updDie d f).lmem = s.lmem := rfl
@[simp] theorem State.updDie_seqs (s : State) (d : Nat) (f : Die → Die) : (s.updDie d f).seqs = s.seqs := rfl
@[simp] theorem State.updDie_stands (s : State) (d : Nat) (f : Die → Die) : (s.updDie d f).stands = s.stands := rfl
@[simp] theorem State.updDie_nextStand (s : State) (d : Nat) (f : Die → Die) : (s.updDie d f).nextStand = s.nextStand := rfl
@[simp] theorem State.updDie_vfs (s : State) (d : Nat) (f : Die → Die) : (s.updDie d f).vfs = s.vfs := rfl
@[simp] theorem State.updDie_slices (s : State) (d : Nat) (f : Die → Die) : (s.updDie d f).slices = s.slices := rfl
@[simp] theorem State.updDie_fab (s : State) (d : Nat) (f : Die → Die) : (s.updDie d f).fab = s.fab := rfl
@[simp] theorem State.updDie_pf (s : State) (d : Nat) (f : Die → Die) : (s.updDie d f).pf = s.pf := rfl
@[simp] theorem State.updDie_svc (s : State) (d : Nat) (f : Die → Die) : (s.updDie d f).svc = s.svc := rfl
@[simp] theorem State.updDie_out (s : State) (d : Nat) (f : Die → Die) : (s.updDie d f).out = s.out := rfl

@[simp] theorem State.setSlice_agenda (s : State) (x : Slice) : (s.setSlice x).agenda = s.agenda := rfl
@[simp] theorem State.setSlice_actor (s : State) (x : Slice) : (s.setSlice x).actor = s.actor := rfl
@[simp] theorem State.setSlice_free (s : State) (x : Slice) : (s.setSlice x).free = s.free := rfl
@[simp] theorem State.setSlice_mem (s : State) (x : Slice) : (s.setSlice x).mem = s.mem := rfl
@[simp] theorem State.setSlice_lmem (s : State) (x : Slice) : (s.setSlice x).lmem = s.lmem := rfl
@[simp] theorem State.setSlice_seqs (s : State) (x : Slice) : (s.setSlice x).seqs = s.seqs := rfl
@[simp] theorem State.setSlice_stands (s : State) (x : Slice) : (s.setSlice x).stands = s.stands := rfl
@[simp] theorem State.setSlice_nextStand (s : State) (x : Slice) : (s.setSlice x).nextStand = s.nextStand := rfl
@[simp] theorem State.setSlice_dies (s : State) (x : Slice) : (s.setSlice x).dies = s.dies := rfl
@[simp] theorem State.setSlice_vfs (s : State) (x : Slice) : (s.setSlice x).vfs = s.vfs := rfl
@[simp] theorem State.setSlice_fab (s : State) (x : Slice) : (s.setSlice x).fab = s.fab := rfl
@[simp] theorem State.setSlice_pf (s : State) (x : Slice) : (s.setSlice x).pf = s.pf := rfl
@[simp] theorem State.setSlice_svc (s : State) (x : Slice) : (s.setSlice x).svc = s.svc := rfl
@[simp] theorem State.setSlice_out (s : State) (x : Slice) : (s.setSlice x).out = s.out := rfl

@[simp] theorem State.updStand_agenda (s : State) (n : Nat) (f : Stand → Stand) : (s.updStand n f).agenda = s.agenda := by
  unfold State.updStand; split <;> rfl
@[simp] theorem State.updStand_actor (s : State) (n : Nat) (f : Stand → Stand) : (s.updStand n f).actor = s.actor := by
  unfold State.updStand; split <;> rfl
@[simp] theorem State.updStand_free (s : State) (n : Nat) (f : Stand → Stand) : (s.updStand n f).free = s.free := by
  unfold State.updStand; split <;> rfl
@[simp] theorem State.updStand_mem (s : State) (n : Nat) (f : Stand → Stand) : (s.updStand n f).mem = s.mem := by
  unfold State.updStand; split <;> rfl
@[simp] theorem State.updStand_lmem (s : State) (n : Nat) (f : Stand → Stand) : (s.updStand n f).lmem = s.lmem := by
  unfold State.updStand; split <;> rfl
@[simp] theorem State.updStand_seqs (s : State) (n : Nat) (f : Stand → Stand) : (s.updStand n f).seqs = s.seqs := by
  unfold State.updStand; split <;> rfl
@[simp] theorem State.updStand_nextStand (s : State) (n : Nat) (f : Stand → Stand) : (s.updStand n f).nextStand = s.nextStand := by
  unfold State.updStand; split <;> rfl
@[simp] theorem State.updStand_dies (s : State) (n : Nat) (f : Stand → Stand) : (s.updStand n f).dies = s.dies := by
  unfold State.updStand; split <;> rfl
@[simp] theorem State.updStand_vfs (s : State) (n : Nat) (f : Stand → Stand) : (s.updStand n f).vfs = s.vfs := by
  unfold State.updStand; split <;> rfl
@[simp] theorem State.updStand_slices (s : State) (n : Nat) (f : Stand → Stand) : (s.updStand n f).slices = s.slices := by
  unfold State.updStand; split <;> rfl
@[simp] theorem State.updStand_fab (s : State) (n : Nat) (f : Stand → Stand) : (s.updStand n f).fab = s.fab := by
  unfold State.updStand; split <;> rfl
@[simp] theorem State.updStand_pf (s : State) (n : Nat) (f : Stand → Stand) : (s.updStand n f).pf = s.pf := by
  unfold State.updStand; split <;> rfl
@[simp] theorem State.updStand_svc (s : State) (n : Nat) (f : Stand → Stand) : (s.updStand n f).svc = s.svc := by
  unfold State.updStand; split <;> rfl
@[simp] theorem State.updStand_out (s : State) (n : Nat) (f : Stand → Stand) : (s.updStand n f).out = s.out := by
  unfold State.updStand; split <;> rfl

@[simp] theorem State.emit_agenda (s : State) (o : Output) : (s.emit o).agenda = s.agenda := by
  unfold State.emit; split <;> rfl
@[simp] theorem State.emit_actor (s : State) (o : Output) : (s.emit o).actor = s.actor := by
  unfold State.emit; split <;> rfl
@[simp] theorem State.emit_free (s : State) (o : Output) : (s.emit o).free = s.free := by
  unfold State.emit; split <;> rfl
@[simp] theorem State.emit_mem (s : State) (o : Output) : (s.emit o).mem = s.mem := by
  unfold State.emit; split <;> rfl
@[simp] theorem State.emit_lmem (s : State) (o : Output) : (s.emit o).lmem = s.lmem := by
  unfold State.emit; split <;> rfl
@[simp] theorem State.emit_seqs (s : State) (o : Output) : (s.emit o).seqs = s.seqs := by
  unfold State.emit; split <;> rfl
@[simp] theorem State.emit_stands (s : State) (o : Output) : (s.emit o).stands = s.stands := by
  unfold State.emit; split <;> rfl
@[simp] theorem State.emit_nextStand (s : State) (o : Output) : (s.emit o).nextStand = s.nextStand := by
  unfold State.emit; split <;> rfl
@[simp] theorem State.emit_dies (s : State) (o : Output) : (s.emit o).dies = s.dies := by
  unfold State.emit; split <;> rfl
@[simp] theorem State.emit_vfs (s : State) (o : Output) : (s.emit o).vfs = s.vfs := by
  unfold State.emit; split <;> rfl
@[simp] theorem State.emit_slices (s : State) (o : Output) : (s.emit o).slices = s.slices := by
  unfold State.emit; split <;> rfl
@[simp] theorem State.emit_fab (s : State) (o : Output) : (s.emit o).fab = s.fab := by
  unfold State.emit; split <;> rfl
@[simp] theorem State.emit_pf (s : State) (o : Output) : (s.emit o).pf = s.pf := by
  unfold State.emit; split <;> rfl

@[simp] theorem State.updWeave_agenda (s : State) (k : WKey) (f : Weave → Weave) : (s.updWeave k f).agenda = s.agenda := by
  simp [State.updWeave]
@[simp] theorem State.updWeave_actor (s : State) (k : WKey) (f : Weave → Weave) : (s.updWeave k f).actor = s.actor := by
  simp [State.updWeave]
@[simp] theorem State.updWeave_free (s : State) (k : WKey) (f : Weave → Weave) : (s.updWeave k f).free = s.free := by
  simp [State.updWeave]
@[simp] theorem State.updWeave_mem (s : State) (k : WKey) (f : Weave → Weave) : (s.updWeave k f).mem = s.mem := by
  simp [State.updWeave]
@[simp] theorem State.updWeave_lmem (s : State) (k : WKey) (f : Weave → Weave) : (s.updWeave k f).lmem = s.lmem := by
  simp [State.updWeave]
@[simp] theorem State.updWeave_seqs (s : State) (k : WKey) (f : Weave → Weave) : (s.updWeave k f).seqs = s.seqs := by
  simp [State.updWeave]
@[simp] theorem State.updWeave_nextStand (s : State) (k : WKey) (f : Weave → Weave) : (s.updWeave k f).nextStand = s.nextStand := by
  simp [State.updWeave]
@[simp] theorem State.updWeave_dies (s : State) (k : WKey) (f : Weave → Weave) : (s.updWeave k f).dies = s.dies := by
  simp [State.updWeave]
@[simp] theorem State.updWeave_vfs (s : State) (k : WKey) (f : Weave → Weave) : (s.updWeave k f).vfs = s.vfs := by
  simp [State.updWeave]
@[simp] theorem State.updWeave_slices (s : State) (k : WKey) (f : Weave → Weave) : (s.updWeave k f).slices = s.slices := by
  simp [State.updWeave]
@[simp] theorem State.updWeave_fab (s : State) (k : WKey) (f : Weave → Weave) : (s.updWeave k f).fab = s.fab := by
  simp [State.updWeave]
@[simp] theorem State.updWeave_pf (s : State) (k : WKey) (f : Weave → Weave) : (s.updWeave k f).pf = s.pf := by
  simp [State.updWeave]
@[simp] theorem State.updWeave_svc (s : State) (k : WKey) (f : Weave → Weave) : (s.updWeave k f).svc = s.svc := by
  simp [State.updWeave]
@[simp] theorem State.updWeave_out (s : State) (k : WKey) (f : Weave → Weave) : (s.updWeave k f).out = s.out := by
  simp [State.updWeave]

@[simp] theorem State.updTask_agenda (s : State) (k : TKey) (f : Task → Task) : (s.updTask k f).agenda = s.agenda := by
  simp [State.updTask]
@[simp] theorem State.updTask_actor (s : State) (k : TKey) (f : Task → Task) : (s.updTask k f).actor = s.actor := by
  simp [State.updTask]
@[simp] theorem State.updTask_free (s : State) (k : TKey) (f : Task → Task) : (s.updTask k f).free = s.free := by
  simp [State.updTask]
@[simp] theorem State.updTask_mem (s : State) (k : TKey) (f : Task → Task) : (s.updTask k f).mem = s.mem := by
  simp [State.updTask]
@[simp] theorem State.updTask_lmem (s : State) (k : TKey) (f : Task → Task) : (s.updTask k f).lmem = s.lmem := by
  simp [State.updTask]
@[simp] theorem State.updTask_seqs (s : State) (k : TKey) (f : Task → Task) : (s.updTask k f).seqs = s.seqs := by
  simp [State.updTask]
@[simp] theorem State.updTask_nextStand (s : State) (k : TKey) (f : Task → Task) : (s.updTask k f).nextStand = s.nextStand := by
  simp [State.updTask]
@[simp] theorem State.updTask_dies (s : State) (k : TKey) (f : Task → Task) : (s.updTask k f).dies = s.dies := by
  simp [State.updTask]
@[simp] theorem State.updTask_vfs (s : State) (k : TKey) (f : Task → Task) : (s.updTask k f).vfs = s.vfs := by
  simp [State.updTask]
@[simp] theorem State.updTask_slices (s : State) (k : TKey) (f : Task → Task) : (s.updTask k f).slices = s.slices := by
  simp [State.updTask]
@[simp] theorem State.updTask_fab (s : State) (k : TKey) (f : Task → Task) : (s.updTask k f).fab = s.fab := by
  simp [State.updTask]
@[simp] theorem State.updTask_pf (s : State) (k : TKey) (f : Task → Task) : (s.updTask k f).pf = s.pf := by
  simp [State.updTask]
@[simp] theorem State.updTask_svc (s : State) (k : TKey) (f : Task → Task) : (s.updTask k f).svc = s.svc := by
  simp [State.updTask]
@[simp] theorem State.updTask_out (s : State) (k : TKey) (f : Task → Task) : (s.updTask k f).out = s.out := by
  simp [State.updTask]

/-! ## Reading back -/

theorem putSeq_find (c : SeqCtx) (l : List SeqCtx) : (putSeq c l).find? (fun x => x.id == c.id) = some c := by
  induction l with
  | nil => simp [putSeq]
  | cons x xs ih =>
    by_cases h : x.id = c.id
    · simp [putSeq, h]
    · simp [putSeq, h, ih]

theorem putSeq_find_ne (c : SeqCtx) (q : SeqId) (h : q ≠ c.id) (l : List SeqCtx) :
    (putSeq c l).find? (fun x => x.id == q) = l.find? (fun x => x.id == q) := by
  induction l with
  | nil => simp [putSeq, Ne.symm h]
  | cons x xs ih =>
    by_cases hx : x.id = c.id
    · simp [putSeq, hx, Ne.symm h]
    · simp [putSeq, hx, List.find?_cons, ih]

/-- A context reads back as it was put. -/
@[simp] theorem State.setCtx_ctx (s : State) (c : SeqCtx) : (s.setCtx c).ctx c.id = c := by
  simp [State.ctx, State.setCtx, putSeq_find]

/-- Putting a context leaves the others alone. -/
theorem State.setCtx_ctx_ne (s : State) (c : SeqCtx) (q : SeqId) (h : q ≠ c.id) : (s.setCtx c).ctx q = s.ctx q := by
  simp [State.ctx, State.setCtx, putSeq_find_ne _ _ h]

/-- A context that was looked up has the number asked for. -/
@[simp] theorem State.ctx_id (s : State) (q : SeqId) : (s.ctx q).id = q := by
  unfold State.ctx
  cases h : s.seqs.find? (fun c => c.id == q) with
  | none => simp [SeqCtx.unbound]
  | some c => simpa using List.find?_some h

/-- Changing a context changes it as asked. -/
theorem State.updCtx_ctx (s : State) (q : SeqId) (f : SeqCtx → SeqCtx) : (s.updCtx q f).ctx q = { f (s.ctx q) with id := q } :=
  State.setCtx_ctx s { f (s.ctx q) with id := q }

/-- Changing a context leaves the others alone. -/
theorem State.updCtx_ctx_ne (s : State) (q p : SeqId) (f : SeqCtx → SeqCtx) (h : p ≠ q) : (s.updCtx q f).ctx p = s.ctx p :=
  State.setCtx_ctx_ne s _ p h

theorem putStand_find (t : Stand) (l : List Stand) : (putStand t l).find? (fun x => x.id == t.id) = some t := by
  induction l with
  | nil => simp [putStand]
  | cons x xs ih =>
    by_cases h : x.id = t.id
    · simp [putStand, h]
    · simp [putStand, h, ih]

theorem putStand_find_ne (t : Stand) (n : Nat) (h : n ≠ t.id) (l : List Stand) :
    (putStand t l).find? (fun x => x.id == n) = l.find? (fun x => x.id == n) := by
  induction l with
  | nil => simp [putStand, Ne.symm h]
  | cons x xs ih =>
    by_cases hx : x.id = t.id
    · simp [putStand, hx, Ne.symm h]
    · simp [putStand, hx, List.find?_cons, ih]

/-- A stand reads back as it was put. -/
@[simp] theorem State.setStand_stand (s : State) (t : Stand) : (s.setStand t).stand? t.id = some t := by
  simp [State.stand?, State.setStand, putStand_find]

/-- Putting a stand leaves the others alone. -/
theorem State.setStand_stand_ne (s : State) (t : Stand) (n : Nat) (h : n ≠ t.id) : (s.setStand t).stand? n = s.stand? n := by
  simp [State.stand?, State.setStand, putStand_find_ne _ _ h]

/-- A stand that was found has the number asked for. -/
theorem State.stand_id (s : State) (n : Nat) (t : Stand) (h : s.stand? n = some t) : t.id = n := by
  simpa using List.find?_some h

theorem putWeave_find (w : Weave) (l : List Weave) : (putWeave w l).find? (fun x => x.pos == w.pos) = some w := by
  induction l with
  | nil => simp [putWeave]
  | cons x xs ih =>
    by_cases h : x.pos = w.pos
    · simp [putWeave, h]
    · simp [putWeave, h, ih]

theorem putWeave_find_ne (w : Weave) (p : WPos) (h : p ≠ w.pos) (l : List Weave) :
    (putWeave w l).find? (fun x => x.pos == p) = l.find? (fun x => x.pos == p) := by
  induction l with
  | nil => simp [putWeave, Ne.symm h]
  | cons x xs ih =>
    by_cases hx : x.pos = w.pos
    · simp [putWeave, hx, Ne.symm h]
    · simp [putWeave, hx, List.find?_cons, ih]

/-- A weave reads back as it was put. -/
@[simp] theorem Stand.setWeave_weave (t : Stand) (w : Weave) : (t.setWeave w).weave w.pos = w := by
  simp [Stand.weave, Stand.setWeave, putWeave_find]

/-- Putting a weave leaves the others of its stand alone. -/
theorem Stand.setWeave_weave_ne (t : Stand) (w : Weave) (p : WPos) (h : p ≠ w.pos) : (t.setWeave w).weave p = t.weave p := by
  simp [Stand.weave, Stand.setWeave, putWeave_find_ne _ _ h]

theorem putTask_find (k : Task) (l : List Task) : (putTask k l).find? (fun x => x.nid == k.nid) = some k := by
  induction l with
  | nil => simp [putTask]
  | cons x xs ih =>
    by_cases h : x.nid = k.nid
    · simp [putTask, h]
    · simp [putTask, h, ih]

/-- A task reads back as it was put. -/
@[simp] theorem Weave.setTask_task (w : Weave) (k : Task) : (w.setTask k).task? k.nid = some k := by
  simp [Weave.task?, Weave.setTask, putTask_find]

theorem putVf_find (v : Vf) (l : List Vf) : (putVf v l).find? (fun x => x.id == v.id) = some v := by
  induction l with
  | nil => simp [putVf]
  | cons x xs ih =>
    by_cases h : x.id = v.id
    · simp [putVf, h]
    · simp [putVf, h, ih]

theorem putVf_find_ne (v : Vf) (n : Nat) (h : n ≠ v.id) (l : List Vf) :
    (putVf v l).find? (fun x => x.id == n) = l.find? (fun x => x.id == n) := by
  induction l with
  | nil => simp [putVf, Ne.symm h]
  | cons x xs ih =>
    by_cases hx : x.id = v.id
    · simp [putVf, hx, Ne.symm h]
    · simp [putVf, hx, List.find?_cons, ih]

/-- A VF reads back as it was put. -/
@[simp] theorem State.setVf_vf (s : State) (v : Vf) : (s.setVf v).vf v.id = v := by
  simp [State.vf, State.setVf, putVf_find]

/-- Changing a VF changes it as asked. -/
@[simp] theorem State.updVf_vf (s : State) (n : Nat) (f : Vf → Vf) : (s.updVf n f).vf n = { f (s.vf n) with id := n } :=
  State.setVf_vf s { f (s.vf n) with id := n }

/-- Putting a VF leaves the others alone. -/
theorem State.setVf_vf_ne (s : State) (v : Vf) (m : Nat) (h : m ≠ v.id) : (s.setVf v).vf m = s.vf m := by
  simp [State.vf, State.setVf, putVf_find_ne _ _ h]

/-- Changing a VF leaves the others alone. -/
theorem State.updVf_vf_ne (s : State) (n m : Nat) (f : Vf → Vf) (h : m ≠ n) : (s.updVf n f).vf m = s.vf m :=
  State.setVf_vf_ne s { f (s.vf n) with id := n } m h

end Sys2Proof.Machine
end

