-- ==== Sys2Proof/Tests/Slice0.lean ====
section
/-! SUPPORT. Small tests: words written out from the encodings of spec/07_encodings.md decode to their instructions, an
ill-formed term for each check of R151, R162 and R165 is refused, and the hypotheses of the statements are met by small
states. -/

namespace Sys2Proof.Tests

open Sys2Proof Sys2Proof.Machine Sys2Proof.Claims

/-! ## States for the witnesses -/

/-- SeqMay as a test. -/
def seqMayB (s : State) (q : SeqId) (i : Instr) (p : Bool) (rs : List Code6) : Bool :=
  s.actor == .seq q && (s.ctx q).run == .running && i.wf && (p || (s.ctx q).limm == none) && rs.all fun r => !((s.ctx q).reg r).poison

/-- The test decides SeqMay. -/
theorem seqMay_iff (s : State) (q : SeqId) (i : Instr) (p : Bool) (rs : List Code6) :
    SeqMay s q i p rs ↔ seqMayB s q i p rs = true := by
  constructor
  · rintro ⟨⟨h1, h2⟩, h3, h4, h5⟩
    simp only [seqMayB, h1, h2, h3, Bool.and_eq_true, beq_self_eq_true, true_and, Bool.or_eq_true, beq_iff_eq, List.all_eq_true,
      Bool.not_eq_true']
    exact ⟨h4.symm, h5⟩
  · intro h
    simp only [seqMayB, Bool.and_eq_true, Bool.or_eq_true, beq_iff_eq, List.all_eq_true, Bool.not_eq_true'] at h
    exact ⟨⟨h.1.1.1.1, h.1.1.1.2⟩, h.1.1.2, h.1.2.symm, h.2⟩

/-- Context 0 of sequencer 0 of island 0. -/
def q0 : SeqId := ⟨0, 0, 0⟩

/-- A running root program of VF 0 whose turn it is, with four words of text. -/
def rootSt (f : SeqCtx → SeqCtx) : State :=
  State.setCtx { State.reset with actor := .seq q0 }
    (f { SeqCtx.unbound q0 with bind := .root 0, run := .running, text := [0, 0, 0, 0] })

/-- A context with a register's value. -/
def reg (r : Code6) (v : W64) (c : SeqCtx) : SeqCtx := c.setReg r ⟨v, false⟩

/-- VF 0 with its first 64 KiB mapped one to one. -/
def mapped (s : State) : State :=
  s.updVf 0 fun v => { v with mem := { v.mem with tlbs := [⟨islandUnit 0, 0, 65536, 0, true, true, false⟩], part := ⟨16, [], []⟩ } }

/-- VF 0 with a PCMD under way. -/
def busyPcmd (s : State) : State := s.updVf 0 fun v => { v with mem := { v.mem with pcmdBusy := true } }

/-- Command 1 of a queue, not begun, with word and entries. -/
def cmdOf (w : W128) (src dst : Option (BitVec 256)) : Cmd := ⟨1, w, src, dst, false, 0, none, [], false, false, false, false, 0, [], 0, false, []⟩

/-- A stand with one node, whose task has fired, and one command; its context runs and has the turn. -/
def standSt (f : Stand → Stand) (g : SeqCtx → SeqCtx) : State :=
  let s := oneStand { State.reset with actor := .seq q0 } [0] [cmdOf 0 none none] true
  (s.updStand 0 f).updCtx q0 fun c => g { c with run := .running, text := [0, 0, 0, 0] }

/-- The instruction answers a next state. -/
def goes (i : Instr) (s : State) : Bool :=
  match exec i s with
  | .next _ => true
  | _ => false

theorem test_words_alu :
    [(0x01545201 : W32), 0x01545209, 0x01545211, 0x01545219, 0x01545221, 0x01545229, 0x01545231, 0x01545239, 0x01545241, 0x01545249, 0x01545251, 0x01545259, 0x01545261, 0x01545269, 0x01545271, 0x01545279, 0x01545281, 0x01545289, 0x01545291, 0x01544099, 0x015440A1, 0x015452A9].map (fun w => (decodeSeq w).toOption) =
    [some (Instr.srAluAdd ⟨0x15, 0x11, 0x12, 1⟩),
     some (.srAluSub ⟨0x15, 0x11, 0x12, 1⟩),
     some (.srAluMul ⟨0x15, 0x11, 0x12, 1⟩),
     some (.srAluMulh ⟨0x15, 0x11, 0x12, 1⟩),
     some (.srAluDiv ⟨0x15, 0x11, 0x12, 1⟩),
     some (.srAluDivn ⟨0x15, 0x11, 0x12, 1⟩),
     some (.srAluRem ⟨0x15, 0x11, 0x12, 1⟩),
     some (.srAluRemn ⟨0x15, 0x11, 0x12, 1⟩),
     some (.srAluAnd ⟨0x15, 0x11, 0x12, 1⟩),
     some (.srAluOr ⟨0x15, 0x11, 0x12, 1⟩),
     some (.srAluXor ⟨0x15, 0x11, 0x12, 1⟩),
     some (.srAluAndn ⟨0x15, 0x11, 0x12, 1⟩),
     some (.srAluShl ⟨0x15, 0x11, 0x12, 1⟩),
     some (.srAluShr ⟨0x15, 0x11, 0x12, 1⟩),
     some (.srAluSra ⟨0x15, 0x11, 0x12, 1⟩),
     some (.srAluMin ⟨0x15, 0x11, 0x12, 1⟩),
     some (.srAluMax ⟨0x15, 0x11, 0x12, 1⟩),
     some (.srAluMinn ⟨0x15, 0x11, 0x12, 1⟩),
     some (.srAluMaxn ⟨0x15, 0x11, 0x12, 1⟩),
     some (.srAluClz ⟨0x15, 0x11, 0x00, 1⟩),
     some (.srAluPopc ⟨0x15, 0x11, 0x00, 1⟩),
     some (.srAluSel ⟨0x15, 0x11, 0x12, 1⟩)] := by decide

theorem test_words_cmp :
    [(0x04545201 : W32), 0x04545209, 0x04545211, 0x04545219, 0x04545221, 0x04545229, 0x04518731, 0x04518739, 0x04518041].map (fun w => (decodeSeq w).toOption) =
    [some (Instr.sqCmpEq ⟨0x05, 0x11, 0x12, 1⟩),
     some (.sqCmpNe ⟨0x05, 0x11, 0x12, 1⟩),
     some (.sqCmpLt ⟨0x05, 0x11, 0x12, 1⟩),
     some (.sqCmpLe ⟨0x05, 0x11, 0x12, 1⟩),
     some (.sqCmpLtn ⟨0x05, 0x11, 0x12, 1⟩),
     some (.sqCmpLen ⟨0x05, 0x11, 0x12, 1⟩),
     some (.sqCmpQand ⟨0x05, 0x06, 0x07, 1⟩),
     some (.sqCmpQor ⟨0x05, 0x06, 0x07, 1⟩),
     some (.sqCmpQnot ⟨0x05, 0x06, 0x00, 1⟩)] := by decide

theorem test_words_immediate :
    [(0x09546345 : W32), 0x0D546345, 0x11546345, 0x15546345, 0x1954402B, 0x1D54402B, 0x2154402B, 0x26546345, 0x29502345].map (fun w => (decodeSeq w).toOption) =
    [some (Instr.siAddi ⟨0x15, 0x11, 0x2345⟩),
     some (.siAndi ⟨0x15, 0x11, 0x2345⟩),
     some (.siOri ⟨0x15, 0x11, 0x2345⟩),
     some (.siXori ⟨0x15, 0x11, 0x2345⟩),
     some (.siShli ⟨0x15, 0x11, 0x2B⟩),
     some (.siShri ⟨0x15, 0x11, 0x2B⟩),
     some (.siSrai ⟨0x15, 0x11, 0x2B⟩),
     some (.siCmpi ⟨0x25, 0x11, 0x2345⟩),
     some (.siMovi ⟨0x15, 0x00, 0x2345⟩)] := by decide

theorem test_words_load_store :
    [(0x41546345 : W32), 0x45546345, 0x49546345, 0x4D546345, 0x51546345, 0x55546345, 0x59546345, 0x5D546345].map (fun w => (decodeSeq w).toOption) =
    [some (Instr.siLdb ⟨0x15, 0x11, 0x2345⟩),
     some (.siLdh ⟨0x15, 0x11, 0x2345⟩),
     some (.siLdw ⟨0x15, 0x11, 0x2345⟩),
     some (.siLdd ⟨0x15, 0x11, 0x2345⟩),
     some (.siStb ⟨0x15, 0x11, 0x2345⟩),
     some (.siSth ⟨0x15, 0x11, 0x2345⟩),
     some (.siStw ⟨0x15, 0x11, 0x2345⟩),
     some (.siStd ⟨0x15, 0x11, 0x2345⟩)] := by decide

theorem test_words_atomic :
    [(0x61545201 : W32), 0x61545209, 0x61545211, 0x61545219, 0x61545221, 0x61545229, 0x61545231].map (fun w => (decodeSeq w).toOption) =
    [some (Instr.saAmoAdd ⟨0x15, 0x11, 0x12, 1⟩),
     some (.saAmoMin ⟨0x15, 0x11, 0x12, 1⟩),
     some (.saAmoMax ⟨0x15, 0x11, 0x12, 1⟩),
     some (.saAmoAnd ⟨0x15, 0x11, 0x12, 1⟩),
     some (.saAmoOr ⟨0x15, 0x11, 0x12, 1⟩),
     some (.saAmoXchg ⟨0x15, 0x11, 0x12, 1⟩),
     some (.saAmoCas ⟨0x15, 0x11, 0x12, 1⟩)] := by decide

theorem test_words_flow :
    [(0x8240FFFD : W32), 0x8611FFFD, 0x8AA00403, 0x8EA00403, 0x90000000, 0x94044001, 0x94044009, 0x9811FFFD, 0x9C000000].map (fun w => (decodeSeq w).toOption) =
    [some (Instr.sbBr ⟨1, 1, 0x00, 0xFFFD⟩),
     some (.sbBz ⟨1, 0, 0x11, 0xFFFD⟩),
     some (.sjJmp 0x2A00403),
     some (.sjCall 0x2A00403),
     some (.sxRet ⟨0x00, 0x0⟩),
     some (.srJrJump ⟨0x00, 0x11, 0x00, 1⟩),
     some (.srJrCall ⟨0x00, 0x11, 0x00, 1⟩),
     some (.sbLoop ⟨0, 0, 0x11, 0xFFFD⟩),
     some (.sxLbrk ⟨0x00, 0x0⟩)] := by decide

theorem test_words_sync :
    [(0xC1545201 : W32), 0xC1545209, 0xC1544011, 0xC4000600, 0xC9501300, 0xCC044031, 0xD1544001, 0xD4044001, 0xD9544001, 0xD9544009, 0xE1545201, 0xE5544001, 0xE9500000, 0xED545201].map (fun w => (decodeSeq w).toOption) =
    [some (Instr.srWaitQueue ⟨0x15, 0x11, 0x12, 1⟩),
     some (.srWaitTimeline ⟨0x15, 0x11, 0x12, 1⟩),
     some (.srWaitTag ⟨0x15, 0x11, 0x00, 1⟩),
     some (.sxFence ⟨0x00, 0x6⟩),
     some (.sxBar ⟨0x15, 0x13⟩),
     some (.srTagp ⟨0x00, 0x11, 0x00, 1⟩ 6),
     some (.srTagq ⟨0x15, 0x11, 0x00, 1⟩),
     some (.srTagg ⟨0x00, 0x11, 0x00, 1⟩),
     some (.srTlrdR ⟨0x15, 0x11, 0x00, 1⟩),
     some (.srTlrdV ⟨0x15, 0x11, 0x00, 1⟩),
     some (.ssScmd ⟨0x15, 0x11, 0x12, 1⟩),
     some (.ssLnch ⟨0x15, 0x11, 0x00, 1⟩),
     some (.sxGrn ⟨0x15, 0x0⟩),
     some (.srRng ⟨0x15, 0x11, 0x12, 1⟩)] := by decide

theorem test_words_system :
    [(0xF1500B00 : W32), 0xF1500B01, 0xF0002102, 0xF0000003, 0xF0000004, 0xF0000005, 0xF4000000, 0xF4000001, 0xF4000002, 0xF9500000, 0xF8000001, 0xFEA00403].map (fun w => (decodeSeq w).toOption) =
    [some (Instr.sxSysCsrrd ⟨0x15, 0xB⟩),
     some (.sxSysCsrwr ⟨0x15, 0xB⟩),
     some (.sxSysTrap ⟨0x00, 0x21⟩),
     some (.sxSysEret ⟨0x00, 0x0⟩),
     some (.sxSysHalt ⟨0x00, 0x0⟩),
     some (.sxSysYield ⟨0x00, 0x0⟩),
     some (.sxWinSave ⟨0x00, 0x0⟩),
     some (.sxWinRestore ⟨0x00, 0x0⟩),
     some (.sxWinFlush ⟨0x00, 0x0⟩),
     some (.sxCtxCond ⟨0x15, 0x0⟩),
     some (.sxCtxSwitch ⟨0x00, 0x0⟩),
     some (.slLimm 0x2A00403)] := by decide

theorem test_words_cv :
    [(0x00414624000C9000 : W64), 0x01414624000C9000, 0x02414624000C9000, 0x03414624000C9000, 0x05414624000C9000, 0x06414624000C9000, 0x07414624000C9000, 0x08414624000C9000, 0x10414624000C9000, 0x11414624000C9000, 0x12414624000C9000, 0x13414624000C9000, 0x04214624B00C9000, 0x09314600000C9000, 0x0A314600000C9000, 0x14314600000C9000, 0x15314600000C9000, 0x1E314600000C9000, 0x0B014624000C9000, 0x0C014624000C9000, 0x0D014624000C9000, 0x0E014624000C9000, 0x0F014624000C9070, 0x16530624000C90D0, 0x17130624000C9090, 0x18014600000C9000, 0x19014003FFBFFC00, 0x1A114624B00C9000, 0x1BD14624B00C9030, 0x1C414604000C9020, 0x1DC14600000C9000, 0x1F00BB00000C9010].map (fun w => (decodeCell w).toOption) =
    [some (Instr.cvAdd ⟨4, 5, 6, 9, 0, 0, 3, 2, 1, 0, 0, 0⟩),
     some (.cvSub ⟨4, 5, 6, 9, 0, 0, 3, 2, 1, 0, 0, 0⟩),
     some (.cvMul ⟨4, 5, 6, 9, 0, 0, 3, 2, 1, 0, 0, 0⟩),
     some (.cvMulh ⟨4, 5, 6, 9, 0, 0, 3, 2, 1, 0, 0, 0⟩),
     some (.cvAdds ⟨4, 5, 6, 9, 0, 0, 3, 2, 1, 0, 0, 0⟩),
     some (.cvSubs ⟨4, 5, 6, 9, 0, 0, 3, 2, 1, 0, 0, 0⟩),
     some (.cvMin ⟨4, 5, 6, 9, 0, 0, 3, 2, 1, 0, 0, 0⟩),
     some (.cvMax ⟨4, 5, 6, 9, 0, 0, 3, 2, 1, 0, 0, 0⟩),
     some (.cvShl ⟨4, 5, 6, 9, 0, 0, 3, 2, 1, 0, 0, 0⟩),
     some (.cvShr ⟨4, 5, 6, 9, 0, 0, 3, 2, 1, 0, 0, 0⟩),
     some (.cvSra ⟨4, 5, 6, 9, 0, 0, 3, 2, 1, 0, 0, 0⟩),
     some (.cvRot ⟨4, 5, 6, 9, 0, 0, 3, 2, 1, 0, 0, 0⟩),
     some (.cvMad ⟨2, 5, 6, 9, 11, 0, 3, 2, 1, 0, 0, 0⟩),
     some (.cvAbs ⟨3, 5, 6, 0, 0, 0, 3, 2, 1, 0, 0, 0⟩),
     some (.cvNeg ⟨3, 5, 6, 0, 0, 0, 3, 2, 1, 0, 0, 0⟩),
     some (.cvClz ⟨3, 5, 6, 0, 0, 0, 3, 2, 1, 0, 0, 0⟩),
     some (.cvPopc ⟨3, 5, 6, 0, 0, 0, 3, 2, 1, 0, 0, 0⟩),
     some (.cvBitr ⟨3, 5, 6, 0, 0, 0, 3, 2, 1, 0, 0, 0⟩),
     some (.cvAnd ⟨0, 5, 6, 9, 0, 0, 3, 2, 1, 0, 0, 0⟩),
     some (.cvOr ⟨0, 5, 6, 9, 0, 0, 3, 2, 1, 0, 0, 0⟩),
     some (.cvXor ⟨0, 5, 6, 9, 0, 0, 3, 2, 1, 0, 0, 0⟩),
     some (.cvAndn ⟨0, 5, 6, 9, 0, 0, 3, 2, 1, 0, 0, 0⟩),
     some (.cvSel ⟨0, 5, 6, 9, 0, 0, 3, 2, 1, 0, 7, 0⟩),
     some (.cvCmp ⟨5, 12, 6, 9, 0, 0, 3, 2, 1, 0, 13, 0⟩),
     some (.cvTest ⟨1, 12, 6, 9, 0, 0, 3, 2, 1, 0, 9, 0⟩),
     some (.cvMov ⟨0, 5, 6, 0, 0, 0, 3, 2, 1, 0, 0, 0⟩),
     some (.cvMovk ⟨0, 5, 0, 0, 63, 62, 15, 15, 3, 3, 0, 0⟩),
     some (.cvDot4 ⟨1, 5, 6, 9, 11, 0, 3, 2, 1, 0, 0, 0⟩),
     some (.cvTdot ⟨13, 5, 6, 9, 11, 0, 3, 2, 1, 0, 3, 0⟩),
     some (.cvCvti ⟨4, 5, 6, 1, 0, 0, 3, 2, 1, 0, 2, 0⟩),
     some (.cvNzc ⟨12, 5, 6, 0, 0, 0, 3, 2, 1, 0, 0, 0⟩),
     some (.cvPset ⟨0, 2, 59, 0, 0, 0, 3, 2, 1, 0, 1, 0⟩)] := by decide

theorem test_words_cf :
    [(0x20A14624000C9000 : W64), 0x21A14624000C9000, 0x22A14624000C9000, 0x24A14624000C9000, 0x25A14624000C9000, 0x23814624B00C9000, 0x26930624000C90E0, 0x27914600000C9000, 0x28914600000C9000, 0x2A914600000C9000, 0x2C914600000C9000, 0x2D914600000C9000, 0x2E914600000C9000, 0x2F914600000C9000, 0x30914600000C9000, 0x31914600000C9000, 0x32914600000C9000, 0x33914600000C9000, 0x29814600028C9000, 0x2BB14600000C9000].map (fun w => (decodeCell w).toOption) =
    [some (Instr.cfFadd ⟨10, 5, 6, 9, 0, 0, 3, 2, 1, 0, 0, 0⟩),
     some (.cfFsub ⟨10, 5, 6, 9, 0, 0, 3, 2, 1, 0, 0, 0⟩),
     some (.cfFmul ⟨10, 5, 6, 9, 0, 0, 3, 2, 1, 0, 0, 0⟩),
     some (.cfFmin ⟨10, 5, 6, 9, 0, 0, 3, 2, 1, 0, 0, 0⟩),
     some (.cfFmax ⟨10, 5, 6, 9, 0, 0, 3, 2, 1, 0, 0, 0⟩),
     some (.cfFfma ⟨8, 5, 6, 9, 11, 0, 3, 2, 1, 0, 0, 0⟩),
     some (.cfFcmp ⟨9, 12, 6, 9, 0, 0, 3, 2, 1, 0, 14, 0⟩),
     some (.cfFabs ⟨9, 5, 6, 0, 0, 0, 3, 2, 1, 0, 0, 0⟩),
     some (.cfFneg ⟨9, 5, 6, 0, 0, 0, 3, 2, 1, 0, 0, 0⟩),
     some (.cfFrnd ⟨9, 5, 6, 0, 0, 0, 3, 2, 1, 0, 0, 0⟩),
     some (.cfFrcp ⟨9, 5, 6, 0, 0, 0, 3, 2, 1, 0, 0, 0⟩),
     some (.cfFrsq ⟨9, 5, 6, 0, 0, 0, 3, 2, 1, 0, 0, 0⟩),
     some (.cfFexp2 ⟨9, 5, 6, 0, 0, 0, 3, 2, 1, 0, 0, 0⟩),
     some (.cfFlog2 ⟨9, 5, 6, 0, 0, 0, 3, 2, 1, 0, 0, 0⟩),
     some (.cfFsig ⟨9, 5, 6, 0, 0, 0, 3, 2, 1, 0, 0, 0⟩),
     some (.cfFtanh ⟨9, 5, 6, 0, 0, 0, 3, 2, 1, 0, 0, 0⟩),
     some (.cfFsinp ⟨9, 5, 6, 0, 0, 0, 3, 2, 1, 0, 0, 0⟩),
     some (.cfFcosp ⟨9, 5, 6, 0, 0, 0, 3, 2, 1, 0, 0, 0⟩),
     some (.cfFcvt ⟨8, 5, 6, 0, 0, 10, 3, 2, 1, 0, 0, 0⟩),
     some (.cfFcls ⟨11, 5, 6, 0, 0, 0, 3, 2, 1, 0, 0, 0⟩)] := by decide

theorem test_words_cl :
    [(0x34414600000C9030 : W64), 0x35A14624000C9120, 0x36014624000C9020, 0x37014624000C9000, 0x3801460001CC9000, 0x39514624B30C9030].map (fun w => (decodeCell w).toOption) =
    [some (Instr.clLred ⟨4, 5, 6, 0, 0, 0, 3, 2, 1, 0, 3, 0⟩),
     some (.clLscn ⟨10, 5, 6, 9, 0, 0, 3, 2, 1, 0, 18, 0⟩),
     some (.clLshf ⟨0, 5, 6, 9, 0, 0, 3, 2, 1, 0, 2, 0⟩),
     some (.clLbrd ⟨0, 5, 6, 9, 0, 0, 3, 2, 1, 0, 0, 0⟩),
     some (.clLcmp ⟨0, 5, 6, 0, 0, 7, 3, 2, 1, 0, 0, 0⟩),
     some (.clRngx ⟨5, 5, 6, 9, 11, 12, 3, 2, 1, 0, 3, 0⟩)] := by decide

theorem test_words_cx :
    [(0x4000800000000010 : W64), 0x41804624B0000800, 0x42B0C624B0000030, 0x43D08624B0000010, 0x44A14324020C9020, 0x4591C224B2000040, 0x4600060000000000, 0x47A08624B0000090, 0x48A14624000C9010, 0x49A0C624B00C9010].map (fun w => (decodeCell w).toOption) =
    [some (Instr.cxMzero ⟨0, 2, 0, 0, 0, 0, 0, 0, 0, 0, 1, 0⟩),
     some (.cxMldb ⟨8, 1, 6, 9, 11, 0, 0, 0, 0, 2, 0, 0⟩),
     some (.cxMma ⟨11, 3, 6, 9, 11, 0, 0, 0, 0, 0, 3, 0⟩),
     some (.cxMmat ⟨13, 2, 6, 9, 11, 0, 0, 0, 0, 0, 1, 0⟩),
     some (.cxMrd ⟨10, 5, 3, 9, 0, 8, 3, 2, 1, 0, 2, 0⟩),
     some (.cxMdrn ⟨9, 7, 2, 9, 11, 8, 0, 0, 0, 0, 4, 0⟩),
     some (.cxMchn ⟨0, 0, 6, 0, 0, 0, 0, 0, 0, 0, 0, 0⟩),
     some (.cxMbfy ⟨10, 2, 6, 9, 11, 0, 0, 0, 0, 0, 9, 0⟩),
     some (.cxTwg ⟨10, 5, 6, 9, 0, 0, 3, 2, 1, 0, 1, 0⟩),
     some (.cxMscl ⟨10, 3, 6, 9, 11, 0, 3, 2, 1, 0, 1, 0⟩)] := by decide

theorem test_words_cd :
    [(0x5000860000000410 : W64), 0x5100C60000000020, 0x52E1462400CC8140, 0x53014000000C9060, 0x54E14600B00C8200].map (fun w => (decodeCell w).toOption) =
    [some (Instr.cdDxld ⟨0, 2, 6, 0, 0, 0, 0, 0, 0, 1, 1, 0⟩),
     some (.cdDxcf ⟨0, 3, 6, 0, 0, 0, 0, 0, 0, 0, 2, 0⟩),
     some (.cdDxrn ⟨14, 5, 6, 9, 0, 3, 3, 2, 0, 0, 20, 0⟩),
     some (.cdDxfn ⟨0, 5, 0, 0, 0, 0, 3, 2, 1, 0, 6, 0⟩),
     some (.cdDxch ⟨14, 5, 6, 0, 11, 0, 3, 2, 0, 0, 32, 0⟩)] := by decide

theorem test_words_cm :
    [(0x6041420C100C1434 : W64), 0x6121780C100C1534, 0x62F1420C100C1404, 0x63F1420C100C1404, 0x644002FC100C1434, 0x65A14208100C1434, 0x66014200100C1434, 0x67014200100C1434, 0x6800020C100C1734, 0x6981420C100C1434, 0x6AC1420C100C1434, 0x6B00420C100C1404, 0x6C514218100C1434].map (fun w => (decodeCell w).toOption) =
    [some (Instr.cmLd ⟨4, 5, 2, 3, 4, 3, 5, 0, 3, 4⟩),
     some (.cmSt ⟨2, 5, 56, 3, 4, 3, 5, 1, 3, 4⟩),
     some (.cmLdt ⟨15, 5, 2, 3, 4, 3, 5, 0, 0, 4⟩),
     some (.cmStt ⟨15, 5, 2, 3, 4, 3, 5, 0, 0, 4⟩),
     some (.cmLdx ⟨4, 0, 2, 63, 4, 3, 5, 0, 3, 4⟩),
     some (.cmUpd ⟨10, 5, 2, 2, 4, 3, 5, 0, 3, 4⟩),
     some (.cmLock ⟨0, 5, 2, 0, 4, 3, 5, 0, 3, 4⟩),
     some (.cmUnlk ⟨0, 5, 2, 0, 4, 3, 5, 0, 3, 4⟩),
     some (.cmPft ⟨0, 0, 2, 3, 4, 3, 5, 3, 3, 4⟩),
     some (.cmLdbr ⟨8, 5, 2, 3, 4, 3, 5, 0, 3, 4⟩),
     some (.cmStbr ⟨12, 5, 2, 3, 4, 3, 5, 0, 3, 4⟩),
     some (.cmFill ⟨0, 1, 2, 3, 4, 3, 5, 0, 0, 4⟩),
     some (.cmAtom ⟨5, 5, 2, 6, 4, 3, 5, 0, 3, 4⟩)] := by decide

theorem test_words_cp :
    [(0x70017124020C9010 : W64), 0x710D4600000C9040, 0x72017224000C9000, 0x733170CCB3008000, 0x7400060000000050, 0x75014000000000E0, 0x760D060000000000, 0x770DC00000000000, 0x780D860000000000].map (fun w => (decodeCell w).toOption) =
    [some (Instr.cpRecv ⟨0, 5, 49, 9, 0, 8, 3, 2, 1, 0, 1, 0⟩),
     some (.cpSend ⟨0, 53, 6, 0, 0, 0, 3, 2, 1, 0, 4, 0⟩),
     some (.cpPeek ⟨0, 5, 50, 9, 0, 0, 3, 2, 1, 0, 0, 0⟩),
     some (.cpJoin ⟨3, 5, 48, 51, 11, 12, 0, 2, 0, 0, 0, 0⟩),
     some (.cpFilt ⟨0, 0, 6, 0, 0, 0, 0, 0, 0, 0, 5, 0⟩),
     some (.cpMrge ⟨0, 5, 0, 0, 0, 0, 0, 0, 0, 0, 14, 0⟩),
     some (.cpSkip ⟨0, 52, 6, 0, 0, 0, 0, 0, 0, 0, 0, 0⟩),
     some (.cpEos ⟨0, 55, 0, 0, 0, 0, 0, 0, 0, 0, 0, 0⟩),
     some (.cpCtxc ⟨0, 54, 6, 0, 0, 0, 0, 0, 0, 0, 0, 0⟩)] := by decide

theorem test_words_cc :
    [(0x8000060010800000 : W64), 0x8100000000000000, 0x82000003FF4C9020, 0x8300000010C00000, 0x8401400000000000, 0x8500060000000040, 0x86000624B0000000, 0x8700000000000160, 0x8801460000800030, 0x8900000000000000, 0x8A000000000002A0, 0x8B014000000C9090, 0x8C00060000000080, 0x8D00000000000000].map (fun w => (decodeCell w).toOption) =
    [some (Instr.ccLoop ⟨0, 0, 6, 0, 1, 2, 0, 0, 0, 0, 0, 0⟩),
     some (.ccLbrk ⟨0, 0, 0, 0, 0, 0, 0, 0, 0, 0, 0, 0⟩),
     some (.ccBra ⟨0, 0, 0, 0, 63, 61, 3, 2, 1, 0, 2, 0⟩),
     some (.ccJmp ⟨0, 0, 0, 0, 1, 3, 0, 0, 0, 0, 0, 0⟩),
     some (.ccGrain ⟨0, 5, 0, 0, 0, 0, 0, 0, 0, 0, 0, 0⟩),
     some (.ccTagp ⟨0, 0, 6, 0, 0, 0, 0, 0, 0, 0, 4, 0⟩),
     some (.ccTlw ⟨0, 0, 6, 9, 11, 0, 0, 0, 0, 0, 0, 0⟩),
     some (.ccFenc ⟨0, 0, 0, 0, 0, 0, 0, 0, 0, 0, 22, 0⟩),
     some (.ccBarr ⟨0, 5, 6, 0, 0, 2, 0, 0, 0, 0, 3, 0⟩),
     some (.ccYld ⟨0, 0, 0, 0, 0, 0, 0, 0, 0, 0, 0, 0⟩),
     some (.ccTrap ⟨0, 0, 0, 0, 0, 0, 0, 0, 0, 0, 42, 0⟩),
     some (.ccRdsr ⟨0, 5, 0, 0, 0, 0, 3, 2, 1, 0, 9, 0⟩),
     some (.ccWrsr ⟨0, 0, 6, 0, 0, 0, 0, 0, 0, 0, 8, 0⟩),
     some (.ccEndt ⟨0, 0, 0, 0, 0, 0, 0, 0, 0, 0, 0, 0⟩)] := by decide

theorem test_words_skid :
    [(0x01020102020313000001000200030004 : W128), 0x0202010202030B000001000200030004, 0x0302010202030D000001000200030004, 0x04020102000000070000000000000000, 0x05020000020302000000000000000000, 0x06020102000000070010000000000000, 0x07020000020303000002000000000000, 0x080201020203AE000001000200030004, 0x09020102020319000001000200030004, 0x0A020102000000000001000200030004, 0x0B020102000000000001000200030004, 0x0C020102000000000001000200030004, 0x0D02010202032C000001000200030004, 0x0E020102000000070001000200030004, 0x0F02000002030B000001000200030004, 0x10020000000000000000000000000000, 0x11020000000000000000000000000000].map (fun w => decodeSkid w) =
    [some (Instr.skCpygl ⟨2, 258, 515, 0, 1, 0, 3, 0, 1, 2, 3, 4⟩),
     some (.skCpylg ⟨2, 258, 515, 0, 0, 1, 3, 0, 1, 2, 3, 4⟩),
     some (.skCpygg ⟨2, 258, 515, 0, 0, 1, 5, 0, 1, 2, 3, 4⟩),
     some (.skGath ⟨2, 258, 0, 0, 0, 0, 0, 7, 0, 0, 0, 0⟩),
     some (.skScat ⟨2, 0, 515, 0, 0, 0, 2, 0, 0, 0, 0, 0⟩),
     some (.skDisp ⟨2, 258, 0, 0, 0, 0, 0, 7, 16, 0, 0, 0⟩),
     some (.skCmbn ⟨2, 0, 515, 0, 0, 0, 3, 0, 2, 0, 0, 0⟩),
     some (.skRedc ⟨2, 258, 515, 5, 0, 1, 6, 0, 1, 2, 3, 4⟩),
     some (.skFill ⟨2, 258, 515, 0, 1, 1, 1, 0, 1, 2, 3, 4⟩),
     some (.skPfmc ⟨2, 258, 0, 0, 0, 0, 0, 0, 1, 2, 3, 4⟩),
     some (.skLkmc ⟨2, 258, 0, 0, 0, 0, 0, 0, 1, 2, 3, 4⟩),
     some (.skUlmc ⟨2, 258, 0, 0, 0, 0, 0, 0, 1, 2, 3, 4⟩),
     some (.skColl ⟨2, 258, 515, 1, 0, 1, 4, 0, 1, 2, 3, 4⟩),
     some (.skStrm ⟨2, 258, 0, 0, 0, 0, 0, 7, 1, 2, 3, 4⟩),
     some (.skSink ⟨2, 0, 515, 0, 0, 1, 3, 0, 1, 2, 3, 4⟩),
     some (.skBlaz ⟨2, 0, 0, 0, 0, 0, 0, 0, 0, 0, 0, 0⟩),
     some (.skNopc ⟨2, 0, 0, 0, 0, 0, 0, 0, 0, 0, 0, 0⟩)] := by decide
/-! ## Ill-formed terms, one for each check -/

/-- All of a list of instructions are refused by WellFormed. -/
def noneWf (l : List Instr) : Bool := l.all fun i => !i.wf

/-- All of a list of instructions fail a check of R162 with this cause. -/
def allFail (c : DecodeCause) (l : List Instr) : Bool := l.all fun i => cellCheck i == some c

/-- A two-source vector word with every guard in use. -/
def cg2 : CG := ⟨4, 5, 6, 9, 0, 0, 3, 2, 1, 0, 0, 0⟩

/-- An unguarded word of type 0 with all fields zero. -/
def cg0 : CG := ⟨0, 0, 0, 0, 0, 0, 0, 0, 0, 0, 0, 0⟩

/-- A guarded load's fields. -/
def cm2 : CM := ⟨4, 5, 2, 3, 4, 3, 5, 0, 3, 4⟩

/-- A skid command with all fields zero. -/
def sk0 : Skid := ⟨0, 0, 0, 0, 0, 0, 0, 0, 0, 0, 0, 0⟩

/-- The terms the ill-formed ones depart from are themselves well formed. -/
theorem test_wf_accepts :
    ([.cvAdd cg2, .ccEndt cg0, .cmLd cm2, .skNopc sk0, .skFill { sk0 with scope := 1 }] : List Instr).all Instr.wf = true := by decide

/-- R148, R150, R151: a source a form does not use, or a predicate number of 8 or more. -/
theorem test_wf_refuses_sr : noneWf
    [.srAluClz ⟨5, 6, 7, 1⟩, .srAluPopc ⟨5, 6, 7, 1⟩, .sqCmpEq ⟨8, 6, 7, 1⟩, .sqCmpQand ⟨1, 8, 2, 1⟩, .sqCmpQor ⟨1, 2, 8, 1⟩,
     .sqCmpQnot ⟨1, 2, 3, 1⟩, .srJrJump ⟨1, 6, 0, 1⟩, .srJrCall ⟨0, 6, 1, 1⟩, .srWaitTag ⟨5, 6, 7, 1⟩, .srTagp ⟨0, 6, 0, 1⟩ 2,
     .srTagp ⟨0, 6, 0, 1⟩ 7, .srTagp ⟨1, 6, 0, 1⟩ 3, .srTagp ⟨0, 6, 1, 1⟩ 3, .srTagq ⟨5, 6, 1, 1⟩, .srTagg ⟨1, 6, 0, 1⟩,
     .srTagg ⟨0, 6, 1, 1⟩, .srTlrdR ⟨5, 6, 1, 1⟩, .srTlrdV ⟨5, 6, 1, 1⟩, .ssLnch ⟨5, 6, 1, 1⟩] = true := by decide

/-- R150, R151: an immediate shift of 64 or more, a comparison that does not exist, a used source of a move of an
immediate, and the unused fields of the branches. -/
theorem test_wf_refuses_immediate_and_branch : noneWf
    [.siShli ⟨5, 6, 64⟩, .siShri ⟨5, 6, 64⟩, .siSrai ⟨5, 6, 64⟩, .siCmpi ⟨48, 6, 1⟩, .siMovi ⟨5, 6, 1⟩, .sbBr ⟨1, 1, 6, 0⟩,
     .sbBz ⟨1, 1, 6, 0⟩, .sbLoop ⟨1, 0, 6, 0⟩, .sbLoop ⟨0, 1, 6, 0⟩] = true := by decide

/-- R150, R151, R152, R163: unused destination or selector, a scope or barrier number out of range, a register that does
not exist, a trap number of 256 or more. -/
theorem test_wf_refuses_sx : noneWf
    [.sxRet ⟨1, 0⟩, .sxRet ⟨0, 1⟩, .sxLbrk ⟨1, 0⟩, .sxLbrk ⟨0, 1⟩, .sxFence ⟨0, 0⟩, .sxFence ⟨1, 3⟩, .sxFence ⟨0, 11⟩, .sxBar ⟨5, 2⟩,
     .sxBar ⟨5, 515⟩, .sxBar ⟨5, 132⟩, .sxBar ⟨5, 69⟩, .sxGrn ⟨5, 1⟩, .sxSysCsrrd ⟨5, 0xF⟩, .sxSysCsrwr ⟨5, 0xF⟩, .sxSysTrap ⟨1, 3⟩,
     .sxSysTrap ⟨0, 256⟩, .sxSysEret ⟨1, 0⟩, .sxSysHalt ⟨0, 1⟩, .sxSysYield ⟨1, 0⟩, .sxWinSave ⟨1, 0⟩, .sxWinRestore ⟨0, 1⟩,
     .sxWinFlush ⟨1, 0⟩, .sxCtxCond ⟨5, 1⟩, .sxCtxSwitch ⟨1, 0⟩] = true := by decide

/-- R162, checks 1 to 4 on CG words: the type, the aux value, a lane operand code that is a port of the wrong direction,
a register, range, port, predicate or number out of its range, and the entries' own conditions. -/
theorem test_wf_refuses_cg_illegal : allFail .illegal
    [.cvAdd { cg2 with ty := 8 }, .cfFadd cg2, .cvAnd cg2, .cvAdd { cg2 with aux := 1 }, .cvAdd { cg2 with a := 52 },
     .cvAdd { cg2 with b := 55 }, .cvAdd { cg2 with d := 48 }, .cvAdd { cg2 with d := 56 }, .cvCmp { cg2 with d := 16 },
     .cvCmp { cg2 with d := 1, aux := 6 }, .cxMzero { cg0 with d := 4 }, .cxTwg ⟨10, 47, 6, 9, 0, 0, 3, 2, 1, 0, 1, 0⟩,
     .cpSend ⟨0, 48, 6, 0, 0, 0, 3, 2, 1, 0, 0, 0⟩, .cpRecv ⟨0, 5, 52, 9, 0, 0, 3, 2, 1, 0, 0, 0⟩,
     .cdDxrn ⟨14, 5, 6, 9, 0, 48, 3, 2, 0, 0, 16, 0⟩, .cdDxrn ⟨14, 5, 6, 9, 0, 5, 3, 2, 0, 0, 16, 0⟩,
     .cdDxch ⟨14, 5, 6, 0, 0, 5, 3, 2, 0, 0, 16, 0⟩, .clLcmp ⟨0, 5, 6, 0, 0, 5, 3, 2, 1, 0, 0, 0⟩,
     .cxMbfy ⟨10, 1, 6, 9, 11, 0, 0, 0, 0, 0, 9, 0⟩, .cfFcvt ⟨4, 5, 6, 0, 0, 2, 3, 2, 1, 0, 0, 0⟩,
     .cfFcvt ⟨10, 5, 6, 0, 0, 8, 3, 2, 1, 0, 2, 0⟩, .ccTagp { cg0 with aux := 2 }, .ccRdsr ⟨0, 5, 0, 0, 0, 0, 3, 2, 1, 0, 10, 0⟩,
     .ccBarr ⟨0, 5, 6, 0, 0, 4, 0, 0, 0, 0, 2, 0⟩] = true := by decide

/-- R162, check 5 on CG words: every field an entry does not use. -/
theorem test_wf_refuses_cg_reserved : allFail .reservedField
    [.ccEndt { cg0 with d := 1 }, .ccEndt { cg0 with a := 1 }, .ccEndt { cg0 with b := 1 }, .ccEndt { cg0 with c := 1 },
     .ccEndt { cg0 with e := 1 }, .ccEndt { cg0 with gp := 1 }, .ccEndt { cg0 with gq := 1 }, .ccEndt { cg0 with gm := 1 },
     .ccEndt { cg0 with ch := 1 }, .cvAdd { cg2 with c := 1 }, .cvAdd { cg2 with e := 1 }, .cvAdd { cg2 with ch := 1 }] = true := by decide

/-- R162 on CM words: the type, the operand roles (an address pair is even) and the operation number; then the unused fields. -/
theorem test_wf_refuses_cm :
    allFail .illegal
      [.cmLd { cm2 with ty := 15 }, .cmLdt cm2, .cmLd { cm2 with d := 48 }, .cmLd { cm2 with a := 3 }, .cmLd { cm2 with b := 52 },
       .cmUpd { cm2 with b := 5 }, .cmAtom { cm2 with b := 7 }, .cmAtom { cm2 with d := 47 }, .cmFill ⟨0, 2, 2, 3, 4, 3, 5, 0, 0, 4⟩] = true ∧
    allFail .reservedField
      [.cmLdx cm2, .cmLock ⟨0, 5, 2, 1, 4, 3, 5, 0, 3, 4⟩, .cmLdt ⟨15, 5, 2, 3, 4, 3, 5, 0, 1, 4⟩,
       .cmLdt ⟨15, 5, 2, 3, 4, 3, 5, 1, 0, 4⟩, .cmLock ⟨0, 5, 2, 0, 4, 3, 5, 1, 3, 4⟩] = true := by decide

/-- R165, R305, R307, R308: every field a command does not use, an operation of 6 or more, a scope out of range, a tile
count of 0 or more than 16, a reduction without an operation, a collective of another scope. -/
theorem test_wf_refuses_skid : noneWf
    [.skNopc { sk0 with stid := 1 }, .skNopc { sk0 with dtid := 1 }, .skNopc { sk0 with l2op := 1 }, .skNopc { sk0 with fe := 1 },
     .skNopc { sk0 with pub := 1 }, .skNopc { sk0 with scope := 1 }, .skNopc { sk0 with route := 1 }, .skNopc { sk0 with t0 := 1 },
     .skNopc { sk0 with t1 := 1 }, .skNopc { sk0 with t2 := 1 }, .skNopc { sk0 with t3 := 1 }, .skRedc { sk0 with scope := 1, l2op := 6 },
     .skFill sk0, .skFill { sk0 with scope := 7 }, .skDisp sk0, .skDisp { sk0 with t0 := 17 }, .skCmbn { sk0 with scope := 1 },
     .skCmbn { sk0 with scope := 1, t0 := 17 }, .skRedc { sk0 with scope := 1 }, .skColl { sk0 with scope := 3, l2op := 1 }] = true := by decide

/-! ## Witnesses: sequencer -/

theorem wit_SeqAluResult :
    (aluTable.all fun p => seqMayB (rootSt id) q0 (p.1 ⟨0x15, 0x11, 0x12, 0⟩) false []) = true ∧ ((rootSt id).ctx q0).pred 0 = true ∧
    seqMayB (rootSt id) q0 (.srAluClz ⟨0x15, 0x11, 0, 0⟩) false [] = true ∧ seqMayB (rootSt id) q0 (.srAluPopc ⟨0x15, 0x11, 0, 0⟩) false [] = true ∧
    seqMayB (rootSt id) q0 (.srAluSel ⟨0x15, 0x11, 0x12, 1⟩) false [] = true ∧
    (aluTable.all fun p => seqMayB (rootSt id) q0 (p.1 ⟨0x15, 0x11, 0x12, 1⟩) false []) = true ∧ ((rootSt id).ctx q0).pred 1 = false := by decide

theorem wit_SeqCmpResult :
    (cmpTable.all fun p => seqMayB (rootSt id) q0 (p.1 ⟨5, 0x11, 0x12, 0⟩) false [0x11, 0x12]) = true ∧
    (predTable.all fun p => seqMayB (rootSt id) q0 (p.1 ⟨5, 6, 0, 0⟩) false []) = true ∧ ((rootSt id).ctx q0).pred 0 = true := by decide

theorem wit_SeqImmediateResult :
    let s := rootSt fun c => { c with limm := some (1, 0) }
    (immTable.all fun p => seqMayB s q0 (p.1 ⟨0x15, 0x11, 0x3FFF⟩) true []) = true ∧
    (shiftTable.all fun p => seqMayB (rootSt id) q0 (p.1 ⟨0x15, 0x11, 63⟩) false []) = true ∧
    seqMayB s q0 (.siCmpi ⟨0x2D, 0x11, 5⟩) true [0x11] = true ∧ seqMayB s q0 (.siMovi ⟨0x11, 0, 3⟩) true [] = true := by decide

theorem wit_SeqPrefixAndAdvance :
    let s := rootSt fun c => { c with limm := some (1, 0), tvec := 8 }
    let l : LoopEnt := ⟨0, 0, 2, 2⟩
    (s.actor = .seq q0 ∧ (s.ctx q0).run = .running ∧ (s.ctx q0).limm = some (1, 0) ∧ (s.ctx q0).h = false ∧ (s.ctx q0).tvec ≠ 0) ∧
    ((rootSt id).ctx q0).limm = none ∧ ((rootSt id).ctx q0).loops = [] ∧
    ((rootSt fun c => { c with loops := [l] }).ctx q0).loops = [l] ∧ l.last = ((rootSt fun c => { c with loops := [l] }).ctx q0).pc ∧
    ((rootSt fun c => { c with loops := [⟨0, 0, 1, 2⟩, l] }).ctx q0).loops = [⟨0, 0, 1, 2⟩, l] ∧
    ((rootSt fun c => { c with loops := [⟨0, 0, 1, 2⟩, ⟨0, 8, 1, 2⟩] }).ctx q0).pc ≠ 8 := by decide

theorem wit_SeqAddressRules :
    (2 : Nat) ^ 57 ≤ (0x0200000000000000 : W64).toNat ∧ (1 : W64).toNat % 8 ≠ 0 ∧
    (0x01FFFFFFFFFFFFF8 : W64).toNat = 0x01FFFFFFFFFC0000 + 0x3FFF8 ∧ 0xF818 ≤ 0x3FFF8 % 0x10000 ∧
    (0x01FFFFFFFFFCF810 : W64).toNat = 0x01FFFFFFFFFC0000 + 0xF810 := by decide

theorem wit_SeqLoadResult :
    let s := mapped (rootSt (reg 0x11 64))
    (loadTable.all fun p => seqMayB s q0 (p.1 ⟨0x15, 0x11, 8⟩) true [0x11]) = true ∧
    (seqPlace s (s.ctx q0) (siAddr s q0 ⟨0x15, 0x11, 8⟩) 8 .read).toOption = some (.mem 72) ∧
    seqHeld s (s.ctx q0) (.mem 72) = false ∧ seqHeld (busyPcmd s) ((busyPcmd s).ctx q0) (.mem 72) = true ∧
    (seqPlace s (s.ctx q0) (siAddr s q0 ⟨0x15, 0x11, 7⟩) 8 .read).toOption = none := by decide

theorem wit_SeqReadView :
    ((standSt id id).ctx q0).bind = .stand 0 ∧ ((standSt id id).stand? 0).isSome = true ∧ ((rootSt id).ctx q0).bind = .root 0 := by decide

theorem wit_SeqStoreResult :
    let s := mapped (rootSt (reg 0x11 64))
    let t := mapped (standSt id (reg 0x11 64))
    let l := rootSt (reg 0x11 0x01FFFFFFFFFC0000)
    let w := rootSt (reg 0x11 0x01FFFFFFFFFCF800)
    (storeTable.all fun p => seqMayB s q0 (p.1 ⟨0x15, 0x11, 8⟩) true [0x11] && seqMayB t q0 (p.1 ⟨0x15, 0x11, 8⟩) true [0x11]
      && seqMayB l q0 (p.1 ⟨0x15, 0x11, 8⟩) true [0x11]) = true ∧
    (seqPlace l (l.ctx q0) (siAddr l q0 ⟨0x15, 0x11, 8⟩) 8 .write).toOption = some (.local 8) ∧
    (seqPlace s (s.ctx q0) (siAddr s q0 ⟨0x15, 0x11, 8⟩) 8 .write).toOption = some (.mem 72) ∧
    (seqPlace t (t.ctx q0) (siAddr t q0 ⟨0x15, 0x11, 8⟩) 8 .write).toOption = some (.mem 72) ∧
    ((t.stand? 0).any fun x => (seqUsed t q0 72).hasRoom x (heldDie t x 72) (.write 72 (bytesLE 8 0) false)) = true ∧
    s.memHeld 0 = false ∧ t.memHeld 0 = false ∧
    (seqPlace w (w.ctx q0) (siAddr w q0 ⟨0x15, 0x11, 8⟩) 8 .write).toOption = some (.queue 0 8) ∧
    (storeTable.all fun p => seqMayB w q0 (p.1 ⟨0x15, 0x11, 8⟩) true [0x11]) = true ∧
    (seqPlace s (s.ctx q0) (siAddr s q0 ⟨0x15, 0x11, 7⟩) 8 .write).toOption = none := by decide

theorem segLines_ops (n : Nat) (l : List SegEnt) : segLines (List.replicate n ⟨0, .op 0 4 [], .ctx, false⟩ ++ l) = segLines l := by
  induction n with
  | zero => rfl
  | succ n ih => rw [List.replicate_succ, List.cons_append]; simpa [segLines, SegOp.lineKey] using ih

theorem segEntries_ops (n pa : Nat) :
    segEntries (List.replicate n ⟨0, .op 0 4 [], .ctx, false⟩ ++ [⟨0, .write pa [1] false, .ctx, false⟩]) = n + 1 := by
  unfold segEntries
  rw [segLines_ops]
  simp [segLines, SegOp.lineKey, insertNat, Nat.add_comm]

/-- A segment of 16,384 operations has no room. -/
theorem wit_SeqStoreResult_full (s : State) (t : Stand) (pa n : Nat) (hn : n = 16384) :
    s.hasRoom { t with weaves := [], seg := List.replicate n ⟨0, .op 0 4 [], .ctx, false⟩ } 0 (.write pa [1] false) = false := by
  let l : List SegEnt := List.replicate n ⟨0, .op 0 4 [], .ctx, false⟩ ++ [⟨0, .write pa [1] false, .ctx, false⟩]
  have hl : (l.filter fun e => e.die == 0) = l := by
    rw [List.filter_eq_self]
    intro e he
    rcases List.mem_append.mp he with h | h
    · rw [List.eq_of_mem_replicate h]; rfl
    · rw [List.mem_singleton.mp h]; rfl
  have h : decide (segEntries (l.filter fun e => e.die == 0) ≤ segCapacity) = false := by
    rw [hl, segEntries_ops, hn]; decide
  show (decide (segEntries (l.filter fun e => e.die == 0) ≤ segCapacity) && _) = false
  rw [h]; rfl

theorem wit_SeqStoreFrame :
    let s := mapped (rootSt (reg 0x11 64))
    let l := rootSt (reg 0x11 0x01FFFFFFFFFC0000)
    s.mem.wf = true ∧ s.lmem.wf = true ∧ s.memHeld 0 = false ∧ goes (.siStd ⟨0x15, 0x11, 8⟩) s = true ∧ goes (.siStb ⟨0x15, 0x11, 8⟩) l = true := by decide

theorem wit_SeqAtomicResult :
    let f : SR := ⟨0x13, 0x11, 0x12, 0⟩
    let s := mapped (rootSt (reg 0x11 64))
    let t := mapped (standSt id (reg 0x11 64))
    let l := rootSt (reg 0x11 0x01FFFFFFFFFC0000)
    let h := (mapped (rootSt (reg 0x11 64))).updVf 0 fun v => { v with mem := { v.mem with
      tlbs := [⟨islandUnit 0, 0, 65536, 2 ^ 51, true, true, false⟩] } }
    let g := (mapped (standSt id (reg 0x11 64))).updVf 0 fun v => { v with mem := { v.mem with
      tlbs := [⟨islandUnit 0, 0, 65536, 2 ^ 51, true, true, false⟩] } }
    let u := { t with mem := t.mem.setPoison 17 true }
    let w := rootSt (reg 0x11 0x01FFFFFFFFFCF808)
    (amoTable.all fun p => (([s, t, l, h, g, u, w] : List State).all fun x => seqMayB x q0 (p.1 f) false (amoReads (p.1 f) f))) = true ∧
    (seqPlace l (l.ctx q0) (regV l q0 0x11) 8 .both).toOption = some (.local 0) ∧ poisonAt l.lmem (localAddr q0 0) 8 = none ∧
    poisonAt (l.lmem.setPoison (localAddr q0 0 / 4) true) (localAddr q0 0) 8 = some 0 ∧
    (seqPlace s (s.ctx q0) (regV s q0 0x11) 8 .both).toOption = some (.mem 64) ∧ poisonAt s.mem 64 8 = none ∧
    poisonAt (s.mem.setPoison 17 true) 64 8 = some 4 ∧ isHost 64 = false ∧
    (seqPlace h (h.ctx q0) (regV h q0 0x11) 8 .both).toOption = some (.mem (2 ^ 51 + 64)) ∧ isHost (2 ^ 51 + 64) = true ∧
    (seqPlace t (t.ctx q0) (regV t q0 0x11) 8 .both).toOption = some (.mem 64) ∧
    poisonAt (commitWord 0 68 (commitWord 0 64 (seqUsed t q0 64))).mem 64 8 = none ∧
    (seqPlace u (u.ctx q0) (regV u q0 0x11) 8 .both).toOption = some (.mem 64) ∧
    poisonAt (commitWord 0 68 (commitWord 0 64 (seqUsed u q0 64))).mem 64 8 = some 4 ∧
    (g.ctx q0).bind = .stand 0 ∧ (seqPlace g (g.ctx q0) (regV g q0 0x11) 8 .both).toOption = some (.mem (2 ^ 51 + 64)) ∧
    (([s, t, h, g, u] : List State).all fun x => !x.memHeld 0) = true ∧
    (seqPlace w (w.ctx q0) (regV w q0 0x11) 8 .both).toOption = some (.queue 0 8) ∧
    (seqPlace (rootSt id) ((rootSt id).ctx q0) 64 8 .both).toOption = none := by decide

theorem wit_SeqBranches :
    let s := rootSt (reg 0x11 8)
    let z := rootSt (reg 0x12 2)
    seqMayB s q0 (.sbBr ⟨1, 0, 0, 3⟩) false [] = true ∧ (s.ctx q0).pred 0 = ((1 : BitVec 1) == 1) ∧
    (12 : Int) = ((s.ctx q0).pc : Int) + 4 * (3 : BitVec 16).toInt ∧ 12 < 4 * (s.ctx q0).text.length ∧
    seqMayB s q0 (.sbBr ⟨0, 0, 0, 3⟩) false [] = true ∧ (s.ctx q0).pred 0 ≠ ((0 : BitVec 1) == 1) ∧
    seqMayB s q0 (.sbBz ⟨0, 0, 0x11, 3⟩) false [0x11] = true ∧ (regV s q0 0x11 == 0) = ((0 : BitVec 1) == 1) ∧
    seqMayB s q0 (.sbBz ⟨1, 0, 0x11, 0xFFFF⟩) false [0x11] = true ∧ (regV s q0 0x11 == 0) ≠ ((1 : BitVec 1) == 1) ∧
    seqMayB s q0 (.sjJmp 3) false [] = true ∧ seqMayB s q0 (.sjJmp 4) false [] = true ∧ seqMayB s q0 (.sjCall 0x3FFFFFF) false [] = true ∧
    ((s.ctx q0).pc : Int) + 4 * (0x3FFFFFF : BitVec 26).toInt < 0 ∧
    4 * ((s.ctx q0).text.length : Int) ≤ ((s.ctx q0).pc : Int) + 4 * (4 : BitVec 16).toInt ∧
    seqMayB s q0 (.srJrJump ⟨0, 0x11, 0, 0⟩) false [0x11] = true ∧ (regV s q0 0x11).toNat = 8 ∧
    seqMayB z q0 (.srJrJump ⟨0, 0x12, 0, 0⟩) false [0x12] = true ∧ (regV z q0 0x12).toNat % 4 ≠ 0 ∧
    4 * (s.ctx q0).text.length ≤ (regV (rootSt (reg 0x11 16)) q0 0x11).toNat := by decide

theorem wit_SeqCallReturn :
    let s := rootSt (reg 0x11 8)
    let d := rootSt fun c => { c with depth := 7, resident := 7, wlim := 1024 }
    let n := rootSt fun c => { c with depth := 7, resident := 7, wlim := 263 }
    let r := rootSt fun c => { c with depth := 2, resident := 1 }
    let p := rootSt fun c => SeqCtx.setReg { c with depth := 2, resident := 2 } 31 ⟨0, true⟩
    let m := rootSt fun c => SeqCtx.setReg { c with depth := 2, resident := 2 } 31 ⟨6, false⟩
    let t := standSt id id
    seqMayB s q0 (.sjCall 3) false [] = true ∧ seqMayB s q0 (.srJrCall ⟨0, 0x11, 0, 0⟩) false [0x11] = true ∧ (s.ctx q0).resident ≠ 7 ∧
    seqMayB d q0 (.sjCall 3) false [] = true ∧ (d.ctx q0).resident = 7 ∧ (spill q0 d).isSome = true ∧
    seqMayB n q0 (.sjCall 3) false [] = true ∧ (n.ctx q0).wlim.toNat < (n.ctx q0).wsp.toNat + 264 ∧
    seqMayB d q0 (.sxRet ⟨0, 0⟩) false [] = true ∧ (d.ctx q0).depth ≠ 0 ∧ regP d q0 31 = false ∧ (regV d q0 31).toNat % 4 = 0 ∧
    1 < (d.ctx q0).resident ∧ seqMayB r q0 (.sxRet ⟨0, 0⟩) false [] = true ∧ (r.ctx q0).resident ≤ 1 ∧ (r.ctx q0).depth ≠ 0 ∧
    seqMayB s q0 (.sxRet ⟨0, 0⟩) false [] = true ∧ (s.ctx q0).depth = 0 ∧ (s.ctx q0).bind = .root 0 ∧
    seqMayB t q0 (.sxRet ⟨0, 0⟩) false [] = true ∧ (t.ctx q0).depth = 0 ∧ (t.ctx q0).bind = .stand 0 ∧
    seqMayB p q0 (.sxRet ⟨0, 0⟩) false [] = true ∧ (p.ctx q0).depth ≠ 0 ∧ regP p q0 31 = true ∧
    seqMayB m q0 (.sxRet ⟨0, 0⟩) false [] = true ∧ (m.ctx q0).depth ≠ 0 ∧ regP m q0 31 = false ∧ (regV m q0 31).toNat % 4 ≠ 0 ∧
    seqMayB m q0 (.srJrCall ⟨0, 31, 0, 0⟩) false [31] = true ∧ 4 * (s.ctx q0).text.length ≤ (regV (rootSt (reg 0x11 16)) q0 0x11).toNat := by
  decide

theorem wit_SeqSpillFill :
    let d := rootSt fun c => { c with depth := 7, resident := 7, wlim := 1024, wsp := 264 }
    let n := rootSt fun c => { c with wlim := 263, wsp := 0 }
    d.mem.wf = true ∧ d.lmem.wf = true ∧ (d.ctx q0).wsp.toNat + 264 ≤ (d.ctx q0).wlim.toNat ∧ (d.ctx q0).wsp.toNat + 264 < 2 ^ 18 ∧
    264 ≤ (d.ctx q0).wsp.toNat ∧ (n.ctx q0).wlim.toNat < (n.ctx q0).wsp.toNat + 264 := by decide

theorem wit_SeqWindowOps :
    let s := rootSt id
    let d := rootSt fun c => { c with depth := 1, resident := 2, wlim := 1024, wsp := 0 }
    let n := rootSt fun c => { c with depth := 1, resident := 2, wlim := 263, wsp := 0 }
    let r := rootSt fun c => { c with depth := 2, resident := 1 }
    (([.sxWinSave ⟨0, 0⟩, .sxWinRestore ⟨0, 0⟩, .sxWinFlush ⟨0, 0⟩] : List Instr).all fun i =>
      ([s, d, n, r] : List State).all fun x => seqMayB x q0 i false []) = true ∧
    (s.ctx q0).resident ≤ 1 ∧ 1 < (d.ctx q0).resident ∧ (spill q0 d).isSome = true ∧ spill q0 n = none ∧ (s.ctx q0).depth = 0 ∧
    0 < (r.ctx q0).depth ∧ (r.ctx q0).resident ≤ 1 ∧ (d.ctx q0).resident = 2 ∧ (spillAll q0 8 d).2 = true ∧
    (spillAll q0 8 n).2 = false := by decide

theorem wit_SeqLoopResult :
    let s := rootSt (reg 0x11 3)
    let o := rootSt fun c => reg 0x11 3 { c with pc := 4, loops := [⟨4, 8, 1, 1⟩, ⟨0, 12, 1, 1⟩, ⟨0, 12, 1, 1⟩, ⟨0, 12, 1, 1⟩] }
    seqMayB s q0 (.sbLoop ⟨0, 0, 0x11, 2⟩) false [0x11] = true ∧ 0 < (regV s q0 0x11).toNat % 2 ^ 40 ∧ (s.ctx q0).loops.length < 4 ∧
    (s.ctx q0).pc + 4 * (2 : BitVec 16).toInt.toNat < 4 * (s.ctx q0).text.length ∧
    seqMayB (rootSt id) q0 (.sbLoop ⟨0, 0, 0x11, 2⟩) false [0x11] = true ∧ (regV (rootSt id) q0 0x11).toNat % 2 ^ 40 = 0 ∧
    seqMayB o q0 (.sbLoop ⟨0, 0, 0x11, 1⟩) false [0x11] = true ∧ 4 ≤ (o.ctx q0).loops.length ∧
    ((o.ctx q0).loops.all fun l => decide (4 + 4 * 1 ≤ l.last)) = true ∧
    4 * (s.ctx q0).text.length ≤ (s.ctx q0).pc + 4 * (4 : BitVec 16).toInt.toNat ∧ (0x8000 : BitVec 16).toInt ≤ 0 ∧
    seqMayB o q0 (.sbLoop ⟨0, 0, 0x11, 2⟩) false [0x11] = true ∧ ((o.ctx q0).loops.any fun l => decide (l.last < 4 + 4 * 2)) = true := by decide

theorem wit_SeqLoopBreak :
    let o := rootSt fun c => { c with loops := [⟨0, 8, 1, 1⟩] }
    seqMayB o q0 (.sxLbrk ⟨0, 0⟩) false [] = true ∧ (o.ctx q0).loops = [⟨0, 8, 1, 1⟩] ∧
    seqMayB (rootSt id) q0 (.sxLbrk ⟨0, 0⟩) false [] = true ∧ ((rootSt id).ctx q0).loops = [] := by decide

/-! ### Waiting, tags, commands -/

/-- VF 0 with tensor 1: r, w, p, format 0xA, home die 0, 8 elements in one tile in the store of its weave 0, generation 5; and tensors 2 and 3
at address 0, with 8 and 32 elements. -/
def tensors (s : State) : State :=
  s.updVf 0 fun v => { v with tens := { v.tens with table := [(1, BitVec.ofNat 256 (0xFA * 2 ^ 248 + 8191 * 2 ^ 229 + 7 * 2 ^ 128 + 3 * 2 ^ 64 + 5 * 2 ^ 48 + 0xFFFF * 2 ^ 32)),
    (2, BitVec.ofNat 256 (0xEA * 2 ^ 248 + 7 * 2 ^ 128 + 3 * 2 ^ 64 + 0xFFFF * 2 ^ 16)),
    (3, BitVec.ofNat 256 (0xEA * 2 ^ 248 + 31 * 2 ^ 128 + 5 * 2 ^ 64 + 0xFFFF * 2 ^ 16))] } }

/-- A reference to tensor 1. -/
def refOf (gen tile : Nat) : W64 := BitVec.ofNat 64 (2 ^ 48 + gen * 2 ^ 40 + tile)

/-- The first engine context of the stand of `standSt`. -/
def eng0 (s : State) : Option Eng := (s.stand? 0).bind fun t => t.eng? 0

/-- The outcome of a condition: the cause of its refusal, 0 for none, and its truth. -/
def outcome : Except Nat Bool → Nat × Bool
  | .ok b => (0, b)
  | .error c => (c, false)

theorem wit_SeqWaits :
    let s := tensors (standSt id (reg 0x12 5))
    let f : SR := ⟨0x12, 0x11, 0x10, 0⟩
    let h := tensors (standSt id (reg 0x11 512))
    (s.ctx q0).bind = .stand 0 ∧ (s.stand? 0).isSome = true ∧ (eng0 s).isSome = true ∧ (s.ctx q0).pred 0 = true ∧
    seqMayB s q0 (.srWaitQueue f) false [0x11, 0x10, 0x12] = true ∧ (regV s q0 0x11).toNat < 16 ∧
    outcome (waitNow s (s.ctx q0) (.queue 0 0)) = (0, true) ∧ outcome (waitNow s (s.ctx q0) (.queue 0 16)) = (0, false) ∧ 0 < (regV s q0 0x12).toNat ∧
    regV (standSt id (reg 0x11 16)) q0 0x11 = 0x10 ∧ outcome (waitNow s (s.ctx q0) (.trapq 0)) = (0, true) ∧
    seqMayB (standSt id (reg 0x11 16)) q0 (.srWaitQueue f) false [0x11, 0x10, 0x12] = true ∧
    outcome (waitNow s (s.ctx q0) (.trapq 1)) = (0, false) ∧ 16 < (regV (standSt id (reg 0x11 17)) q0 0x11).toNat ∧
    seqMayB (standSt id (reg 0x11 17)) q0 (.srWaitQueue f) false [0x11, 0x10, 0x12] = true ∧
    seqMayB h q0 (.srWaitTimeline f) false [0x11, 0x10, 0x12] = true ∧ 512 ≤ (regV h q0 0x11).toNat ∧
    seqMayB s q0 (.srWaitTimeline f) false [0x11, 0x10, 0x12] = true ∧ outcome (waitNow s (s.ctx q0) (.timeline 0 false 0)) = (0, true) ∧
    outcome (waitNow s (s.ctx q0) (.timeline 0 true 1)) = (0, false) ∧ seqMayB s q0 (.srWaitTag ⟨0x12, 0x11, 0, 0⟩) false [0x11, 0x12] = true ∧
    outcome (waitNow s (s.ctx q0) (.tag 0 0)) = (0x08, false) ∧ query s (seqVf s (s.ctx q0)) 0 = none ∧
    query s (seqVf s (s.ctx q0)) (refOf 4 0) = some 2 ∧ query s (seqVf s (s.ctx q0)) (refOf 5 0) = some 0 ∧
    query s (seqVf s (s.ctx q0)) (refOf 5 1) = none ∧ query s (seqVf s (s.ctx q0)) (refOf 6 0) = some 3 ∧
    seqMayB (standSt id (reg 0x11 15)) q0 (.srWaitQueue f) false [0x11, 0x10, 0x12] = true ∧
    seqMayB (standSt id (reg 0x11 15)) q0 (.srWaitTimeline f) false [0x11, 0x10, 0x12] = true ∧
    regV (standSt id (reg 0x11 15)) q0 0x11 = 15 ∧ (((standSt id (reg 0x11 15)).stand? 0).bind fun t => t.eng? 15) = none := by decide

/-- The landing table holds tile 0 of tensor 1's current generation. -/
def landed (s : State) : State := s.updDie 0 fun d => { d with landing := [⟨landingSet 0 1 0, 0, landingEntry 0 1 5 0, false⟩] }

theorem wit_SeqTimelinesAndTags :
    let s := tensors (standSt id id)
    let e := standSt (fun t => t.updEng 0 fun g => { g with err := true }) (reg 0x11 256)
    (([s, e, standSt id (reg 0x11 512), rootSt id] : List State).all fun x =>
      seqMayB x q0 (.srTlrdR ⟨0x15, 0x11, 0, 0⟩) false [] && seqMayB x q0 (.srTlrdV ⟨0x15, 0x11, 0, 0⟩) false []) = true ∧
    (eng0 s).isSome = true ∧ (regV s q0 0x11).toNat < 256 ∧ (eng0 e).isSome = true ∧ (regV e q0 0x11).toNat = 256 ∧
    (regV (standSt id (reg 0x11 512)) q0 0x11).toNat = 512 ∧ ((rootSt id).ctx q0).bind = .root 0 ∧
    seqMayB (tensors (standSt id (reg 0x11 (refOf 5 0)))) q0 (.srTagq ⟨0x14, 0x11, 0, 0⟩) false [0x11] = true ∧
    query s 0 (refOf 5 0) = some 0 ∧ query (landed s) 0 (refOf 5 0) = some 1 ∧ query s 0 (refOf 4 0) = some 2 ∧
    query s 0 (refOf 6 0) = some 3 ∧ query s 0 (refOf 5 1) = none := by decide

set_option maxRecDepth 4000 in
theorem wit_SeqTagPublish :
    let f : SR := ⟨0, 0x11, 0, 0⟩
    let s := tensors (rootSt (reg 0x11 (refOf 5 0)))
    let g := tensors (rootSt (reg 0x11 1))
    let m := tensors (standSt id (reg 0x11 (refOf 5 0)))
    let t := tensors (standSt id fun c => reg 0x11 (refOf 5 0) { c with block := some 1 })
    let u := tensors (standSt id fun c => reg 0x11 1 { c with block := some 1 })
    (([s, t, g, m] : List State).all fun x => seqMayB x q0 (.srTagp f 3) false [0x11]) = true ∧ (s.ctx q0).bind = .root 0 ∧
    (s.ctx q0).feeding = none ∧ (m.ctx q0).feeding = none ∧ (publish 0 (some 0) (regV m q0 0x11) m).2.cause = none ∧
    (publish 0 none (regV g q0 0x11) g).2.cause = some 8 ∧ (publish 0 none (regV s q0 0x11) s).2.cause = some 7 ∧
    (t.ctx q0).block = some 1 ∧ (u.ctx q0).block = some 1 ∧
    (t.ctx q0).bind = .stand 0 ∧ (t.stand? 0).isSome = true ∧
    (([s, u, g] : List State).all fun x => seqMayB x q0 (.srTagg f) false [0x11]) = true ∧ 4096 ≤ (regV s q0 0x11).toNat ∧
    (regV g q0 0x11).toNat < 4096 ∧ (advance 0 1 g).2 = none ∧ (advance 0 5 g).2 = some 8 ∧
    ((u.tensor? 0 1).map (·.p)) = some true := by decide

theorem wit_SeqSkidCommand :
    let f : SR := ⟨0x17, 0x11, 0x12, 0⟩
    let ok := standSt id (reg 0x11 0x1100000000000000)
    let bad := standSt id (reg 0x11 0x0100000100000000)
    let full := standSt (fun t => t.updEng 0 fun g => { g with cmds := List.replicate 16 (cmdOf 0 none none) }) id
    (([ok, bad, full, rootSt id] : List State).all fun x => seqMayB x q0 (.ssScmd f) false [0x11, 0x12]) = true ∧
    ((eng0 ok).map fun g => (g.cmds.filter fun c => !c.started).length) = some 1 ∧
    ((eng0 full).map fun g => (g.cmds.filter fun c => !c.started).length) = some 16 ∧
    ((ok.stand? 0).bind fun t => acceptCmd ok t (regV ok q0 0x11 ++ regV ok q0 0x12)) = some (none, none) ∧
    (skidFields (regV ok q0 0x11 ++ regV ok q0 0x12)).eng = 0 ∧ (skidFields (regV bad q0 0x11 ++ regV bad q0 0x12)).eng = 0 ∧
    ((bad.stand? 0).map fun t => acceptCmd bad t (regV bad q0 0x11 ++ regV bad q0 0x12)) = some none ∧
    ((rootSt id).ctx q0).bind = .root 0 ∧
    (let o := standSt id (reg 0x11 0x110F000000000000)
    seqMayB o q0 (.ssScmd f) false [0x11, 0x12] = true ∧ (skidFields (regV o q0 0x11 ++ regV o q0 0x12)).eng = 15 ∧
      (o.ctx q0).bind = .stand 0 ∧ ((o.stand? 0).map fun t => t.eng? 15) = some none) := by decide

set_option exponentiation.threshold 2000 in
set_option maxRecDepth 4000 in
theorem wit_SeqLaunch :
    let s := mapped (rootSt (reg 0x11 0))
    let k := s.updVf 0 fun v => { v with load := { v.load with kernels := [{ bareKernel [] [] 0 with kid := 0 }] } }
    let m := { s with mem := s.mem.setByte 0 1 }
    let p := { s with mem := s.mem.setPoison 1 true }
    let w := rootSt (reg 0x11 0x01FFFFFFFFFCF800)
    (([s, k, m, p, w, busyPcmd s, rootSt (reg 0x11 64)] : List State).all fun x => seqMayB x q0 (.ssLnch ⟨0x14, 0x11, 0, 0⟩) false [0x11]) = true ∧
    (s.ctx q0).bind = .root 0 ∧ (seqPlace s (s.ctx q0) (regV s q0 0x11) 128 .read).toOption = some (.mem 0) ∧
    poisonAt s.mem 0 128 = none ∧ poisonAt p.mem 0 128 = some 4 ∧
    launchable (rootFirst (k.ctx q0) (seqUsed k q0 0)) 0 (BitVec.ofNat 1024 (k.mem.readN 0 128)) = true ∧
    ((rootFirst (k.ctx q0) (seqUsed k q0 0)).die 0).recs.length < 4096 ∧
    launchable (rootFirst (s.ctx q0) (seqUsed s q0 0)) 0 (BitVec.ofNat 1024 (s.mem.readN 0 128)) = false ∧
    recMalformed (BitVec.ofNat 1024 (s.mem.readN 0 128)) = false ∧
    recMalformed (BitVec.ofNat 1024 (m.mem.readN 0 128)) = true ∧ seqHeld s (s.ctx q0) (.mem 0) = false ∧
    seqHeld (busyPcmd s) ((busyPcmd s).ctx q0) (.mem 0) = true ∧
    (seqPlace w (w.ctx q0) (regV w q0 0x11) 128 .read).toOption = some (.queue 0 0) ∧
    (seqPlace (rootSt id) ((rootSt id).ctx q0) 64 128 .read).toOption = none := by decide

/-- A scheduler that holds 4,096 records. -/
theorem wit_SeqLaunch_full (s : State) (r : Rec) (n : Nat) (hn : n = 4096) :
    4096 ≤ ((s.updDie 0 fun d => { d with recs := List.replicate n r }).die 0).recs.length := by
  subst hn
  exact Nat.le_of_eq (List.length_replicate).symm

theorem wit_SeqBarrier :
    let b : Instr := .sxBar ⟨0x14, 3⟩
    let s := standSt (fun t => { t with bars := [5] }) id
    let t := standSt (fun t => { t with bars := [5], kern := bareKernel [] [0x8800000000000030] 1 }) id
    let done := fun (x : State) (k : BarKey) => ((arrive k (.seq q0) ((regV x q0 0x14).getLsbD 0)
      (x.setCtx { (x.ctx q0) with wait := some (.barrier none, x.cyc 0 + 2 ^ 24) })).ctx q0).wait.map (·.1)
    seqMayB s q0 b false [0x14] = true ∧ seqMayB t q0 b false [0x14] = true ∧ seqMayB (rootSt id) q0 b false [0x14] = true ∧
    seqBarKey s (s.ctx q0) 3 0 = some ⟨3, 0, 5, 1⟩ ∧ done s ⟨3, 0, 5, 1⟩ = some (.barrier (some false)) ∧
    seqBarKey t (t.ctx q0) 3 0 = some ⟨3, 0, 5, 2⟩ ∧ done t ⟨3, 0, 5, 2⟩ = some (.barrier none) ∧
    seqBarKey (rootSt id) ((rootSt id).ctx q0) 3 0 = none := by decide

theorem wit_SeqContextControl :
    let f : SX := ⟨0x14, 0⟩
    let s := standSt id id
    let t := standSt (fun t => { t with switchTo := some 1 }) id
    (([s, rootSt id, standSt id (reg 0x14 4)] : List State).all fun x =>
      seqMayB x q0 (.sxCtxCond f) false [0x14] && seqMayB x q0 (.sxCtxSwitch ⟨0, 0⟩) false []) = true ∧
    (s.ctx q0).bind = .stand 0 ∧ (regV s q0 0x14).toNat < 4 ∧ (regV (standSt id (reg 0x14 4)) q0 0x14).toNat = 4 ∧
    ((rootSt id).ctx q0).bind = .root 0 ∧ ((s.stand? 0).map (·.switchTo)) = some none ∧
    ((t.stand? 0).map fun t => (t.switchTo, t.weaves.map (·.actx))) = some (some 1, [0]) ∧
    seqMayB t q0 (.sxCtxSwitch ⟨0, 0⟩) false [] = true := by decide

/-! ### Grain, random numbers, system registers, traps -/

theorem wit_SeqGrain :
    seqMayB (rootSt id) q0 (.sxGrn ⟨0x14, 0⟩) false [] = true ∧ ((rootSt id).ctx q0).block = none ∧
    feedGrain (standSt (fun t => { t with g := 4 }) fun c => { c with block := some 1 })
      ((standSt (fun t => { t with g := 4 }) fun c => { c with block := some 1 }).ctx q0) = 4 := by decide

theorem wit_SeqRandom :
    seqMayB (rootSt id) q0 (.srRng ⟨0x14, 0x11, 0x12, 0⟩) false [] = true ∧ seqMayB (rootSt id) q0 (.srRng ⟨15, 0x11, 0x12, 0⟩) false [] = true ∧
    seqMayB (rootSt id) q0 (.srRng ⟨63, 0x11, 0x12, 0⟩) false [] = true ∧ ((rootSt id).ctx q0).pred 0 = true := by decide

theorem wit_SeqSystemRegisters :
    let s := rootSt id
    let t := standSt id fun c => { c with block := some 1 }
    (([0, 1, 2, 3, 4, 5, 6, 7, 8, 9, 0xA, 0xB, 0xC, 0xD, 0xE] : List (BitVec 12)).all fun n =>
      seqMayB s q0 (.sxSysCsrrd ⟨0x14, n⟩) false [] && seqMayB t q0 (.sxSysCsrrd ⟨0x14, n⟩) false [] &&
      seqMayB s q0 (.sxSysCsrwr ⟨0x14, n⟩) false [0x14] && seqMayB t q0 (.sxSysCsrwr ⟨0x14, n⟩) false [0x14]) = true ∧
    csrRead s (s.ctx q0) 6 = some 0 ∧ (s.ctx q0).block = none ∧ (t.ctx q0).block = some 1 ∧ (t.ctx q0).bind = .stand 0 ∧
    (t.stand? 0).isSome = true ∧ (s.ctx q0).bind = .root 0 := by decide

theorem wit_SeqSystem :
    let s := rootSt id
    let h := rootSt fun c => { c with h := true }
    let t := standSt id id
    let u := standSt id fun c => { c with h := true }
    let v := standSt id fun c => { c with h := true, fromIdle := true }
    let w := rootSt fun c => { c with h := true, fromIdle := true }
    (([s, h, t, u, v, w] : List State).all fun x =>
      ([.sxSysTrap ⟨0, 0xFF⟩, .sxSysEret ⟨0, 0⟩, .sxSysHalt ⟨0, 0⟩, .sxSysYield ⟨0, 0⟩, .sxFence ⟨0, 3⟩] : List Instr).all fun i =>
        seqMayB x q0 i false []) = true ∧
    (s.ctx q0).h = false ∧ (h.ctx q0).h = true ∧ (h.ctx q0).fromIdle = false ∧ (h.ctx q0).epc.toNat % 4 = 0 ∧
    (v.ctx q0).h = true ∧ (v.ctx q0).fromIdle = true ∧ (v.ctx q0).bind = .stand 0 ∧ (s.ctx q0).bind = .root 0 ∧
    (t.ctx q0).bind = .stand 0 ∧ (t.ctx q0).fromIdle = false ∧ (t.ctx q0).h = false ∧ (u.ctx q0).h = true ∧
    (u.ctx q0).fromIdle = false ∧ (w.ctx q0).h = true ∧ (w.ctx q0).fromIdle = true ∧ (w.ctx q0).bind = .root 0 := by decide

theorem wit_SeqTrapEntry :
    let s := rootSt fun c => { c with tvec := 8 }
    (s.ctx q0).h = false ∧ (s.ctx q0).tvec ≠ 0 ∧ ((rootSt id).ctx q0).tvec = 0 ∧ ((rootSt id).ctx q0).bind = .root 0 ∧
    ((standSt id fun c => { c with h := true }).ctx q0).h = true ∧ ((standSt id id).ctx q0).bind = .stand 0 := by decide

theorem wit_SeqChecks :
    let s := rootSt fun c => { c with limm := some (1, 0) }
    let p := rootSt fun c => c.setReg 0x12 ⟨0, true⟩
    let i : Instr := .srAluAdd ⟨0x15, 0x11, 0x12, 1⟩
    let j : Instr := .srAluAdd ⟨0x15, 0x11, 0x12, 0⟩
    seqMayB (rootSt id) q0 i false [] = true ∧ (Instr.srAluClz ⟨0x15, 0x11, 0x12, 1⟩).wf = false ∧
    (s.ctx q0).limm ≠ none ∧ (SeqUse.bare []).prefixed = false ∧ ((rootSt id).ctx q0).pred 1 = false ∧ j.wf = true ∧
    ((SeqUse.bare [0x11, 0x12]).reads = [0x11] ++ 0x12 :: []) ∧ regP p q0 0x11 = false ∧ regP p q0 0x12 = true ∧
    (SeqUse.bare [0x11, 0x12]).guard = none ∧ regP (rootSt id) q0 0x12 = false := by decide

/-! ## Witnesses: cells -/

/-- CellMay as a test. -/
def cellMayB (s : State) (c : Cell) (i : Instr) : Bool :=
  s.actor == .task c.key && s.cell? c.key == some c && c.mayRun && cellCheck i == none && ((cellPorts i).all fun p => (c.n.port p).en)
    && (c.tk.deferred.all fun d => !d.reached i (cellSc i)) && !c.hasIssued s && c.missing (portRefs (cellSrcs i)) == none
    && c.fullOut s (cellOuts i) == none && c.badToken (portRefs (cellSrcs i)) == none
    && (!(cellSc i).getLsbD 3 || ((c.w.mults.all fun m => m.nid != c.key.nid)
      && (upTo 4).all fun o => decide ((skipToks (nth 0 c.tk.skips o)).length ≤ s.outSlots c o)))

/-- The test is enough for CellMay. -/
theorem cellMay_of (s : State) (c : Cell) (i : Instr) (h : cellMayB s c i = true) : CellMay s c i := by
  simp only [cellMayB, Bool.and_eq_true, beq_iff_eq, List.all_eq_true, Bool.or_eq_true, Bool.not_eq_true', decide_eq_true_eq,
    bne_iff_ne, ne_eq] at h
  obtain ⟨⟨⟨⟨⟨⟨⟨⟨⟨⟨h1, h2⟩, h3⟩, h4⟩, h5⟩, h6⟩, hi⟩, h7⟩, h8⟩, h9⟩, h10⟩ := h
  refine ⟨⟨h1, h2, h3⟩, h4, h5, h6, hi, h7, h8, h9, ?_, ?_⟩
  · intro he
    rcases h10 with h | h
    · rw [he] at h; cases h
    · exact h.1
  · intro he
    rcases h10 with h | h
    · rw [he] at h; cases h
    · exact h.2

/-- A node with every port enabled, whose outputs lead to engine context 0; its constants 0 and 1 hold the base of the self
window, 2 and 3 the address 64, 7 a digit list. -/
def allPorts : NodeDesc := ⟨1, 0, 0, 0, 0, 0, 0, List.replicate 8 ⟨true, 0, 0, 1, 4, 0⟩, [], [0xE0000000, 0x01FFFFEF, 64, 0, 0, 0, 0, 1], List.replicate 8 0⟩

/-- The task of the witnesses. -/
def k0 : TKey := ⟨0, ⟨0, 0, 0, 0⟩, 1⟩

/-- A stand with a fired task of that node, whose turn it is; route 1 leads back to the node's input port 1. -/
def taskSt (n : NodeDesc) (fs : Stand → Stand) (fw : Weave → Weave) (fk : Task → Task) : State :=
  let kern := { bareKernel [] [] 1 with images := [⟨0, 0, [n], []⟩], routes := [.eng 0, .cell 0 0 0 0 0] }
  let t := Stand.placed 0 0 0 0 0 1 0 kern q0 [5] [0] 0 0
  { State.reset with
    stands := [fs { t with weaves := t.weaves.map fun w => fw { w with tasks := w.tasks.map fun k => fk { k with fired := true } } }]
    actor := .task k0 }

/-- A task on plain ports. -/
def task (fw : Weave → Weave) (fk : Task → Task) : State := taskSt allPorts id fw fk

/-- A property of the task's cell. -/
def onCell (s : State) (f : Cell → Bool) : Bool := (s.cell? k0).any f

/-- An instruction's turn in a task. -/
def mayTask (i : Instr) (s : State) : Bool := onCell s fun c => cellMayB s c i

/-- Set lane l of register r. -/
def lane (r l : Nat) (v : W32) (w : Weave) : Weave := w.setLane r l ⟨v, false⟩

/-- Poison lane l of register r. -/
def bad (r l : Nat) (w : Weave) : Weave := w.setLane r l ⟨0, true⟩

/-- A CG word on registers 6, 9, 11 with destination 5. -/
def cg (ty : BitVec 4) (b c : Code6) (aux : BitVec 6) : CG := ⟨ty, 5, 6, b, c, 0, 0, 0, 0, 0, aux, 0⟩

theorem wit_CellIntegerResult :
    let s := task id id
    (intTable.all fun p => ([cg 2 0 0 0, cg 2 9 0 0, cg 2 9 11 0] : List CG).any fun f => mayTask (p.1 f) s) = true ∧
    (wordTable.all fun p => ([cg 2 0 0 0, cg 0 9 0 0, cg 0 0 0 0, cg 4 9 11 0, cg 4 9 0 0, cg 2 0 0 3] : List CG).any fun f => mayTask (p.1 f) s) = true ∧
    mayTask (.cvSel (cg 0 9 0 7)) s = true ∧ mayTask (.cvMovk ⟨0, 5, 0, 0, 63, 62, 15, 15, 3, 3, 0, 0⟩) s = true ∧
    mayTask (.cvTdot (cg 13 9 11 3)) s = true := by decide

theorem wit_CellPredicateResult :
    let s := task id id
    let x := task (bad 6 3) id
    let f : CG := ⟨2, 1, 6, 9, 0, 0, 0, 0, 0, 0, 0, 0⟩
    let g : CG := ⟨0, 1, 6, 0, 0, 0, 0, 0, 0, 0, 0, 0⟩
    (condTable.all fun p => ([f, { f with ty := 10 }] : List CG).any fun f => mayTask (p.1 f) s && mayTask (p.1 f) x
      && onCell s (fun c => poisonedSrc c (cellSrcs (p.1 f)) (c.active f) == none)
      && onCell x fun c => poisonedSrc c (cellSrcs (p.1 f)) (c.active f) == some (6, 3)) = true ∧
    (([0, 1, 2] : List (BitVec 6)).all fun a => mayTask (.cvPset { g with aux := a }) s) = true ∧ mayTask (.cvPset g) x = true ∧
    onCell x (fun c => poisonedSrc c (cellSrcs (.cvPset g)) (c.active g) == some (6, 3)) = true := by decide

theorem wit_CellFloatResult :
    let s := task id id
    let x := task (lane 6 2 0x7FC00000) id
    let f : CG := ⟨4, 5, 6, 0, 0, 10, 0, 0, 0, 0, 48, 0⟩
    (floatTable.all fun p => ([cg 10 0 0 0, cg 10 9 0 0, cg 10 9 11 0] : List CG).any fun f => mayTask (p.1 f) s) = true ∧
    (encTable.all fun p => mayTask (p.1 (cg 10 0 0 0)) s) = true ∧ (specTable.all fun p => mayTask (p.1 (cg 10 0 0 0)) s) = true ∧
    mayTask (.cfFcvt f) s = true ∧ onCell s (fun c => fcvtFail c f == none) = true ∧
    mayTask (.cfFcvt f) x = true ∧ onCell x (fun c => fcvtFail c f == some (2, 0, 0x7FC00000)) = true := by decide

theorem wit_CellLaneResult :
    let s := task id id
    let x := task (lane 9 0 16) id
    mayTask (.clLred (cg 4 0 0 3)) s = true ∧ mayTask (.clLscn (cg 10 9 0 18)) s = true ∧ mayTask (.clLshf (cg 0 9 0 2)) s = true ∧
    mayTask (.clLbrd (cg 0 9 0 0)) s = true ∧ onCell s (fun c => (cellSrc c (.clLbrd (cg 0 9 0 0)) 1 0).v.toNat % 65536 < c.lanes) = true ∧
    mayTask (.clLbrd (cg 0 9 0 0)) x = true ∧ onCell x (fun c => c.lanes ≤ (cellSrc c (.clLbrd (cg 0 9 0 0)) 1 0).v.toNat % 65536) = true ∧
    mayTask (.clLcmp ⟨0, 5, 6, 0, 0, 7, 0, 0, 0, 0, 0, 0⟩) s = true ∧
    mayTask (.clRngx ⟨5, 5, 6, 9, 11, 12, 0, 0, 0, 0, 3, 0⟩) s = true := by decide

theorem wit_CellWriteFrame : (5 : Code6).toNat < 48 := by decide

/-! ### Matrices and digits -/

/-- Lane 0 of registers 6, 9 and 11. -/
def args (a b c : W32) (w : Weave) : Weave := lane 6 0 a (lane 9 0 b (lane 11 0 c w))

/-- A test of RegionIn. -/
def regionInB (c : Cell) (off pitch rows size : Nat) : Bool :=
  off % 4 == 0 && pitch % 4 == 0 && decide (size ≤ pitch) && decide (off + (rows - 1) * pitch + size ≤ storeSize c.st)

/-- A test of RegionOk. -/
def regionOkB (c : Cell) (off pitch rows size : Nat) : Bool :=
  regionInB c off pitch rows size && c.faultOn (regionLines off pitch rows size) == none && c.emptyLine (regionLines off pitch rows size) == none

/-- The test is enough for RegionOk. -/
theorem regionOk_of (c : Cell) (off pitch rows size : Nat) (h : regionOkB c off pitch rows size = true) : RegionOk c off pitch rows size := by
  simp only [regionOkB, regionInB, Bool.and_eq_true, beq_iff_eq, decide_eq_true_eq] at h
  exact ⟨⟨⟨h.1.1.1.1.1, h.1.1.1.1.2⟩, h.1.1.1.2, h.1.1.2⟩, h.1.2, h.2⟩

/-- Registers 6, 9, 11 hold 0, 1 and a pitch, the first lines are full, tile 2 is an integer tile and buffer 0 holds a row. -/
def multArgs (ty : BitVec 4) (w : Weave) : Weave :=
  { args 0 1 4 ((w.setTile 2 ⟨true, [], [], [], 0⟩).setBuf 0 ⟨ty, 1, []⟩) with full := [0, 1, 2] }

/-- A multiply into tile 2 has not completed. -/
def busy2 (w : Weave) : Weave := { w with mults := [⟨1, 0, 2, 0, 0, 1, [], [], 0, none, 0⟩] }

theorem wit_CellMatrixLoads_single :
    let z : CG := ⟨0, 2, 0, 0, 0, 0, 0, 0, 0, 0, 1, 0⟩
    let l : CG := ⟨8, 1, 6, 9, 11, 0, 0, 0, 0, 2, 0, 0⟩
    let s := task (fun w => { args 0 1 64 w with full := [0] }) id
    mayTask (.cxMzero z) s = true ∧ onCell s (fun c => c.w.busyTile 2 == false) = true ∧
    mayTask (.cxMzero z) (task busy2 id) = true ∧ onCell (task busy2 id) (fun c => c.w.busyTile 2) = true ∧
    mayTask (.cxMldb l) s = true ∧ onCell s (fun c => regionOkB c (arg0 c (.cxMldb l) 0) (arg0 c (.cxMldb l) 2) 1 (4 * tyWidth 8)
      && arg0 c (.cxMldb l) 1 == 1) = true ∧
    mayTask (.cxMldb l) (task id id) = true ∧ onCell (task id id) (fun c => arg0 c (.cxMldb l) 1 == 0) = true ∧
    mayTask (.cxMldb l) (task (args 0 65 64) id) = true ∧ onCell (task (args 0 65 64) id) (fun c => arg0 c (.cxMldb l) 1 == 65) = true := by decide

theorem wit_CellMatrixLoads_mults :
    let lone : BitVec 6 := 0
    let f : BitVec 4 → BitVec 6 → CG := fun ty aux => ⟨ty, 2, if aux = 4 then 0 else 6, if aux = 4 then 0 else 9, if aux = 4 then 0 else 11, 0, 0, 0, 0, 0, aux, 0⟩
    let lead (ty : BitVec 4) : State := task (fun w => { multArgs ty w with chain := 2 }) id
    let foll (bty ty : BitVec 4) : State := taskSt allPorts (fun t => { t with weaves := t.weaves ++ t.weaves.map fun w =>
        { w with pos := ⟨0, 0, 1, 0⟩, chain := 2, link := some ⟨ty, 1, [], []⟩ } })
      (fun w => { multArgs bty w with leader := some ⟨0, 0, 1, 0⟩ }) id
    (([(.cxMma, false, 0, 0), (.cxMmat, true, 13, 0)] : List ((CG → Instr) × Bool × BitVec 4 × BitVec 4)).all fun p =>
      mayTask (p.1 (f p.2.2.1 lone)) (task (multArgs p.2.2.2) id) && mayTask (p.1 (f p.2.2.1 2)) (lead p.2.2.2)
      && mayTask (p.1 (f p.2.2.1 4)) (foll p.2.2.2 p.2.2.1)
      && (([(task (multArgs p.2.2.2) id, 0), (lead p.2.2.2, 2)] : List (State × BitVec 6)).all fun q => onCell q.1 fun c =>
        multTypes c.w (f p.2.2.1 q.2) p.2.1 && arg0 c (p.1 (f p.2.2.1 q.2)) 1 == 1 && decide (1 ≤ (c.w.buf 0).kb)
        && c.w.link == none && (q.2 == 0 || c.w.chain != 0)
        && regionOkB c (arg0 c (p.1 (f p.2.2.1 q.2)) 0) (arg0 c (p.1 (f p.2.2.1 q.2)) 2) (32 * c.st.g) (4 * ceilDiv (1 * tyWidth p.2.2.1.toNat) 32))
      && onCell (foll p.2.2.2 p.2.2.1) fun c => c.w.leader == some ⟨0, 0, 1, 0⟩ && (c.st.weave ⟨0, 0, 1, 0⟩).link == some ⟨p.2.2.1, 1, [], []⟩
        && multTypes c.w (f p.2.2.1 4) p.2.1 && decide (1 ≤ (c.w.buf 0).kb)) = true ∧
    mayTask (.cxMchn ⟨0, 0, 6, 0, 0, 0, 0, 0, 0, 0, 0, 0⟩) (task (args 2 0 0) id) = true ∧
    onCell (task (args 2 0 0) id) (fun c => arg0 c (.cxMchn ⟨0, 0, 6, 0, 0, 0, 0, 0, 0, 0, 0, 0⟩) 0 == 2 && c.w.link == none
      && (chainMembers c.key.pos 2).all fun m => decide (m.dcol < c.st.kern.w) && (c.st.weave m).inOther c.key.pos == false) = true := by decide

/-- Row exponents are at hand. -/
def scalesOk : ScaleRead → Bool
  | .ok _ _ => true
  | _ => false

theorem wit_CellMatrixReads :
    let rd (aux : BitVec 6) (a : Code6) : CG := ⟨10, 5, a, 9, 0, 8, 0, 0, 0, 0, aux, 0⟩
    let dr (aux : BitVec 6) : CG := ⟨9, if aux = 4 then 7 else 0, 2, 9, 11, if aux = 4 then 8 else 0, 0, 0, 0, 0, aux, 0⟩
    let s := task (args 0 0 128) id
    let t := task (fun w => lane 9 0 0 (lane 11 0 128 (lane 7 0 1 w))) id
    mayTask (.cxMrd (rd 3 3)) s = true ∧ onCell s (fun c => (c.w.tile 3).int == false && c.w.busyTile 3 == false) = true ∧
    mayTask (.cxMrd ⟨4, 5, 2, 9, 0, 0, 0, 0, 0, 0, 0, 0⟩) (task (multArgs 0) id) = true ∧
    onCell (task (multArgs 0) id) (fun c => (c.w.tile 2).int) = true ∧
    onCell (tensors t) (fun c => regionInB c (arg0 c (.cxMdrn (dr 4)) 1) (arg0 c (.cxMdrn (dr 4)) 2) (32 * c.st.g) (4 * tyWidth 9)
      && c.w.busyTile 2 == false && cellMayB (tensors t) c (.cxMdrn (dr 4))
      && ((c.entry? (cellDrawn (tensors t) c (.cxMdrn (dr 4))) (arg0 c (.cxMdrn (dr 4)) 4 % 65536)).any fun e =>
        (tensorEntry e).r && scalesOk (drainScales c (tensorEntry e) (arg0 c (.cxMdrn (dr 4)) 3) (32 * c.st.g) (cellDrawn (tensors t) c (.cxMdrn (dr 4)))))) = true ∧
    onCell t (fun c => cellMayB t c (.cxMdrn (dr 0)) && (c.w.busyTile 2 == false)
      && regionInB c (arg0 c (.cxMdrn (dr 0)) 1) (arg0 c (.cxMdrn (dr 0)) 2) (32 * c.st.g) (4 * tyWidth 9)) = true := by decide

theorem wit_CellMatrixReads_scale :
    let f : CG := ⟨10, 2, 6, 9, 11, 0, 0, 0, 0, 0, 1, 0⟩
    let s := task (args 2 1 0) id
    mayTask (.cxMscl { f with d := 3 }) s = true ∧ mayTask (.cxMscl { f with d := 3, a := 0, aux := 0 }) s = true ∧
    onCell s (fun c => (c.w.tile 3).int == false && c.w.busyTile 3 == false) = true ∧
    mayTask (.cxTwg ⟨10, 5, 6, 9, 0, 0, 0, 0, 0, 0, 1, 0⟩) s = true ∧ twValid 1 = true ∧
    mayTask (.cxMbfy { f with aux := 0 }) (task (fun w => { args 2 1 0 w with twst := 4 }) id) = true ∧
    onCell (task (fun w => { args 2 1 0 w with twst := 4 }) id) (fun c => (c.w.tile 2).int == false && (c.w.tile 3).int == false
      && c.w.twst.toNat % 2 ^ 17 != 0 && arg0 c (.cxMbfy { f with aux := 0 }) 1 == 1 && arg0 c (.cxMbfy { f with aux := 0 }) 0 % (2 * 1) == 0
      && arg0 c (.cxMbfy { f with aux := 0 }) 0 == 2 && c.w.busyTile 2 == false && c.w.busyTile 3 == false) = true := by decide

/-- Slot 0 holds a table of one state and digits of one bit, whose entries are e. -/
def table (e : BitVec 16) (w : Weave) : Weave := w.setSlot 0 ⟨2 ^ 20, List.replicate 64 e, false⟩

/-- A pass of another task of the weave has not completed. -/
def pending (w : Weave) : Weave :=
  { w with tasks := w.tasks ++ w.tasks.map fun k => { k with nid := 2, pend := some ⟨[], [], [(0, Lane.zero)], [], false⟩ } }

/-- A table image of one state whose transitions are all undefined, at offset 0 of the store, its lines full. -/
def image (hd : Byte) (w : Weave) : Weave := { w with store := w.store.setByte 2 hd, full := [0, 1] }

set_option maxRecDepth 8000 in
theorem wit_CellDigits_images :
    let f (aux : BitVec 6) : CG := ⟨0, 0, 6, 0, 0, 0, 0, 0, 0, 1, aux, 0⟩
    let s := task (image 0x10) id
    let b := task (image 0) id
    let m := task (fun w => lane 6 0 0xE0000000 (lane 6 1 0x01FFFFEF (image 0x10 w))) id
    let n := task (fun w => lane 6 0 0xE0000000 (lane 6 1 0x01FFFFEF (image 0 w))) id
    let x := task (bad 6 1) id
    let y := task pending id
    mayTask (.cdDxld (f 1)) s = true ∧ mayTask (.cdDxld (f 1)) b = true ∧ mayTask (.cdDxld (f 0)) m = true ∧
    (([s, b] : List State).all fun x => onCell x fun c => !(cellSrc c (.cdDxld (f 1)) 0 0).poison && arg0 c (.cdDxld (f 1)) 0 == 0
      && imageLen (c.w.store.bytesAt 0 16) == 144 && c.emptyLine (linesOf 0 16) == none && c.emptyLine (linesOf 0 144) == none
      && c.faultOn (linesOf 0 16) == none && c.faultOn (linesOf 0 144) == none && !(c.w.storePoison 0 144) && !(passPending c.w)) = true ∧
    onCell s (fun c => imageBad (c.w.store.bytesAt 0 144) == none) = true ∧
    onCell b (fun c => imageBad (c.w.store.bytesAt 0 144) == some 2) = true ∧
    onCell m (fun c => (match readBlocks c 0x01FFFFEFE0000000 16 (cellDrawn m c (.cdDxld (f 0))) with
        | .ok _ hd false => imageLen hd == 144
        | _ => false)
      && (match readBlocks c 0x01FFFFEFE0000000 144 (cellDrawn m c (.cdDxld (f 0))) with
        | .ok _ bs false => imageBad bs == none
        | _ => false)) = true ∧
    mayTask (.cdDxld (f 0)) n = true ∧
    onCell n (fun c => match readBlocks c 0x01FFFFEFE0000000 144 (cellDrawn n c (.cdDxld (f 0))) with
        | .ok _ bs false => imageBad bs == some 2
        | _ => false) = true ∧
    (([0, 1] : List (BitVec 6)).all fun aux => mayTask (.cdDxld (f aux)) x && mayTask (.cdDxld (f aux)) y) = true ∧
    onCell x (fun c => poisonedLane (cellSrc c (.cdDxld (f 0)) 0) [0, 1] == some 1) = true ∧
    onCell y (fun c => poisonedLane (cellSrc c (.cdDxld (f 0)) 0) [0, 1] == none && passPending c.w) = true := by decide

theorem wit_CellDigits :
    let cf (aux : BitVec 6) : CG := ⟨0, 0, 6, 0, 0, 0, 0, 0, 0, 0, aux, 0⟩
    let fn (aux : BitVec 6) : CG := ⟨0, 5, 0, 0, 0, 0, 0, 0, 0, 0, aux, 0⟩
    let rn : CG := ⟨14, 5, 6, 9, 0, 3, 0, 0, 0, 0, 16, 0⟩
    let ch : CG := ⟨14, 5, 6, 0, 11, 0, 0, 0, 0, 0, 32, 0⟩
    let s := task (table 0x80) id
    let p := task (fun w => pending (table 0x80 w)) id
    let e := task (table 0) id
    (([0, 1, 2, 3] : List (BitVec 6)).all fun a => mayTask (.cdDxcf (cf a)) s) = true ∧
    onCell s (fun c => hdrWidth (c.w.slot 0).hdr != 0 && decide (0 < hdrStates (c.w.slot 0).hdr) && !(passPending c.w)) = true ∧
    (([0, 4, 8, 12] : List (BitVec 6)).all fun a => mayTask (.cdDxfn (fn a)) s) = true ∧
    mayTask (.cdDxrn rn) s = true ∧ mayTask (.cdDxch ch) s = true ∧ mayTask (.cdDxrn rn) e = true ∧ mayTask (.cdDxch ch) e = true ∧
    (([0, 1, 2, 3] : List (BitVec 6)).all fun a => mayTask (.cdDxcf (cf a)) p) = true ∧ onCell p (fun c => passPending c.w) = true ∧
    onCell s (fun c => (c.lanesWith (c.active rn)).all fun l => (passOf c (.cdDxrn rn) rn false l).toOption.isSome) = true ∧
    onCell s (fun c => (c.lanesWith (c.active ch)).all fun l => (passOf c (.cdDxch ch) ch true l).toOption.isSome) = true ∧
    onCell e (fun c => (c.lanesWith (c.active rn)).take 1 == [0] && (passOf c (.cdDxrn rn) rn false 0).toOption.isNone) = true ∧
    onCell e (fun c => (c.lanesWith (c.active ch)).take 1 == [0] && (passOf c (.cdDxch ch) ch true 0).toOption.isNone) = true := by decide

/-! ### Cells: memory, ports, control -/

/-- VF 0 with 64 KiB mapped one to one for the task's compartment. -/
def mappedC (s : State) : State :=
  s.updVf 0 fun v => { v with mem := { v.mem with tlbs := [⟨0, 0, 65536, 0, true, true, false⟩], part := ⟨16, [], []⟩ } }

/-- The lanes' run comes to its end with no fault. -/
def goesOn : LaneRun → Bool
  | .go _ _ => true
  | _ => false

/-- The lanes' run meets a fault with a cause. -/
def faultsWith (n : Nat) : LaneRun → Bool
  | .bad _ _ c _ _ => c == n
  | _ => false

/-- A CM word with destination 4 and the bases and indices given. -/
def cm (ty : BitVec 4) (d a b : Code6) : CM := ⟨ty, d, a, b, 0, 0, 0, 0, 0, 0⟩

theorem wit_CellLoadStore :
    let f := cm 4 4 56 3
    let g := cm 4 4 2 3
    let x : List State := [task (fun w => { w with full := [0] }) id, task id id]
    (([f, g] : List CM).all fun h => x.all fun s => (loadForms.all fun p => mayTask (p.1 h) s) && (storeForms.all fun p => mayTask (p.1 h) s)
      && onCell s fun c => cmPoison c h.a (lanesM c h) [(h.b, cellSrc c (.cmLd h) 1)] == none
        && cmPoison c h.a (lanesM c h) [(h.b, cellSrc c (.cmSt h) 1)] == none) = true ∧
    (x.take 1).all (fun s => onCell s fun c => (loadForms.all fun p =>
        goesOn (eachLane (loadLane c 4 0 (p.2.1 f c (cellSrc c (p.1 f) 1))) (lanesM c f) (cellDrawn s c (p.1 f)) [])
        && faultsWith 7 (eachLane (loadLane c 4 0 (p.2.1 g c (cellSrc c (p.1 g) 1))) (lanesM c g) (cellDrawn s c (p.1 g)) [])
        && revCheck c (cellSrc c (p.1 f) 1) (lanesM c f) == none)
      && storeForms.all fun p =>
        goesOn (eachLane (storeLane c 4 0 (p.2.1 f c (cellSrc c (p.1 f) 1)) (cellSrc c (p.1 f) 4)) (lanesM c f) (cellDrawn s c (p.1 f)) [])
        && faultsWith 7 (eachLane (storeLane c 4 0 (p.2.1 g c (cellSrc c (p.1 g) 1)) (cellSrc c (p.1 g) 4)) (lanesM c g) (cellDrawn s c (p.1 g)) [])
        && revCheck c (cellSrc c (p.1 f) 1) (lanesM c f) == none) = true ∧
    (x.take 1).all (fun s => onCell s fun c => (cellPlace s c (laneCell 0) 0x01FFFFEFE0000000 4 .read).toOption == some (.self 0)
      && (cellPlace s c (laneCell 0) 0x01FFFFEFE0000000 4 .write).toOption == some (.self 0) && c.faultOn [0] == none && c.emptyLine [0] == none
      && (cellPlace s c (laneCell 0) 1 4 .read).toOption == none && (cellPlace s c (laneCell 0) 1 4 .write).toOption == none) = true := by decide

/-- A data token of zeros; an end of stream. -/
def dataTok : Tok := Tok.fit ⟨0, List.replicate 16 Lane.zero, false, 0, false⟩
def eosTok : Tok := ctlTok 5 0

/-- Tokens at input ports 0 and 1. -/
def toks (a b : List Tok) (k : Task) : Task := (k.updIn 0 fun q => { q with q := a }).updIn 1 fun q => { q with q := b }

set_option maxRecDepth 4000 in
theorem wit_CellMemoryOther_tiles :
    let ldx := cm 4 0 58 1
    let t : CM := ⟨15, 5, 2, 3, 0, 0, 0, 0, 0, 0⟩
    let s := mappedC (tensors (task (fun w => { lane 2 0 2 w with full := [0] }) id))
    mayTask (.cmLdx ldx) s = true ∧ onCell s (fun c => c.st.kern.routes[(1 : Nat)]? == some (.cell 0 0 0 0 0)
      && cmPoison c 58 (lanesM c ldx) [] == none && decide (c.st.g ≤ (cellDrawn s c (.cmLdx ldx)).routeSlots c.st 1)
      && goesOn (eachLane (loadLane c 4 3 (c.base 58)) (lanesM c ldx) (cellDrawn s c (.cmLdx ldx)) [])) = true ∧
    mayTask (.cmLdt t) s = true ∧ mayTask (.cmStt t) s = true ∧
    onCell s (fun c => (match tileArgs c t (cellSrcs (.cmLdt t)) false (cellDrawn s c (.cmLdt t)) with
      | .ok x => packedBytes x.e.width x.e.tileSize == 32 && x.off == 0 && !(s.memHeld c.st.vf) && (match evict c.key.weave (fun y =>
            (tileLines (cellTrans (cellDrawn s c (.cmLdt t)) c .read) x.e x.co).contains y.line) (cellDrawn s c (.cmLdt t)) with
          | some s1 => (readTile (cellTrans (cellDrawn s c (.cmLdt t)) c .read) (s1.standMem c.key.stand) x.e x.co).toOption.isSome
          | none => false)
      | .error _ => false)) = true ∧
    onCell s (fun c => c.emptyLine [0] == none && c.faultOn [0] == none && (match tileArgs c t (cellSrcs (.cmStt t)) true (cellDrawn s c (.cmStt t)) with
      | .ok x => (match evict c.key.weave (fun y => (tileLines (cellTrans (cellDrawn s c (.cmStt t)) c .write) x.e x.co).contains y.line)
            (cellDrawn s c (.cmStt t)) with
          | some s1 => (match partOps (cellTrans (cellDrawn s c (.cmStt t)) c .write) (s1.standMem c.key.stand)
                (tileParts x.e (x.e.tileElems x.co) (packLoad x.e.width x.off x.e.tileSize c.w.store)) with
              | .ok ops => (tryHold c.key.stand (.weave c.key.pos) ops s1).isSome
              | .error _ => false)
          | none => false)
      | .error _ => false)) = true := by decide

theorem wit_CellMemoryOther_lanes :
    let up := cm 4 4 58 2
    let at0 := cm 4 4 58 6
    let lk := cm 0 4 58 0
    let s := mappedC (task id id)
    let u := task id id
    let p := { s with mem := s.mem.setPoison 16 true }
    mayTask (.cmUpd up) s = true ∧ mayTask (.cmAtom at0) s = true ∧ mayTask (.cmAtom at0) p = true ∧ mayTask (.cmLock lk) s = true ∧
    mayTask (.cmUnlk lk) s = true ∧ mayTask (.cmUpd up) u = true ∧ mayTask (.cmAtom at0) u = true ∧
    onCell s (fun c => cmPoison c 58 (lanesM c up) [] == none
      && cmPoison c 58 (lanesM c at0) [(4, c.w.lane 4), (5, c.w.lane 5)] == none
      && goesOn (eachLane (updLane c up (cellSrc c (.cmUpd up) 4)) (lanesM c up) (cellDrawn s c (.cmUpd up)) [])
      && goesOn (eachLane (atomLane c at0) (lanesM c at0) (cellDrawn s c (.cmAtom at0)) [])
      && goesOn (eachLane (lockLane c lk true) (lanesM c lk) (cellDrawn s c (.cmLock lk)) [])
      && goesOn (eachLane (lockLane c lk false) (lanesM c lk) (cellDrawn s c (.cmUnlk lk)) [])) = true ∧
    onCell u (fun c => faultsWith 7 (eachLane (updLane c up (cellSrc c (.cmUpd up) 4)) (lanesM c up) (cellDrawn u c (.cmUpd up)) [])
      && faultsWith 7 (eachLane (atomLane c at0) (lanesM c at0) (cellDrawn u c (.cmAtom at0)) [])) = true ∧
    onCell p (fun c => faultsWith 6 (eachLane (atomLane c at0) (lanesM c at0) (cellDrawn p c (.cmAtom at0)) [])) = true ∧
    mayTask (.cmPft ⟨0, 0, 58, 3, 0, 0, 0, 0, 0, 0⟩) s = true ∧
    onCell s (fun c => cmPoison c 58 (lanesM c up) [(3, cellSrc c (.cmPft ⟨0, 0, 58, 3, 0, 0, 0, 0, 0, 0⟩) 1)] == none) = true ∧
    (([(0, 0), (0, 512), (1, 512)] : List (W32 × W32)).all fun n => mayTask (.cmFill ⟨0, 1, 6, 9, 0, 0, 0, 0, 0, 0⟩) (task (args n.1 n.2 0) id)
      && onCell (task (args n.1 n.2 0) id) fun c => (arg0 c (.cmFill ⟨0, 1, 6, 9, 0, 0, 0, 0, 0, 0⟩) 0, arg0 c (.cmFill ⟨0, 1, 6, 9, 0, 0, 0, 0, 0, 0⟩) 1)
        == (n.1.toNat, n.2.toNat) && c.st.g == 1 && c.faultOn [0] == none) = true := by decide

theorem wit_CellPorts :
    let d := task id (toks [dataTok] [dataTok])
    let e := task id id
    let rc : CG := ⟨0, 5, 48, 0, 0, 0, 0, 0, 0, 0, 0, 0⟩
    let f (o a : Code6) (aux : BitVec 6) : CG := ⟨0, o, a, 0, 0, 0, 0, 0, 0, 0, aux, 0⟩
    let jn : CG := ⟨3, 5, 48, 49, 11, 12, 0, 2, 0, 0, 0, 0⟩
    mayTask (.cpRecv rc) d = true ∧ mayTask (.cpRecv rc) e = true ∧ mayTask (.cpPeek rc) d = true ∧
    onCell d (fun c => (c.tk.inq 0).avail == [dataTok] && (c.tk.inq 1).avail == [dataTok]) = true ∧ dataTok.kind = 0 ∧
    onCell e (fun c => (c.tk.inq 0).avail == []) = true ∧
    mayTask (.cpSend (f 53 6 0)) e = true ∧ mayTask (.cpEos (f 53 0 0)) e = true ∧ mayTask (.cpCtxc (f 53 6 0)) e = true ∧
    mayTask (.cpSkip (f 53 6 0)) e = true ∧ mayTask (.cpFilt (f 0 6 5)) e = true ∧ mayTask (.cpFilt (f 0 6 2)) e = true ∧
    onCell e (fun c => ([.cpSend (f 53 6 0), .cpEos (f 53 0 0), .cpCtxc (f 53 6 0), .cpSkip (f 53 6 0)] : List Instr).all fun i =>
      decide (2 ≤ (cellDrawn e c i).outSlots c 1)) = true ∧
    onCell e (fun c => ((releaseWeave c.key.weave (cellDrawn e c (.cpSend (f 53 6 0)))).isSome)
      && (skipToks (nth 0 c.tk.skips 1)).length == 0 && ((maskPorts 5).contains 0) && !((maskPorts 2).contains 0)
      && (maskPorts 5).all fun j => decide ((filtPort 0 j (nth 0 c.tk.skips j)).1.length ≤ (cellDrawn e c (.cpFilt (f 0 6 5))).outSlots c j)) = true ∧
    mayTask (.cpMrge (f 5 0 3)) (task id (toks [eosTok] [eosTok])) = true ∧ mayTask (.cpMrge (f 5 0 3)) (task id (toks [eosTok] [dataTok])) = true ∧
    onCell (task id (toks [eosTok] [eosTok])) (fun c => (mergeArms c (f 5 0 3) [0, 0, 0, 0]).all fun a => a.cr == 0 && a.atEos) = true ∧
    onCell (task id (toks [eosTok] [dataTok])) (fun c => (((mergeArms c (f 5 0 3) [0, 0, 0, 0]).filter fun a => a.cr == 0 && !a.atEos).map (·.port)) == [1]
      && (mergeArms c (f 5 0 3) [0, 0, 0, 0]).all fun a => a.head.isSome) = true ∧
    onCell e (fun c => (cellDrawn e c (.cpMrge (f 5 0 3))).credits c.creditKey == [0, 0, 0, 0]) = true ∧
    mayTask (.cpJoin jn) d = true := by decide

/-- A FAULT token. -/
def faultedTok : Tok := { dataTok with kind := 9 }

/-- A data token whose first lane is poisoned. -/
def badTok : Tok := Tok.fit ⟨0, [⟨0, true⟩], false, 0, false⟩

theorem wit_CellPorts_waits :
    let f (o a : Code6) (aux : BitVec 6) : CG := ⟨0, o, a, 0, 0, 0, 0, 0, 0, 0, aux, 0⟩
    let full := taskSt allPorts (fun t => t.updEng 0 fun g => { g with port := { g.port with q := List.replicate 64 dataTok } }) id id
    let p := task (bad 6 0) id
    let sends : List Instr := [.cpSend (f 53 6 0), .cpEos (f 53 0 0), .cpCtxc (f 53 6 0), .cpSkip (f 53 6 0)]
    sends.all (fun i => mayTask i full) = true ∧ sends.all (fun i => mayTask i p) = true ∧
    onCell full (fun c => sends.all fun i => (cellDrawn full c i).outSlots c 1 == 0) = true ∧
    mayTask (.cpSkip (f 53 6 0)) (taskSt allPorts (fun t => t.updEng 0 fun g => { g with port := { g.port with q := List.replicate 64 dataTok } }) (lane 6 0 1) id) = true ∧
    onCell p (fun c => poisonedLane (cellSrc c (.cpSend (f 53 6 0)) 0) ((c.lanesWith (c.active (f 53 6 0))).filter fun l => l < 16) == some 0
      && ([.cpCtxc (f 53 6 0), .cpSkip (f 53 6 0), .cpFilt (f 0 6 5)] : List Instr).all fun i => (cellSrc c i 0 0).poison) = true ∧
    mayTask (.cpFilt (f 0 6 5)) p = true ∧
    (let w := taskSt allPorts (fun t => t.updEng 0 fun g => { g with port := { g.port with q := List.replicate 64 dataTok } }) id fun k => { k with skips := [0, 0, 254, 0] }
    mayTask (.cpFilt (f 0 6 5)) w = true ∧ onCell w (fun c => maskPorts 5 == [0] ++ 2 :: []
      && (filtPort 0 0 (nth 0 c.tk.skips 0)).1.length == 0 && (filtPort 0 2 (nth 0 c.tk.skips 2)).1.length == 1
      && (cellDrawn w c (.cpFilt (f 0 6 5))).outSlots c 2 == 0) = true) ∧
    mayTask (.cpRecv (f 5 48 0)) (task id (toks [faultedTok] [])) = true ∧ mayTask (.cpPeek (f 5 48 0)) (task id id) = true ∧
    (let none1 := task id (toks [eosTok] [])
    let two := task id (toks [dataTok] [dataTok])
    mayTask (.cpMrge (f 5 0 3)) none1 = true ∧ mayTask (.cpMrge (f 5 0 3)) two = true ∧
    onCell none1 (fun c => ((mergeArms c (f 5 0 3) [0, 0, 0, 0]).find? fun a => a.cr == 0 && a.head.isNone).map (·.port) == some 1) = true ∧
    onCell two (fun c => ((mergeArms c (f 5 0 3) [0, 0, 0, 0]).filter fun a => a.cr == 0 && !a.atEos).length == 2
      && (mergeArms c (f 5 0 3) [0, 0, 0, 0]).all fun a => a.head.isSome) = true) := by decide

theorem wit_CellPorts_joins :
    let jn : CG := ⟨3, 5, 48, 49, 11, 12, 0, 2, 0, 0, 0, 0⟩
    let x : List (List Tok × List Tok) := [([], []), ([faultedTok], []), ([dataTok], []), ([dataTok], [faultedTok]), ([badTok], [dataTok]),
      ([dataTok], [badTok]), ([dataTok], [eosTok]), ([dataTok, faultedTok], [eosTok]), ([dataTok, eosTok], [eosTok]), ([dataTok, eosTok], [ctlTok 6 0]),
      ([eosTok], [dataTok, eosTok]), ([eosTok], [eosTok]), ([eosTok], [ctlTok 6 0])]
    x.all (fun p => mayTask (.cpJoin jn) (task id (toks p.1 p.2)) && onCell (task id (toks p.1 p.2)) fun c =>
      (c.tk.inq 0).avail.map (·.kind) == p.1.map (·.kind) && (c.tk.inq 1).avail.head?.map (·.kind) == p.2.head?.map (·.kind)) = true ∧
    faultedTok.kind = 9 ∧ eosTok.kind = 5 ∧ (ctlTok 6 0).kind = 6 ∧ (nth Lane.zero badTok.lanes 0).poison = true ∧
    (nth Lane.zero dataTok.lanes 0).poison = false := by decide

theorem wit_CellControl :
    let s := task id id
    let b := taskSt allPorts (fun t => { t with bars := [5] }) id id
    let f (ty : BitVec 4) (d a b c : Code6) (e : Code6) (aux : BitVec 6) : CG := ⟨ty, d, a, b, c, e, 0, 0, 0, 0, aux, 0⟩
    let lp := f 0 0 6 0 0 2 0
    let inLoop := task id fun k => { k with loops := [⟨0, 3, 2, 2⟩] }
    mayTask (.ccLoop lp) s = true ∧ onCell s (fun c => c.tk.pc + (disp12 lp).toNat == 2 && decide (0 < (disp12 lp).toInt)
      && decide (2 < c.n.text.length) && c.tk.loops == []) = true ∧ mayTask (.ccLoop lp) (task (lane 6 0 3) id) = true ∧
    mayTask (.ccLoop lp) (task (lane 6 0 3) fun k => { k with loops := [⟨0, 3, 2, 2⟩] }) = true ∧
    mayTask (.ccLbrk (f 0 0 0 0 0 0 0)) inLoop = true ∧ onCell inLoop (fun c => c.tk.loops == [⟨0, 3, 2, 2⟩]) = true ∧
    (([f 0 0 0 0 0 3 0, f 0 0 0 0 0 0 0] : List CG).all fun g => mayTask (.ccBra g) s && mayTask (.ccJmp g) s) = true ∧
    onCell s (fun c => braTaken 0 ((upTo c.lanes).map (c.active (f 0 0 0 0 0 3 0))) && decide (0 < c.n.limit) && c.tk.branches == 0
      && !(braTaken 2 ((upTo c.lanes).map (c.active (f 0 0 0 0 0 3 2))))) = true ∧
    mayTask (.ccBra (f 0 0 0 0 0 3 2)) s = true ∧ mayTask (.ccGrain (f 0 5 0 0 0 0 0)) s = true ∧
    mayTask (.ccRdsr (f 0 5 0 0 0 0 9)) s = true ∧ (([6, 7, 8] : List (BitVec 6)).all fun n => mayTask (.ccWrsr (f 0 0 6 0 0 0 n)) s) = true ∧
    mayTask (.ccTagp (f 0 0 6 0 0 0 4)) s = true ∧ mayTask (.ccTlw (f 0 0 6 9 11 0 0)) s = true ∧
    onCell s (fun c => tlwPoison (f 0 0 6 9 11 0 0) c == none && (c.st.eng? 0).any fun e => decide (0 ≤ e.count false)) = true ∧
    (([22, 14, 6] : List (BitVec 6)).all fun n => mayTask (.ccFenc (f 0 0 0 0 0 0 n)) s
      && onCell s fun c => (releaseWeave c.key.weave (cellDrawn s c (.ccFenc (f 0 0 0 0 0 0 n)))).isSome) = true ∧
    mayTask (.ccYld (f 0 0 0 0 0 0 0)) s = true ∧ mayTask (.ccTrap (f 0 0 0 0 0 0 42)) s = true ∧ mayTask (.ccEndt (f 0 0 0 0 0 0 0)) s = true ∧
    mayTask (.ccBarr (f 0 5 6 0 0 0 3)) b = true ∧
    onCell b (fun c => standKey (cellDrawn b c (.ccBarr (f 0 5 6 0 0 0 3))) c.st c.key.pos 3 0 == some ⟨3, 0, 5, 1⟩
      && !(((cellDrawn b c (.ccBarr (f 0 5 6 0 0 0 3))).barrier ⟨3, 0, 5, 1⟩).holds (.task c.key))
      && match releaseWeave c.key.weave (c.undo (cellDrawn b c (.ccBarr (f 0 5 6 0 0 0 3)))) with
        | some s1 => !(((arrive ⟨3, 0, 5, 1⟩ (.task c.key) false (keepSlots c.key (allLanes c 5 0) s1)).barrier ⟨3, 0, 5, 1⟩).holds (.task c.key))
        | none => false) = true := by decide

theorem wit_CellChecks :
    let s := task id id
    let add := cg 2 9 0 0
    let off := taskSt { allPorts with ports := List.replicate 8 PortDesc.none } id id id
    let w (r : List Nat) := task id fun k => { k with deferred := [⟨7, 0, 0, 0, 0, r, [], [], [], false⟩] }
    let p : CG := { add with a := 48 }
    let o : CG := { add with d := 52 }
    onCell s (fun c => c.mayRun && s.actor == .task c.key && !(c.hasIssued s)) = true ∧ cellCheck (.cvAdd { add with ty := 15 }) = some .illegal ∧
    cellCheck (.cvAdd { add with c := 1 }) = some .reservedField ∧ cellPorts (.cvAdd p) = [0] ∧
    onCell off (fun c => !(c.n.port 0).en && c.mayRun) = true ∧
    onCell (w [6]) (fun c => c.tk.deferred.any fun d => d.reached (.cvAdd add) 0) = true ∧
    onCell (w [7]) (fun c => c.tk.deferred.length == 1 && c.tk.deferred.all fun d => !(d.reached (.cvAdd add) 0)) = true ∧
    onCell s (fun c => c.missing (portRefs (cellSrcs (.cvAdd p))) == some 0 && c.fullOut s (cellOuts (.cvAdd add)) == none) = true ∧
    (([dataTok, eosTok, { dataTok with kind := 9 }] : List Tok).map fun t => onCell (task id (toks [t] [])) fun c =>
      c.missing (portRefs (cellSrcs (.cvAdd p))) == none && (c.badToken (portRefs (cellSrcs (.cvAdd p)))).isSome) = [false, true, true] ∧
    onCell (taskSt allPorts (fun t => t.updEng 0 fun g => { g with port := { g.port with q := List.replicate 64 dataTok } }) id id) (fun c =>
      c.fullOut (taskSt allPorts (fun t => t.updEng 0 fun g => { g with port := { g.port with q := List.replicate 64 dataTok } }) id id)
        (cellOuts (.cvAdd o)) == some 0) = true ∧
    mayTask (.cvAdd o) s = true ∧ mayTask (.cvAdd add) s = true ∧
    onCell (task (fun v => { v with issued := some 0 }) id) (fun c => c.mayRun && c.hasIssued s
      && (cellAns (.cvAdd add) (fun _ s => .done s) c s).issues) = true ∧
    onCell (task busy2 id) (fun c => (cellSc (.cvAdd { add with sc := 8 })).getLsbD 3 && c.w.mults.any fun m => m.nid == c.key.nid) = true := by decide

/-! ## Witnesses: skid commands -/

/-- EngMay as a test. -/
def engMayB (s : State) (x : EngAt) (i : Instr) : Bool :=
  s.actor == .engine x.key && s.engAt? x.key == some x && !x.g.halted && decodeSkid x.c.word == some i && !x.c.isHeld s x.st

/-- The test is enough for EngMay. -/
theorem engMay_of (s : State) (x : EngAt) (i : Instr) (h : engMayB s x i = true) : EngMay s x i := by
  simp only [engMayB, Bool.and_eq_true, beq_iff_eq, Bool.not_eq_true'] at h
  exact ⟨⟨h.1.1.1.1, h.1.1.1.2, h.1.1.2, h.1.2⟩, h.2⟩

/-- The entries of tensors 1, in a store, and 2, at address 0. -/
def entry (n : Nat) : Option (BitVec 256) := (tensors State.reset).entry? 0 n

/-- A stand whose engine context 0 works on a command with its entries, its place and tokens at its port. -/
def engSt (i : Instr) (src dst : Nat) (todo : Option (List Nat)) (port half : List Tok) (pos ends : Nat) : State :=
  let s := oneStand { State.reset with actor := .engine ⟨0, 0⟩ } [0]
    [{ cmdOf ((encodeSkid i).getD 0) (if src = 0 then none else entry src) (if dst = 0 then none else entry dst) with
      started := true, pos := pos, todo := todo, pairHalf := half, ends := ends }] true
  mapped (tensors (s.updStand 0 fun t => { t with kern := { t.kern with routes := [.eng 0] } }.updEng 0 fun g => { g with port := { g.port with q := port } }))

/-- A property of the command of a state. -/
def onCmd (s : State) (f : EngAt → Bool) : Bool := (s.engAt? ⟨0, 0⟩).any f

/-- A command's turn. -/
def mayCmd (i : Instr) (s : State) : Bool := onCmd s fun x => engMayB s x i

/-- What a write of elements answers. -/
def wroteOk : WriteAns → Bool
  | .ok _ => true
  | _ => false
def wroteFault : WriteAns → Bool
  | .fault => true
  | _ => false

/-- Without the mapping of its VF. -/
def unmapped (s : State) : State := s.updVf 0 fun v => { v with mem := { v.mem with tlbs := [] } }

theorem wit_SkidTileCommands :
    let f : Skid := ⟨0, 1, 2, 0, 0, 0, 0, 0, 0, 0, 0, 0⟩
    let g : Skid := ⟨0, 2, 1, 0, 0, 0, 0, 0, 0, 0, 0, 0⟩
    let r (f : Skid) : Skid := { f with l2op := 1 }
    let both (i : Instr) : State := engSt i 1 1 none [] [] 0 0
    ((moverForms (r f)).all fun i => mayCmd i (both i) && onCmd (both i) fun x => (match x.c.srcSide, x.c.dstSide with
      | some a, some b => a.store.isSome && b.store.isSome && wroteOk (moveEls x.key x.c a b (movePairs a b) (both i))
      | _, _ => false)) = true ∧
    (([none, some [], some [0]] : List (Option (List Nat))).all fun todo =>
      ([.skCpylg f, .skCpygg f] : List Instr).all fun i => mayCmd i (engSt i 1 2 todo [] [] 0 0)
        && onCmd (engSt i 1 2 todo [] [] 0 0) fun x => x.c.todo == todo && cmdOp x.c.word != 8 && (match x.c.srcSide, x.c.dstSide with
          | some a, some b => a.store.isSome && b.store.isNone
            && wroteOk (moveEls x.key x.c a b ((movePairs a b).filter fun q => pairLine a b q == some 0) (engSt i 1 2 todo [] [] 0 0))
            && wroteFault (moveEls x.key x.c a b ((movePairs a b).filter fun q => pairLine a b q == some 0) (unmapped (engSt i 1 2 todo [] [] 0 0)))
          | _, _ => false)) = true ∧
    (([none, some [], some [0]] : List (Option (List Nat))).all fun todo =>
      (([.skCpygl g, .skCpygg g, .skRedc (r g)] : List Instr).all fun i => mayCmd i (engSt i 2 1 todo [] [] 0 0)
        && onCmd (engSt i 2 1 todo [] [] 0 0) fun x => x.c.todo == todo && (match x.c.srcSide, x.c.dstSide with
          | some a, some b => a.store.isNone && b.store.isSome
          | _, _ => false))
      && mayCmd (.skRedc (r f)) (engSt (.skRedc (r f)) 1 2 todo [] [] 0 0)
      && onCmd (engSt (.skRedc (r f)) 1 2 todo [] [] 0 0) (fun x => cmdOp x.c.word == 8 && x.c.srcSide.any (fun a => a.store.isSome)
        && x.c.dstSide.any fun b => b.store.isNone)
      && ((lineForms { g with dtid := 0 }).all fun i => mayCmd i (engSt i 2 0 todo [] [] 0 0)
        && onCmd (engSt i 2 0 todo [] [] 0 0) fun x => x.c.todo == todo && (x.c.srcSide.any fun a => a.store.isNone))) = true ∧
    ((lineForms { f with dtid := 0 }).all fun i => mayCmd i (engSt i 1 0 none [] [] 0 0)
      && onCmd (engSt i 1 0 none [] [] 0 0) fun x => x.c.srcSide.any fun a => a.store.isSome) = true ∧
    (([0, 1] : List Nat).all fun pos => mayCmd (.skFill f) (engSt (.skFill f) 0 2 none [] [] pos 0)
      && onCmd (engSt (.skFill f) 0 2 none [] [] pos 0) fun x => x.c.pos == pos && x.c.dstSide.any fun b => b.store.isNone && b.lines == [0]
        && wroteOk (writeEls x.key b (b.e.tileElems b.co) ((b.e.tileElems b.co).map fun _ => ⟨0, false⟩) (engSt (.skFill f) 0 2 none [] [] pos 0))) = true ∧
    mayCmd (.skFill f) (engSt (.skFill f) 0 1 none [] [] 0 0) = true ∧
    onCmd (engSt (.skFill f) 0 1 none [] [] 0 0) (fun x => x.c.dstSide.any fun b => b.store.isSome
        && wroteOk (writeEls x.key b (b.e.tileElems b.co) ((b.e.tileElems b.co).map fun _ => ⟨0, false⟩) (engSt (.skFill f) 0 1 none [] [] 0 0))) = true ∧
    onCmd (busyPcmd (engSt (.skFill f) 0 2 none [] [] 0 0)) (fun x => x.c.isHeld (busyPcmd (engSt (.skFill f) 0 2 none [] [] 0 0)) x.st
      && !x.g.halted && decodeSkid x.c.word == some (.skFill f)) = true ∧
    mayCmd (.skBlaz f) (engSt (.skBlaz f) 0 0 none [] [] 0 0) = true ∧ mayCmd (.skNopc f) (engSt (.skNopc f) 0 0 none [] [] 0 0) = true := by decide

theorem wit_SkidStreamCommands :
    let f : Skid := ⟨0, 1, 2, 0, 0, 0, 0, 0, 0, 0, 0, 0⟩
    let two : Skid := { f with t0 := 2 }
    let fault := { dataTok with kind := 9 }
    let at0 (i : Instr) (port half : List Tok) (pos ends : Nat) : State := engSt i 1 2 none port half pos ends
    let ready (i : Instr) (t : Tok) (half : List Tok) (pos ends : Nat) : Bool := mayCmd i (at0 i [t] half pos ends)
      && onCmd (at0 i [t] half pos ends) fun x => x.g.port.q == [t] && x.c.todo == none && x.c.srcSide.isSome && x.c.dstSide.isSome
        && (at0 i [t] half pos ends).routeSlots x.st 0 != 0 && x.c.pairHalf == half && x.c.pos == pos && x.c.ends == ends
    ready (.skStrm f) dataTok [] 0 0 = true ∧
    (([.skSink f, .skScat f, .skCmbn f, .skGath f, .skDisp f] : List Instr).all fun i => ready i fault [] 0 0) = true ∧
    ready (.skSink f) dataTok [] 0 0 = true ∧ ready (.skGath f) dataTok [] 0 0 = true ∧ ready (.skGath f) eosTok [] 0 0 = true ∧
    ready (.skScat f) dataTok [] 0 0 = true ∧ ready (.skScat f) dataTok [dataTok] 0 0 = true ∧
    ready (.skDisp two) (Tok.fit ⟨0, List.replicate 16 ⟨noIndex, false⟩, false, 0, false⟩) [] 0 0 = true ∧
    ready (.skDisp two) eosTok [] 0 0 = true ∧ ready (.skDisp two) eosTok [] 0 2 = true ∧
    ready (.skCmbn two) dataTok [dataTok] 0 0 = true ∧ ready (.skCmbn two) eosTok [] 0 0 = true ∧ ready (.skCmbn two) eosTok [] 0 1 = true ∧
    mayCmd (.skColl f) { at0 (.skColl f) [] [] 0 0 with fab := { State.reset.fab with colls := [⟨0, 3, 2, 0, 0, [], some (⟨0, 0⟩, 1), .joined⟩] } } = true ∧
    (myPart? { at0 (.skColl f) [] [] 0 0 with fab := { State.reset.fab with colls := [⟨0, 3, 2, 0, 0, [], some (⟨0, 0⟩, 1), .joined⟩] } } ⟨0, 0⟩ 1).map
      (·.stage) = some .joined := by decide

theorem wit_SkidStreamCommands_clauses :
    let f : Skid := ⟨0, 3, 2, 0, 0, 0, 0, 0, 0, 0, 0, 0⟩
    let s := engSt (.skStrm f) 3 2 none [] [] 0 0
    let g := engSt (.skGath { f with stid := 2 }) 2 2 none [dataTok] [] 0 0
    let far : Tok := Tok.fit ⟨0, List.replicate 16 ⟨99, false⟩, false, 0, false⟩
    let sc (t : Tok) : State := engSt (.skScat f) 3 2 none [dataTok] [t] 0 0
    let both (n : Nat) : State := { engSt (.skColl f) 3 n none [] [] 0 0 with
      fab := { State.reset.fab with colls := [⟨0, 3, 2, 0, 0, [], some (⟨0, 0⟩, 1), .joined⟩] } }
    let ready (i : Instr) (t : Tok) (half : List Tok) (pos ends : Nat) : Bool := mayCmd i (engSt i 3 2 none [t] half pos ends)
      && onCmd (engSt i 3 2 none [t] half pos ends) fun x => x.g.port.q == [t] && x.c.todo == none
    mayCmd (.skStrm f) s = true ∧ mayCmd (.skStrm f) (unmapped s) = true ∧ mayCmd (.skGath { f with stid := 2 }) g = true ∧
    onCmd s (fun x => x.c.srcSide.any fun a => tokensFor a.e.width a.e.tileSize == 2
      && (readEls s x.st a (tokenPart a.e.width x.c.pos (a.e.tileElems a.co))).toOption.isSome
      && (readEls (unmapped s) x.st a (tokenPart a.e.width x.c.pos (a.e.tileElems a.co))).toOption.isNone) = true ∧
    onCmd g (fun x => x.c.srcSide.any fun a => (gatherLanes g x.st a (fitLen ⟨0, false⟩ 16 dataTok.lanes)).toOption.isSome
      && (gatherLanes (unmapped g) x.st a (fitLen ⟨0, false⟩ 16 dataTok.lanes)).toOption.isNone) = true ∧
    ready (.skGath f) { eosTok with kind := 8 } [] 0 0 = true ∧
    (([dataTok, far] : List Tok).all fun t => mayCmd (.skScat f) (sc t) && onCmd (sc t) fun x => x.c.pairHalf == [t]
      && x.c.dstSide.any fun b =>
        let p := scatterLanes b.e ((fitLen ⟨0, false⟩ 16 t.lanes).zip (fitLen ⟨0, false⟩ 16 dataTok.lanes))
        p.2 == (if t == far then some 0x08 else none) && (scatterAll x.key b p.1 (sc t)).any fun r => !r.2) = true ∧
    mayCmd (.skScat f) (unmapped (sc dataTok)) = true ∧ onCmd (unmapped (sc dataTok)) (fun x => x.c.dstSide.any fun b =>
      (scatterAll x.key b (scatterLanes b.e ((fitLen ⟨0, false⟩ 16 dataTok.lanes).zip (fitLen ⟨0, false⟩ 16 dataTok.lanes))).1
        (unmapped (sc dataTok))).any (·.2)) = true ∧
    mayCmd (.skColl f) (both 1) = true ∧ onCmd (both 1) (fun x => x.c.dstSide.any fun b => b.store.isSome
      && wroteOk (writeEls x.key b (b.e.tileElems b.co) ((b.e.tileElems b.co).map (collEl b [])) (both 1))) = true ∧
    onCmd (both 2) (fun x => x.c.dstSide.any fun b => b.store.isNone && b.lines == [0]) = true := by decide

/-! ## Witnesses: events -/

/-- Die 0's clock. -/
def at_ (n : Nat) (s : State) : State := s.updDie 0 fun d => { d with cyc := BitVec.ofNat 64 n }

/-- A node without ports, and one with declared line 0 too. -/
def noPorts : NodeDesc := { allPorts with ports := List.replicate 8 PortDesc.none }
def lineNode : NodeDesc := { noPorts with lines := [(0, 1)] }

/-- A node with one input port. -/
def onePort : NodeDesc := { allPorts with ports := ⟨true, 0, 0, 1, 4, 0⟩ :: List.replicate 7 PortDesc.none }

/-- A task that waits. -/
def waits (qid : Nat) : State := task id fun k => { k with wait := some ⟨qid, 0, 0, 0⟩ }

/-- A test of taskWaits. -/
def taskWaitsB (qid : Nat) (s : State) : Bool :=
  onCell s fun c => c.tk.wait == some ⟨qid, 0, 0, 0⟩ && c.tk.fired && !c.tk.trapped && !c.w.halted

theorem wit_EventsOfAgents_tasks :
    let r := taskSt onePort id id fun k => { toks [dataTok] [] k with fired := false }
    let l := at_ (2 ^ 21) (taskSt { onePort with lines := [(0, 1)] } id id fun k => { toks [dataTok] [] k with fired := false, lineSince := some 0 })
    let m := taskSt onePort id id fun k => { toks [{ dataTok with release := true }] [] k with fired := false }
    let b := { waits 0x61 with fab := { State.reset.fab with barriers := [⟨3, 0, 5, [(.task k0, false)], []⟩] } }
    onCell r (fun c => c.ready r && c.emptyInput == none) = true ∧
    onCell l (fun c => c.ready l && c.emptyInput == some 0 && c.tk.lineSince == some 0 && decide (0 + c.n.limit ≤ l.cyc c.st.die)) = true ∧
    (([true, false] : List Bool).all fun e => onCell (task id fun k => { k with pend := some { Pend.none with endt := e } }) fun c =>
      c.tk.pend == some { Pend.none with endt := e } && !c.tk.trapped) = true ∧
    (([true, false] : List Bool).all fun e => onCell (task id fun k => { k with trapped := true, pend := some { Pend.none with endt := e } }) fun c =>
      c.tk.pend == some { Pend.none with endt := e } && c.tk.trapped) = true ∧
    onCell m (fun c => c.ready m && c.emptyInput == none && c.firesOnMark) = true ∧ onCell r (fun c => !c.firesOnMark) = true ∧
    taskWaitsB 0x3E (waits 0x3E) = true ∧ ownLimit 0x3E = false ∧ onCell (waits 0x3E) (fun c => !(c.blazeEnds (waits 0x3E) ⟨0x3E, 0, 0, 0⟩)) = true ∧
    taskWaitsB 48 (waits 48) = true ∧ ownLimit 48 = false ∧ onCell (waits 48) (fun c => !(c.blazeEnds (waits 48) ⟨48, 0, 0, 0⟩)) = true ∧
    taskWaitsB 0x3D (waits 0x3D) = true ∧ taskWaitsB 0x61 b = true ∧
    (b.fab.barriers.find? fun x => x.holds (.task k0)) = some ⟨3, 0, 5, [(.task k0, false)], []⟩ ∧ 0x61 = barrierObject 3 := by decide

theorem wit_EventsOfAgents_contexts :
    let w (x : SeqWait) : State := tensors (standSt id fun c => { c with run := .waiting, wait := some (x, 0) })
    let ok (x : SeqWait) : Nat × Bool := outcome (waitNow (w x) ((w x).ctx q0) x)
    (([.queue 0 0, .trapq 0, .timeline 0 false 0, .barrier (some true), .scmd 0, .switch, .segment] : List SeqWait).map ok) = List.replicate 7 (0, true) ∧
    (([.queue 0 16, .trapq 1, .timeline 0 true 1, .tag (refOf 5 0) (((tensors State.reset).entry? 0 1).getD 0), .barrier none] : List SeqWait).map ok) = List.replicate 5 (0, false) ∧
    ok (.tag (refOf 4 0) (((tensors State.reset).entry? 0 1).getD 0)) = (5, false) ∧
    (([.queue 0 0, .trapq 1, .barrier none] : List SeqWait).all fun x => ((w x).ctx q0).run == .waiting && ((w x).ctx q0).wait == some (x, 0)
      && decide (0 ≤ (w x).cyc q0.die)) = true ∧
    (let s := (w (.scmd 0)).updStand 0 fun t => t.updEng 0 fun g => { g with
        cmds := List.replicate 16 (cmdOf 0 none none) }
     outcome (waitNow s (s.ctx q0) (.scmd 0)) = (0, false)) ∧
    (let s := (w .switch).updStand 0 fun t => { t with switchTo := some 1 }
     outcome (waitNow s (s.ctx q0) .switch) = (0, false)) ∧
    (let s := rootSt fun c => { c with event := some (7, 1), tvec := 8 }
     (s.ctx q0).event = some (7, 1) ∧ (s.ctx q0).tvec ≠ 0 ∧ (s.ctx q0).h = false ∧ (s.ctx q0).run = .running ∧ (s.ctx q0).limm = none) ∧
    (let s := rootSt fun c => { c with event := some (7, 1), tvec := 8, run := .waiting, pc := 4, limm := some (1, 0) }
     (s.ctx q0).event = some (7, 1) ∧ (s.ctx q0).tvec ≠ 0 ∧ (s.ctx q0).h = false ∧ (s.ctx q0).run = .waiting ∧ (s.ctx q0).here = 0) := by decide

/-- A wave under way. -/
def wave (done : Bool) (pubs : List HeldPub) (snaps : List Weave) (engs : List Eng) (fl : WaveFlags) : Wave :=
  ⟨1, fl, 0, snaps, engs, none, [], [], [], [], 0, done, pubs⟩

theorem wit_EventsOfWaves_weaves :
    let s := at_ (2 ^ 17) (task busy2 id)
    let c := taskSt onePort id id fun k => { toks [ctlTok 8 0] [] k with fired := false }
    let snap := taskSt noPorts (fun t => { t with wave := some (wave false [] [] [] { WaveFlags.none with halt := true }) }) id fun k => { k with fired := false }
    ((s.stand? 0).any fun t => ((t.weave k0.pos).mults.find? fun m => m.tile == 2).isSome && decide (0 ≤ t.retry) && decide (t.retry < 4)) = true ∧
    ((c.stand? 0).any fun t => t.status == .resident && (t.weaves.find? fun w => w.pos == k0.pos).any fun w => !w.halted
      && ctxcHeads (tasksOf t w w.actx) == [some 0] && (tasksOf t w w.actx).all fun x => !x.1.fired) = true ∧
    (evict k0.weave (fun x => x.cell == 0 && x.line == 0) s).isSome = true ∧
    ((snap.stand? 0).any fun t => (t.weaves.any fun w => w.pos == k0.pos && snapDue snap t w)
      && ((flushL1 k0.weave snap).stand? 0).any fun t1 => t1.wave.isSome) = true := by decide

theorem wit_EventsOfWaves_windows :
    let idle := at_ (2 ^ 17) (taskSt allPorts (fun t => { t with cop := { t.cop with pend := true } }) id id)
    let turns := at_ (2 ^ 17) ((taskSt allPorts (fun t => { t with kern := { t.kern with gmax := 1, fits := [0, 1] }, cop := { t.cop with
        ops := 1, pin := true, pgrn := 1 } }) id id).updCtx q0 fun c => { c with block := some 1 })
    (([idle, at_ (2 ^ 17) (task id id)] : List State).all fun x => (x.stand? 0).any fun t => t.status == .resident
      && decide (t.cop.winStart + 2 ^ t.cop.wcur ≤ x.cyc t.die) && (t.cop.pend || t.cop.ops == 0 && t.cop.bytes == 0)) = true ∧
    ((turns.stand? 0).any fun t => decide (t.cop.winStart + 2 ^ t.cop.wcur ≤ turns.cyc t.die) && !t.cop.pend && t.cop.ops != 0
      && (t.cop.decide t.kern.grains t.g).2 == some 2 && (turns.ctx t.ctx).block != none
      && ((turns.updCtx q0 fun c => { c with block := none }).ctx t.ctx).block == none) = true := by decide

theorem wit_EventsOfWaves_waves :
    let whole (h : Bool) := taskSt noPorts (fun t => { t with wave := some (wave false [] t.weaves t.engs { WaveFlags.none with halt := h }) }) id id
    let p : HeldPub := ⟨false, 0, 3, 0, 1, 0, 0, ⟨0, 0, 0, 0⟩, 0, 1⟩
    let done := taskSt noPorts (fun t => { t with wave := some (wave true [p] t.weaves t.engs WaveFlags.none) }) id id
    let per := at_ (2 ^ 20) ((task id id).updVf 0 fun v => { v with cfg := { v.cfg with blzper := 18 } })
    (([false, true] : List Bool).all fun h => ((whole h).stand? 0).any fun t => t.wave.any fun x => !x.committed && waveWhole t x && x.flags.halt == h) = true ∧
    ((done.stand? 0).any fun t => t.wave.any fun x => x.committed && x.pubs == [p] && !(pubsLeft done t.id)) = true ∧
    ((per.stand? 0).any fun t => t.status == .resident && t.wave == none && t.waveReq == none && t.isHeld == none
      && (per.vf t.vf).cfg.blzper.toNat % 32 != 0 && decide (t.lastWaveAt + 2 ^ max 16 ((per.vf t.vf).cfg.blzper.toNat % 32) ≤ per.cyc t.die)) = true := by decide

/-- VF 0 with its first GiB mapped one to one by the tables at address 4096. -/
def paged (s : State) : State :=
  State.updVf { s with mem := ((s.mem.store 0x1000 (bytesLE 8 0x2001) false).store 0x2000 (bytesLE 8 0x3001) false).store 0x3000 (bytesLE 8 0x1B) false } 0
    fun v => { v with mem := { v.mem with ptroot := 0x1001, part := ⟨16, [], []⟩ } }

/-- A file placed at address 65536, which VF 0's loader registers name. -/
def object (n size : Nat) (s : State) : State :=
  paged (State.updVf { s with mem := s.mem.store 0x10000 (bytesLE size n) false } 0 fun v => { v with
    load := { v.load with kladdr := 0x10000, klsize := BitVec.ofNat 64 size } })

/-- A header (R79): kid, sections, sequencer entry 0; the section table follows it. -/
def fileHead (kid nsec : Nat) : Nat := 0x30464F4D + 2 ^ 32 + nsec * 2 ^ 48 + kid * 2 ^ 64 + 0x20000 * 2 ^ 128 + 64 * 2 ^ 256

/-- A section-table entry (R80). -/
def sect (kind count off size : Nat) : Nat := kind + count * 2 ^ 32 + off * 2 ^ 64 + size * 2 ^ 96

/-- A kernel of kid 7 whose one node has one input port and the text CC.ENDT (R82 to R84). -/
def kernelFile : Nat :=
  fileHead 7 2 + (sect 3 1 96 168 + sect 6 1 272 4 * 2 ^ 128) * 2 ^ 512
    + (1 + 1 * 2 ^ 32 + 168 * 2 ^ 64) * 2 ^ 768
    + (1 * 2 ^ 300 + 1 * 2 ^ 340 + (2 ^ 31 + 1 * 2 ^ 16 + 4 * 2 ^ 8) * 2 ^ 384) * 2 ^ 1024
    + 0x8D * 2 ^ 56 * 2 ^ 2048
    + 0xF0000004 * 2 ^ 2176

/-- A root program whose text is HALT (R103). -/
def rootFile : Nat := fileHead 0 2 + (sect 6 1 96 4 + sect 7 0 96 0 * 2 ^ 128) * 2 ^ 512 + 0xF0000004 * 2 ^ 768

/-- The file that the loader registers name, with its bytes. -/
def fileOf (s : State) (f : State → List Byte → Obj → Bool) : Bool :=
  (s.vf 0).load.pending == none && (s.vf 0).load.kladdr.toNat % 64 == 0 &&
  (match s.vfBytes 0 (s.vf 0).load.kladdr.toNat ((s.vf 0).load.klsize.toNat % 2 ^ 32) with
    | some bs => f s bs ⟨natOfBytesLE bs, bs.length⟩
    | none => false)

set_option exponentiation.threshold 2400 in
set_option maxRecDepth 20000 in
theorem wit_EventsOfLoader_kernel :
    let s := object kernelFile 276 State.reset
    let used := s.updVf 0 fun v => { v with load := { v.load with kernels := [{ bareKernel [] [] 0 with kid := 7 }] } }
    (([s, used] : List State).all fun x => fileOf x fun s bs o => o.formatOk false && (kernelChecks (addMeasure 0 bs s) 0 o bs).isNone
      && (installTens o.tensors (s.vf 0).tens.table).any (fun table => o.kernel.tags.all (tagOk table)) && (o.relocated (dataBase (addMeasure 0 bs s) 0 o)).isSome
      && (assignIds s 0 o.kernel.routes.length).isSome && (dataPlaces s 0 o).isSome) = true ∧
    fileOf s (fun s _ o => (s.kernel? 0 o.kid).isNone) = true ∧ fileOf used (fun s _ o => (s.kernel? 0 o.kid).isSome) = true ∧
    fileOf (object kernelFile 276 (State.reset.updVf 0 fun v => { v with load := { v.load with klpol := 1 } })) (fun s bs o =>
      o.formatOk false && kernelChecks s 0 o bs == some 0x21) = true := by decide

set_option exponentiation.threshold 2400 in
set_option maxRecDepth 20000 in
theorem wit_EventsOfLoader :
    let vf (f : Vf → Vf) : State := State.reset.updVf 0 f
    let tt (n : Nat) (w : BitVec 256) : State := vf fun v => { v with tens := { v.tens with
      ttidx := BitVec.ofNat 64 n, ttw0 := w.extractLsb' 0 64, ttw1 := w.extractLsb' 64 64, ttw2 := w.extractLsb' 128 64, ttw3 := w.extractLsb' 192 64 } }
    let kern (f : VfLoad → VfLoad) : State := vf fun v => { v with load := f { v.load with
      kernels := [{ bareKernel [] [] 0 with kid := 7 }] } }
    malformedEntry ((tt 1 (2 ^ 242)).vf 0).tens.staged = true ∧ malformedEntry ((tt 1 ((entry 2).getD 0)).vf 0).tens.staged = false ∧
    ((tt 1 0).vf 0).tens.ttidx.toNat % 4096 = 1 ∧ ((tt 0 0).vf 0).tens.ttidx.toNat % 4096 = 0 ∧
    (lookupNat 1 ((tensors (tt 1 0)).vf 0).tens.table).isSome = true ∧
    ((vf fun v => { v with load := { v.load with kladdr := 1 } }).vf 0).load.kladdr.toNat % 64 ≠ 0 ∧ (State.reset.vf 0).load.pending = none ∧
    fileOf State.reset (fun _ _ o => !(o.formatOk false) && !(o.formatOk true)) = true ∧
    fileOf (object rootFile 100 State.reset) (fun s bs o => o.formatOk true && signOk s 0 o bs && o.descriptorOk && o.kernel.textOk) = true ∧
    State.reset.kernel? 0 7 = none ∧ ((kern id).kernel? 0 7).isSome = true ∧ (kern id).stands = [] ∧ (kern id).recsOf 0 = [] ∧
    ((kern fun l => { l with klkid := 7 }).vf 0).load.klkid.toNat % 65536 = 7 ∧
    ((vf fun v => { v with load := { v.load with pending := some (0, 0) } }).vf 0).load.pending = some (0, 0) ∧
    ((vf fun v => { v with load := { v.load with pending := some (0, 0) }, root := some ⟨q0, []⟩ }).vf 0).root = some ⟨q0, []⟩ ∧
    ((vf fun v => { v with root := some ⟨q0, []⟩ }).vf 0).load.pending = none := by decide

/-- A publication or advance of the stand that waits first at die 0. -/
def homeAt (advance : Bool) (ref : W64) : State :=
  (tensors (taskSt allPorts id id id)).updDie 0 fun d => { d with homeq := [⟨0, 0, ⟨advance, ref, 3, 0, 1, 0, 0, ⟨0, 0, 0, 0⟩, 0, 1⟩⟩] }

/-- The state without what waits there. -/
def homeless (s : State) : State := s.updDie 0 fun d => { d with homeq := [] }

/-- A record of VF v for kid n, of a class. -/
def recOf (id v n cls : Nat) : Rec := ⟨id, v, BitVec.ofNat 1024 (n * 2 ^ 48), .eligible, [], cls, 0, 0, 0⟩

set_option exponentiation.threshold 2400 in
theorem wit_EventsOfTags :
    let s := tensors State.reset
    let note := State.reset.updDie 0 fun d => { d with notes := [⟨0, 1, 0, 0⟩] }
    let ready := taskSt allPorts id id id
    let disp := (ready.updCtx q0 fun c => { c with bind := .stand 0, run := .idle }).updDie 0 fun d => { d with recs := [recOf 0 0 1 0] }
    s.tensor? 0 (refTid 0) = none ∧ ((s.tensor? 0 (refTid (refOf 5 0))).any fun e => e.p && e.tiles == 1 && e.gen == 5) = true ∧
    refTile (refOf 5 1) = 1 ∧ refTile (refOf 4 0) = 0 ∧ refGen (refOf 4 0) = 4 ∧
    (([false, true] : List Bool).all fun a => ((homeAt a (refOf 5 0)).die 0).homeq.length == 1) = true ∧
    (publish 0 (some 0) (refOf 5 0) (homeless (homeAt false (refOf 5 0)))).2.cause = none ∧
    (publish 0 (some 0) 0 (homeless (homeAt false 0))).2.cause = some 8 ∧
    (advance 0 (refTid (refOf 5 0)) (homeless (homeAt true (refOf 5 0)))).2 = none ∧ (advance 0 0 (homeless (homeAt true 0))).2 = some 8 ∧
    (note.die 0).notes = [⟨0, 1, 0, 0⟩] ∧ State.reset.cyc 0 % 2048 = 0 ∧
    ((disp.stand? 0).any fun t => t.die == 0 && t.accepts (disp.ctx t.ctx)
      && (bestRec ((disp.die 0).recs.filter fun r => r.st == .eligible && t.canRun r)).isSome) = true := by decide

/-- A kernel of the whole die. -/
def dieKernel (kid : Nat) : Kernel := { bareKernel [] [] 0 with kid := kid, w := 16, h := 8, images := [] }

/-- A resident stand of VF 0 that fills die 0, with a block whose record is of class 1; VF 1 has a kernel of that size, quota
and room to save it, and an old record of class 0. -/
def fullDie : State :=
  let t := { Stand.placed 0 0 0 0 0 1 0 (dieKernel 1) q0 [] [] 0 0 with blocks := [⟨9, 1, 0, 0, 0, 0, [], .fed⟩] }
  let s := { State.reset with stands := [t], nextStand := 1 }.setCtx { SeqCtx.unbound q0 with bind := .stand 0 }
  (at_ (2 ^ 20) s).updVf 1 (fun v => { v with load := { v.load with kernels := [dieKernel 2] }, cfg := { v.cfg with cquota := 128, savesz := 0xFFFF } })
    |>.updDie 0 fun d => { d with recs := [recOf 8 1 2 0, { recOf 9 0 1 1 with st := .dispatched }] }

set_option exponentiation.threshold 2400 in
set_option maxRecDepth 8000 in
theorem wit_EventsOfPlacement :
    let out := (fullDie.updStand 0 fun t => { t with status := .suspended }).updVf 0 fun v => { v with cfg := { v.cfg with cquota := 128 } }
    let free := { (fullDie.setCtx (SeqCtx.unbound q0)) with stands := [] }
    (fittingSuspended out 0).isSome = true ∧ fittingSuspended fullDie 0 = none ∧ fittingSuspended free 0 = none ∧
    ((requests free 0).findSome? fun r => satisfyRequest 0 r free).isSome = true ∧
    requests fullDie 0 = [recOf 8 1 2 0] ∧ satisfyRequest 0 (recOf 8 1 2 0) fullDie = none ∧
    fullDie.kernel? 1 (recKid (recOf 8 1 2 0).word) = some (dieKernel 2) ∧ withinQuota fullDie 1 0 (dieKernel 2) = true ∧
    saveFits fullDie 1 (dieKernel 2) = true ∧ 2 ^ 20 ≤ fullDie.cyc 0 ∧ findSite fullDie 0 (dieKernel 2) [] = none ∧
    (corners.all fun p => (boxMoves fullDie 0 (dieKernel 2) p.1 p.2).isNone) = true ∧
    (fullDie.residents 0).length = 1 ∧ ((fullDie.stand? 0).any fun t => t.target == .none && !(t.isIdle fullDie) && t.kern.kid != 2
      && t.isHeld == none && fitsWithout fullDie t (dieKernel 2)
      && t.blocks.any fun b => (fullDie.die 0).recs.any fun x => x.id == b.recId && decide (1 ≤ x.cls)) = true ∧
    ((requests fullDie 0).find? fun r => r.cls == 0 && decide (2 ^ 20 ≤ fullDie.cyc 0 - r.elig)) = some (recOf 8 1 2 0) ∧
    (let s := fullDie.updDie 0 fun d => { d with recs := d.recs.map fun r => if r.id = 9 then { r with cls := 0 } else r }
     ((requests s 0).find? fun r => r.cls == 0 && decide (2 ^ 20 ≤ s.cyc 0 - r.elig)) = some (recOf 8 1 2 0) ∧
     ((s.stand? 0).any fun t => t.blocks.any fun b => (s.die 0).recs.any fun x => x.id == b.recId && decide (1 ≤ x.cls)) = false) ∧
    State.reset.svc.chMigrating = none ∧ ({ State.reset with svc := { State.reset.svc with chMigrating := some 1 } }).svc.chMigrating ≠ none ∧
    (State.reset.vf 0).cfg.slice.toNat % 2 ^ 48 = 0 ∧
    (let w := (at_ 4 State.reset).updVf 0 fun v => { v with timer := 5, cfg := { v.cfg with slice := 5 } }
     (w.vf 0).cfg.slice.toNat % 2 ^ 48 ≠ 0 ∧ (w.vf 0).cfg.slice.toNat % 2 ^ 48 ≤ (w.vf 0).timer) := by decide

/-! ### The fabric, memory, errors, the module -/

/-- A stand with switch settings, route 0 to the compartment east of it with identifier 5 and route 1 back to its own column, and a
token on the way. -/
def flightSt (sws : List SwitchSet) (rid route : Nat) (p : Place) : State :=
  let s := taskSt { allPorts with col := 6 } (fun t => { t with
    kern := { t.kern with routes := [.cell 1 0 0 0 0, .cell 0 0 6 0 0], rids := PerDie.all [5, 5], images := t.kern.images.map fun im => { im with sws := sws } } }) id id
  { s with fab := { s.fab with flights := [⟨3, 0, ⟨0, 0, 6, 0⟩, 0, route, { dataTok with rid := rid }, p, 0⟩] } }

/-- A setting of box 96 that takes route 0 from the bus to the east, on a track of a class. -/
def fromBus (cls : Nat) : SwitchSet := ⟨96, 1, cls, 0, true, 0, 0, 0, 0⟩

/-- A setting of the box at (1, 0) for a token from the west. -/
def fromWest : SwitchSet := ⟨16, 1, 0, 0, false, 3, 0, 0, 0⟩

/-- A property of the token and its stand. -/
def onFlight (s : State) (g : Flight → Stand → Bool) : Bool :=
  (headFlight s 3).any fun f => (s.stand? f.stand).any fun t => g f t

theorem wit_EventsOfFabric_tracks :
    let hop := flightSt [fromBus 0] 5 0 .bus
    let far := flightSt [fromBus 1] 5 0 .bus
    let odd := flightSt [fromBus 0] 6 0 .bus
    let lat := flightSt [fromWest] 5 0 (.latch 1 0 1 0 0)
    (([hop, odd] : List State).map fun s => onFlight s fun f t => !(f.arrived t) && busSetting t f == some (fromBus 0, 6, 0)
      && (f.tok.rid == t.rid 0)) = [true, false] ∧
    onFlight odd (fun f t => !(f.arrived t) && busSetting t f == some (fromBus 0, 6, 0) && f.tok.rid != t.rid 0) = true ∧
    onFlight hop (fun f t => followTrack hop t.die f.tok.rid 1 1 6 0 == .site 7 0 && decide (latchLoad hop t.die (.latch 7 0 1 0 0) < 2)) = true ∧
    onFlight far (fun f t => !(f.arrived t) && busSetting t f == some (fromBus 1, 6, 0)
      && followTrack far t.die f.tok.rid 1 (trackLen 1) 6 0 == .dropped ⟨0, 1, 0, 0, 3, false⟩) = true ∧
    onFlight lat (fun f t => !(f.arrived t) && (settingsAt lat t.die 1 0).any (fun x => latchSetting x.2 1 0 1 0 0 == some fromWest
      && f.tok.rid == x.1.rid 0) && followTrack lat t.die f.tok.rid 1 1 1 0 == .site 2 0) = true := by decide

theorem wit_EventsOfFabric :
    let home := flightSt [] 5 1 .bus
    let away := flightSt [] 5 0 .bus
    let latch := flightSt [fromBus 0] 5 0 (.latch 8 0 1 0 0)
    let pk (d : PktDst) : State := (State.updVf { home with fab := { home.fab with packets := [⟨4, 0, some 0, 0, .eng ⟨0, 0⟩, 0, d, dataTok⟩] } } 0
      fun v => { v with cfg := { v.cfg with rset := v.cfg.rset.set 0 (2 ^ 12) } })
    let cell : PktDst := .cell 0 0 0 6 0 0
    let rides (a b : Ride) : State := (at_ (2 ^ 16) State.reset).updDie 0 fun d => { d with rides := [a, b, b, b] }
    (([home, latch] : List State).all fun s => onFlight s fun f t => f.arrived t && (t.dst? f.route).isSome && (destColumn t f.route).isSome
      && (f.place != .bus || (t.dst? f.route).any fun d => s.lets t.id d f.tok.rid)) = true ∧
    onFlight away (fun f t => f.arrived t && f.place == .bus && (t.dst? f.route).any fun d => !(away.lets t.id d f.tok.rid)) = true ∧
    (([.eng ⟨0, 0⟩, cell] : List PktDst).all fun d => ((unpacked (pk d) 4).queueAt d).isSome) = true ∧ (pk cell).admits 0 0 0 0 = true ∧
    (at_ 1024 State.reset).cyc 0 = 1024 ∧
    (rides ⟨true, none, 0, false, some 0⟩ ⟨false, none, 0, false, none⟩).ride 0 0 = ⟨true, none, 0, false, some 0⟩ ∧ 0 + 256 ≤ (rides ⟨true, none, 0, false, none⟩ ⟨false, none, 0, false, none⟩).cyc 0 ∧
    (rides ⟨true, none, 0, true, none⟩ ⟨true, none, 0, false, none⟩).rideBusy 0 1 = false ∧
    (rides ⟨true, none, 0, false, none⟩ ⟨false, none, 0, false, none⟩).ride 0 0 = ⟨true, none, 0, false, none⟩ ∧
    (rides ⟨true, none, 0, false, none⟩ ⟨false, none, 0, false, none⟩).ride 0 1 = ⟨false, none, 0, false, none⟩ ∧ rideBound State.reset 1 = false ∧
    (rides ⟨true, none, 0, false, none⟩ ⟨false, some 4096, 0, false, none⟩).ride 0 1 = ⟨false, some 4096, 0, false, none⟩ ∧
    (rides ⟨true, none, 0, true, none⟩ ⟨true, none, 0, false, none⟩).ride 0 1 = ⟨true, none, 0, false, none⟩ ∧
    stillCongested (rides ⟨true, none, 0, true, none⟩ ⟨true, none, 0, false, none⟩) 0 0 = false ∧ State.reset.fab.packets = [] ∧
    ((lookupNat 256 (storeNat 256 (2 : W64) [])).getD 0).toNat % 65536 = 2 := by decide

/-- Slice 0 of die 0 with a line, a request and requests under way, for the engine of a stand. -/
def sliceSt (lines : List Nat) (queue filling : List SliceReq) : State :=
  (engSt (.skNopc ⟨0, 0, 0, 0, 0, 0, 0, 0, 0, 0, 0, 0⟩) 0 0 none [] [] 0 0).setSlice ⟨⟨0, 0⟩, lines, queue, filling⟩

theorem wit_EventsOfMemory :
    let r : SliceReq := ⟨0, ⟨0, 0⟩, 1, 7, 7, 0⟩
    let no := (sliceSt [] [r] []).updVf 0 fun v => { v with mem := { v.mem with part := ⟨0, [], []⟩ } }
    let h := State.reset.updVf 0 fun v => { v with mem := { v.mem with part := ⟨16, [], []⟩ }, cfg := { v.cfg with memsz := 65536 } }
    (([sliceSt [7] [r] [], sliceSt [] [r] []] : List State).map fun s => ((s.slice ⟨0, 0⟩).queue == [r], (s.stand? 0).any fun t =>
      (s.vf t.vf).mem.part.has ⟨0, 0⟩, (s.slice ⟨0, 0⟩).lines.contains 7)) = [(true, true, true), (true, true, false)] ∧
    (no.slice ⟨0, 0⟩).queue = [r] ∧ ((no.stand? 0).any fun t => !((no.vf t.vf).mem.part.has ⟨0, 0⟩)) = true ∧
    isHost (128 * 7) = false ∧ ((sliceSt [] [] [r]).slice ⟨0, 0⟩).filling.filter (fun r => r.line == 7) = [r] ∧ isHost (128 * 2 ^ 44) = true ∧
    tlbHit ((paged State.reset).vf 0).mem.tlbs 0 64 = none ∧ (walk (paged State.reset).mem (((paged State.reset).vf 0).mem.reaches State.reset.svc.memtop) ((paged State.reset).vf 0).mem.ptroot 64).isSome = true ∧
    ((State.reset.updVf 0 fun v => { v with mem := { v.mem with pcmdBusy := true } }).vf 0).mem.pcmdBusy = true ∧
    (findPage (paged State.reset).mem State.reset.svc.memtop ((paged State.reset).vf 0).mem 0 64).isSome = true ∧
    State.reset.sliceBarred (homeSlice ((paged State.reset).vf 0).mem.part (128 * 7)) = false ∧
    hostRange h 0 8 4 = some 8 ∧ h.memHeld 0 = false ∧ (busyPcmd h).memHeld 0 = true ∧ HostAccess.holder 0 (.read 8 4) = some 0 ∧
    HostAccess.holder 0 (.register (.vf 0) 0x120 8) = some 0 ∧ HostAccess.holder 0 (.register .pf 0x340 8) = none ∧
    (admitReqs (sliceSt [] [] [])).slice ⟨0, 0⟩ = ⟨⟨0, 0⟩, [], [], []⟩ ∧ ((admitReqs (sliceSt [] [r] [])).slice ⟨0, 0⟩).queue = [r] := by decide

theorem wit_EventsOfErrors :
    let ift (stat : W64) (q : List (Nat × Bool × Nat)) (c : Option (Nat × Bool × Nat)) : State := State.reset.withIft ⟨stat, q, c⟩
    let mig := { State.reset with svc := { State.reset.svc with chMigrating := some 3 } }
    let tr := { State.reset with svc := { State.reset.svc with linkTraining := [2] } }
    let hurt := taskSt allPorts id id id
    ((⟨0, false, 0, 1, true, .none⟩ : ErrReport)).corrected = true ∧ ErrSite.always .none = false ∧ isHost 64 = false ∧ isHost (2 ^ 51) = true ∧
    (((countError 0 0 0 hurt).stand? 0).any fun t => decide (t.retry < 4)) = true ∧ issuing (countError 0 0 0 hurt) k0 = true ∧ State.reset.cyc 0 % 2 ^ (State.reset.pf.errwin.toNat % 64) = 0 ∧
    State.reset.svc.ift.stat.toNat % 4 ≠ 1 ∧ State.reset.svc.ift.stat.toNat % 4 ≠ 2 ∧ (0x100 : W32).getLsbD 8 = true ∧
    (ift 1 [(0, false, 3)] none).svc.ift.queue = [(0, false, 3)] ∧ (ift 1 [(0, false, 3)] none).unowned (0, false, 3) = true ∧
    (ift 1 [(0, false, 3)] none).svc.ift.queue.find? (fun u => (ift 1 [(0, false, 3)] none).unowned u || u.2.1) = some (0, false, 3) ∧
    (ift 2 [] (some (0, false, 3))).svc.ift.current = some (0, false, 3) ∧
    (0x83 : W32).toNat % 64 = 3 ∧ (0x83 : W32).getLsbD 7 = true ∧ State.reset.svc.chMigrating = none ∧ State.reset.svc.chActive.getLsbD 3 = true ∧
    mig.svc.chMigrating = some 3 ∧ mig.stands = [] ∧ tr.svc.linkTraining.contains 2 = true := by decide

theorem wit_EventsOfModule :
    let busy := paged (State.reset.updVf 0 fun v => { v with atBusy := some 65536 })
    let lost := State.reset.updVf 0 fun v => { v with atBusy := some 65536, mem := { v.mem with ptroot := 0x1001, part := ⟨16, [], []⟩ } }
    let ro : State := { paged lost with mem := (paged lost).mem.store 0x3000 (bytesLE 8 0x0B) false }
    State.reset.svc.fwSwitch = false ∧ fwFailed State.reset.pf.fwstat = 0 ∧ fwFailed (fwWord 0 0 0 2) = 2 ∧ State.reset.svc.fwPending = none ∧
    (State.reset.vf 0).atBusy = none ∧ (busy.vf 0).atBusy = some 65536 ∧ (busy.vfBytes 0 65536 64).isSome = true ∧
    (busy.vfRange 0 (65536 + 64) (332 + 64 * (busy.vf 0).load.measures.length) .write).isSome = true ∧
    (ro.vf 0).atBusy = some 65536 ∧ (ro.vfBytes 0 65536 64).isSome = true ∧ ro.vfRange 0 (65536 + 64) 332 .write = none ∧
    State.reset.svc.keyPending = none ∧ State.reset.pf.keyaddr.toNat + 132 ≤ 2 ^ 51 ∧
    (∀ img, Config.firmwareSigned img = true ∨ Config.firmwareSigned img = false) := by
  refine ⟨by decide, by decide, by decide, by decide, by decide, by decide, by decide, by decide, by decide, by decide, by decide, by decide, by decide, ?_⟩
  intro img
  cases Config.firmwareSigned img
  · exact Or.inr rfl
  · exact Or.inl rfl

/-! ### The whole machine -/

/-- A state whose next turn is t. -/
def turnOf (t : Turn) (s : State) : State := { s with agenda := [t] }

theorem wit_WholeMachine :
    Safe State.reset ∧ Takes (turnOf (.seq q0) (rootSt id)) { rootSt id with agenda := [] } (.seq q0) ∧ ((rootSt id).ctx q0).run = .running ∧
    ((rootSt id).ctx q0).pc % 4 = 0 ∧ ((rootSt id).ctx q0).text[((rootSt id).ctx q0).pc / 4]? = some 0 := by
  refine ⟨⟨by decide, by decide⟩, ⟨[], rfl, by decide, rfl⟩, by decide, by decide, by decide⟩

theorem wit_StepRunsDecoded :
    let t := task id id
    let e := engSt (.skNopc ⟨0, 0, 0, 0, 0, 0, 0, 0, 0, 0, 0, 0⟩) 0 0 none [] [] 0 0
    let down := { State.reset with svc := { State.reset.svc with down := true }, agenda := [.seq q0] }
    ((decodeSeq 0x01545201).toOption.isSome && (decodeSeq 0x2C000000).toOption.isNone) = true ∧
    onCell t (fun c => Task.mayIssue c.w c.tk && c.n.text[c.tk.pc]? == some 0) = true ∧ (decodeCell 0x8D00000000000000).toOption.isSome = true ∧
    (match decodeCell 0xFF00000000000000 with | .error .illegal => true | _ => false) = true ∧
    (match decodeCell (cgWord 0x8D ⟨0, 1, 0, 0, 0, 0, 0, 0, 0, 0, 0, 0⟩) with | .error .reservedField => true | _ => false) = true ∧
    refusedCause allPorts (cgWord 0x8D ⟨0, 1, 0, 0, 0, 0, 0, 0, 0, 0, 0, 0⟩) .reservedField = 0x02 ∧
    (parseCell (cgWord 0 ⟨0, 52, 48, 9, 1, 0, 0, 0, 0, 0, 0, 0⟩)).isSome = true ∧ refusedCause noPorts (cgWord 0 ⟨0, 52, 48, 9, 1, 0, 0, 0, 0, 0, 0, 0⟩) .reservedField = 0x01 ∧
    onCmd e (fun x => !x.g.halted && passDue x.st x.g == none && mayWork x.st x.g x.c && x.c.started) = true ∧
    onCmd (oneStand State.reset [] [cmdOf (0x11 <<< 120) none none] false) (fun x =>
      !x.g.halted && passDue x.st x.g == none && mayWork x.st x.g x.c && !x.c.started && (decodeSkid x.c.word).isSome) = true ∧
    (([.event .moduleReset, .due (.taskFire k0), .due (.seqWaitSatisfied q0), .due (.waveComplete 0)] : List Turn).all fun x =>
      (turnOf x State.reset).agenda == [x] && !(turnOf x State.reset).svc.down) = true ∧
    down.svc.down = true ∧ down.agenda = [.seq q0] ∧ State.reset.agenda = [] := by decide

theorem wit_DecodeEncode :
    (Instr.srAluAdd ⟨1, 2, 3, 0⟩).wf = true ∧ (encode (.srAluAdd ⟨1, 2, 3, 0⟩)).isSome = true ∧
    ((encode (.srAluAdd ⟨1, 2, 3, 0⟩)).bind decode) = some (.srAluAdd ⟨1, 2, 3, 0⟩) := by decide

theorem wit_MemoryLaws : Memory.empty.wf = true ∧ (Memory.empty.setByte 4 1).wf = true ∧ (4 : Nat) ≤ 4 * (4 / 4) := by decide

/-! ## Witnesses: clauses beside those above -/

theorem wit_SeqWaits_kept :
    let s := tensors State.reset
    let e := (entry 1).getD 0
    (tensorEntry e).v = true ∧ waitQuery s 0 (refOf 5 0) e = some 0 ∧ waitQuery (landed s) 0 (refOf 5 0) e = some 1 ∧
    waitQuery s 0 (refOf 4 0) e = some 2 ∧ waitQuery s 0 (refOf 6 0) e = some 3 ∧ waitQuery s 0 (refOf 5 1) e = none := by decide

theorem wit_SeqTagPublish_refused :
    let x (v : W64) : State := tensors (standSt id fun c => reg 0x11 v { c with block := some 1 })
    (([4096, 4, 2] : List W64).all fun v => seqMayB (x v) q0 (.srTagg ⟨0, 0x11, 0, 0⟩) false [0x11] && ((x v).ctx q0).pred 0
      && ((x v).ctx q0).block == some 1 && (regV (x v) q0 0x11) == v) = true ∧
    ((x 4).ctx q0).bind = .stand 0 ∧ (x 4).tensor? 0 4 = none ∧ ((x 2).tensor? 0 2).map (·.p) = some false := by decide

theorem wit_SeqContextControl_room :
    let x (n : Nat) : State := { taskSt onePort id id (toks (List.replicate n dataTok) []) with actor := .seq q0 }.updCtx q0 fun c =>
      { c with bind := .stand 0, run := .running, text := [0, 0, 0, 0] }
    (([0, 4] : List Nat).all fun n => seqMayB (x n) q0 (.sxCtxCond ⟨0x11, 0⟩) false [0x11] && ((x n).ctx q0).bind == .stand 0
      && decide ((regV (x n) q0 0x11).toNat < 4)) = true ∧
    ((x 0).stand? 0).map (ctxcRoom (x 0)) = some true ∧ ((x 4).stand? 0).map (ctxcRoom (x 4)) = some false := by decide

theorem wit_CellMatrixLoads_links :
    let f (aux : BitVec 6) : CG := ⟨0, 2, if aux = 4 then 0 else 6, if aux = 4 then 0 else 9, if aux = 4 then 0 else 11, 0, 0, 0, 0, 0, aux, 0⟩
    let lk (ty : BitVec 4) : Link := ⟨ty, 1, [], []⟩
    let lead := task (fun w => { multArgs 0 w with chain := 2, link := some (lk 0) }) id
    let foll (l : Option Link) : State := taskSt allPorts (fun t => { t with weaves := t.weaves ++ t.weaves.map fun w =>
        { w with pos := ⟨0, 0, 1, 0⟩, chain := 2, link := l } }) (fun w => { multArgs 0 w with leader := some ⟨0, 0, 1, 0⟩ }) id
    mayTask (.cxMma (f 2)) lead = true ∧ onCell lead (fun c => c.w.link != none && c.w.chain != 0) = true ∧
    (([none, some (lk 0), some (lk 4)] : List (Option Link)).all fun l => mayTask (.cxMma (f 4)) (foll l) && onCell (foll l) fun c =>
      c.w.leader == some ⟨0, 0, 1, 0⟩ && multTypes c.w (f 4) false && c.st.wave == none && linkOffer c.st c.w == l
        && !(c.w.linkWaits .take) && !(c.w.linkWaits .place)) = true ∧
    mayTask (.cxMma (f 0)) (task (multArgs 5) id) = true ∧ onCell (task (multArgs 5) id) (fun c => !(multTypes c.w (f 0) false)) = true := by decide

theorem wit_CellMatrixReads_types :
    let int (w : Weave) : Weave := (args 0 0 128 w).setTile 2 ⟨true, [], [], [], 0⟩
    let g : CG := ⟨10, 5, 2, 9, 0, 8, 0, 0, 0, 0, 3, 0⟩
    let s := task int id
    mayTask (.cxMrd g) s = true ∧ mayTask (.cxMscl ⟨10, 2, 6, 9, 11, 0, 0, 0, 0, 0, 1, 0⟩) s = true ∧
    mayTask (.cxMbfy ⟨10, 2, 6, 9, 11, 0, 0, 0, 0, 0, 0, 0⟩) s = true ∧
    onCell s (fun c => (c.w.tile 2).int && !(c.w.tile 3).int) = true ∧ (tensorEntry ((entry 1).getD 0)).rsoff = 0xFFFF := by decide

theorem wit_CellControl_traps :
    let f (ty : BitVec 4) (d a b c : Code6) (e : Code6) (aux : BitVec 6) : CG := ⟨ty, d, a, b, c, e, 0, 0, 0, 0, aux, 0⟩
    let s := task id id
    let four := task (lane 6 0 3) fun k => { k with loops := List.replicate 4 ⟨0, 3, 2, 2⟩ }
    let inner := task id fun k => { k with loops := [⟨0, 1, 2, 2⟩] }
    let tired := task id fun k => { k with branches := 2 ^ 20 }
    let far := task (lane 9 0 1) id
    mayTask (.ccLoop (f 0 0 6 0 0 2 0)) (task (bad 6 0) id) = true ∧
    onCell (task (bad 6 0) id) (fun c => poisonedLane (cellSrc c (.ccLoop (f 0 0 6 0 0 2 0)) 0) [0, 1] == some 0) = true ∧
    (([(s, 0), (s, 8), (inner, 2), (four, 2)] : List (State × Code6)).all fun p => mayTask (.ccLoop (f 0 0 6 0 0 p.2 0)) p.1
      && onCell p.1 fun c => c.tk.pc == 0) = true ∧ disp12 (f 0 0 6 0 0 0 0) = 0 ∧ disp12 (f 0 0 6 0 0 2 0) = 2 ∧ disp12 (f 0 0 6 0 0 8 0) = 8 ∧
    onCell s (fun c => c.n.text.length == 8 && c.tk.loops == []) = true ∧ onCell inner (fun c => c.tk.loops == [⟨0, 1, 2, 2⟩]) = true ∧
    onCell four (fun c => c.tk.loops.length == 4) = true ∧ mayTask (.ccLbrk (f 0 0 0 0 0 0 0)) s = true ∧
    (([f 0 0 0 0 0 8 0] : List CG).all fun g => mayTask (.ccBra g) s && mayTask (.ccJmp g) s) = true ∧
    mayTask (.ccBra (f 0 0 0 0 0 0 0)) tired = true ∧ mayTask (.ccJmp (f 0 0 0 0 0 0 0)) tired = true ∧
    onCell tired (fun c => decide (c.n.limit ≤ c.tk.branches)) = true ∧
    mayTask (.ccTlw (f 0 0 6 9 11 0 0)) (task (lane 6 0 512) id) = true ∧ mayTask (.ccTlw (f 0 0 6 9 11 0 0)) far = true ∧
    onCell far (fun c => tlwPoison (f 0 0 6 9 11 0 0) c == none && arg0 c (.ccTlw (f 0 0 6 9 11 0 0)) 1 == 1
      && (c.st.eng? 0).any fun e => e.count false == 0) = true := by decide

/-- A state's command with changes. -/
def cmdSt (f : Cmd → Cmd) (s : State) : State := s.updStand 0 fun t => t.updEng 0 fun g => { g with cmds := g.cmds.map f }

theorem wit_SkidTileCommands_due :
    let g : Skid := ⟨0, 2, 1, 0, 0, 0, 0, 0, 0, 0, 0, 0⟩
    let f : Skid := ⟨0, 1, 2, 0, 0, 0, 0, 0, 0, 0, 0, 0⟩
    let got := cmdSt (fun c => { c with kept := [(([0, 0, 0, 0], [0, 0, 0, 0]), (1, false))] }) (engSt (.skCpygl g) 2 1 (some []) [] [] 0 0)
    let late := cmdSt (fun c => { c with kept := [(([0, 0, 0, 0], [0, 0, 0, 0]), (1, false))] }) (engSt (.skCpygl g) 2 1 (some [0]) [] [] 0 0)
    mayCmd (.skCpygl g) got = true ∧ mayCmd (.skCpygl g) late = true ∧
    (([(got, true), (late, false), (engSt (.skCpygl g) 2 1 (some []) [] [] 0 0, false), (engSt (.skCpygl g) 2 1 (some [0]) [] [] 0 0, false)]
      : List (State × Bool)).all fun p => onCmd p.1 fun x => (match x.c.srcSide, x.c.dstSide with
        | some a, some b => ((x.c.due a b).1.isEmpty != p.2) && (!p.2 || wroteOk (putEls x.key x.c b ((x.c.due a b).1.map (·.1.2))
            ((x.c.due a b).1.map fun y => ⟨y.2.1.toNat, y.2.2⟩) p.1))
        | _, _ => false)) = true ∧
    (([Instr.skCpylg f, .skCpygg f] : List Instr).all fun i => onCmd (busyPcmd (engSt i 1 2 none [] [] 0 0)) fun x =>
      x.c.isHeld (busyPcmd (engSt i 1 2 none [] [] 0 0)) x.st && !x.g.halted && decodeSkid x.c.word == some i) = true := by decide

set_option maxRecDepth 4000 in
theorem wit_SkidStreamCommands_rows :
    let f : Skid := ⟨0, 3, 3, 0, 0, 0, 0, 0, 0, 0, 0, 0⟩
    let two : Skid := { f with t0 := 2 }
    let lanes (l : List W32) : Tok := Tok.fit ⟨0, l.map fun v => ⟨v, false⟩, false, 0, false⟩
    let dest (e : W32) : State := engSt (.skDisp two) 3 3 none [lanes [e * 2 ^ 24]] [] 0 0
    let last : State := engSt (.skDisp two) 3 3 none [lanes [2 ^ 24]] [] 2 0
    let cm (hd : List W32) : State := (engSt (.skCmbn two) 3 3 none [ctlTok 1 0] [lanes hd, dataTok, dataTok] 0 0)
    (([dest 0, dest 1, dest 2, last, unmapped (dest 0)] : List State).all fun s => mayCmd (.skDisp two) s && onCmd s fun x =>
      x.c.srcSide.any fun a => tokensFor a.e.width (a.e.x 0) + 1 == 3 && decide (0 < a.e.rows) && s.routeSlots x.st 0 != 0) = true ∧
    onCmd (dest 0) (fun x => x.c.srcSide.any fun a => (readEls (dest 0) x.st a (tokenPart a.e.width 0 (rowIxs a.e 0))).toOption.isSome
      && (readEls (unmapped (dest 0)) x.st a (tokenPart a.e.width 0 (rowIxs a.e 0))).toOption.isNone) = true ∧
    (([cm [0, 0, 0, 1], cm [0, 0, 0, 2]] : List State).all fun s => mayCmd (.skCmbn two) s && onCmd s fun x => x.c.dstSide.any fun b =>
      ceilDiv (b.e.x 0) 16 == 2 && wroteOk (writeEls x.key b (rowIxs b.e 0) ((upTo (b.e.x 0)).map (cmbEl b.e [])) s)) = true ∧
    (([(0, ⟨0, false⟩, [])] : List (Nat × Lane × List Lane)).Pairwise (fun y z => y.1 < z.1) ∧
      ∀ q ∈ ([(0, ⟨0, false⟩, [])] : List (Nat × Lane × List Lane)), q.1 ≠ 1) := by decide

theorem wit_SkidStreamCommands_coll :
    let f : Skid := ⟨0, 3, 2, 0, 0, 0, 0, 0, 0, 0, 0, 0⟩
    let at_ (st : CollStage) (s : State) : State := { s with fab := { State.reset.fab with colls := [⟨0, 3, 2, 0, 0, [], some (⟨0, 0⟩, 1), st⟩] } }
    let s := engSt (.skColl f) 3 2 none [] [] 0 0
    (([.issued, .contributed, .sent, .joined] : List CollStage).all fun st => mayCmd (.skColl f) (at_ st s)
      && ((myPart? (at_ st s) ⟨0, 0⟩ 1).map (·.stage)) == some st) = true ∧
    onCmd (at_ .issued s) (fun x => x.c.srcSide.any fun a => (readEls s x.st a (a.e.tileElems a.co)).toOption.isSome
      && (readEls (unmapped s) x.st a (a.e.tileElems a.co)).toOption.isNone) = true ∧
    mayCmd (.skColl f) (at_ .issued (unmapped s)) = true ∧
    (0 < collSize s 0 3 ∧ s.fab.colls.find? (fun p => p.matches 0 3 2 0 && p.rank == 0 && p.stage != .joined) = none) := by decide

theorem wit_EventsOfAgents_late :
    let s := task (fun w => { w with mults := [⟨1, 0, 2, 0, 0, 1, [], [], 0, some .take, 0⟩] }) id
    onCell s (fun c => (c.lateMult s).isSome) = true ∧ onCell (waits 48) (fun c => (c.lateMult (waits 48)).isNone) = true := by decide

theorem wit_EventsOfWaves_links :
    let m (l : Option LinkWait) : List Mult := [⟨1, 0, 2, 0, 0, 1, [], [[]], 0, l, 0⟩]
    let lead (l : Option Link) : State := task (fun w => { w with chain := 2, link := l, mults := m (some .place) }) id
    let foll (l : Option Link) : State := taskSt allPorts (fun t => { t with weaves := t.weaves ++ t.weaves.map fun w =>
        { w with pos := ⟨0, 0, 1, 0⟩, chain := 2, link := l } }) (fun w => { w with leader := some ⟨0, 0, 1, 0⟩, mults := m (some .take) }) id
    (([lead none, lead (some ⟨0, 1, [], []⟩), foll none, foll (some ⟨0, 1, [], []⟩)] : List State).all fun s => (s.stand? 0).any fun t =>
      let w := t.weave k0.pos
      (w.mults.find? fun m => m.tile == 2).any fun m => w.mults.find? (fun x => x.link == m.link) == some m) = true ∧
    (((foll (some ⟨0, 1, [], []⟩)).stand? 0).bind fun t => linkOffer t (t.weave k0.pos)) = some ⟨0, 1, [], []⟩ ∧
    (((foll none).stand? 0).bind fun t => linkOffer t (t.weave k0.pos)) = none := by decide

theorem wit_EventsOfTags_held :
    let p := tensors State.reset
    p.memHeld 0 = false ∧ (busyPcmd p).memHeld 0 = true ∧
    (p.tensor? 0 1).map (fun e => (e.p, decide (0 < e.tiles), e.gen, (pubCheck p 0 none e 0).map (·.1))) = some (true, true, 5, some 7) := by decide

theorem wit_EventsOfFabric_waits :
    let pk (r : Option Nat) : Packet := ⟨4, 0, r, 0, .eng ⟨0, 0⟩, 0, .eng ⟨0, 0⟩, dataTok⟩
    (pk none).stays State.reset = true ∧ (pk (some 0)).stays State.reset = false ∧ State.reset.svc.linkUp = 0 ∧
    ({ State.reset with svc := { State.reset.svc with linkUp := 1 } }).svc.linkUp ≠ 0 := by decide

theorem wit_EventsOfMemory_empty :
    let v := { (State.reset.vf 0).mem with ptroot := 0x1001 }
    v.part.psize = 0 ∧ bitsAt v.ptroot.toNat 12 40 = 1 ∧ (∀ a, a / 4096 = 1 → isHost a = false) ∧ tlbHit v.tlbs 0 64 = none := by
  refine ⟨by decide, by decide, fun a h => ?_, by decide⟩
  have : a < 8192 := by omega
  simp only [isHost]
  have h2 : a / 2 ^ 51 = 0 := Nat.div_eq_of_lt (by omega)
  rw [h2]; rfl

theorem wit_EventsOfErrors_instr : let hurt := taskSt allPorts id id id
    ((countError 0 0 0 hurt).cell? k0).isSome = true := by decide

theorem wit_EventsOfModule_flash (n : Nat) : Config.flashFails n = true ∨ Config.flashFails n = false := by
  cases Config.flashFails n
  · exact Or.inr rfl
  · exact Or.inl rfl

theorem wit_StepRunsDecoded_cycle :
    (rootSt id).seqIssued q0 = false ∧ (rootSt fun c => { c with issued := some 0 }).seqIssued q0 = true := by decide

theorem wit_SeqMemory_held :
    let s := mapped (rootSt (reg 0x11 64))
    let t := mapped (standSt id (reg 0x11 64))
    (([64, 72] : List Nat).all fun a => !(seqHeld s (s.ctx q0) (.mem a)) && !(seqHeld t (t.ctx q0) (.mem a))) = true ∧
    seqHeld (busyPcmd s) ((busyPcmd s).ctx q0) (.mem 64) = true := by decide

theorem wit_CellMemoryOther_lines :
    let t : CM := ⟨15, 5, 2, 3, 0, 0, 0, 0, 0, 0⟩
    let s := mappedC (tensors (task (fun w => { lane 2 0 2 w with full := [0] }) id))
    onCell s (fun c => ([false, true] : List Bool).all fun st => match tileArgs c t (cellSrcs (if st then .cmStt t else .cmLdt t)) st
        (cellDrawn s c (if st then .cmStt t else .cmLdt t)) with
      | .ok x => (tileLines (cellTrans (cellDrawn s c (if st then .cmStt t else .cmLdt t)) c (if st then .write else .read)) x.e x.co).all
          fun l => !((cellDrawn s c (if st then .cmStt t else .cmLdt t)).accessHeld c.st.vf c.st.die (128 * l))
      | .error _ => false) = true := by decide

/-- A segment with more entries than it has room for on die 0. -/
theorem segFits_full (s : State) (t : Stand) (n : Nat) (r : List SegEnt) (hn : n = 16385)
    (h : (s.writtenBack t).segOn 0 = List.replicate n ⟨0, .op 0 4 [], .ctx, false⟩ ++ r) : s.segFits t = false := by
  have hc : decide (segEntries ((s.writtenBack t).segOn 0) ≤ segCapacity) = false := by
    rw [h, decide_eq_false_iff_not, segEntries, segLines_ops, List.filter_append, List.length_append]
    simp [SegOp.lineKey, segCapacity]
    omega
  unfold State.segFits
  rw [List.all_cons, hc, Bool.false_and]

/-- A task whose weave has an element to merge and whose stand's segment is full. -/
def fullSeg (n : Nat) : State :=
  taskSt allPorts (fun t => { t with seg := List.replicate n ⟨0, .op 0 4 [], .ctx, false⟩ })
    (fun w => { w with l1 := [⟨0, 0, .update 0 4 [(0, ⟨0, false⟩)]⟩] }) id

theorem wit_CellControl_full (n : Nat) (hn : n = 16385) : releaseWeave k0.weave (fullSeg n) = none := by
  have h : ∀ s t, s.segFits t = false → (if (some t).all s.segFits then some s else none : Option State) = none := by
    intro s t h
    simp [h]
  refine h _ _ (segFits_full _ _ n [⟨0, .op 0 4 [(0, 0, false)], .weave k0.pos, false⟩] hn ?_)
  have hf : ∀ (r : List SegEnt), (∀ e ∈ r, (e.die == 0) = true) → (r.filter fun e => e.die == 0) = r := fun r h => List.filter_eq_self.mpr h
  refine hf (List.replicate n ⟨0, .op 0 4 [], .ctx, false⟩ ++ [⟨0, .op 0 4 [(0, 0, false)], .weave k0.pos, false⟩]) ?_
  intro e he
  rcases List.mem_append.mp he with h | h
  · rw [List.eq_of_mem_replicate h]; rfl
  · rw [List.mem_singleton.mp h]; rfl

theorem wit_CellControl_fence (n : Nat) (hn : n = 16385) : ∃ c, CellMay (fullSeg n) c (.ccFenc ⟨0, 0, 0, 0, 0, 0, 0, 0, 0, 0, 6, 0⟩) ∧
    releaseWeave c.key.weave (cellDrawn (fullSeg n) c (.ccFenc ⟨0, 0, 0, 0, 0, 0, 0, 0, 0, 0, 6, 0⟩)) = none := by
  have h : ((fullSeg n).cell? k0).isSome = true := rfl
  have e : ∀ d : Deferred, ¬ d ∈ (((fullSeg n).cell? k0).get h).tk.deferred := fun d hd => List.not_mem_nil (a := d) hd
  refine ⟨((fullSeg n).cell? k0).get h, ⟨⟨rfl, (Option.some_get h).symm, rfl⟩, by decide, fun p hp => absurd hp List.not_mem_nil,
    fun d hd => absurd hd (e d), rfl, rfl, rfl, rfl, fun hs => absurd hs (by decide), fun hs => absurd hs (by decide)⟩, ?_⟩
  exact wit_CellControl_full n hn

set_option exponentiation.threshold 2400 in
set_option maxRecDepth 8000 in
theorem wit_EventsOfPlacement_victims :
    let poor := fullDie.updVf 1 fun v => { v with cfg := { v.cfg with cquota := 0 } }
    let tight := fullDie.updVf 1 fun v => { v with cfg := { v.cfg with savesz := 0 } }
    let free := { (fullDie.setCtx (SeqCtx.unbound q0)) with stands := [] }
    (victimFor fullDie 0 (recOf 8 1 2 0)).isSome = true ∧ withinQuota poor 1 0 (dieKernel 2) = false ∧
    asideFor tight 0 (recOf 8 1 2 0) = none ∧ saveFits tight 1 (dieKernel 2) = false ∧ (findSite free 0 (dieKernel 2) []).isSome = true ∧
    (([poor, tight, free] : List State).all fun s => (victimFor s 0 (recOf 8 1 2 0)).isNone && (s.kernel? 1 (recKid (recOf 8 1 2 0).word)).isSome) = true := by decide

end Sys2Proof.Tests
end

section
/-! Sequencer arithmetic and loop breaks (R173 to R175, R184): what each shared shape of an instruction does once the
context may execute it, then which shape each instruction of a family is. -/

namespace Sys2Proof.SeqProofs

open Sys2Proof Sys2Proof.Machine Sys2Proof.Claims
open Sys2Proof.Laws (runSeq_may runSeq_skipped)

variable {s : State} {q : SeqId} {i : Instr}

/-! ## The frame -/

/-- An unguarded instruction that may run takes its effect. -/
theorem runSeq_unguarded {p : Bool} {rs : List Code6} (h : SeqMay s q i p rs) (body : SeqCtx → State → SeqAns) :
    runSeq i ⟨p, none, rs⟩ body s = .next ((body (s.ctx q) s).apply q) :=
  runSeq_may h (fun g hg => absurd hg.symm (Option.some_ne_none g)) body

/-- A guarded instruction that may run takes its effect when its guard is true. -/
theorem runSeq_guarded {g : BitVec 3} {rs : List Code6} (h : SeqMay s q i false rs)
    (hg : (s.ctx q).pred g.toNat = true) (body : SeqCtx → State → SeqAns) :
    runSeq i (.sr g rs) body s = .next ((body (s.ctx q) s).apply q) :=
  runSeq_may h (fun _ hu => Option.some.inj hu ▸ hg) body

/-! ## The shapes of SR.ALU, SQ.CMP and the SI forms -/

theorem seqAlu2_may {f : SR} (h : SeqMay s q i false []) (hg : (s.ctx q).pred f.q.toNat = true) (fn : W64 → W64 → W64) :
    seqAlu2 i f fn s = .next (ctxPut s q f.d (fn (regV s q f.a) (regV s q f.b)) (regP s q f.a || regP s q f.b)) :=
  runSeq_guarded h hg _

theorem seqAlu1_may {f : SR} (h : SeqMay s q i false []) (hg : (s.ctx q).pred f.q.toNat = true) (fn : W64 → W64) :
    seqAlu1 i f fn s = .next (ctxPut s q f.d (fn (regV s q f.a)) (regP s q f.a)) :=
  runSeq_guarded h hg _

theorem seqAlu2_skipped {f : SR} (h : SeqMay s q i false []) (hg : (s.ctx q).pred f.q.toNat = false) (fn : W64 → W64 → W64) :
    seqAlu2 i f fn s = .next (ctxNext s q) :=
  runSeq_skipped h rfl hg _

theorem seqAlu1_skipped {f : SR} (h : SeqMay s q i false []) (hg : (s.ctx q).pred f.q.toNat = false) (fn : W64 → W64) :
    seqAlu1 i f fn s = .next (ctxNext s q) :=
  runSeq_skipped h rfl hg _

theorem seqCmp_may {f : SR} (h : SeqMay s q i false [f.a, f.b]) (hg : (s.ctx q).pred f.q.toNat = true) (cc : Nat) :
    seqCmp i f cc s = .next (ctxPutP s q f.d.toNat (seqCond cc (regV s q f.a) (regV s q f.b))) :=
  runSeq_guarded h hg _

theorem seqPred_may {f : SR} (h : SeqMay s q i false []) (hg : (s.ctx q).pred f.q.toNat = true) (fn : Bool → Bool → Bool) :
    seqPred i f fn s = .next (ctxPutP s q f.d.toNat (fn ((s.ctx q).pred f.a.toNat) ((s.ctx q).pred f.b.toNat))) :=
  runSeq_guarded h hg _

/-- R149: a pending SL.LIMM stands above the 14 bits of the instruction, 40 bits in all. -/
theorem imm_eq_immOf (c : SeqCtx) (x : BitVec 14) : c.imm x = immOf c x := by
  unfold SeqCtx.imm immOf
  cases c.limm with
  | none => rfl
  | some p =>
    have joined : (p.1 ++ x : BitVec 40) = BitVec.ofNat 40 (p.1.toNat * 2 ^ 14 + x.toNat) := by
      apply BitVec.eq_of_toNat_eq
      rw [BitVec.toNat_append, ← Nat.shiftLeft_add_eq_or_of_lt x.isLt, BitVec.toNat_ofNat, Nat.shiftLeft_eq]
      omega
    exact congrArg (BitVec.signExtend 64) joined

theorem seqImm_may {f : SI} (h : SeqMay s q i true []) (fn : W64 → W64 → W64) :
    seqImm i f fn s = .next (ctxPut s q f.d (fn (regV s q f.a) (immOf (s.ctx q) f.imm14)) (regP s q f.a)) := by
  rw [← imm_eq_immOf]
  exact runSeq_unguarded h _

theorem seqShift_may {f : SI} (h : SeqMay s q i false []) (fn : W64 → Nat → W64) :
    seqShift i f fn s = .next (ctxPut s q f.d (fn (regV s q f.a) (f.imm14.toNat % 64)) (regP s q f.a)) :=
  runSeq_unguarded h _

/-! ## The functions and conditions -/

/-- The upper half of a 128-bit number is its quotient by 2^64, rounded down. -/
theorem extractLsb'_upper_ofInt (z : Int) : (BitVec.ofInt 128 z).extractLsb' 64 64 = BitVec.ofInt 64 (z / 2 ^ 64) := by
  apply BitVec.eq_of_toNat_eq
  rw [BitVec.extractLsb'_toNat, BitVec.toNat_ofInt, BitVec.toNat_ofInt, Nat.shiftRight_eq_div_pow]
  omega

theorem mulHigh_eq (a b : W64) : mulHigh a b = BitVec.ofInt 64 (a.toInt * b.toInt / 2 ^ 64) := by
  rw [mulHigh, BitVec.signExtend, BitVec.signExtend, ← BitVec.ofInt_mul, extractLsb'_upper_ofInt]

theorem cmpiCond_eq_seqCond (cc : Nat) (a v : W64) : cmpiCond cc a v = seqCond cc a v :=
  match cc with
  | 0 | 1 | 2 | 3 | 4 | _ + 5 => rfl

/-! ## The instructions of each table -/

/-- Each function of R173's table is the two-operand shape with that function, once the table's comparisons and its MULH are
written in the model's spelling. -/
theorem exec_aluTable (f : SR) (s : State) : ∀ p ∈ aluTable, exec (p.1 f) s = seqAlu2 (p.1 f) f p.2 s := by
  simp only [aluTable, List.forall_mem_cons, ← BitVec.slt_iff_toInt_lt, ← BitVec.ult_iff_toNat_lt, ← mulHigh_eq]
  exact ⟨rfl, rfl, rfl, rfl, rfl, rfl, rfl, rfl, rfl, rfl, rfl, rfl, rfl, rfl, rfl, rfl, rfl, rfl, rfl, List.forall_mem_nil _⟩

theorem exec_srAluClz (f : SR) (s : State) :
    exec (.srAluClz f) s = seqAlu1 (.srAluClz f) f (fun a => BitVec.ofNat 64 (leadZeros 64 a.toNat)) s := rfl

theorem exec_srAluPopc (f : SR) (s : State) :
    exec (.srAluPopc f) s = seqAlu1 (.srAluPopc f) f (fun a => BitVec.ofNat 64 (popCount 64 a.toNat)) s := rfl

/-- R147: the predicate of SEL selects and does not guard. -/
theorem exec_srAluSel {f : SR} (h : SeqMay s q (.srAluSel f) false []) :
    exec (.srAluSel f) s = .next (ctxPut s q f.d (if (s.ctx q).pred f.q.toNat then regV s q f.a else regV s q f.b)
      (regP s q f.a || regP s q f.b)) := by
  rw [regV, regV, ← apply_ite Reg.v]
  exact runSeq_unguarded h _

/-- Each comparison of R174's table is the comparing shape with a code of that condition. -/
theorem exec_cmpTable (f : SR) (s : State) :
    ∀ p ∈ cmpTable, ∃ cc, p.2 = seqCond cc ∧ exec (p.1 f) s = seqCmp (p.1 f) f cc s := by
  simp only [cmpTable, List.forall_mem_cons]
  exact ⟨⟨0, rfl, rfl⟩, ⟨1, rfl, rfl⟩, ⟨2, rfl, rfl⟩, ⟨3, rfl, rfl⟩, ⟨4, rfl, rfl⟩, ⟨5, rfl, rfl⟩, List.forall_mem_nil _⟩

theorem exec_predTable (f : SR) (s : State) : ∀ p ∈ predTable, exec (p.1 f) s = seqPred (p.1 f) f p.2 s := by
  simp only [predTable, List.forall_mem_cons]
  exact ⟨rfl, rfl, rfl, List.forall_mem_nil _⟩

theorem exec_immTable (f : SI) (s : State) : ∀ p ∈ immTable, exec (p.1 f) s = seqImm (p.1 f) f p.2 s := by
  simp only [immTable, List.forall_mem_cons]
  exact ⟨rfl, rfl, rfl, rfl, List.forall_mem_nil _⟩

theorem exec_shiftTable (f : SI) (s : State) : ∀ p ∈ shiftTable, exec (p.1 f) s = seqShift (p.1 f) f p.2 s := by
  simp only [shiftTable, List.forall_mem_cons]
  exact ⟨rfl, rfl, rfl, List.forall_mem_nil _⟩

theorem exec_siCmpi {f : SI} (h : SeqMay s q (.siCmpi f) true [f.a]) :
    exec (.siCmpi f) s =
      .next (ctxPutP s q (f.d.toNat % 8) (cmpiCond (f.d.toNat / 8) (regV s q f.a) (immOf (s.ctx q) f.imm14))) := by
  rw [cmpiCond_eq_seqCond, ← imm_eq_immOf]
  exact runSeq_unguarded h _

theorem exec_siMovi {f : SI} (h : SeqMay s q (.siMovi f) true []) :
    exec (.siMovi f) s = .next (ctxPut s q f.d (immOf (s.ctx q) f.imm14) false) := by
  rw [← imm_eq_immOf]
  exact runSeq_unguarded h _

/-- The effect of SX.LBRK by the loop stack (R184). -/
theorem exec_sxLbrk {f : SX} (h : SeqMay s q (.sxLbrk f) false []) :
    exec (.sxLbrk f) s = .next (match (s.ctx q).loops with
      | [] => seqTrap q 0x01 (infoOf (.sxLbrk f)) s
      | l :: ls => ctxGo (s.setCtx { (s.ctx q) with loops := ls }) q (l.last + 4)) := by
  refine (runSeq_unguarded h _).trans ?_
  cases (s.ctx q).loops <;> rfl

/-! ## The obligations -/

/-- Settles O1: a function of the table is the two-operand shape, CLZ and POPC are the one-operand shape, and a guarded
shape whose guard is false is skipped. -/
theorem seqAluResult : Obligations.SeqAluResult := by
  unfold Obligations.SeqAluResult
  refine ⟨by decide, fun s q f => ⟨?table, ?clz, ?popc, exec_srAluSel, ?skipped⟩⟩
  case table =>
    intro p hp h hg
    rw [exec_aluTable f s p hp, seqAlu2_may h hg]
  case clz =>
    intro h hg
    rw [exec_srAluClz, seqAlu1_may h hg]
  case popc =>
    intro h hg
    rw [exec_srAluPopc, seqAlu1_may h hg]
  case skipped =>
    intro i hi h hg
    rcases List.mem_append.mp hi with hi | hi
    · obtain ⟨p, hp, rfl⟩ := List.mem_map.mp hi
      rw [exec_aluTable f s p hp, seqAlu2_skipped h hg]
    · obtain rfl | hi := List.mem_cons.mp hi
      · rw [exec_srAluClz, seqAlu1_skipped h hg]
      · obtain rfl := List.mem_singleton.mp hi
        rw [exec_srAluPopc, seqAlu1_skipped h hg]

/-- Settles O2: a comparison of the table compares by its condition's code, and a combination combines by its function. -/
theorem seqCmpResult : Obligations.SeqCmpResult := by
  unfold Obligations.SeqCmpResult
  refine ⟨by decide, fun _ _ => rfl, fun s q f hg => ⟨?compared, ?combined⟩⟩
  case compared =>
    intro p hp h
    obtain ⟨cc, hcond, hexec⟩ := exec_cmpTable f s p hp
    rw [hexec, hcond, seqCmp_may h hg]
  case combined =>
    intro p hp h
    rw [exec_predTable f s p hp, seqPred_may h hg]

/-- Settles O3: the forms with an immediate read it as R149 says, and the shift forms take six bits of the field. -/
theorem seqImmediateResult : Obligations.SeqImmediateResult := by
  unfold Obligations.SeqImmediateResult
  refine ⟨by decide, fun s q f => ⟨?imm, ?shift, exec_siCmpi, exec_siMovi⟩⟩
  case imm =>
    intro p hp h
    rw [exec_immTable f s p hp, seqImm_may h]
  case shift =>
    intro p hp h
    rw [exec_shiftTable f s p hp, seqShift_may h]

/-- Settles O17, by the case split of SX.LBRK on the loop stack. -/
theorem seqLoopBreak : Obligations.SeqLoopBreak := by
  unfold Obligations.SeqLoopBreak
  intro s q f h
  refine ⟨by decide, fun l ls hl => ?inLoop, fun hl => ?outside⟩
  case inLoop => rw [exec_sxLbrk h, hl]
  case outside => rw [exec_sxLbrk h, hl]

end Sys2Proof.SeqProofs
end

section
/-! Both memories stay in canonical form (R292 and the memory's own form): every meaning keeps it, so every turn does, and so
does the clock of a new cycle. -/

namespace Sys2Proof.SafeProofs

open Sys2Proof Sys2Proof.Machine Sys2Proof.Laws

/-- Every instruction and event keeps both memories in canonical form. -/
theorem outSafe_exec (i : Instr) {s : State} (h : Safe s) : outSafe (exec i s) :=
  match i with
  | .srAluAdd f => safe_execSrAluAdd f s h
  | .srAluSub f => safe_execSrAluSub f s h
  | .srAluMul f => safe_execSrAluMul f s h
  | .srAluMulh f => safe_execSrAluMulh f s h
  | .srAluDiv f => safe_execSrAluDiv f s h
  | .srAluDivn f => safe_execSrAluDivn f s h
  | .srAluRem f => safe_execSrAluRem f s h
  | .srAluRemn f => safe_execSrAluRemn f s h
  | .srAluAnd f => safe_execSrAluAnd f s h
  | .srAluOr f => safe_execSrAluOr f s h
  | .srAluXor f => safe_execSrAluXor f s h
  | .srAluAndn f => safe_execSrAluAndn f s h
  | .srAluShl f => safe_execSrAluShl f s h
  | .srAluShr f => safe_execSrAluShr f s h
  | .srAluSra f => safe_execSrAluSra f s h
  | .srAluMin f => safe_execSrAluMin f s h
  | .srAluMax f => safe_execSrAluMax f s h
  | .srAluMinn f => safe_execSrAluMinn f s h
  | .srAluMaxn f => safe_execSrAluMaxn f s h
  | .srAluClz f => safe_execSrAluClz f s h
  | .srAluPopc f => safe_execSrAluPopc f s h
  | .srAluSel f => safe_execSrAluSel f s h
  | .sqCmpEq f => safe_execSqCmpEq f s h
  | .sqCmpNe f => safe_execSqCmpNe f s h
  | .sqCmpLt f => safe_execSqCmpLt f s h
  | .sqCmpLe f => safe_execSqCmpLe f s h
  | .sqCmpLtn f => safe_execSqCmpLtn f s h
  | .sqCmpLen f => safe_execSqCmpLen f s h
  | .sqCmpQand f => safe_execSqCmpQand f s h
  | .sqCmpQor f => safe_execSqCmpQor f s h
  | .sqCmpQnot f => safe_execSqCmpQnot f s h
  | .siAddi f => safe_execSiAddi f s h
  | .siAndi f => safe_execSiAndi f s h
  | .siOri f => safe_execSiOri f s h
  | .siXori f => safe_execSiXori f s h
  | .siShli f => safe_execSiShli f s h
  | .siShri f => safe_execSiShri f s h
  | .siSrai f => safe_execSiSrai f s h
  | .siCmpi f => safe_execSiCmpi f s h
  | .siMovi f => safe_execSiMovi f s h
  | .siLdb f => safe_execSiLdb f s h
  | .siLdh f => safe_execSiLdh f s h
  | .siLdw f => safe_execSiLdw f s h
  | .siLdd f => safe_execSiLdd f s h
  | .siStb f => safe_execSiStb f s h
  | .siSth f => safe_execSiSth f s h
  | .siStw f => safe_execSiStw f s h
  | .siStd f => safe_execSiStd f s h
  | .saAmoAdd f => safe_execSaAmoAdd f s h
  | .saAmoMin f => safe_execSaAmoMin f s h
  | .saAmoMax f => safe_execSaAmoMax f s h
  | .saAmoAnd f => safe_execSaAmoAnd f s h
  | .saAmoOr f => safe_execSaAmoOr f s h
  | .saAmoXchg f => safe_execSaAmoXchg f s h
  | .saAmoCas f => safe_execSaAmoCas f s h
  | .sbBr f => safe_execSbBr f s h
  | .sbBz f => safe_execSbBz f s h
  | .sjJmp disp26 => safe_execSjJmp disp26 s h
  | .sjCall disp26 => safe_execSjCall disp26 s h
  | .sxRet f => safe_execSxRet f s h
  | .srJrJump f => safe_execSrJrJump f s h
  | .srJrCall f => safe_execSrJrCall f s h
  | .sbLoop f => safe_execSbLoop f s h
  | .sxLbrk f => safe_execSxLbrk f s h
  | .srWaitQueue f => safe_execSrWaitQueue f s h
  | .srWaitTimeline f => safe_execSrWaitTimeline f s h
  | .srWaitTag f => safe_execSrWaitTag f s h
  | .sxFence f => safe_execSxFence f s h
  | .sxBar f => safe_execSxBar f s h
  | .srTagp f scope => safe_execSrTagp f scope s h
  | .srTagq f => safe_execSrTagq f s h
  | .srTagg f => safe_execSrTagg f s h
  | .srTlrdR f => safe_execSrTlrdR f s h
  | .srTlrdV f => safe_execSrTlrdV f s h
  | .ssScmd f => safe_execSsScmd f s h
  | .ssLnch f => safe_execSsLnch f s h
  | .sxGrn f => safe_execSxGrn f s h
  | .srRng f => safe_execSrRng f s h
  | .sxSysCsrrd f => safe_execSxSysCsrrd f s h
  | .sxSysCsrwr f => safe_execSxSysCsrwr f s h
  | .sxSysTrap f => safe_execSxSysTrap f s h
  | .sxSysEret f => safe_execSxSysEret f s h
  | .sxSysHalt f => safe_execSxSysHalt f s h
  | .sxSysYield f => safe_execSxSysYield f s h
  | .sxWinSave f => safe_execSxWinSave f s h
  | .sxWinRestore f => safe_execSxWinRestore f s h
  | .sxWinFlush f => safe_execSxWinFlush f s h
  | .sxCtxCond f => safe_execSxCtxCond f s h
  | .sxCtxSwitch f => safe_execSxCtxSwitch f s h
  | .slLimm imm26 => safe_execSlLimm imm26 s h
  | .cvAdd f => safe_execCvAdd f s h
  | .cvSub f => safe_execCvSub f s h
  | .cvMul f => safe_execCvMul f s h
  | .cvMulh f => safe_execCvMulh f s h
  | .cvMad f => safe_execCvMad f s h
  | .cvAdds f => safe_execCvAdds f s h
  | .cvSubs f => safe_execCvSubs f s h
  | .cvMin f => safe_execCvMin f s h
  | .cvMax f => safe_execCvMax f s h
  | .cvAbs f => safe_execCvAbs f s h
  | .cvNeg f => safe_execCvNeg f s h
  | .cvAnd f => safe_execCvAnd f s h
  | .cvOr f => safe_execCvOr f s h
  | .cvXor f => safe_execCvXor f s h
  | .cvAndn f => safe_execCvAndn f s h
  | .cvSel f => safe_execCvSel f s h
  | .cvShl f => safe_execCvShl f s h
  | .cvShr f => safe_execCvShr f s h
  | .cvSra f => safe_execCvSra f s h
  | .cvRot f => safe_execCvRot f s h
  | .cvClz f => safe_execCvClz f s h
  | .cvPopc f => safe_execCvPopc f s h
  | .cvCmp f => safe_execCvCmp f s h
  | .cvTest f => safe_execCvTest f s h
  | .cvMov f => safe_execCvMov f s h
  | .cvMovk f => safe_execCvMovk f s h
  | .cvDot4 f => safe_execCvDot4 f s h
  | .cvTdot f => safe_execCvTdot f s h
  | .cvCvti f => safe_execCvCvti f s h
  | .cvNzc f => safe_execCvNzc f s h
  | .cvBitr f => safe_execCvBitr f s h
  | .cvPset f => safe_execCvPset f s h
  | .cfFadd f => safe_execCfFadd f s h
  | .cfFsub f => safe_execCfFsub f s h
  | .cfFmul f => safe_execCfFmul f s h
  | .cfFfma f => safe_execCfFfma f s h
  | .cfFmin f => safe_execCfFmin f s h
  | .cfFmax f => safe_execCfFmax f s h
  | .cfFcmp f => safe_execCfFcmp f s h
  | .cfFabs f => safe_execCfFabs f s h
  | .cfFneg f => safe_execCfFneg f s h
  | .cfFcvt f => safe_execCfFcvt f s h
  | .cfFrnd f => safe_execCfFrnd f s h
  | .cfFcls f => safe_execCfFcls f s h
  | .cfFrcp f => safe_execCfFrcp f s h
  | .cfFrsq f => safe_execCfFrsq f s h
  | .cfFexp2 f => safe_execCfFexp2 f s h
  | .cfFlog2 f => safe_execCfFlog2 f s h
  | .cfFsig f => safe_execCfFsig f s h
  | .cfFtanh f => safe_execCfFtanh f s h
  | .cfFsinp f => safe_execCfFsinp f s h
  | .cfFcosp f => safe_execCfFcosp f s h
  | .clLred f => safe_execClLred f s h
  | .clLscn f => safe_execClLscn f s h
  | .clLshf f => safe_execClLshf f s h
  | .clLbrd f => safe_execClLbrd f s h
  | .clLcmp f => safe_execClLcmp f s h
  | .clRngx f => safe_execClRngx f s h
  | .cxMzero f => safe_execCxMzero f s h
  | .cxMldb f => safe_execCxMldb f s h
  | .cxMma f => safe_execCxMma f s h
  | .cxMmat f => safe_execCxMmat f s h
  | .cxMrd f => safe_execCxMrd f s h
  | .cxMdrn f => safe_execCxMdrn f s h
  | .cxMchn f => safe_execCxMchn f s h
  | .cxMbfy f => safe_execCxMbfy f s h
  | .cxTwg f => safe_execCxTwg f s h
  | .cxMscl f => safe_execCxMscl f s h
  | .cdDxld f => safe_execCdDxld f s h
  | .cdDxcf f => safe_execCdDxcf f s h
  | .cdDxrn f => safe_execCdDxrn f s h
  | .cdDxfn f => safe_execCdDxfn f s h
  | .cdDxch f => safe_execCdDxch f s h
  | .cmLd f => safe_execCmLd f s h
  | .cmSt f => safe_execCmSt f s h
  | .cmLdt f => safe_execCmLdt f s h
  | .cmStt f => safe_execCmStt f s h
  | .cmLdx f => safe_execCmLdx f s h
  | .cmUpd f => safe_execCmUpd f s h
  | .cmLock f => safe_execCmLock f s h
  | .cmUnlk f => safe_execCmUnlk f s h
  | .cmPft f => safe_execCmPft f s h
  | .cmLdbr f => safe_execCmLdbr f s h
  | .cmStbr f => safe_execCmStbr f s h
  | .cmFill f => safe_execCmFill f s h
  | .cmAtom f => safe_execCmAtom f s h
  | .cpRecv f => safe_execCpRecv f s h
  | .cpSend f => safe_execCpSend f s h
  | .cpPeek f => safe_execCpPeek f s h
  | .cpJoin f => safe_execCpJoin f s h
  | .cpFilt f => safe_execCpFilt f s h
  | .cpMrge f => safe_execCpMrge f s h
  | .cpSkip f => safe_execCpSkip f s h
  | .cpEos f => safe_execCpEos f s h
  | .cpCtxc f => safe_execCpCtxc f s h
  | .ccLoop f => safe_execCcLoop f s h
  | .ccLbrk f => safe_execCcLbrk f s h
  | .ccBra f => safe_execCcBra f s h
  | .ccJmp f => safe_execCcJmp f s h
  | .ccGrain f => safe_execCcGrain f s h
  | .ccTagp f => safe_execCcTagp f s h
  | .ccTlw f => safe_execCcTlw f s h
  | .ccFenc f => safe_execCcFenc f s h
  | .ccBarr f => safe_execCcBarr f s h
  | .ccYld f => safe_execCcYld f s h
  | .ccTrap f => safe_execCcTrap f s h
  | .ccRdsr f => safe_execCcRdsr f s h
  | .ccWrsr f => safe_execCcWrsr f s h
  | .ccEndt f => safe_execCcEndt f s h
  | .skCpygl f => safe_execSkCpygl f s h
  | .skCpylg f => safe_execSkCpylg f s h
  | .skCpygg f => safe_execSkCpygg f s h
  | .skGath f => safe_execSkGath f s h
  | .skScat f => safe_execSkScat f s h
  | .skDisp f => safe_execSkDisp f s h
  | .skCmbn f => safe_execSkCmbn f s h
  | .skRedc f => safe_execSkRedc f s h
  | .skFill f => safe_execSkFill f s h
  | .skPfmc f => safe_execSkPfmc f s h
  | .skLkmc f => safe_execSkLkmc f s h
  | .skUlmc f => safe_execSkUlmc f s h
  | .skColl f => safe_execSkColl f s h
  | .skStrm f => safe_execSkStrm f s h
  | .skSink f => safe_execSkSink f s h
  | .skBlaz f => safe_execSkBlaz f s h
  | .skNopc f => safe_execSkNopc f s h
  | .taskFire t => safe_execTaskFire t s h
  | .instructionCompletion t => safe_execInstructionCompletion t s h
  | .taskWaitExpired t => safe_execTaskWaitExpired t s h
  | .backwardBranchLimit t => safe_execBackwardBranchLimit t s h
  | .inputLineWaitExpired t => safe_execInputLineWaitExpired t s h
  | .matrixChunkComplete w tile badTries row => safe_execMatrixChunkComplete w tile badTries row s h
  | .vfWatchdogExpiry vf => safe_execVfWatchdogExpiry vf s h
  | .functionLevelReset vf => safe_execFunctionLevelReset vf s h
  | .ttCommit vf => safe_execTtCommit vf s h
  | .ttRead vf => safe_execTtRead vf s h
  | .kernelLoad vf => safe_execKernelLoad vf s h
  | .kernelUnload vf => safe_execKernelUnload vf s h
  | .rootProgramCreate vf => safe_execRootProgramCreate vf s h
  | .rootBlockLaunch vf => safe_execRootBlockLaunch vf s h
  | .lwpub vf ref => safe_execLwpub vf ref s h
  | .lwqref vf ref => safe_execLwqref vf ref s h
  | .publication die => safe_execPublication die s h
  | .tagNotification die => safe_execTagNotification die s h
  | .bitmapPoll die => safe_execBitmapPoll die s h
  | .generationAdvance die => safe_execGenerationAdvance die s h
  | .blockDispatch die stand => safe_execBlockDispatch die stand s h
  | .classPromotion die => safe_execClassPromotion die s h
  | .standPlacement die => safe_execStandPlacement die s h
  | .suspendedStandReplace die => safe_execSuspendedStandReplace die s h
  | .trackSegmentHop flight => safe_execTrackSegmentHop flight s h
  | .inputBusDelivery flight => safe_execInputBusDelivery flight s h
  | .ridePacketArrival packet => safe_execRidePacketArrival packet s h
  | .firebreakReport report => safe_execFirebreakReport report s h
  | .rideCongestion die ride => safe_execRideCongestion die ride s h
  | .ridePowerUp die ride => safe_execRidePowerUp die ride s h
  | .ridePowerDown die ride => safe_execRidePowerDown die ride s h
  | .ctxcSwitch w => safe_execCtxcSwitch w s h
  | .coppiceWindowEnd stand => safe_execCoppiceWindowEnd stand s h
  | .seqWaitSatisfied c => safe_execSeqWaitSatisfied c s h
  | .seqWaitExpired c => safe_execSeqWaitExpired c s h
  | .scmdQueueStallExpired c => safe_execScmdQueueStallExpired c s h
  | .ctxSwitchWaitExpired c => safe_execCtxSwitchWaitExpired c s h
  | .barrierExpired m => safe_execBarrierExpired m s h
  | .l1Eviction w cell line => safe_execL1Eviction w cell line s h
  | .sliceService sl => safe_execSliceService sl s h
  | .gddrFillReturn sl line => safe_execGddrFillReturn sl line s h
  | .translationWalk vf unit va => safe_execTranslationWalk vf unit va s h
  | .tlbinvAll vf => safe_execTlbinvAll vf s h
  | .tlbinvPage vf va => safe_execTlbinvPage vf va s h
  | .pcmd vf => safe_execPcmd vf s h
  | .trapEventDelivery c => safe_execTrapEventDelivery c s h
  | .tqhead c value => safe_execTqhead c value s h
  | .weaveSnapshot w => safe_execWeaveSnapshot w s h
  | .waveComplete stand => safe_execWaveComplete stand s h
  | .periodicBlaze stand => safe_execPeriodicBlaze stand s h
  | .preemptStarvation die => safe_execPreemptStarvation die s h
  | .vfsusp value => safe_execVfsusp value s h
  | .hardwareError e => safe_execHardwareError e s h
  | .errorWindowReset die => safe_execErrorWindowReset die s h
  | .growthRingFlush => safe_execGrowthRingFlush s h
  | .iftcmd value => safe_execIftcmd value s h
  | .iftStart => safe_execIftStart s h
  | .iftComplete passed => safe_execIftComplete passed s h
  | .chret value => safe_execChret value s h
  | .channelMigrationComplete => safe_execChannelMigrationComplete s h
  | .moduleReset => safe_execModuleReset s h
  | .fwVerifyWrite => safe_execFwVerifyWrite s h
  | .fwBankSwitch => safe_execFwBankSwitch s h
  | .atcmd vf => safe_execAtcmd vf s h
  | .lnkcmd value => safe_execLnkcmd value s h
  | .linkTrainingComplete port => safe_execLinkTrainingComplete port s h
  | .thermalTrip => safe_execThermalTrip s h
  | .evhead fn value => safe_execEvhead fn value s h
  | .vfrset die value => safe_execVfrset die value s h
  | .vfkeyInstall => safe_execVfkeyInstall s h
  | .vfkeyClear => safe_execVfkeyClear s h
  | .hostCxlMemAccess vf a => safe_execHostCxlMemAccess vf a s h
  | .registerWrite sp off x => safe_execRegisterWrite sp off x s h
  | .chiararexPacketArrival p => safe_execChiararexPacketArrival p s h
  | .hostMemoryReply e line => safe_execHostMemoryReply e line s h
  | .loaderCommandComplete vf => safe_execLoaderCommandComplete vf s h
  | .tlbInvalidationComplete vf => safe_execTlbInvalidationComplete vf s h
  | .pcmdComplete vf => safe_execPcmdComplete vf s h
  | .attestationReportComplete vf => safe_execAttestationReportComplete vf s h
  | .firmwareWriteComplete => safe_execFirmwareWriteComplete s h
  | .vfKeyCommandComplete => safe_execVfKeyCommandComplete s h
  | .powerLoss => safe_execPowerLoss s h
  | .growthRingHour r => safe_execGrowthRingHour r s h

/-- Every event that is due keeps both memories in canonical form. -/
theorem outSafe_runDue (d : Due) {s : State} (h : Safe s) : outSafe (runDue d s) :=
  match d with
  | .instructionCompletion t => safe_execInstructionCompletion t s h
  | .taskWaitExpired t => safe_execTaskWaitExpired t s h
  | .backwardBranchLimit t => safe_execBackwardBranchLimit t s h
  | .inputLineWaitExpired t => safe_execInputLineWaitExpired t s h
  | .barrierExpired m => safe_execBarrierExpired m s h
  | .taskFire t => safe_execTaskFire t s h
  | .matrixChunkComplete w tile => safe_execMatrixChunkComplete w tile 0 0 s h
  | .ctxcSwitch w => safe_execCtxcSwitch w s h
  | .weaveSnapshot w => safe_execWeaveSnapshot w s h
  | .waveComplete stand => safe_execWaveComplete stand s h
  | .coppiceWindowEnd stand => safe_execCoppiceWindowEnd stand s h
  | .periodicBlaze stand => safe_execPeriodicBlaze stand s h
  | .blockDispatch die stand => safe_execBlockDispatch die stand s h
  | .seqWaitSatisfied c => safe_execSeqWaitSatisfied c s h
  | .seqWaitExpired c => safe_execSeqWaitExpired c s h
  | .scmdQueueStallExpired c => safe_execScmdQueueStallExpired c s h
  | .ctxSwitchWaitExpired c => safe_execCtxSwitchWaitExpired c s h
  | .trapEventDelivery c => safe_execTrapEventDelivery c s h
  | .hostMemoryReply e line => safe_execHostMemoryReply e line s h
  | .gddrFillReturn sl line => safe_execGddrFillReturn sl line s h
  | .sliceService sl => safe_execSliceService sl s h
  | .loaderCommandComplete vf => safe_execLoaderCommandComplete vf s h
  | .rootBlockLaunch vf => safe_execRootBlockLaunch vf s h
  | .tlbInvalidationComplete vf => safe_execTlbInvalidationComplete vf s h
  | .pcmdComplete vf => safe_execPcmdComplete vf s h
  | .attestationReportComplete vf => safe_execAttestationReportComplete vf s h
  | .vfWatchdogExpiry vf => safe_execVfWatchdogExpiry vf s h
  | .publication die => safe_execPublication die s h
  | .generationAdvance die => safe_execGenerationAdvance die s h
  | .tagNotification die => safe_execTagNotification die s h
  | .bitmapPoll die => safe_execBitmapPoll die s h
  | .classPromotion die => safe_execClassPromotion die s h
  | .suspendedStandReplace die => safe_execSuspendedStandReplace die s h
  | .standPlacement die => safe_execStandPlacement die s h
  | .preemptStarvation die => safe_execPreemptStarvation die s h
  | .errorWindowReset die => safe_execErrorWindowReset die s h
  | .ridePowerUp die ride => safe_execRidePowerUp die ride s h
  | .ridePowerDown die ride => safe_execRidePowerDown die ride s h
  | .trackSegmentHop flight => safe_execTrackSegmentHop flight s h
  | .inputBusDelivery flight => safe_execInputBusDelivery flight s h
  | .ridePacketArrival packet => safe_execRidePacketArrival packet s h
  | .firebreakReport report => safe_execFirebreakReport report s h
  | .iftStart => safe_execIftStart s h
  | .channelMigrationComplete => safe_execChannelMigrationComplete s h
  | .firmwareWriteComplete => safe_execFirmwareWriteComplete s h
  | .vfKeyCommandComplete => safe_execVfKeyCommandComplete s h
  | .linkTrainingComplete port => safe_execLinkTrainingComplete port s h

theorem outSafe_runFetched {x : Fetched} (h : fetchSafe x) : outSafe (runFetched x) :=
  match x with
  | .idle _ => outSafe_next h
  | .run i _ => outSafe_exec i h

theorem outSafe_takeTurn (t : Turn) {s : State} (h : Safe s) : outSafe (takeTurn t s) := by
  have hn : Safe { s with actor := .none } := h
  unfold takeTurn
  split
  · exact outSafe_next h
  · cases t with
    | seq q => exact outSafe_runFetched (safe_fetchSeq q s h)
    | task k => exact outSafe_runFetched (safe_fetchTask k s h)
    | engine e => exact outSafe_runFetched (safe_fetchEngine e s h)
    | due d => exact outSafe_runDue d hn
    | event i => exact outSafe_exec i hn

theorem outSafe_step {s : State} (h : Safe s) : outSafe (step s) := by
  unfold step
  split
  · exact outSafe_next (safe_newCycle s h)
  · next t rest _ => exact outSafe_takeTurn t (s := { s with agenda := rest }) h

/-- Settles O57: a new cycle writes no memory, and every turn runs a meaning that keeps the canonical form. -/
theorem stepKeepsSafe : Obligations.StepKeepsSafe := by
  unfold Obligations.StepKeepsSafe
  intro s t hs ht
  have := outSafe_step hs
  rwa [ht] at this

end Sys2Proof.SafeProofs
end

section
/-! Decoding and encoding agree (R145, R153, R164): the word of an instruction is read back by the per-instruction lemmas of
Laws/PerInstr; for the other direction, each table of opcodes inverts the format of the instruction it names, and each
format's fields join to the word they were taken from. -/

namespace Sys2Proof.CodingProofs

open Sys2Proof Sys2Proof.Laws

/-! ## From instructions to words -/

/-- The word of every well-formed instruction decodes to it. -/
theorem decode_encode (i : Instr) : Laws.Coding.Statement i :=
  match i with
  | .srAluAdd f => Laws.Coding.srAluAdd f
  | .srAluSub f => Laws.Coding.srAluSub f
  | .srAluMul f => Laws.Coding.srAluMul f
  | .srAluMulh f => Laws.Coding.srAluMulh f
  | .srAluDiv f => Laws.Coding.srAluDiv f
  | .srAluDivn f => Laws.Coding.srAluDivn f
  | .srAluRem f => Laws.Coding.srAluRem f
  | .srAluRemn f => Laws.Coding.srAluRemn f
  | .srAluAnd f => Laws.Coding.srAluAnd f
  | .srAluOr f => Laws.Coding.srAluOr f
  | .srAluXor f => Laws.Coding.srAluXor f
  | .srAluAndn f => Laws.Coding.srAluAndn f
  | .srAluShl f => Laws.Coding.srAluShl f
  | .srAluShr f => Laws.Coding.srAluShr f
  | .srAluSra f => Laws.Coding.srAluSra f
  | .srAluMin f => Laws.Coding.srAluMin f
  | .srAluMax f => Laws.Coding.srAluMax f
  | .srAluMinn f => Laws.Coding.srAluMinn f
  | .srAluMaxn f => Laws.Coding.srAluMaxn f
  | .srAluClz f => Laws.Coding.srAluClz f
  | .srAluPopc f => Laws.Coding.srAluPopc f
  | .srAluSel f => Laws.Coding.srAluSel f
  | .sqCmpEq f => Laws.Coding.sqCmpEq f
  | .sqCmpNe f => Laws.Coding.sqCmpNe f
  | .sqCmpLt f => Laws.Coding.sqCmpLt f
  | .sqCmpLe f => Laws.Coding.sqCmpLe f
  | .sqCmpLtn f => Laws.Coding.sqCmpLtn f
  | .sqCmpLen f => Laws.Coding.sqCmpLen f
  | .sqCmpQand f => Laws.Coding.sqCmpQand f
  | .sqCmpQor f => Laws.Coding.sqCmpQor f
  | .sqCmpQnot f => Laws.Coding.sqCmpQnot f
  | .siAddi f => Laws.Coding.siAddi f
  | .siAndi f => Laws.Coding.siAndi f
  | .siOri f => Laws.Coding.siOri f
  | .siXori f => Laws.Coding.siXori f
  | .siShli f => Laws.Coding.siShli f
  | .siShri f => Laws.Coding.siShri f
  | .siSrai f => Laws.Coding.siSrai f
  | .siCmpi f => Laws.Coding.siCmpi f
  | .siMovi f => Laws.Coding.siMovi f
  | .siLdb f => Laws.Coding.siLdb f
  | .siLdh f => Laws.Coding.siLdh f
  | .siLdw f => Laws.Coding.siLdw f
  | .siLdd f => Laws.Coding.siLdd f
  | .siStb f => Laws.Coding.siStb f
  | .siSth f => Laws.Coding.siSth f
  | .siStw f => Laws.Coding.siStw f
  | .siStd f => Laws.Coding.siStd f
  | .saAmoAdd f => Laws.Coding.saAmoAdd f
  | .saAmoMin f => Laws.Coding.saAmoMin f
  | .saAmoMax f => Laws.Coding.saAmoMax f
  | .saAmoAnd f => Laws.Coding.saAmoAnd f
  | .saAmoOr f => Laws.Coding.saAmoOr f
  | .saAmoXchg f => Laws.Coding.saAmoXchg f
  | .saAmoCas f => Laws.Coding.saAmoCas f
  | .sbBr f => Laws.Coding.sbBr f
  | .sbBz f => Laws.Coding.sbBz f
  | .sjJmp disp26 => Laws.Coding.sjJmp disp26
  | .sjCall disp26 => Laws.Coding.sjCall disp26
  | .sxRet f => Laws.Coding.sxRet f
  | .srJrJump f => Laws.Coding.srJrJump f
  | .srJrCall f => Laws.Coding.srJrCall f
  | .sbLoop f => Laws.Coding.sbLoop f
  | .sxLbrk f => Laws.Coding.sxLbrk f
  | .srWaitQueue f => Laws.Coding.srWaitQueue f
  | .srWaitTimeline f => Laws.Coding.srWaitTimeline f
  | .srWaitTag f => Laws.Coding.srWaitTag f
  | .sxFence f => Laws.Coding.sxFence f
  | .sxBar f => Laws.Coding.sxBar f
  | .srTagp f scope => Laws.Coding.srTagp f scope
  | .srTagq f => Laws.Coding.srTagq f
  | .srTagg f => Laws.Coding.srTagg f
  | .srTlrdR f => Laws.Coding.srTlrdR f
  | .srTlrdV f => Laws.Coding.srTlrdV f
  | .ssScmd f => Laws.Coding.ssScmd f
  | .ssLnch f => Laws.Coding.ssLnch f
  | .sxGrn f => Laws.Coding.sxGrn f
  | .srRng f => Laws.Coding.srRng f
  | .sxSysCsrrd f => Laws.Coding.sxSysCsrrd f
  | .sxSysCsrwr f => Laws.Coding.sxSysCsrwr f
  | .sxSysTrap f => Laws.Coding.sxSysTrap f
  | .sxSysEret f => Laws.Coding.sxSysEret f
  | .sxSysHalt f => Laws.Coding.sxSysHalt f
  | .sxSysYield f => Laws.Coding.sxSysYield f
  | .sxWinSave f => Laws.Coding.sxWinSave f
  | .sxWinRestore f => Laws.Coding.sxWinRestore f
  | .sxWinFlush f => Laws.Coding.sxWinFlush f
  | .sxCtxCond f => Laws.Coding.sxCtxCond f
  | .sxCtxSwitch f => Laws.Coding.sxCtxSwitch f
  | .slLimm imm26 => Laws.Coding.slLimm imm26
  | .cvAdd f => Laws.Coding.cvAdd f
  | .cvSub f => Laws.Coding.cvSub f
  | .cvMul f => Laws.Coding.cvMul f
  | .cvMulh f => Laws.Coding.cvMulh f
  | .cvMad f => Laws.Coding.cvMad f
  | .cvAdds f => Laws.Coding.cvAdds f
  | .cvSubs f => Laws.Coding.cvSubs f
  | .cvMin f => Laws.Coding.cvMin f
  | .cvMax f => Laws.Coding.cvMax f
  | .cvAbs f => Laws.Coding.cvAbs f
  | .cvNeg f => Laws.Coding.cvNeg f
  | .cvAnd f => Laws.Coding.cvAnd f
  | .cvOr f => Laws.Coding.cvOr f
  | .cvXor f => Laws.Coding.cvXor f
  | .cvAndn f => Laws.Coding.cvAndn f
  | .cvSel f => Laws.Coding.cvSel f
  | .cvShl f => Laws.Coding.cvShl f
  | .cvShr f => Laws.Coding.cvShr f
  | .cvSra f => Laws.Coding.cvSra f
  | .cvRot f => Laws.Coding.cvRot f
  | .cvClz f => Laws.Coding.cvClz f
  | .cvPopc f => Laws.Coding.cvPopc f
  | .cvCmp f => Laws.Coding.cvCmp f
  | .cvTest f => Laws.Coding.cvTest f
  | .cvMov f => Laws.Coding.cvMov f
  | .cvMovk f => Laws.Coding.cvMovk f
  | .cvDot4 f => Laws.Coding.cvDot4 f
  | .cvTdot f => Laws.Coding.cvTdot f
  | .cvCvti f => Laws.Coding.cvCvti f
  | .cvNzc f => Laws.Coding.cvNzc f
  | .cvBitr f => Laws.Coding.cvBitr f
  | .cvPset f => Laws.Coding.cvPset f
  | .cfFadd f => Laws.Coding.cfFadd f
  | .cfFsub f => Laws.Coding.cfFsub f
  | .cfFmul f => Laws.Coding.cfFmul f
  | .cfFfma f => Laws.Coding.cfFfma f
  | .cfFmin f => Laws.Coding.cfFmin f
  | .cfFmax f => Laws.Coding.cfFmax f
  | .cfFcmp f => Laws.Coding.cfFcmp f
  | .cfFabs f => Laws.Coding.cfFabs f
  | .cfFneg f => Laws.Coding.cfFneg f
  | .cfFcvt f => Laws.Coding.cfFcvt f
  | .cfFrnd f => Laws.Coding.cfFrnd f
  | .cfFcls f => Laws.Coding.cfFcls f
  | .cfFrcp f => Laws.Coding.cfFrcp f
  | .cfFrsq f => Laws.Coding.cfFrsq f
  | .cfFexp2 f => Laws.Coding.cfFexp2 f
  | .cfFlog2 f => Laws.Coding.cfFlog2 f
  | .cfFsig f => Laws.Coding.cfFsig f
  | .cfFtanh f => Laws.Coding.cfFtanh f
  | .cfFsinp f => Laws.Coding.cfFsinp f
  | .cfFcosp f => Laws.Coding.cfFcosp f
  | .clLred f => Laws.Coding.clLred f
  | .clLscn f => Laws.Coding.clLscn f
  | .clLshf f => Laws.Coding.clLshf f
  | .clLbrd f => Laws.Coding.clLbrd f
  | .clLcmp f => Laws.Coding.clLcmp f
  | .clRngx f => Laws.Coding.clRngx f
  | .cxMzero f => Laws.Coding.cxMzero f
  | .cxMldb f => Laws.Coding.cxMldb f
  | .cxMma f => Laws.Coding.cxMma f
  | .cxMmat f => Laws.Coding.cxMmat f
  | .cxMrd f => Laws.Coding.cxMrd f
  | .cxMdrn f => Laws.Coding.cxMdrn f
  | .cxMchn f => Laws.Coding.cxMchn f
  | .cxMbfy f => Laws.Coding.cxMbfy f
  | .cxTwg f => Laws.Coding.cxTwg f
  | .cxMscl f => Laws.Coding.cxMscl f
  | .cdDxld f => Laws.Coding.cdDxld f
  | .cdDxcf f => Laws.Coding.cdDxcf f
  | .cdDxrn f => Laws.Coding.cdDxrn f
  | .cdDxfn f => Laws.Coding.cdDxfn f
  | .cdDxch f => Laws.Coding.cdDxch f
  | .cmLd f => Laws.Coding.cmLd f
  | .cmSt f => Laws.Coding.cmSt f
  | .cmLdt f => Laws.Coding.cmLdt f
  | .cmStt f => Laws.Coding.cmStt f
  | .cmLdx f => Laws.Coding.cmLdx f
  | .cmUpd f => Laws.Coding.cmUpd f
  | .cmLock f => Laws.Coding.cmLock f
  | .cmUnlk f => Laws.Coding.cmUnlk f
  | .cmPft f => Laws.Coding.cmPft f
  | .cmLdbr f => Laws.Coding.cmLdbr f
  | .cmStbr f => Laws.Coding.cmStbr f
  | .cmFill f => Laws.Coding.cmFill f
  | .cmAtom f => Laws.Coding.cmAtom f
  | .cpRecv f => Laws.Coding.cpRecv f
  | .cpSend f => Laws.Coding.cpSend f
  | .cpPeek f => Laws.Coding.cpPeek f
  | .cpJoin f => Laws.Coding.cpJoin f
  | .cpFilt f => Laws.Coding.cpFilt f
  | .cpMrge f => Laws.Coding.cpMrge f
  | .cpSkip f => Laws.Coding.cpSkip f
  | .cpEos f => Laws.Coding.cpEos f
  | .cpCtxc f => Laws.Coding.cpCtxc f
  | .ccLoop f => Laws.Coding.ccLoop f
  | .ccLbrk f => Laws.Coding.ccLbrk f
  | .ccBra f => Laws.Coding.ccBra f
  | .ccJmp f => Laws.Coding.ccJmp f
  | .ccGrain f => Laws.Coding.ccGrain f
  | .ccTagp f => Laws.Coding.ccTagp f
  | .ccTlw f => Laws.Coding.ccTlw f
  | .ccFenc f => Laws.Coding.ccFenc f
  | .ccBarr f => Laws.Coding.ccBarr f
  | .ccYld f => Laws.Coding.ccYld f
  | .ccTrap f => Laws.Coding.ccTrap f
  | .ccRdsr f => Laws.Coding.ccRdsr f
  | .ccWrsr f => Laws.Coding.ccWrsr f
  | .ccEndt f => Laws.Coding.ccEndt f
  | .skCpygl f => Laws.Coding.skCpygl f
  | .skCpylg f => Laws.Coding.skCpylg f
  | .skCpygg f => Laws.Coding.skCpygg f
  | .skGath f => Laws.Coding.skGath f
  | .skScat f => Laws.Coding.skScat f
  | .skDisp f => Laws.Coding.skDisp f
  | .skCmbn f => Laws.Coding.skCmbn f
  | .skRedc f => Laws.Coding.skRedc f
  | .skFill f => Laws.Coding.skFill f
  | .skPfmc f => Laws.Coding.skPfmc f
  | .skLkmc f => Laws.Coding.skLkmc f
  | .skUlmc f => Laws.Coding.skUlmc f
  | .skColl f => Laws.Coding.skColl f
  | .skStrm f => Laws.Coding.skStrm f
  | .skSink f => Laws.Coding.skSink f
  | .skBlaz f => Laws.Coding.skBlaz f
  | .skNopc f => Laws.Coding.skNopc f
  | .taskFire t => Laws.Coding.taskFire t
  | .instructionCompletion t => Laws.Coding.instructionCompletion t
  | .taskWaitExpired t => Laws.Coding.taskWaitExpired t
  | .backwardBranchLimit t => Laws.Coding.backwardBranchLimit t
  | .inputLineWaitExpired t => Laws.Coding.inputLineWaitExpired t
  | .matrixChunkComplete w tile badTries row => Laws.Coding.matrixChunkComplete w tile badTries row
  | .vfWatchdogExpiry vf => Laws.Coding.vfWatchdogExpiry vf
  | .functionLevelReset vf => Laws.Coding.functionLevelReset vf
  | .ttCommit vf => Laws.Coding.ttCommit vf
  | .ttRead vf => Laws.Coding.ttRead vf
  | .kernelLoad vf => Laws.Coding.kernelLoad vf
  | .kernelUnload vf => Laws.Coding.kernelUnload vf
  | .rootProgramCreate vf => Laws.Coding.rootProgramCreate vf
  | .rootBlockLaunch vf => Laws.Coding.rootBlockLaunch vf
  | .lwpub vf ref => Laws.Coding.lwpub vf ref
  | .lwqref vf ref => Laws.Coding.lwqref vf ref
  | .publication die => Laws.Coding.publication die
  | .tagNotification die => Laws.Coding.tagNotification die
  | .bitmapPoll die => Laws.Coding.bitmapPoll die
  | .generationAdvance die => Laws.Coding.generationAdvance die
  | .blockDispatch die stand => Laws.Coding.blockDispatch die stand
  | .classPromotion die => Laws.Coding.classPromotion die
  | .standPlacement die => Laws.Coding.standPlacement die
  | .suspendedStandReplace die => Laws.Coding.suspendedStandReplace die
  | .trackSegmentHop flight => Laws.Coding.trackSegmentHop flight
  | .inputBusDelivery flight => Laws.Coding.inputBusDelivery flight
  | .ridePacketArrival packet => Laws.Coding.ridePacketArrival packet
  | .firebreakReport report => Laws.Coding.firebreakReport report
  | .rideCongestion die ride => Laws.Coding.rideCongestion die ride
  | .ridePowerUp die ride => Laws.Coding.ridePowerUp die ride
  | .ridePowerDown die ride => Laws.Coding.ridePowerDown die ride
  | .ctxcSwitch w => Laws.Coding.ctxcSwitch w
  | .coppiceWindowEnd stand => Laws.Coding.coppiceWindowEnd stand
  | .seqWaitSatisfied c => Laws.Coding.seqWaitSatisfied c
  | .seqWaitExpired c => Laws.Coding.seqWaitExpired c
  | .scmdQueueStallExpired c => Laws.Coding.scmdQueueStallExpired c
  | .ctxSwitchWaitExpired c => Laws.Coding.ctxSwitchWaitExpired c
  | .barrierExpired m => Laws.Coding.barrierExpired m
  | .l1Eviction w cell line => Laws.Coding.l1Eviction w cell line
  | .sliceService sl => Laws.Coding.sliceService sl
  | .gddrFillReturn sl line => Laws.Coding.gddrFillReturn sl line
  | .translationWalk vf unit va => Laws.Coding.translationWalk vf unit va
  | .tlbinvAll vf => Laws.Coding.tlbinvAll vf
  | .tlbinvPage vf va => Laws.Coding.tlbinvPage vf va
  | .pcmd vf => Laws.Coding.pcmd vf
  | .trapEventDelivery c => Laws.Coding.trapEventDelivery c
  | .tqhead c value => Laws.Coding.tqhead c value
  | .weaveSnapshot w => Laws.Coding.weaveSnapshot w
  | .waveComplete stand => Laws.Coding.waveComplete stand
  | .periodicBlaze stand => Laws.Coding.periodicBlaze stand
  | .preemptStarvation die => Laws.Coding.preemptStarvation die
  | .vfsusp value => Laws.Coding.vfsusp value
  | .hardwareError e => Laws.Coding.hardwareError e
  | .errorWindowReset die => Laws.Coding.errorWindowReset die
  | .growthRingFlush => Laws.Coding.growthRingFlush
  | .iftcmd value => Laws.Coding.iftcmd value
  | .iftStart => Laws.Coding.iftStart
  | .iftComplete passed => Laws.Coding.iftComplete passed
  | .chret value => Laws.Coding.chret value
  | .channelMigrationComplete => Laws.Coding.channelMigrationComplete
  | .moduleReset => Laws.Coding.moduleReset
  | .fwVerifyWrite => Laws.Coding.fwVerifyWrite
  | .fwBankSwitch => Laws.Coding.fwBankSwitch
  | .atcmd vf => Laws.Coding.atcmd vf
  | .lnkcmd value => Laws.Coding.lnkcmd value
  | .linkTrainingComplete port => Laws.Coding.linkTrainingComplete port
  | .thermalTrip => Laws.Coding.thermalTrip
  | .evhead fn value => Laws.Coding.evhead fn value
  | .vfrset die value => Laws.Coding.vfrset die value
  | .vfkeyInstall => Laws.Coding.vfkeyInstall
  | .vfkeyClear => Laws.Coding.vfkeyClear
  | .hostCxlMemAccess vf a => Laws.Coding.hostCxlMemAccess vf a
  | .registerWrite sp off x => Laws.Coding.registerWrite sp off x
  | .chiararexPacketArrival p => Laws.Coding.chiararexPacketArrival p
  | .hostMemoryReply e line => Laws.Coding.hostMemoryReply e line
  | .loaderCommandComplete vf => Laws.Coding.loaderCommandComplete vf
  | .tlbInvalidationComplete vf => Laws.Coding.tlbInvalidationComplete vf
  | .pcmdComplete vf => Laws.Coding.pcmdComplete vf
  | .attestationReportComplete vf => Laws.Coding.attestationReportComplete vf
  | .firmwareWriteComplete => Laws.Coding.firmwareWriteComplete
  | .vfKeyCommandComplete => Laws.Coding.vfKeyCommandComplete
  | .powerLoss => Laws.Coding.powerLoss
  | .growthRingHour r => Laws.Coding.growthRingHour r

/-! ## The tables of opcodes invert the formats -/

theorem seqForm_of_srInstr {op fn : Nat} {f : SR} {i : Instr} (h : srInstr op fn f = some i) :
    i.seqForm = some (.sr op fn f) := by
  unfold srInstr at h
  repeat' split at h
  case h_12.isTrue hfn =>
    cases h
    simp only [Instr.seqForm, BitVec.toNat_ofNat, Nat.mod_eq_of_lt hfn]
  all_goals cases h
  all_goals rfl

theorem seqForm_of_siInstr {op : Nat} {f : SI} {i : Instr} (h : siInstr op f = some i) : i.seqForm = some (.si op f) := by
  unfold siInstr at h
  split at h <;> cases h <;> rfl

theorem seqForm_of_sbInstr {op : Nat} {f : SB} {i : Instr} (h : sbInstr op f = some i) : i.seqForm = some (.sb op f) := by
  unfold sbInstr at h
  split at h <;> cases h <;> rfl

theorem seqForm_of_sjInstr {op : Nat} {x : BitVec 26} {i : Instr} (h : sjInstr op x = some i) : i.seqForm = some (.sj op x) := by
  unfold sjInstr at h
  split at h <;> cases h <;> rfl

theorem seqForm_of_sxInstr {op fn : Nat} {f : SX} {i : Instr} (h : sxInstr op fn f = some i) :
    i.seqForm = some (.sx op fn f) := by
  unfold sxInstr at h
  repeat' split at h
  all_goals cases h
  all_goals rfl

/-- A cell instruction has no sequencer form. -/
theorem cg_of_cgInstr {op : Nat} {f : CG} {i : Instr} (h : cgInstr op f = some i) :
    i.seqForm = none ∧ i.cg = some (op, f) := by
  unfold cgInstr at h
  split at h <;> cases h <;> exact ⟨rfl, rfl⟩

theorem cm_of_cmInstr {op : Nat} {f : CM} {i : Instr} (h : cmInstr op f = some i) :
    i.seqForm = none ∧ i.cg = none ∧ i.cm = some (op, f) := by
  unfold cmInstr at h
  split at h <;> cases h <;> exact ⟨rfl, rfl, rfl⟩

theorem skid_of_skidInstr {op : Nat} {f : Skid} {i : Instr} (h : skidInstr op f = some i) :
    i.seqForm = none ∧ i.cg = none ∧ i.cm = none ∧ i.skid = some (op, f) := by
  unfold skidInstr at h
  split at h <;> cases h <;> exact ⟨rfl, rfl, rfl, rfl⟩

/-! ## A word is the join of its fields -/

theorem srWord_srFields (w : W32) : srWord (w.extractLsb' 26 6).toNat (w.extractLsb' 3 5).toNat (srFields w) = w := by
  simp only [srWord, srFields, BitVec.ofNat_toNat, BitVec.setWidth_eq, BitVec.extractLsb'_append_extractLsb'_eq_extractLsb']
  exact BitVec.extractLsb'_eq_self

theorem siWord_siFields (w : W32) : siWord (w.extractLsb' 26 6).toNat (siFields w) = w := by
  simp only [siWord, siFields, BitVec.ofNat_toNat, BitVec.setWidth_eq, BitVec.extractLsb'_append_extractLsb'_eq_extractLsb']
  exact BitVec.extractLsb'_eq_self

theorem sbWord_sbFields (w : W32) : sbWord (w.extractLsb' 26 6).toNat (sbFields w) = w := by
  simp only [sbWord, sbFields, BitVec.ofNat_toNat, BitVec.setWidth_eq, BitVec.extractLsb'_append_extractLsb'_eq_extractLsb']
  exact BitVec.extractLsb'_eq_self

theorem sjWord_disp (w : W32) : sjWord (w.extractLsb' 26 6).toNat (w.extractLsb' 0 26) = w := by
  simp only [sjWord, BitVec.ofNat_toNat, BitVec.setWidth_eq, BitVec.extractLsb'_append_extractLsb'_eq_extractLsb']
  exact BitVec.extractLsb'_eq_self

theorem sxWord_sxFields (w : W32) : sxWord (w.extractLsb' 26 6).toNat (w.extractLsb' 0 8).toNat (sxFields w) = w := by
  simp only [sxWord, sxFields, BitVec.ofNat_toNat, BitVec.setWidth_eq, BitVec.extractLsb'_append_extractLsb'_eq_extractLsb']
  exact BitVec.extractLsb'_eq_self

theorem cgWord_cgFields (w : W64) : cgWord (w.extractLsb' 56 8).toNat (cgFields w) = w := by
  simp only [cgWord, cgFields, BitVec.ofNat_toNat, BitVec.setWidth_eq, BitVec.extractLsb'_append_extractLsb'_eq_extractLsb']
  exact BitVec.extractLsb'_eq_self

theorem cmWord_cmFields (w : W64) : cmWord (w.extractLsb' 56 8).toNat (cmFields w) = w := by
  simp only [cmWord, cmFields, BitVec.ofNat_toNat, BitVec.setWidth_eq, BitVec.extractLsb'_append_extractLsb'_eq_extractLsb']
  exact BitVec.extractLsb'_eq_self

theorem skidWord_skidFields (w : W128) : skidWord (w.extractLsb' 120 8).toNat (skidFields w) = w := by
  simp only [skidWord, skidFields, BitVec.ofNat_toNat, BitVec.setWidth_eq, BitVec.extractLsb'_append_extractLsb'_eq_extractLsb']
  exact BitVec.extractLsb'_eq_self

/-! ## From words to instructions -/

/-- SL.LIMM's layout is that of its own opcode alone. -/
theorem op_of_seqLayout_sl {op : Nat} (h : seqLayout op = .sl) : op = 0x3F := by
  revert h
  unfold seqLayout
  split <;> simp

theorem encodeSeq_of_parseSeq {w : W32} {i : Instr} (h : parseSeq w = some i) : encodeSeq i = some w := by
  simp only [parseSeq] at h
  split at h
  case h_1 => rw [encodeSeq, seqForm_of_srInstr h]; exact congrArg some (srWord_srFields w)
  case h_2 => rw [encodeSeq, seqForm_of_siInstr h]; exact congrArg some (siWord_siFields w)
  case h_3 => rw [encodeSeq, seqForm_of_sbInstr h]; exact congrArg some (sbWord_sbFields w)
  case h_4 => rw [encodeSeq, seqForm_of_sjInstr h]; exact congrArg some (sjWord_disp w)
  case h_5 => rw [encodeSeq, seqForm_of_sxInstr h]; exact congrArg some (sxWord_sxFields w)
  case h_6 hl =>
    cases h
    have hop := sjWord_disp w
    rw [op_of_seqLayout_sl hl] at hop
    exact congrArg some hop
  case h_7 => cases h

theorem encode_of_parseCell {w : W64} {i : Instr} (h : parseCell w = some i) : encode i = some (.cell w) := by
  simp only [parseCell] at h
  split at h
  case isTrue =>
    obtain ⟨hs, hg, hm⟩ := cm_of_cmInstr h
    simp only [encode, encodeSeq, encodeCell, hs, hg, hm, Option.map_none, Option.map_some, cmWord_cmFields]
  case isFalse =>
    obtain ⟨hs, hg⟩ := cg_of_cgInstr h
    simp only [encode, encodeSeq, encodeCell, hs, hg, Option.map_none, cgWord_cgFields]

theorem encode_of_decodeSkid {w : W128} {i : Instr} (h : decodeSkid w = some i) : encode i = some (.skid w) := by
  obtain ⟨hs, hg, hm, hk⟩ := skid_of_skidInstr h
  simp only [encode, encodeSeq, encodeCell, encodeSkid, hs, hg, hm, hk, Option.map_none, Option.map_some, skidWord_skidFields]

theorem parseSeq_of_decodeSeq {w : W32} {i : Instr} (h : decodeSeq w = .ok i) : parseSeq w = some i := by
  unfold decodeSeq at h
  split at h
  · split at h <;> cases h
    assumption
  · cases h

theorem parseCell_of_decodeCell {w : W64} {i : Instr} (h : decodeCell w = .ok i) : parseCell w = some i := by
  unfold decodeCell at h
  split at h
  · split at h <;> cases h
    assumption
  · cases h

theorem eq_ok_of_toOption {ε α : Type} {x : Except ε α} {a : α} (h : x.toOption = some a) : x = .ok a := by
  cases x <;> cases h
  rfl

/-- Every word that decodes is the word of its instruction. -/
theorem encode_decode (i : Instr) (w : Encoding) (h : decode w = some i) : encode i = some w := by
  cases w with
  | seq w => simp only [encode, encodeSeq_of_parseSeq (parseSeq_of_decodeSeq (eq_ok_of_toOption h))]
  | cell w => exact encode_of_parseCell (parseCell_of_decodeCell (eq_ok_of_toOption h))
  | skid w => exact encode_of_decodeSkid h

/-- Settles O56: the encoder and the decoder are inverse, so a word belongs to one well-formed instruction at most. -/
theorem decodeEncode : Obligations.DecodeEncode := by
  unfold Obligations.DecodeEncode
  refine ⟨fun i w hw he => decode_encode i w he hw, encode_decode, fun i j w hi hj he hf => ?_⟩
  exact Option.some.inj ((decode_encode i w he hi).symm.trans (decode_encode j w hf hj))

end Sys2Proof.CodingProofs
end

section
/-! Register files read back what was written (R147, R169, R174, R204, R206): the laws of the lists that hold them, then the
files of a sequencer context and of a weave. -/

namespace Sys2Proof.FileProofs

open Sys2Proof Sys2Proof.Machine

/-! ## Lists by index -/

@[simp] theorem nth_nil {α : Type} (d : α) (i : Nat) : nth d [] i = d := by cases i <;> rfl

@[simp] theorem nth_setNth_same {α : Type} (d y : α) (l : List α) (i : Nat) : nth d (setNth d l i y) i = y := by
  induction i generalizing l with
  | zero => cases l <;> rfl
  | succ i ih => cases l with
    | nil => exact ih []
    | cons x xs => exact ih xs

theorem nth_setNth_ne {α : Type} (d y : α) {i j : Nat} (h : j ≠ i) (l : List α) : nth d (setNth d l i y) j = nth d l j := by
  induction i generalizing j l with
  | zero => cases l <;> cases j <;> simp_all [setNth, nth]
  | succ i ih => cases l <;> cases j <;> simp_all [setNth, nth]

theorem mem_upFrom {a n x : Nat} : x ∈ upFrom a n ↔ a ≤ x ∧ x < a + n := by
  induction n generalizing a with
  | zero => simp [upFrom]
  | succ n ih => simp only [upFrom, List.mem_cons, ih]; omega

@[simp] theorem mem_upTo {n x : Nat} : x ∈ upTo n ↔ x < n := by
  rw [upTo, mem_upFrom]; omega

/-! ## A sequencer context -/

@[simp] theorem reg_zero (c : SeqCtx) : c.reg 0 = ⟨0, false⟩ := rfl

@[simp] theorem setReg_zero (c : SeqCtx) (x : Reg) : c.setReg 0 x = c := rfl

theorem setReg_frame (c : SeqCtx) (d : Code6) (x : Reg) : { c.setReg d x with g := c.g, w := c.w } = c := by
  unfold SeqCtx.setReg
  split
  · rfl
  · split <;> rfl

/-- The windowed codes of one depth name different registers of the file (R169). -/
theorem windowReg_injective {depth k j : Nat} (hk : k < 48) (hj : j < 48) (h : windowReg depth k = windowReg depth j) : k = j := by
  unfold windowReg at h
  omega

theorem setReg_reg_same (c : SeqCtx) {d : Code6} (x : Reg) (h : d ≠ 0) : (c.setReg d x).reg d = x := by
  by_cases hd : d.toNat < 16 <;> simp only [SeqCtx.setReg, SeqCtx.reg, h, hd, if_true, if_false, nth_setNth_same]

theorem setReg_reg_ne (c : SeqCtx) {d r : Code6} (x : Reg) (h : r ≠ d) : (c.setReg d x).reg r = c.reg r := by
  have hne : r.toNat ≠ d.toNat := fun e => h (BitVec.eq_of_toNat_eq e)
  have hd := d.isLt
  have hr := r.isLt
  unfold SeqCtx.setReg
  split
  · rfl
  · split
    case isTrue => simp only [SeqCtx.reg, nth_setNth_ne _ _ hne]
    case isFalse hd16 =>
      simp only [SeqCtx.reg]
      split
      · rfl
      · split
        · rfl
        · refine nth_setNth_ne _ _ (fun e => ?_) _
          have := windowReg_injective (by omega) (by omega) e
          omega

@[simp] theorem pred_zero (c : SeqCtx) : c.pred 0 = true := rfl

@[simp] theorem setPred_zero (c : SeqCtx) (b : Bool) : c.setPred 0 b = c := rfl

/-- Bit m of the predicates after a write of bit n. -/
theorem setPred_getLsbD (c : SeqCtx) {n m : Nat} (b : Bool) (hn : n ≠ 0) (hm : m < 8) :
    (c.setPred n b).q.getLsbD m = if m = n then b else c.q.getLsbD m := by
  have bit : (BitVec.ofNat 8 (2 ^ n)).getLsbD m = decide (n = m) := by
    simp only [BitVec.getLsbD_ofNat, Nat.testBit_two_pow, hm, decide_true, Bool.true_and]
  have word : (BitVec.ofNat 8 (if b then 2 ^ n else 0)).getLsbD m = (b && decide (n = m)) := by
    cases b
    · exact BitVec.getLsbD_zero
    · exact bit
  rw [SeqCtx.setPred, if_neg hn]
  simp only [BitVec.getLsbD_or, BitVec.getLsbD_and, BitVec.getLsbD_not, bit, word, hm]
  by_cases h : m = n
  · simp [h]
  · simp [h, Ne.symm h]

theorem setPred_pred_same (c : SeqCtx) {n : Nat} (b : Bool) (hn : n < 8) (h : n ≠ 0) : (c.setPred n b).pred n = b := by
  simp [SeqCtx.pred, h, setPred_getLsbD c b h hn]

theorem setPred_pred_ne (c : SeqCtx) {n m : Nat} (b : Bool) (hm : m < 8) (h : m ≠ n) : (c.setPred n b).pred m = c.pred m := by
  by_cases hn : n = 0
  · rw [hn, setPred_zero]
  · simp [SeqCtx.pred, setPred_getLsbD c b hn hm, h]

theorem setPred_frame (c : SeqCtx) (n : Nat) (b : Bool) : { c.setPred n b with q := c.q } = c := by
  unfold SeqCtx.setPred
  split <;> rfl

/-- Settles O4: the codes of a context name different registers of its files, and its predicates different bits. -/
theorem seqFiles : Obligations.SeqFiles := by
  unfold Obligations.SeqFiles
  exact ⟨fun c d r x => ⟨rfl, rfl, setReg_reg_same c x, setReg_reg_ne c x, setReg_frame c d x⟩,
    fun c n m b hn hm => ⟨rfl, rfl, setPred_pred_same c b hn, setPred_pred_ne c b hm, setPred_frame c n b⟩⟩

/-! ## A weave -/

theorem setLane_lane (w : Weave) (d k : Nat) (x : Lane) (r l : Nat) :
    (w.setLane d k x).lane r l = if r = d ∧ l = k then x else w.lane r l := by
  unfold Weave.setLane Weave.lane
  by_cases hr : r = d
  · subst hr
    by_cases hl : l = k
    · simp [hl]
    · simp [hl, nth_setNth_ne _ _ hl]
  · simp [hr, nth_setNth_ne _ _ hr]

theorem setPbit_pbit (w : Weave) (n k : Nat) (b : Bool) (r l : Nat) :
    (w.setPbit n k b).pbit r l = if n ≠ 0 ∧ r = n ∧ l = k then b else w.pbit r l := by
  unfold Weave.setPbit
  by_cases hn : n = 0
  · simp [hn]
  · by_cases hr : r = n
    · subst hr
      by_cases hl : l = k
      · simp [Weave.pbit, hn, hl]
      · simp [Weave.pbit, hn, hl, nth_setNth_ne _ _ hl]
    · simp [Weave.pbit, hn, hr, nth_setNth_ne _ _ hr]

theorem setPbit_frame (w : Weave) (n k : Nat) (b : Bool) : { w.setPbit n k b with ps := w.ps } = w := by
  unfold Weave.setPbit
  split <;> rfl

/-- Writing lane by lane: the last word for each lane of `ls` is its own. -/
theorem foldl_setLane_lane (d : Nat) (g : Vec) (ls : List Nat) (w : Weave) (r l : Nat) :
    (ls.foldl (fun acc k => acc.setLane d k (g k)) w).lane r l = if r = d ∧ l ∈ ls then g l else w.lane r l := by
  induction ls generalizing w with
  | nil => simp
  | cons k ks ih =>
    rw [List.foldl_cons, ih, setLane_lane]
    grind

theorem foldl_setPbit_pbit (n : Nat) (b : Nat → Bool) (ls : List Nat) (w : Weave) (r l : Nat) :
    (ls.foldl (fun acc k => acc.setPbit n k (b k)) w).pbit r l = if n ≠ 0 ∧ r = n ∧ l ∈ ls then b l else w.pbit r l := by
  induction ls generalizing w with
  | nil => simp
  | cons k ks ih =>
    rw [List.foldl_cons, ih, setPbit_pbit]
    grind

theorem foldl_setLane_frame (d : Nat) (g : Vec) (ls : List Nat) (w : Weave) :
    { ls.foldl (fun acc k => acc.setLane d k (g k)) w with xs := w.xs } = w := by
  induction ls generalizing w with
  | nil => rfl
  | cons k ks ih => exact congrArg (fun x : Weave => { x with xs := w.xs }) (ih (w.setLane d k (g k)))

theorem foldl_setPbit_frame (n : Nat) (b : Nat → Bool) (ls : List Nat) (w : Weave) :
    { ls.foldl (fun acc k => acc.setPbit n k (b k)) w with ps := w.ps } = w := by
  induction ls generalizing w with
  | nil => rfl
  | cons k ks ih =>
    exact (congrArg (fun x : Weave => { x with ps := w.ps }) (ih (w.setPbit n k (b k)))).trans (setPbit_frame w n k (b k))

theorem foldl_setLane_ps (d : Nat) (g : Vec) (ls : List Nat) (w : Weave) :
    (ls.foldl (fun acc k => acc.setLane d k (g k)) w).ps = w.ps := by
  have h := congrArg Weave.ps (foldl_setLane_frame d g ls w)
  exact h

theorem foldl_setPbit_xs (n : Nat) (b : Nat → Bool) (ls : List Nat) (w : Weave) :
    (ls.foldl (fun acc k => acc.setPbit n k (b k)) w).xs = w.xs := by
  have h := congrArg Weave.xs (foldl_setPbit_frame n b ls w)
  exact h

theorem write_result (c : Cell) (w : Weave) {d : Code6} (act : Nat → Bool) (g : Vec) (h : d.toNat < 48) :
    w.write (c.result d act g) = (c.lanesWith act).foldl (fun acc k => acc.setLane d.toNat k (g k)) w := by
  simp only [Weave.write, Cell.result, h, if_true, Pend.none, List.foldl_map, List.foldl_nil]

theorem write_resultP (c : Cell) (w : Weave) (n : Nat) (act : Nat → Bool) (b : Nat → Bool) :
    w.write (c.resultP n act b) = (c.lanesWith act).foldl (fun acc k => acc.setPbit n k (b k)) w := by
  simp only [Weave.write, Cell.resultP, Pend.none, List.foldl_map, List.foldl_nil]

theorem mem_lanesWith {c : Cell} {act : Nat → Bool} {l : Nat} : l ∈ c.lanesWith act ↔ l < c.lanes ∧ act l = true := by
  rw [Cell.lanesWith, List.mem_filter, mem_upTo]

/-- Settles O35: a result writes its lanes, or its predicate bits, one after the other, and nothing else. -/
theorem cellWriteFrame : Obligations.CellWriteFrame := by
  unfold Obligations.CellWriteFrame
  intro c w d act g n b hd
  simp only [write_result c w act g hd, write_resultP]
  refine ⟨fun r l => ?lane, fun r l => ?pbit, fun r l => ?bits, fun r l => ?lanes,
    foldl_setLane_frame _ g _ w, foldl_setPbit_frame n b _ w⟩
  case lane => simp only [foldl_setLane_lane, mem_lanesWith]
  case pbit => simp only [Weave.pbit, foldl_setLane_ps]
  case bits => simp only [foldl_setPbit_pbit, mem_lanesWith]
  case lanes => simp only [Weave.lane, foldl_setPbit_xs]

end Sys2Proof.FileProofs
end

section
/-! Memory in canonical form (R32, R334): its bytes determine its list, so laws about lists follow from laws about bytes; and the
poison bits that a store leaves. -/

namespace Sys2Proof.MemoryProofs

open Sys2Proof Sys2Proof.Machine
open Sys2Proof.FileProofs (mem_upFrom)

/-! ## Bytes determine the list -/

theorem cellsRead_of_above {l : List Host.Cell} {a b : Nat} (hw : cellsWf l = true) (h : cellsAbove a l = true) (hb : b ≤ a) :
    cellsRead b l = Memory.unlisted := by
  induction l generalizing a with
  | nil => rfl
  | cons c r ih =>
    obtain ⟨e, v⟩ := c
    rw [cellsWf_cons] at hw
    simp only [Bool.and_eq_true, bne_iff_ne] at hw
    have hae : a < e := by simpa [cellsAbove] using h
    rw [cellsRead, if_neg (by omega), ih hw.2 hw.1.2 (by omega)]

/-- A list that begins at `a` reads differently at `a` from one that lies above `a`. -/
theorem cellsRead_head_ne {a : Nat} {v : Byte} {l m : List Host.Cell} (hl : cellsWf ((a, v) :: l) = true)
    (hm : cellsWf m = true) (h : cellsAbove a m = true) : cellsRead a ((a, v) :: l) ≠ cellsRead a m := by
  rw [cellsWf_cons] at hl
  simp only [Bool.and_eq_true, bne_iff_ne] at hl
  rw [cellsRead, if_pos rfl, cellsRead_of_above hm h (Nat.le_refl a)]
  exact hl.1.1

theorem cells_ext {l m : List Host.Cell} (hl : cellsWf l = true) (hm : cellsWf m = true)
    (h : ∀ a, cellsRead a l = cellsRead a m) : l = m := by
  induction l generalizing m with
  | nil => cases m with
    | nil => rfl
    | cons d r => exact absurd (h d.1).symm (cellsRead_head_ne hm rfl rfl)
  | cons c l ih => cases m with
    | nil => exact absurd (h c.1) (cellsRead_head_ne hl rfl rfl)
    | cons d r =>
      obtain ⟨a, v⟩ := c
      obtain ⟨b, w⟩ := d
      obtain hab | rfl | hba := Nat.lt_trichotomy a b
      · exact absurd (h a) (cellsRead_head_ne hl hm (by simpa [cellsAbove] using hab))
      · have hv : v = w := by simpa [cellsRead] using h a
        have hl' := hl
        have hm' := hm
        rw [cellsWf_cons] at hl' hm'
        simp only [Bool.and_eq_true] at hl' hm'
        rw [hv, ih hl'.2 hm'.2 fun e => ?_]
        by_cases he : a = e
        · subst he
          rw [cellsRead_of_above hl'.2 hl'.1.2 (Nat.le_refl a), cellsRead_of_above hm'.2 hm'.1.2 (Nat.le_refl a)]
        · have := h e
          rwa [cellsRead, cellsRead, if_neg he, if_neg he] at this
      · exact absurd (h b).symm (cellsRead_head_ne hm hl (by simpa [cellsAbove] using hba))

theorem wf_bytes {m : Memory} (h : m.wf = true) : cellsWf m.bytes = true := by
  rw [Memory.wf, Bool.and_eq_true] at h
  exact h.1

theorem bytes_ext {m n : Memory} (hm : m.wf = true) (hn : n.wf = true) (h : ∀ a, m.byte a = n.byte a) : m.bytes = n.bytes :=
  cells_ext (wf_bytes hm) (wf_bytes hn) h

theorem memory_ext {m n : Memory} (hm : m.wf = true) (hn : n.wf = true) (h : ∀ a, m.byte a = n.byte a)
    (hp : m.poison = n.poison) : m = n := by
  cases m
  cases n
  exact congr (congrArg Memory.mk (bytes_ext hm hn h)) hp

/-- A byte after a write of one byte. -/
theorem setByte_byte_eq {m : Memory} (a : Nat) (x : Byte) (hm : m.wf = true) (e : Nat) :
    (m.setByte a x).byte e = if e = a then x else m.byte e := by
  split
  case isTrue h => rw [h, Memory.setByte_byte m a x hm]
  case isFalse h => exact Memory.setByte_byte_ne m a e x h

theorem setByte_self {m : Memory} (a : Nat) (hm : m.wf = true) : m.setByte a (m.byte a) = m := by
  refine memory_ext (Memory.setByte_wf m a _ hm) hm (fun e => ?_) rfl
  rw [setByte_byte_eq a _ hm]
  split
  case isTrue h => rw [h]
  case isFalse => rfl

theorem setByte_comm {m : Memory} {a b : Nat} (x y : Byte) (hm : m.wf = true) (h : a ≠ b) :
    (m.setByte a x).setByte b y = (m.setByte b y).setByte a x := by
  have ha := Memory.setByte_wf m a x hm
  have hb := Memory.setByte_wf m b y hm
  refine memory_ext (Memory.setByte_wf _ b y ha) (Memory.setByte_wf _ a x hb) (fun e => ?_) rfl
  simp only [setByte_byte_eq _ _ ha, setByte_byte_eq _ _ hb, setByte_byte_eq _ _ hm]
  grind

theorem setByte_setByte {m : Memory} (a : Nat) (x y : Byte) (hm : m.wf = true) : (m.setByte a x).setByte a y = m.setByte a y := by
  have ha := Memory.setByte_wf m a x hm
  refine memory_ext (Memory.setByte_wf _ a y ha) (Memory.setByte_wf m a y hm) (fun e => ?_) rfl
  simp only [setByte_byte_eq _ _ ha, setByte_byte_eq _ _ hm]
  grind

/-! ## Bytes of a store -/

theorem length_upFrom (a n : Nat) : (upFrom a n).length = n := by
  induction n generalizing a with
  | zero => rfl
  | succ n ih => simp [upFrom, ih]

theorem getElem_upFrom {a n k : Nat} (h : k < (upFrom a n).length) : (upFrom a n)[k] = a + k := by
  induction n generalizing a k with
  | zero => simp [upFrom] at h
  | succ n ih => cases k with
    | zero => rfl
    | succ k => simp only [upFrom, List.getElem_cons_succ, ih]; omega

theorem store_bytesAt {m : Memory} (a : Nat) (bs : List Byte) (p : Bool) (hm : m.wf = true) :
    (m.store a bs p).bytesAt a bs.length = bs := by
  refine List.ext_getElem (by simp [Memory.bytesAt, length_upFrom]) fun k hk hb => ?_
  simp only [Memory.bytesAt, List.getElem_map, getElem_upFrom]
  exact Memory.store_byte m a k bs p hm hb

/-! ## Poison of a store (R334) -/

theorem mem_flagNat (k x : Nat) (on : Bool) (l : List Nat) : x ∈ flagNat k on l ↔ if x = k then on = true else x ∈ l := by
  unfold flagNat
  cases on with
  | true => simp only [if_true, mem_insertNat]; grind
  | false =>
    simp only [Bool.false_eq_true, if_false]
    induction l with
    | nil => simp [removeNat]
    | cons j r ih => grind [removeNat]

theorem setPoison_contains (m : Memory) (k w : Nat) (p : Bool) :
    (m.setPoison k p).poison.contains w = if w = k then p else m.poison.contains w := by
  rw [Bool.eq_iff_iff, List.contains_iff_mem, Memory.setPoison, mem_flagNat]
  split <;> simp

theorem markWords_contains (m : Memory) (a n : Nat) (p : Bool) (ws : List Nat) (w : Nat) :
    (m.markWords a n p ws).poison.contains w = if w ∈ ws then storePoison m a n w p else m.poison.contains w := by
  suffices h : ∀ x : Memory, (ws.foldl (fun acc k => acc.setPoison k (storePoison m a n k p)) x).poison.contains w =
      if w ∈ ws then storePoison m a n w p else x.poison.contains w from h m
  induction ws with
  | nil => simp
  | cons k ks ih =>
    intro x
    rw [List.foldl_cons, ih, setPoison_contains]
    grind

/-- The poison bit of a word after a store: whole words take the store's bit, words it covers in part keep a set bit. -/
theorem store_poison_contains (m : Memory) (a : Nat) (bs : List Byte) (p : Bool) (w : Nat) :
    (m.store a bs p).poison.contains w =
      if w ∈ upFrom (a / 4) (ceilDiv (a % 4 + bs.length) 4) then storePoison m a bs.length w p else m.poison.contains w := by
  have same : storePoison (m.setBytes a bs) a bs.length w p = storePoison m a bs.length w p := by
    simp only [storePoison, Memory.setBytes_poison]
  rw [Memory.store, markWords_contains, same, Memory.setBytes_poison]

theorem store_poisoned_whole (m : Memory) {a b : Nat} {bs : List Byte} (p : Bool) (hl : a ≤ 4 * (b / 4))
    (hr : 4 * (b / 4) + 4 ≤ a + bs.length) : (m.store a bs p).poisoned b = p := by
  have covered : b / 4 ∈ upFrom (a / 4) (ceilDiv (a % 4 + bs.length) 4) := by
    rw [mem_upFrom, ceilDiv]
    omega
  rw [Memory.poisoned, store_poison_contains, if_pos covered, storePoison, if_pos ⟨hl, hr⟩]

theorem store_poisoned_outside (m : Memory) {a b : Nat} {bs : List Byte} (p : Bool)
    (h : 4 * (b / 4) + 4 ≤ a ∨ a + bs.length ≤ 4 * (b / 4)) : (m.store a bs p).poisoned b = m.poisoned b := by
  have apart : b / 4 ∉ upFrom (a / 4) (ceilDiv (a % 4 + bs.length) 4) := by
    rw [mem_upFrom, ceilDiv]
    omega
  rw [Memory.poisoned, store_poison_contains, if_neg apart, Memory.poisoned]

/-- Settles O60: memory in canonical form is determined by its bytes. -/
theorem memoryLaws : Obligations.MemoryLaws := by
  unfold Obligations.MemoryLaws
  exact ⟨fun m n => bytes_ext, fun m a => setByte_self a, fun m a b x y => setByte_comm x y, fun m a x y => setByte_setByte a x y,
    fun m a bs p hm => ⟨store_bytesAt a bs p hm, fun b => Memory.store_byte_ne m a b bs p,
      fun b => store_poisoned_whole m p, fun b => store_poisoned_outside m p⟩⟩

end Sys2Proof.MemoryProofs
end

section
/-! The memory of a sequencer context (R170, R176 to R178, R337): where an address stands, and what loads, stores and atomics
do there. -/

namespace Sys2Proof.SeqMemProofs

open Sys2Proof Sys2Proof.Machine Sys2Proof.Claims
open Sys2Proof.SeqProofs (runSeq_unguarded runSeq_guarded imm_eq_immOf)

variable {s : State} {q : SeqId} {i : Instr}

/-! ## The context after its instruction -/

theorem ctxNext_ctx (s : State) (q : SeqId) : (ctxNext s q).ctx q = { (s.ctx q).advance with id := q } :=
  State.updCtx_ctx s q SeqCtx.advance

@[simp] theorem ctxNext_reg (s : State) (q : SeqId) (r : Code6) : ((ctxNext s q).ctx q).reg r = (s.ctx q).reg r := by
  rw [ctxNext_ctx]
  rfl

theorem putSeq_putSeq (c c' : SeqCtx) (h : c'.id = c.id) (l : List SeqCtx) : putSeq c (putSeq c' l) = putSeq c l := by
  induction l with
  | nil => simp [putSeq, h]
  | cons x xs ih =>
    by_cases hx : x.id = c.id
    · simp [putSeq, h, hx]
    · simp [putSeq, h, hx, ih]

/-- A context that is put twice holds what was put last. -/
theorem setCtx_setCtx (s : State) {c c' : SeqCtx} (h : c'.id = c.id) : (s.setCtx c').setCtx c = s.setCtx c := by
  simp only [State.setCtx, putSeq_putSeq c c' h]

/-- Changing a context that has just been put. -/
theorem updCtx_setCtx (s : State) {c : SeqCtx} {q : SeqId} (h : c.id = q) (f : SeqCtx → SeqCtx) :
    (s.setCtx c).updCtx q f = s.setCtx { f c with id := q } := by
  subst h
  rw [State.updCtx, State.setCtx_ctx]
  exact setCtx_setCtx s rfl

@[simp] theorem setReg_id (c : SeqCtx) (d : Code6) (x : Reg) : (c.setReg d x).id = c.id := by
  have h := congrArg SeqCtx.id (FileProofs.setReg_frame c d x)
  exact h

theorem ctxPut_eq_updCtx (s : State) (q : SeqId) (d : Code6) (v : W64) (p : Bool) :
    ctxPut s q d v p = s.updCtx q fun c => (c.setReg d ⟨v, p⟩).advance := by
  rw [ctxPut, ctxNext, updCtx_setCtx s (by rw [setReg_id, State.ctx_id])]
  rfl

/-- An access that uses a translation leaves every context as it is. -/
theorem seqTouch_ctx (c : SeqCtx) (a : W64) (s : State) (q : SeqId) : (seqTouch c a s).ctx q = s.ctx q := by
  unfold seqTouch
  split <;> rfl

theorem seqUsed_ctx (s : State) (q : SeqId) (a : W64) : (seqUsed s q a).ctx q = s.ctx q := seqTouch_ctx _ a s q

/-! ## Where an address stands (R170, R176, R337) -/

theorem classify_localMem {off : Nat} (h : off < 0x40000) : classify (0x01FFFFFFFFFC0000 + off) = .localMem off := by
  unfold classify localBase
  rw [if_neg (by omega), if_pos (by omega), Nat.add_sub_cancel_left]

theorem seqPlace_high {c : SeqCtx} {a : W64} (n : Nat) (acc : Access) (h : 2 ^ 57 ≤ a.toNat) :
    seqPlace s c a n acc = .error 0x07 := if_pos h

theorem seqPlace_misaligned {c : SeqCtx} {a : W64} {n : Nat} (acc : Access) (h : a.toNat < 2 ^ 57) (hn : a.toNat % n ≠ 0) :
    seqPlace s c a n acc = .error 0x0F := by
  rw [seqPlace, if_neg (by omega), if_pos hn]

theorem seqPlace_localMem {c : SeqCtx} {a : W64} {n off : Nat} (acc : Access) (h : off < 0x40000)
    (ha : a.toNat = 0x01FFFFFFFFFC0000 + off) (hn : a.toNat % n = 0) : seqPlace s c a n acc = .ok (localPlace off) := by
  rw [seqPlace, if_neg (by omega), if_neg (by omega), ha, classify_localMem h]

theorem mod_of_sum_mod {n off : Nat} (h : n ∈ [1, 2, 4, 8]) (ho : off % n = 0) : (0x01FFFFFFFFFC0000 + off) % n = 0 := by
  simp only [List.mem_cons, List.not_mem_nil, or_false] at h
  obtain rfl | rfl | rfl | rfl := h <;> omega

/-- Settles O6: the checks of an address in their order, and the trap-queue registers within local memory. -/
theorem seqAddressRules : Obligations.SeqAddressRules := by
  unfold Obligations.SeqAddressRules
  intro s c a n acc hn
  refine ⟨seqPlace_high n acc, seqPlace_misaligned acc, fun off hoff ha hal => ?_⟩
  rw [seqPlace_localMem acc hoff ha (ha ▸ mod_of_sum_mod hn hal), localPlace]
  refine ⟨fun h => ?plain, fun h1 h2 => ?register⟩
  case plain => rw [if_neg (by omega)]
  case register => rw [if_pos ⟨h1, h2⟩]

/-- An address whose place is in local memory uses no translation. -/
theorem seqTouch_of_place {c c' : SeqCtx} {a : W64} {n : Nat} {acc : Access} {p : SeqPlace} (h : seqPlace s c a n acc = .ok p)
    (hp : ∀ pa, p ≠ .mem pa) : seqTouch c' a s = s := by
  unfold seqTouch
  split
  case h_2 => rfl
  case h_1 va hva =>
    simp only [seqPlace, hva] at h
    repeat' split at h
    all_goals cases h
    exact absurd rfl (hp _)

/-! ## Loads (R176, R177) -/

theorem siAddr_eq (s : State) (q : SeqId) (f : SI) : ((s.ctx q).reg f.a).v + (s.ctx q).imm f.imm14 = siAddr s q f := by
  rw [siAddr, regV, imm_eq_immOf]

theorem seqLoad_placed {f : SI} {n : Nat} {x : SeqPlace} (h : SeqMay s q i true [f.a])
    (hp : seqPlace s (s.ctx q) (siAddr s q f) n .read = .ok x) :
    seqLoad i f n s = .next (if seqHeld s (s.ctx q) x then s else
      ctxPut (seqUsed s q (siAddr s q f)) q f.d (BitVec.ofInt 64 (toSigned (8 * n) (seqRead s (s.ctx q) n x).1))
        (seqRead s (s.ctx q) n x).2) := by
  refine (runSeq_unguarded h _).trans ?_
  simp only [siAddr_eq, hp]
  split
  · rfl
  · rw [ctxPut, seqUsed_ctx]
    rfl

theorem seqLoad_refused {f : SI} {n cause : Nat} (h : SeqMay s q i true [f.a])
    (hp : seqPlace s (s.ctx q) (siAddr s q f) n .read = .error cause) :
    seqLoad i f n s = .next (seqTrap q cause (siAddr s q f) s) := by
  refine (runSeq_unguarded h _).trans ?_
  simp only [siAddr_eq, hp]
  rfl

theorem exec_loadTable (f : SI) (s : State) : ∀ p ∈ loadTable, exec (p.1 f) s = seqLoad (p.1 f) f p.2 s := by
  simp only [loadTable, List.forall_mem_cons]
  exact ⟨rfl, rfl, rfl, rfl, List.forall_mem_nil _⟩

/-- Settles O7: the loads are one shape with four widths. -/
theorem seqLoadResult : Obligations.SeqLoadResult := by
  unfold Obligations.SeqLoadResult
  intro s q f p hp h
  rw [exec_loadTable f s p hp]
  refine ⟨fun x hx => ⟨fun hh => ?go, fun hh => ?held⟩, fun cause hc => seqLoad_refused h hc⟩
  case go => rw [seqLoad_placed h hx, hh, if_neg Bool.false_ne_true]
  case held => rw [seqLoad_placed h hx, hh, if_pos rfl]

/-- Settles O8: what a context sees by its binding. -/
theorem seqReadView : Obligations.SeqReadView := by
  unfold Obligations.SeqReadView
  intro s c n a
  refine ⟨rfl, fun v hv => ?root, fun st t hb ht => ?stand⟩
  case root =>
    have view : seqView s c = s.mem := by rw [seqView, hv]
    rw [seqRead, view]
    rfl
  case stand =>
    have view : seqView s c = standView s.mem t.seg := by simp only [seqView, hb, ht]
    rw [seqRead, view]
    rfl

/-! ## Stores (R176, R177, R337) -/

theorem seqStore_placed {f : SI} {n : Nat} {x : SeqPlace} (h : SeqMay s q i true [f.a])
    (hp : seqPlace s (s.ctx q) (siAddr s q f) n .write = .ok x) (hh : seqHeld s (s.ctx q) x = false) :
    seqStore i f n s = .next ((seqStoreAt (s.ctx q) n ((s.ctx q).reg f.d) (seqUsed s q (siAddr s q f)) x).apply q) := by
  refine (runSeq_unguarded h _).trans ?_
  simp only [siAddr_eq, hp, hh]
  rfl

theorem seqStore_refused {f : SI} {n cause : Nat} (h : SeqMay s q i true [f.a])
    (hp : seqPlace s (s.ctx q) (siAddr s q f) n .write = .error cause) :
    seqStore i f n s = .next (seqTrap q cause (siAddr s q f) s) := by
  refine (runSeq_unguarded h _).trans ?_
  simp only [siAddr_eq, hp]
  rfl

theorem seqStore_local {f : SI} {n off : Nat} (h : SeqMay s q i true [f.a])
    (hp : seqPlace s (s.ctx q) (siAddr s q f) n .write = .ok (.local off)) :
    seqStore i f n s = .next (ctxNext (withLmem s (s.lmem.store (localAddr q off) (bytesLE n (regV s q f.d).toNat) (regP s q f.d))) q) := by
  rw [seqStore_placed h hp rfl, seqUsed, seqTouch_of_place hp (fun _ => SeqPlace.noConfusion), seqStoreAt, storeLocal,
    State.ctx_id]
  rfl

theorem seqStore_queue {f : SI} {n k reg : Nat} (h : SeqMay s q i true [f.a])
    (hp : seqPlace s (s.ctx q) (siAddr s q f) n .write = .ok (.queue k reg)) :
    seqStore i f n s = .next (queueStore { q with ctx := k } reg n (regV s q f.d).toNat (ctxNext s q)) := by
  rw [seqStore_placed h hp rfl, seqUsed, seqTouch_of_place hp (fun _ => SeqPlace.noConfusion), seqStoreAt, State.ctx_id]
  rfl

theorem seqStore_root {f : SI} {n v pa : Nat} (h : SeqMay s q i true [f.a]) (hb : (s.ctx q).bind = .root v)
    (hh : seqHeld s (s.ctx q) (.mem pa) = false) (hp : seqPlace s (s.ctx q) (siAddr s q f) n .write = .ok (.mem pa)) :
    seqStore i f n s = .next (ctxNext (withMem (seqUsed s q (siAddr s q f))
      (s.mem.store pa (bytesLE n (regV s q f.d).toNat) (regP s q f.d))) q) := by
  rw [seqStore_placed h hp hh]
  simp only [seqStoreAt, hb, seqUsed, Laws.seqTouch_mem]
  rfl

theorem seqStore_stand {f : SI} {n st pa : Nat} {t : Stand} {s1 : State} {op : SegOp} (h : SeqMay s q i true [f.a])
    (hb : (s.ctx q).bind = .stand st) (ht : s.stand? st = some t) (hh : seqHeld s (s.ctx q) (.mem pa) = false)
    (hp : seqPlace s (s.ctx q) (siAddr s q f) n .write = .ok (.mem pa)) (hs : s1 = seqUsed s q (siAddr s q f))
    (ho : op = .write pa (bytesLE n (regV s q f.d).toNat) (regP s q f.d)) :
    seqStore i f n s = .next (if s1.hasRoom t (heldDie s1 t pa) op then ctxNext (s1.setStand (t.hold (heldDie s1 t pa) .ctx op)) q
      else giveUp q .waiting ((requestWave st WaveFlags.none s1).updCtx q fun c => { c with wait := some (.segment, 0) })) := by
  subst hs ho
  have stand : (seqUsed s q (siAddr s q f)).stand? st = some t := by rw [seqUsed, Laws.seqTouch_stand?, ht]
  rw [seqStore_placed h hp hh]
  simp only [seqStoreAt, hb, stand, apply_ite (SeqAns.apply q)]
  rfl

theorem exec_storeTable (f : SI) (s : State) : ∀ p ∈ storeTable, exec (p.1 f) s = seqStore (p.1 f) f p.2 s := by
  simp only [storeTable, List.forall_mem_cons]
  exact ⟨rfl, rfl, rfl, rfl, List.forall_mem_nil _⟩

/-- Settles O9: the stores are one shape with four widths, by the place of the address. -/
theorem seqStoreResult : Obligations.SeqStoreResult := by
  unfold Obligations.SeqStoreResult
  intro s q f p hp h
  rw [exec_storeTable f s p hp]
  refine ⟨fun off => seqStore_local h, fun v pa => seqStore_root h, fun st t pa hb ht hh hpl s1 hs => ⟨fun room => ?room, fun full => ?full⟩,
    fun k reg => seqStore_queue h, fun cause => seqStore_refused h⟩
  case room => rw [seqStore_stand h hb ht hh hpl hs rfl, room, if_pos rfl]
  case full => rw [seqStore_stand h hb ht hh hpl hs rfl, full, if_neg Bool.false_ne_true]

/-! ### The frame of a store -/

theorem length_bytesLE (n w : Nat) : (bytesLE n w).length = n := by
  induction n generalizing w with
  | zero => rfl
  | succ n ih => rw [bytesLE, List.length_cons, ih]

/-- A store of n bytes of a number: its bytes stand there and every other byte stays. -/
theorem store_bytesLE {m : Memory} (hm : m.wf = true) (a n v : Nat) (p : Bool) :
    sameOutside m (m.store a (bytesLE n v) p) a n ∧ (m.store a (bytesLE n v) p).bytesAt a n = bytesLE n v := by
  have len := length_bytesLE n v
  constructor
  · intro x hx
    exact Memory.store_byte_ne m a x _ p (len.symm ▸ hx)
  · have := MemoryProofs.store_bytesAt a (bytesLE n v) p hm
    rwa [len] at this

/-- Settles O10: what the stores of O9 leave of the memories and registers. -/
theorem seqStoreFrame : Obligations.SeqStoreFrame := by
  unfold Obligations.SeqStoreFrame
  intro s t q f hs p hp h ht
  rw [exec_storeTable f s p hp] at ht
  refine ⟨fun off hpl => ?inLocal, fun v pa hb hh hpl => ?main⟩
  case inLocal =>
    obtain ⟨outside, inside⟩ := store_bytesLE hs.2 (localAddr q off) p.2 (regV s q f.d).toNat (regP s q f.d)
    rw [seqStore_local h hpl] at ht
    cases ht
    exact ⟨rfl, outside, inside, ctxNext_reg _ q⟩
  case main =>
    obtain ⟨outside, inside⟩ := store_bytesLE hs.1 pa p.2 (regV s q f.d).toNat (regP s q f.d)
    rw [seqStore_root h hb hh hpl] at ht
    cases ht
    refine ⟨Laws.seqTouch_lmem _ _ s, outside, inside, fun r => ?_⟩
    rw [ctxNext_reg]
    exact congrArg (SeqCtx.reg · r) (seqUsed_ctx s q _)

/-! ## Atomics (R178, R331) -/

theorem seqAmo_placed {f : SR} {rs : List Code6} {fn : SeqCtx → W64 → W64} {x : SeqPlace} (h : SeqMay s q i false rs)
    (hg : (s.ctx q).pred f.q.toNat = true) (hp : seqPlace s (s.ctx q) (regV s q f.a) 8 .both = .ok x)
    (hh : seqHeld s (s.ctx q) x = false) :
    seqAmo i f rs fn s =
      .next ((amoAt (s.ctx q) f.d (regV s q f.a) (fn (s.ctx q)) (seqUsed s q (regV s q f.a)) x).apply q) := by
  rw [regV] at hp
  refine (runSeq_guarded h hg _).trans ?_
  simp only [hp, hh]
  rfl

theorem seqAmo_refused {f : SR} {rs : List Code6} {fn : SeqCtx → W64 → W64} {cause : Nat} (h : SeqMay s q i false rs)
    (hg : (s.ctx q).pred f.q.toNat = true) (hp : seqPlace s (s.ctx q) (regV s q f.a) 8 .both = .error cause) :
    seqAmo i f rs fn s = .next (seqTrap q cause (regV s q f.a) s) := by
  rw [regV] at hp
  refine (runSeq_guarded h hg _).trans ?_
  simp only [hp]
  rfl

/-- An atomic in memory with committed words `s1`: the trap of a poisoned word, or the exchange. -/
theorem amoAt_mem {c : SeqCtx} {d : Code6} {a : W64} {fn : W64 → W64} {pa : Nat} (h : isHost pa = false) :
    amoAt c d a fn s (.mem pa) = match poisonAt (commitFor c pa s).mem pa 8 with
      | some k => .trap s 0x06 0 (poisonInfo (a.toNat + k))
      | none => .done (setReg c d ⟨BitVec.ofNat 64 ((commitFor c pa s).mem.readN pa 8), false⟩ (withMem (commitFor c pa s)
          ((commitFor c pa s).mem.store pa (bytesLE 8 (fn (BitVec.ofNat 64 ((commitFor c pa s).mem.readN pa 8))).toNat) false))) := by
  rw [amoAt, h]
  rfl

theorem amoAt_host {c : SeqCtx} {d : Code6} {a : W64} {fn : W64 → W64} {pa : Nat} (h : isHost pa = true) :
    amoAt c d a fn s (.mem pa) = .trap s 0x08 0 a := by
  rw [amoAt, h]
  rfl

/-- The atomics are one shape: CAS reads d besides a and b, MIN and MAX compare signed. -/
theorem exec_amoTable (f : SR) (s : State) : ∀ p ∈ amoTable,
    exec (p.1 f) s = seqAmo (p.1 f) f (amoReads (p.1 f) f) (fun c o => p.2 o (c.reg f.b).v (c.reg f.d).v) s := by
  simp only [amoTable, List.forall_mem_cons, ← BitVec.slt_iff_toInt_lt]
  exact ⟨rfl, rfl, rfl, rfl, rfl, rfl, by rw [amoReads, if_pos rfl]; rfl, List.forall_mem_nil _⟩

/-- Settles O11: the atomics are one shape, by the place of the address and the context's binding. -/
theorem seqAtomicResult : Obligations.SeqAtomicResult := by
  unfold Obligations.SeqAtomicResult
  refine ⟨by decide, fun s q f p hp h hg => ?_⟩
  rw [exec_amoTable f s p hp]
  refine ⟨fun off hpl => ?inLocal, fun v pa hb hh hpl => ?root, fun cause => seqAmo_refused h hg, fun k reg old hpl hold => ?queue,
    fun st pa hb hh hhost hpl => ?host, fun st pa hb hh hdev hpl s1 hs1 => ?stand⟩
  case inLocal =>
    rw [seqAmo_placed h hg hpl rfl, seqUsed, seqTouch_of_place hpl (fun _ => SeqPlace.noConfusion), amoAt, State.ctx_id]
    refine ⟨fun hn => ?_, fun k hk => ?_⟩
    · simp only [hn]; rfl
    · simp only [hk]; rfl
  case queue =>
    rw [seqAmo_placed h hg hpl rfl, seqUsed, seqTouch_of_place hpl (fun _ => SeqPlace.noConfusion), amoAt, State.ctx_id, ← hold, ctxPut_eq_updCtx]
    rfl
  case root =>
    have commit : ∀ x, commitFor (s.ctx q) pa x = x := fun x => by rw [commitFor, hb]
    have mem : (seqUsed s q (regV s q f.a)).mem = s.mem := Laws.seqTouch_mem _ _ s
    rw [seqAmo_placed h hg hpl hh]
    refine ⟨fun hd hn => ?_, fun k hd hk => ?_, fun hhost => ?_⟩
    · rw [amoAt_mem hd, commit, mem, hn]; rfl
    · rw [amoAt_mem hd, commit, mem, hk]; rfl
    · rw [amoAt_host hhost]; rfl
  case host =>
    rw [seqAmo_placed h hg hpl hh, amoAt_host hhost]
    rfl
  case stand =>
    have commit : commitFor (s.ctx q) pa (seqUsed s q (regV s q f.a)) = s1 := by rw [commitFor, hb, hs1]
    rw [seqAmo_placed h hg hpl hh, amoAt_mem hdev, commit]
    refine ⟨fun k hk => ?_, fun hn => ?_⟩
    · rw [hk]; rfl
    · rw [hn]; rfl

end Sys2Proof.SeqMemProofs
end

section
/-! How a sequencer instruction starts and how its context goes on: the checks before it, the trap it may take, branches,
calls and returns, loops and the register windows (R147 to R149, R171, R179 to R183, R199). -/

namespace Sys2Proof.SeqCtlProofs

open Sys2Proof Sys2Proof.Machine Sys2Proof.Claims
open Sys2Proof.SeqProofs (runSeq_unguarded runSeq_guarded)
open Sys2Proof.SeqMemProofs (ctxNext_ctx ctxNext_reg)

variable {s : State} {q : SeqId} {i : Instr} {u : SeqUse} {body : SeqCtx → State → SeqAns}

theorem setCtx_ctx_of_id {c : SeqCtx} (h : c.id = q) : (s.setCtx c).ctx q = c := by
  rw [← h, State.setCtx_ctx]

/-! ## The checks before an instruction -/

theorem runSeq_turn (h : SeqTurn s q) (i : Instr) (u : SeqUse) (body : SeqCtx → State → SeqAns) :
    runSeq i u body s = .next (seqIssue i u body q s) := by
  simp only [runSeq, h.actor, h.running, if_true]

theorem runSeq_illegal (h : SeqTurn s q) (hi : i.wf = false ∨ ((s.ctx q).limm.isSome ∧ u.prefixed = false)) :
    runSeq i u body s = .next (seqTrap q 0x01 (wordInfo i) s) := by
  rw [runSeq_turn h, seqIssue, if_pos hi]

/-- A word that is no illegal one in its place. -/
theorem not_illegal {c : SeqCtx} (hw : i.wf = true) (hl : c.limm = none ∨ u.prefixed = true) :
    ¬ (i.wf = false ∨ (c.limm.isSome ∧ u.prefixed = false)) := by
  rcases hl with hl | hl <;> simp [hw, hl]

/-- The first poisoned register of a list. -/
theorem firstPoison_append {c : SeqCtx} {before after : List Code6} {r : Code6}
    (hb : ∀ x ∈ before, (c.reg x).poison = false) (hr : (c.reg r).poison = true) :
    firstPoison c (before ++ r :: after) = some r :=
  List.find?_eq_some_iff_append.mpr ⟨hr, before, after, rfl, fun x hx => by simp [hb x hx]⟩

theorem runSeq_poisoned (h : SeqTurn s q) (hw : i.wf = true) (hl : (s.ctx q).limm = none ∨ u.prefixed = true)
    (hg : ∀ g, u.guard = some g → (s.ctx q).pred g.toNat = true) {r : Code6} (hp : firstPoison (s.ctx q) u.reads = some r) :
    runSeq i u body s = .next (seqTrap q 0x06 (r.setWidth 64) s) := by
  rw [runSeq_turn h, seqIssue, if_neg (not_illegal hw hl), hp]
  cases hu : u.guard with
  | none => rfl
  | some g => simp only [hg g hu]; rfl

/-- Settles O30, in the order of the checks in `seqIssue`. -/
theorem seqChecks : Obligations.SeqChecks := by
  unfold Obligations.SeqChecks
  intro s q i u body h
  refine ⟨fun hw => runSeq_illegal h (.inl hw), fun hl hp => runSeq_illegal h (.inr ⟨Option.isSome_iff_ne_none.mpr hl, hp⟩),
    fun hw hl => ⟨fun g hg hf => ?skipped, fun hg => ⟨fun before r after hu hb hr => ?poison, fun hc => ?runs⟩⟩⟩
  case skipped => rw [runSeq_turn h, seqIssue, if_neg (not_illegal hw hl), hg, if_pos hf]; rfl
  case runs => exact Laws.runSeq_may ⟨h, hw, hl, hc⟩ hg body
  case poison => exact runSeq_poisoned h hw hl hg (hu ▸ firstPoison_append hb hr)

/-! ## Traps -/

theorem here_eq (c : SeqCtx) : c.here = (c.limm.map (·.2)).getD c.pc := by
  unfold SeqCtx.here
  cases c.limm <;> rfl

/-- A trap that a handler takes (R199). -/
theorem seqTrapAt_handled {cause code : Nat} {info epc : W64} (hh : (s.ctx q).h = false) (ht : (s.ctx q).tvec ≠ 0) :
    seqTrapAt q cause code info epc s = s.setCtx { s.ctx q with
      epc := epc, tcause := causeWord cause code, tinfo := info, h := true, fromIdle := false, limm := none
      wait := none, run := .running, pc := (s.ctx q).tvec.toNat } := by
  rw [seqTrapAt, if_neg]
  rintro (h | h)
  · exact absurd (hh.symm.trans h) Bool.false_ne_true
  · exact ht h

theorem seqTrap_stopped {cause : Nat} {info : W64} (h : (s.ctx q).h = true ∨ (s.ctx q).tvec = 0) :
    seqTrap q cause info s = seqStop q cause 0 info (BitVec.ofNat 64 (s.ctx q).here) s := by
  rw [seqTrap, seqTrapAt, if_pos h]

/-- The record of a context that stops. -/
def stopRecord (cause : Nat) (info epc : W64) (last : Nat) : TrapRec :=
  ⟨cause, 0, 1, ⟨0, 0, 0, 0⟩, 0, BitVec.ofNat 32 last, epc.toNat % 2 ^ 32, info.setWidth 32,
    BitVec.ofNat 32 (info.toNat / 2 ^ 32), 0, 0⟩

theorem stopRecord_pc (cause : Nat) (info : W64) (n last : Nat) :
    (stopRecord cause info (BitVec.ofNat 64 n) last).pc = n % 2 ^ 32 := by
  rw [stopRecord, BitVec.toNat_ofNat, Nat.mod_mod_of_dvd _ (by decide)]

theorem seqStop_root {v cause : Nat} {info epc : W64} (hb : (s.ctx q).bind = .root v) :
    seqStop q cause 0 info epc s = rootRecord v q.die (stopRecord cause info epc 0).word cause
      (giveUp q .halted (s.setCtx { s.ctx q with limm := none, wait := none })) := by
  simp only [seqStop, hb]
  rfl

theorem seqStop_stand {st cause : Nat} {info epc : W64} (hb : (s.ctx q).bind = .stand st) :
    seqStop q cause 0 info epc s = trapStand st (stopRecord cause info epc (((s.stand? st).map (·.lastWave)).getD 0)) true
      (giveUp q .stopped (s.setCtx { s.ctx q with limm := none, wait := none })) := by
  simp only [seqStop, hb]
  cases s.stand? st <;> rfl

/-- Settles O29: a handler, or the stop by the context's binding. -/
theorem seqTrapEntry : Obligations.SeqTrapEntry := by
  unfold Obligations.SeqTrapEntry
  intro s q cause info
  refine ⟨fun hh ht => ⟨?software, fun hc => ?taken⟩, fun v h hb => ?root, fun st h hb => ?stand⟩
  case software => rw [seqTrapAt_handled hh ht, here_eq]; rfl
  case taken => rw [seqTrap, seqTrapAt_handled hh ht, here_eq, causeWord, if_neg hc]
  case root => exact ⟨_, (seqTrap_stopped h).trans (seqStop_root hb), rfl, rfl, stopRecord_pc _ _ _ _⟩
  case stand => exact ⟨_, (seqTrap_stopped h).trans (seqStop_stand hb), rfl, rfl, stopRecord_pc _ _ _ _⟩

/-! ## The end of a word -/

theorem reachEnd_repeats {step e : Nat} {l : LoopEnt} (ls : List LoopEnt) (he : l.last = e) (hc : 1 < l.count) :
    reachEnd step (l :: ls) e = ({ l with count := l.count - 1 } :: ls, l.start) := by
  rw [reachEnd, if_pos he, if_pos hc]

theorem reachEnd_done {step e : Nat} {l : LoopEnt} (ls : List LoopEnt) (he : l.last = e) (hc : l.count ≤ 1) :
    reachEnd step (l :: ls) e = reachEnd step ls e := by
  rw [reachEnd, if_pos he, if_neg (by omega)]

theorem reachEnd_within {step e : Nat} {l : LoopEnt} (ls : List LoopEnt) (he : l.last ≠ e) :
    reachEnd step (l :: ls) e = (l :: ls, e + step) := by
  rw [reachEnd, if_neg he]

/-- Where a context stands after its instruction, once what follows its word is known. -/
theorem ctxNext_at {ls : List LoopEnt} {pc : Nat} (h : reachEnd 4 (s.ctx q).loops (s.ctx q).pc = (ls, pc)) :
    ((ctxNext s q).ctx q).pc = pc ∧ ((ctxNext s q).ctx q).loops = ls := by
  rw [ctxNext_ctx]
  exact ⟨congrArg Prod.snd h, congrArg Prod.fst h⟩

/-- A second SL.LIMM in its place traps at the first (R149). -/
theorem slLimm_again {imm v : BitVec 26} {pc0 : Nat} (h : SeqTurn s q) (hl : (s.ctx q).limm = some (v, pc0))
    (hh : (s.ctx q).h = false) (ht : (s.ctx q).tvec ≠ 0) :
    exec (.slLimm imm) s = .next (s.setCtx { s.ctx q with
      epc := BitVec.ofNat 64 pc0, tcause := 0x01, tinfo := wordInfo (.slLimm imm), h := true, fromIdle := false, limm := none
      wait := none, run := .running, pc := (s.ctx q).tvec.toNat }) := by
  refine (runSeq_illegal h (.inr ⟨by rw [hl]; rfl, rfl⟩)).trans ?_
  rw [seqTrap, seqTrapAt_handled hh ht, SeqCtx.here, hl]
  rfl

/-- Settles O5: SL.LIMM, and what follows a word, level by level. -/
theorem seqPrefixAndAdvance : Obligations.SeqPrefixAndAdvance := by
  unfold Obligations.SeqPrefixAndAdvance
  refine ⟨fun s q imm h => ⟨fun hl => ?first, fun v pc0 hl hh ht => ?second⟩, fun s q => ⟨fun hl => ?none, fun l ls hl he hc => ?again,
    fun l hl he hc => ?last, fun l ls hl he => ?within, fun l o ls hl he hc => ⟨fun ho hm => ?outerAgain,
      fun ho hm hn => ?outerLast, fun ho => ?outerWithin⟩, fun ls hl => ?any, ctxNext_reg s q, rfl, rfl⟩⟩
  case first => exact runSeq_unguarded ⟨h, rfl, .inl hl, by simp⟩ _
  case second =>
    refine ⟨_, slLimm_again h hl hh ht, ?_⟩
    rw [setCtx_ctx_of_id (q := q)]
    · exact ⟨rfl, rfl, rfl, rfl, rfl⟩
    · exact Laws.State.ctx_id s q
  case none => exact ctxNext_at (by rw [hl, reachEnd])
  case again => exact ctxNext_at (by rw [hl, reachEnd_repeats ls he hc])
  case last => exact ctxNext_at (by rw [hl, reachEnd_done [] he hc, reachEnd])
  case within => exact ctxNext_at (by rw [hl, reachEnd_within ls he])
  case outerAgain => exact ctxNext_at (by rw [hl, reachEnd_done _ he hc, reachEnd_repeats ls ho hm])
  case outerLast => exact ctxNext_at (by rw [hl, reachEnd_done _ he hc, reachEnd_done ls ho hm, hn, reachEnd])
  case outerWithin => exact ctxNext_at (by rw [hl, reachEnd_done _ he hc, reachEnd_within ls ho])
  case any => exact ctxNext_at (by rw [hl])

end Sys2Proof.SeqCtlProofs
end

section
/-! Branches, jumps, calls and returns, the register windows' operations and SB.LOOP (R179 to R183). -/

namespace Sys2Proof.FlowProofs

open Sys2Proof Sys2Proof.Machine Sys2Proof.Claims
open Sys2Proof.SeqProofs (runSeq_unguarded runSeq_guarded)

variable {s : State} {q : SeqId} {i : Instr}

/-! ## Targets -/

theorem target_reaches {c : SeqCtx} {disp : Int} {t : Nat} (h : reaches c disp t) : c.target disp = some t := by
  obtain ⟨heq, hlt⟩ := h
  unfold SeqCtx.target
  simp only
  rw [← heq, if_pos (by omega)]
  rfl

theorem target_beyond {c : SeqCtx} {disp : Int} (h : beyond c disp) : c.target disp = none := by
  unfold beyond at h
  unfold SeqCtx.target
  simp only
  rw [if_neg (by omega)]

theorem inText_iff {c : SeqCtx} {t : Nat} : c.inText t = true ↔ t < 4 * c.text.length := by simp [SeqCtx.inText]

theorem inText_false {c : SeqCtx} {t : Nat} (h : 4 * c.text.length ≤ t) : c.inText t = false := by
  simp [SeqCtx.inText, h]

/-! ## Branches and jumps -/

theorem seqBranch_reaches {disp : Int} {c : SeqCtx} {t : Nat} (h : reaches c disp t) :
    seqBranch i disp c s = .branch s t := by
  rw [seqBranch, target_reaches h]

theorem seqBranch_beyond {disp : Int} {c : SeqCtx} (h : beyond c disp) :
    seqBranch i disp c s = .trap s 0x01 0 (wordInfo i) := by
  rw [seqBranch, target_beyond h]

/-- SB.BZ branches by its register. -/
theorem sbBz_may {f : SB} (h : SeqMay s q (.sbBz f) false [f.a]) :
    exec (.sbBz f) s = .next ((if (regV s q f.a == 0) = (f.sense == 1) then
      seqBranch (.sbBz f) f.disp16.toInt (s.ctx q) s else .done s).apply q) :=
  runSeq_unguarded h _

/-- SR.JR JUMP to a register that is no multiple of 4. -/
theorem srJrJump_misaligned {f : SR} (h : SeqMay s q (.srJrJump f) false [f.a]) (hg : (s.ctx q).pred f.q.toNat = true)
    (hm : (regV s q f.a).toNat % 4 ≠ 0) : exec (.srJrJump f) s = .next (seqTrap q 0x0F (regV s q f.a) s) := by
  rw [regV] at hm
  refine (runSeq_guarded h hg _).trans ?_
  simp only [if_pos hm]
  rfl

/-- SR.JR JUMP to a multiple of 4. -/
theorem srJrJump_aligned {f : SR} (h : SeqMay s q (.srJrJump f) false [f.a]) (hg : (s.ctx q).pred f.q.toNat = true)
    (hm : (regV s q f.a).toNat % 4 = 0) :
    exec (.srJrJump f) s = .next ((if (s.ctx q).inText (regV s q f.a).toNat then .branch s (regV s q f.a).toNat
      else .trap s 0x01 0 (wordInfo (.srJrJump f)) : SeqAns).apply q) := by
  rw [regV] at hm
  refine (runSeq_guarded h hg _).trans ?_
  simp only [if_neg (Classical.not_not.mpr hm)]
  rfl

/-- Settles O12: each branch by whether it is taken and whether its target lies within the text. -/
theorem seqBranches : Obligations.SeqBranches := by
  unfold Obligations.SeqBranches
  refine ⟨fun s q t => ⟨fun f h => ⟨fun hq hr => ?br, fun hq => ?brNot⟩, fun f h => ⟨fun hz hr => ?bz, fun hz => ?bzNot⟩,
    fun d h hr => ?jmp, fun f h hg ht hm hl => ?jr⟩, fun s q => ⟨fun f h hq hb => ?brOut, fun f h hz hb => ?bzOut,
    fun d h hb => ?jmpOut, fun d h hb => ?callOut, fun f h hg => ⟨srJrJump_misaligned h hg, fun hm hl => ?jrOut⟩⟩⟩
  case br =>
    refine (runSeq_unguarded h _).trans ?_
    rw [if_pos hq, seqBranch_reaches hr]; rfl
  case brNot =>
    refine (runSeq_unguarded h _).trans ?_
    rw [if_neg hq]; rfl
  case bz =>
    rw [sbBz_may h, if_pos hz, seqBranch_reaches hr]; rfl
  case bzNot =>
    rw [sbBz_may h, if_neg hz]; rfl
  case jmp =>
    refine (runSeq_unguarded h _).trans ?_
    rw [seqBranch_reaches hr]; rfl
  case jr =>
    rw [srJrJump_aligned h hg (by rw [ht, hm]), if_pos (inText_iff.mpr (ht.symm ▸ hl)), ht]
    rfl
  case brOut =>
    refine (runSeq_unguarded h _).trans ?_
    rw [if_pos hq, seqBranch_beyond hb]; rfl
  case bzOut =>
    rw [sbBz_may h, if_pos hz, seqBranch_beyond hb]; rfl
  case jmpOut =>
    refine (runSeq_unguarded h _).trans ?_
    rw [seqBranch_beyond hb]; rfl
  case callOut =>
    refine (runSeq_unguarded h _).trans ?_
    simp only [target_beyond hb]; rfl
  case jrOut =>
    rw [srJrJump_aligned h hg hm, inText_false hl]
    rfl

/-! ## Calls -/

theorem sjCall_reaches {d : BitVec 26} {t : Nat} (h : SeqMay s q (.sjCall d) false []) (hr : reaches (s.ctx q) d.toInt t) :
    exec (.sjCall d) s = .next ((seqCall t (s.ctx q) s).apply q) := by
  refine (runSeq_unguarded h _).trans ?_
  simp only [target_reaches hr]

theorem srJrCall_misaligned {f : SR} (h : SeqMay s q (.srJrCall f) false [f.a]) (hg : (s.ctx q).pred f.q.toNat = true)
    (hm : (regV s q f.a).toNat % 4 ≠ 0) : exec (.srJrCall f) s = .next (seqTrap q 0x0F (regV s q f.a) s) := by
  rw [regV] at hm
  refine (runSeq_guarded h hg _).trans ?_
  simp only [if_pos hm]
  rfl

theorem srJrCall_aligned {f : SR} (h : SeqMay s q (.srJrCall f) false [f.a]) (hg : (s.ctx q).pred f.q.toNat = true)
    (hm : (regV s q f.a).toNat % 4 = 0) :
    exec (.srJrCall f) s = .next ((if (s.ctx q).inText (regV s q f.a).toNat then seqCall (regV s q f.a).toNat (s.ctx q) s
      else .trap s 0x01 0 (wordInfo (.srJrCall f))).apply q) := by
  rw [regV] at hm
  refine (runSeq_guarded h hg _).trans ?_
  simp only [if_neg (Classical.not_not.mpr hm)]
  rfl

/-- A call with room among the resident windows (R180). -/
theorem seqCall_roomy {t : Nat} (h : (s.ctx q).resident ≠ 7) :
    (seqCall t (s.ctx q) s).apply q = called s q ((s.ctx q).pc + 4) t := by
  simp only [seqCall, if_neg h, Laws.State.ctx_id]
  rfl

/-- A call with seven windows resident spills the oldest first (R181). -/
theorem seqCall_spilled {t : Nat} {s1 : State} (h : (s.ctx q).resident = 7) (hs : spill q s = some s1) :
    (seqCall t (s.ctx q) s).apply q = called s1 q ((s.ctx q).pc + 4) t := by
  simp only [seqCall, if_pos h, Laws.State.ctx_id, hs]
  rfl

theorem seqCall_overflow {t : Nat} (h : (s.ctx q).resident = 7) (hs : spill q s = none) :
    (seqCall t (s.ctx q) s).apply q = seqTrap q 0x0E (s.ctx q).wsp s := by
  simp only [seqCall, if_pos h, Laws.State.ctx_id, hs]
  rfl

theorem spill_none (h : (s.ctx q).wlim.toNat < (s.ctx q).wsp.toNat + 264) : spill q s = none := by
  simp only [spill, if_pos h]

/-! ## Returns -/

theorem seqRet_resident (hp : regP s q 31 = false) (ha : (regV s q 31).toNat % 4 = 0) (hr : 1 < (s.ctx q).resident) :
    (seqRet (s.ctx q) s).apply q = ctxGo (s.updCtx q fun c =>
      { c with depth := (s.ctx q).depth - 1, resident := (s.ctx q).resident - 1 }) q (regV s q 31).toNat := by
  rw [regP] at hp
  rw [regV] at ha
  simp only [seqRet, hp, if_neg (Classical.not_not.mpr ha), if_neg (Nat.not_le.mpr hr), Laws.State.ctx_id]
  rfl

theorem seqRet_filled (hp : regP s q 31 = false) (ha : (regV s q 31).toNat % 4 = 0) (hr : (s.ctx q).resident ≤ 1) :
    (seqRet (s.ctx q) s).apply q = ctxGo ((fill q ((s.ctx q).depth - 1) s).updCtx q fun c =>
      { c with depth := (s.ctx q).depth - 1, resident := (s.ctx q).resident }) q (regV s q 31).toNat := by
  rw [regP] at hp
  rw [regV] at ha
  simp only [seqRet, hp, if_neg (Classical.not_not.mpr ha), if_pos hr, Laws.State.ctx_id]
  rfl

theorem seqRet_misaligned (hp : regP s q 31 = false) (ha : (regV s q 31).toNat % 4 ≠ 0) :
    (seqRet (s.ctx q) s).apply q = seqTrap q 0x0F (regV s q 31) s := by
  rw [regP] at hp
  rw [regV] at ha
  simp only [seqRet, hp, if_pos ha]
  rfl

theorem seqRet_poisoned (hp : regP s q 31 = true) : (seqRet (s.ctx q) s).apply q = seqTrap q 0x06 31 s := by
  rw [regP] at hp
  simp only [seqRet, hp]
  rfl

/-- SX.RET below the entry returns. -/
theorem sxRet_deep {f : SX} (h : SeqMay s q (.sxRet f) false []) (hd : (s.ctx q).depth ≠ 0) :
    exec (.sxRet f) s = .next ((seqRet (s.ctx q) s).apply q) := by
  refine (runSeq_unguarded h _).trans ?_
  simp only [if_neg hd]

/-- SX.RET at depth 0 ends the entry. -/
theorem sxRet_entry {f : SX} (h : SeqMay s q (.sxRet f) false []) (hd : (s.ctx q).depth = 0) :
    exec (.sxRet f) s = .next (endEntry (s.ctx q) s) := by
  refine (runSeq_unguarded h _).trans ?_
  simp only [if_pos hd]
  rfl

theorem endEntry_root {c : SeqCtx} {v : Nat} (hb : c.bind = .root v) : endEntry c s = haltRoot c s := by
  rw [endEntry, hb]

theorem haltRoot_ctx (s : State) (q : SeqId) : haltRoot (s.ctx q) s = giveUp q .halted (s.setCtx { s.ctx q with
    h := (s.ctx q).h && !(s.ctx q).fromIdle, fromIdle := false, limm := none }) := by
  simp only [haltRoot, Laws.State.ctx_id]

theorem endEntry_stand {c : SeqCtx} {st : Nat} (hb : c.bind = .stand st) : endEntry c s = endFeed st s := by
  rw [endEntry, hb]

/-- Settles O13: both calls are `seqCall` at a target within the text, and a return is `seqRet` or the entry's end. -/
theorem seqCallReturn : Obligations.SeqCallReturn := by
  unfold Obligations.SeqCallReturn
  refine ⟨fun s q t i hi => ?calls, fun s q f h => ⟨fun hd hp => ?poisoned, fun hd hp ha => ?misaligned,
    fun hd hp ha => ⟨fun hr => ?resident, fun hr => ?filled⟩, fun hd v hb => ?root, fun hd st hb => ?stand⟩,
    fun s q f h hg => ⟨srJrCall_misaligned h hg, fun hm hl => ?callOut⟩⟩
  case calls =>
    have hx : exec i s = .next ((seqCall t (s.ctx q) s).apply q) := by
      rcases hi with ⟨d, rfl, h, hr⟩ | ⟨f, rfl, h, hg, ht, hm, hl⟩
      · exact sjCall_reaches h hr
      · rw [srJrCall_aligned h hg (by rw [ht, hm]), ht, if_pos (inText_iff.mpr hl)]
    rw [hx]
    exact ⟨fun h => congrArg _ (seqCall_roomy h), fun h s1 hs => congrArg _ (seqCall_spilled h hs),
      fun h hl => congrArg _ (seqCall_overflow h (spill_none hl))⟩
  case poisoned => rw [sxRet_deep h hd, seqRet_poisoned hp]
  case misaligned => rw [sxRet_deep h hd, seqRet_misaligned hp ha]
  case resident => rw [sxRet_deep h hd, seqRet_resident hp ha hr]
  case filled => rw [sxRet_deep h hd, seqRet_filled hp ha hr]
  case root => rw [sxRet_entry h hd, endEntry_root hb, haltRoot_ctx]
  case stand => rw [sxRet_entry h hd, endEntry_stand hb]
  case callOut =>
    rw [srJrCall_aligned h hg hm, inText_false hl]
    rfl

/-! ## Window operations (R182) -/

theorem spillAll_single (n : Nat) (h : (s.ctx q).resident ≤ 1) : spillAll q n s = (s, true) := by
  cases n with
  | zero => rfl
  | succ n => rw [spillAll, if_pos h]

theorem spillAll_step (n : Nat) {s1 : State} (h : 1 < (s.ctx q).resident) (hs : spill q s = some s1) :
    spillAll q (n + 1) s = spillAll q n s1 := by
  rw [spillAll, if_neg (Nat.not_le.mpr h), hs]

/-- A spill leaves one resident window less. -/
theorem spill_resident {s1 : State} (h : spill q s = some s1) : (s1.ctx q).resident = (s.ctx q).resident - 1 := by
  simp only [spill] at h
  split at h
  · cases h
  · cases h
    rw [SeqCtlProofs.setCtx_ctx_of_id (q := q)]
    exact Laws.State.ctx_id s q

/-- SX.WIN FLUSH is the spills until one window is resident. -/
theorem sxWinFlush_may {f : SX} {s1 : State} {b : Bool} (h : SeqMay s q (.sxWinFlush f) false [])
    (hs : spillAll q 8 s = (s1, b)) : exec (.sxWinFlush f) s = .next
      (if b then ctxNext s1 q else seqTrap q 0x0E (s1.ctx q).wsp s1) := by
  refine (runSeq_unguarded h _).trans ?_
  simp only [Laws.State.ctx_id, hs]
  cases b <;> rfl

/-- Settles O15: each operation by the number of resident windows. -/
theorem seqWindowOps : Obligations.SeqWindowOps := by
  unfold Obligations.SeqWindowOps
  refine fun s q f => ⟨fun h => ⟨fun hr => ?saveNone, fun hr => ⟨fun s1 hs => ?save, fun hs => ?saveTrap⟩⟩,
    fun h => ⟨fun hr => ?restoreNone, fun hd hr => ?restore⟩,
    fun h => ⟨fun hr => ?flushNone, fun s1 hs hr => ?flushTwo, fun s1 hs => ?flush, fun s1 hs => ?flushTrap⟩⟩
  case saveNone =>
    refine (runSeq_unguarded h _).trans ?_
    simp only [if_neg (Nat.not_lt.mpr hr)]; rfl
  case save =>
    refine (runSeq_unguarded h _).trans ?_
    simp only [if_pos hr, Laws.State.ctx_id, hs]; rfl
  case saveTrap =>
    refine (runSeq_unguarded h _).trans ?_
    simp only [if_pos hr, Laws.State.ctx_id, hs]; rfl
  case restoreNone =>
    refine (runSeq_unguarded h _).trans ?_
    simp only [if_neg (show ¬ (0 < (s.ctx q).depth ∧ (s.ctx q).resident ≤ 1) by omega)]; rfl
  case restore =>
    refine (runSeq_unguarded h _).trans ?_
    simp only [if_pos (And.intro hd hr), Laws.State.ctx_id]; rfl
  case flushNone => exact sxWinFlush_may h (spillAll_single 8 hr)
  case flushTwo =>
    refine sxWinFlush_may h (b := true) ?_
    rw [spillAll_step 7 (by omega) hs, spillAll_single 7]
    exact Nat.le_of_eq ((spill_resident hs).trans (congrArg (· - 1) hr))
  case flush => exact sxWinFlush_may h hs
  case flushTrap => exact sxWinFlush_may h hs

/-! ## SB.LOOP (R183) -/

/-- A body that fits its text and its enclosing bodies. -/
theorem loop_fits {c : SeqCtx} {len : Int} {e : Nat} (hl : 0 < len) (he : e < 4 * c.text.length)
    (hn : ∀ l ∈ c.loops, l.start ≤ c.pc → c.pc ≤ l.last → e ≤ l.last) :
    ¬ (len ≤ 0 ∨ c.inText e = false ∨ c.loops.any (fun l => l.start ≤ c.pc && c.pc ≤ l.last && l.last < e)) := by
  rintro (h | h | h)
  · omega
  · rw [inText_iff.mpr he] at h
    cases h
  · obtain ⟨l, hmem, hx⟩ := List.any_eq_true.mp h
    simp only [Bool.and_eq_true, decide_eq_true_eq] at hx
    have := hn l hmem hx.1.1 hx.1.2
    omega

theorem loop_unfit {c : SeqCtx} {len : Int} {e : Nat}
    (h : len ≤ 0 ∨ 4 * c.text.length ≤ e ∨ ∃ l ∈ c.loops, l.start ≤ c.pc ∧ c.pc ≤ l.last ∧ l.last < e) :
    len ≤ 0 ∨ c.inText e = false ∨ c.loops.any (fun l => l.start ≤ c.pc && c.pc ≤ l.last && l.last < e) := by
  rcases h with h | h | ⟨l, hmem, hs, hp, he⟩
  · exact .inl h
  · exact .inr (.inl (inText_false h))
  · exact .inr (.inr (List.any_eq_true.mpr ⟨l, hmem, by simp [hs, hp, he]⟩))

/-- Settles O16: whether the body fits, then the count, then the levels. -/
theorem seqLoopResult : Obligations.SeqLoopResult := by
  unfold Obligations.SeqLoopResult
  rintro s q f _ _ _ rfl rfl rfl h
  refine ⟨fun hl he hn => ⟨fun hc hd => ?enters, fun hc => ?skips, fun hc hd => ?deep⟩, fun hx => ?unfit⟩
  case enters =>
    rw [regV] at hc
    refine (runSeq_unguarded h _).trans ?_
    simp only [if_neg (loop_fits hl he hn)]
    rw [if_neg (Nat.ne_of_gt hc), if_neg (Nat.not_le.mpr hd)]
    rfl
  case skips =>
    rw [regV] at hc
    refine (runSeq_unguarded h _).trans ?_
    simp only [if_neg (loop_fits hl he hn)]
    rw [if_pos hc]
    rfl
  case deep =>
    rw [regV] at hc
    refine (runSeq_unguarded h _).trans ?_
    simp only [if_neg (loop_fits hl he hn)]
    rw [if_neg (Nat.ne_of_gt hc), if_pos hd]
    rfl
  case unfit =>
    refine (runSeq_unguarded h _).trans ?_
    simp only [if_pos (loop_unfit hx)]
    rfl

end Sys2Proof.FlowProofs
end

section
/-! The window stack (R181): the frame that a spill stores, byte by byte and bit by bit, and what a fill takes back. -/

namespace Sys2Proof.WindowProofs

open Sys2Proof Sys2Proof.Machine Sys2Proof.Claims
open Sys2Proof.FileProofs (nth_nil nth_setNth_same nth_setNth_ne windowReg_injective)
open Sys2Proof.MemoryProofs (length_upFrom getElem_upFrom)
open Sys2Proof.SeqMemProofs (length_bytesLE store_bytesLE)
open Sys2Proof.SeqCtlProofs (setCtx_ctx_of_id)

variable {s : State} {q : SeqId}

/-! ## Little-endian numbers in a memory -/

theorem natOfBytesLE_bytesLE (n v : Nat) : natOfBytesLE (bytesLE n v) = v % 256 ^ n := by
  induction n generalizing v with
  | zero => simp [bytesLE, natOfBytesLE, Nat.mod_one]
  | succ n ih => 
    rw [bytesLE, natOfBytesLE, ih, BitVec.toNat_ofNat, show 256 ^ (n + 1) = 256 * 256 ^ n from Nat.pow_succ']
    exact (Nat.mod_mul (x := v) (a := 256) (b := 256 ^ n)).symm

theorem upFrom_add (a n k : Nat) : upFrom a (n + k) = upFrom a n ++ upFrom (a + n) k := by
  induction n generalizing a with
  | zero => simp [upFrom]
  | succ n ih => rw [Nat.add_right_comm, upFrom, upFrom, ih, List.cons_append, Nat.add_right_comm]; rfl

theorem bytesAt_add (m : Memory) (a n k : Nat) : m.bytesAt a (n + k) = m.bytesAt a n ++ m.bytesAt (a + n) k := by
  simp only [Memory.bytesAt, upFrom_add, List.map_append]

/-- Equal bytes in a range are an equal range. -/
theorem bytesAt_congr {m m' : Memory} {a n : Nat} (h : ∀ x, a ≤ x → x < a + n → m'.byte x = m.byte x) :
    m'.bytesAt a n = m.bytesAt a n :=
  List.map_congr_left fun x hx => by rw [FileProofs.mem_upFrom] at hx; exact h x hx.1 hx.2

/-- Doublewords that stand one after another. -/
theorem bytesAt_doubleword {m : Memory} (g : Reg → Nat) {rs : List Reg} {a k : Nat} (hk : k < rs.length)
    (h : m.bytesAt a (8 * rs.length) = (rs.map fun r => bytesLE 8 (g r)).flatten) :
    m.bytesAt (a + 8 * k) 8 = bytesLE 8 (g rs[k]) := by
  induction rs generalizing a k with
  | nil => cases hk
  | cons r rs ih =>
    rw [List.length_cons, Nat.mul_succ, Nat.add_comm (8 * _), bytesAt_add, List.map_cons, List.flatten_cons] at h
    obtain ⟨first, rest⟩ := List.append_inj h (by simp [Memory.bytesAt, length_upFrom, length_bytesLE])
    cases k with
    | zero => exact first
    | succ k =>
      have := ih (Nat.lt_of_succ_lt_succ hk) rest
      rwa [Nat.add_assoc, Nat.add_comm 8, ← Nat.mul_succ] at this

theorem length_doublewords (g : Reg → Nat) (rs : List Reg) : (rs.map fun r => bytesLE 8 (g r)).flatten.length = 8 * rs.length := by
  induction rs with
  | nil => rfl
  | cons r rs ih => rw [List.map_cons, List.flatten_cons, List.length_append, length_bytesLE, ih, List.length_cons]; omega

/-! ## The poison doubleword -/

/-- The number whose bits are the poison bits of registers, the first lowest. -/
def poisonBits (rs : List Reg) : Nat := rs.foldr (fun r n => 2 * n + r.poison.toNat) 0

theorem poisonBits_cons (r : Reg) (rs : List Reg) : poisonBits (r :: rs) = 2 * poisonBits rs + r.poison.toNat := rfl

theorem sumNat_poison (rs : List Reg) (i : Nat) :
    sumNat ((rs.zipIdx i).map fun p => if p.1.poison then 2 ^ p.2 else 0) = 2 ^ i * poisonBits rs := by
  induction rs generalizing i with
  | nil => rfl
  | cons r rs ih =>
    rw [List.zipIdx_cons, List.map_cons, sumNat, ih, poisonBits_cons, Nat.pow_succ, Nat.mul_add, Nat.mul_assoc,
      Nat.add_comm (2 ^ i * (2 * poisonBits rs))]
    congr 1
    cases r.poison with
    | false => exact (Nat.mul_zero _).symm
    | true => exact (Nat.mul_one _).symm

theorem poisonBits_lt (rs : List Reg) : poisonBits rs < 2 ^ rs.length := by
  induction rs with
  | nil => exact Nat.one_pos
  | cons r rs ih =>
    rw [poisonBits_cons, List.length_cons, Nat.pow_succ]
    have := r.poison.toNat_le
    omega

theorem poisonBits_testBit {rs : List Reg} {k : Nat} (hk : k < rs.length) : (poisonBits rs).testBit k = rs[k].poison := by
  induction rs generalizing k with
  | nil => cases hk
  | cons r rs ih =>
    rw [poisonBits_cons]
    cases k with
    | zero =>
      rw [Nat.testBit_zero, Nat.mul_add_mod, List.getElem_cons_zero]
      cases r.poison <;> rfl
    | succ k =>
      have halved : (2 * poisonBits rs + r.poison.toNat) / 2 = poisonBits rs := by
        have := r.poison.toNat_lt
        omega
      rw [Nat.testBit_succ, halved, ih (Nat.lt_of_succ_lt_succ hk), List.getElem_cons_succ]

/-! ## Windows of the register file -/

theorem length_window (c : SeqCtx) (d : Nat) : (c.window d).length = 32 := by
  rw [SeqCtx.window, List.length_map, upTo, length_upFrom]

theorem getElem_window (c : SeqCtx) (d : Nat) {k : Nat} (hk : k < (c.window d).length) :
    (c.window d)[k] = nth ⟨0, false⟩ c.w (windowReg d k) := by
  simp only [SeqCtx.window, upTo, List.getElem_map, getElem_upFrom, Nat.zero_add]

/-- Registers that are put one after another into a window. -/
theorem nth_putWindow (depth : Nat) {rs : List Reg} (l : List Reg) {i k : Nat} (hi : i + rs.length ≤ 48) (hk : k < 48) :
    nth ⟨0, false⟩ ((rs.zipIdx i).foldl (fun acc p => setNth ⟨0, false⟩ acc (windowReg depth p.2) p.1) l) (windowReg depth k) =
      if i ≤ k then nth (nth ⟨0, false⟩ l (windowReg depth k)) rs (k - i) else nth ⟨0, false⟩ l (windowReg depth k) := by
  induction rs generalizing l i with
  | nil => simp
  | cons r rs ih =>
    rw [List.length_cons] at hi
    rw [List.zipIdx_cons, List.foldl_cons, ih _ (by omega)]
    rcases Nat.lt_trichotomy k i with hlt | rfl | hgt
    · rw [if_neg (by omega), if_neg (by omega), nth_setNth_ne]
      exact fun e => by have := windowReg_injective (by omega) (by omega) e; omega
    · rw [if_neg (by omega), if_pos (Nat.le_refl k), nth_setNth_same, Nat.sub_self]
      rfl
    · have other : windowReg depth k ≠ windowReg depth i :=
        fun e => by have := windowReg_injective (by omega) (by omega) e; omega
      rw [if_pos (by omega), if_pos (by omega), nth_setNth_ne _ _ other, show k - i = k - (i + 1) + 1 by omega]
      rfl

@[simp] theorem setWindow_id (c : SeqCtx) (d : Nat) (rs : List Reg) : (c.setWindow d rs).id = c.id := by
  unfold SeqCtx.setWindow
  rfl

theorem nth_eq_getElem {α : Type} (d : α) {l : List α} {k : Nat} (hk : k < l.length) : nth d l k = l[k] := by
  induction l generalizing k with
  | nil => cases hk
  | cons x xs ih => cases k with
    | zero => rfl
    | succ k => exact ih (Nat.lt_of_succ_lt_succ hk)

theorem setWindow_reg (c : SeqCtx) (d : Nat) {rs : List Reg} (hl : rs.length = 32) {k : Nat} (hk : k < rs.length) :
    nth ⟨0, false⟩ (c.setWindow d rs).w (windowReg d k) = rs[k] := by
  rw [SeqCtx.setWindow, nth_putWindow d c.w (by omega) (by omega), if_pos (Nat.zero_le k)]
  exact nth_eq_getElem _ hk

/-! ## Frames -/

/-- Offsets within a frame that does not wrap. -/
theorem localAddr_add (q : SeqId) {off n : Nat} (h : off + n < 2 ^ 18) : localAddr q (off + n) = localAddr q off + n := by
  unfold localAddr
  omega

/-- A frame changes nothing outside its 264 bytes. -/
theorem writeFrame_outside {off : Nat} {rs : List Reg} (hl : rs.length = 32) (ho : off + 264 < 2 ^ 18) :
    sameOutside s.lmem (writeFrame q off rs s).lmem (localAddr q off) 264 := by
  intro x hx
  have len := length_doublewords (fun r => r.v.toNat) rs
  simp only [writeFrame]
  rw [Memory.store_byte_ne _ _ _ _ _ (by rw [length_bytesLE, localAddr_add q (by omega)]; omega),
    Memory.store_byte_ne _ _ _ _ _ (by omega)]

/-- Register k of a frame. -/
theorem writeFrame_register {off : Nat} {rs : List Reg} (hw : s.lmem.wf = true) (hl : rs.length = 32) (ho : off + 264 < 2 ^ 18)
    {k : Nat} (hk : k < rs.length) :
    (writeFrame q off rs s).lmem.readN (localAddr q (off + 8 * k)) 8 = rs[k].v.toNat := by
  have len := length_doublewords (fun r => r.v.toNat) rs
  have stored := MemoryProofs.store_bytesAt (localAddr q off) (rs.map fun r => bytesLE 8 r.v.toNat).flatten false hw
  rw [len] at stored
  have kept : (writeFrame q off rs s).lmem.bytesAt (localAddr q off) (8 * rs.length) =
      (rs.map fun r => bytesLE 8 r.v.toNat).flatten := by
    rw [← stored]
    refine bytesAt_congr fun x hx hx' => ?_
    exact Memory.store_byte_ne _ _ _ _ _ (by rw [localAddr_add q (by omega)]; omega)
  rw [localAddr_add q (by omega), Memory.readN, bytesAt_doubleword (fun r => r.v.toNat) hk kept, natOfBytesLE_bytesLE]
  exact Nat.mod_eq_of_lt rs[k].v.isLt

/-- The poison doubleword of a frame. -/
theorem writeFrame_poison {off : Nat} {rs : List Reg} (hw : s.lmem.wf = true) (hl : rs.length = 32) :
    (writeFrame q off rs s).lmem.readN (localAddr q (off + 256)) 8 = poisonBits rs := by
  have small : poisonBits rs < 2 ^ 32 := hl ▸ poisonBits_lt rs
  have wf := Memory.store_wf s.lmem (localAddr q off) (rs.map fun r => bytesLE 8 r.v.toNat).flatten false hw
  have sum : sumNat (rs.zipIdx.map fun p => if p.1.poison then 2 ^ p.2 else 0) = poisonBits rs := by
    rw [sumNat_poison, Nat.pow_zero, Nat.one_mul]
  simp only [writeFrame, Memory.readN]
  rw [(store_bytesLE wf _ 8 _ false).2, natOfBytesLE_bytesLE, sum]
  exact Nat.mod_eq_of_lt (by omega)

/-- The state after a spill that fits. -/
theorem spill_some (h : (s.ctx q).wsp.toNat + 264 ≤ (s.ctx q).wlim.toNat) :
    spill q s = some ((writeFrame q (s.ctx q).wsp.toNat ((s.ctx q).window ((s.ctx q).depth + 1 - (s.ctx q).resident)) s).setCtx
      { s.ctx q with wsp := (s.ctx q).wsp + 264, resident := (s.ctx q).resident - 1 }) := by
  simp only [spill, if_neg (Nat.not_lt.mpr h)]

theorem toNat_add_frame {w : W64} (h : w.toNat + 264 < 2 ^ 18) : (w + 264).toNat = w.toNat + 264 := by
  rw [BitVec.toNat_add]
  exact Nat.mod_eq_of_lt (Nat.lt_trans h (by decide))

theorem toNat_sub_frame {n : Nat} (hlo : 264 ≤ n) (hhi : n < 2 ^ 18) :
    (BitVec.ofNat 64 ((n + 2 ^ 18 - 264) % 2 ^ 18)).toNat = n - 264 := by
  rw [BitVec.toNat_ofNat]
  omega

/-- Register k, its poison bit and the rest of the poison doubleword in the frame of a window. -/
theorem writeFrame_window {off d : Nat} {c : SeqCtx} (hw : s.lmem.wf = true) (ho : off + 264 < 2 ^ 18) {k : Nat} (hk : k < 32) :
    (writeFrame q off (c.window d) s).lmem.readN (localAddr q (off + 8 * k)) 8 = (nth ⟨0, false⟩ c.w (windowReg d k)).v.toNat ∧
    (BitVec.ofNat 64 ((writeFrame q off (c.window d) s).lmem.readN (localAddr q (off + 256)) 8)).getLsbD k =
      (nth ⟨0, false⟩ c.w (windowReg d k)).poison ∧
    (writeFrame q off (c.window d) s).lmem.readN (localAddr q (off + 256)) 8 < 2 ^ 32 := by
  have hlen := length_window c d
  have hk' : k < (c.window d).length := hlen ▸ hk
  have small : poisonBits (c.window d) < 2 ^ 32 := hlen ▸ poisonBits_lt (c.window d)
  rw [writeFrame_register hw hlen ho hk', writeFrame_poison hw hlen, getElem_window, BitVec.getLsbD_ofNat,
    poisonBits_testBit hk', getElem_window, decide_eq_true (Nat.lt_trans hk (by decide)), Bool.true_and]
  exact ⟨rfl, rfl, small⟩

/-- The context after a fill, and the memories that it leaves. -/
theorem fill_ctx (d : Nat) (hlo : 264 ≤ (s.ctx q).wsp.toNat) (hhi : (s.ctx q).wsp.toNat < 2 ^ 18) :
    ((fill q d s).ctx q).wsp.toNat = (s.ctx q).wsp.toNat - 264 ∧ ((fill q d s).ctx q).w = ((s.ctx q).setWindow d
      ((upTo 32).map fun k => ⟨frameReg s q ((s.ctx q).wsp.toNat - 264 + 8 * k),
        (frameReg s q ((s.ctx q).wsp.toNat - 264 + 256)).getLsbD k⟩)).w := by
  have base := toNat_sub_frame hlo hhi
  simp only [fill, -Nat.reducePow, base]
  rw [setCtx_ctx_of_id (q := q)]
  · exact ⟨base, by dsimp only⟩
  · simp only [setWindow_id, Laws.State.ctx_id]

/-- Settles O14: the frame that a spill writes, and the registers that a fill puts. -/
theorem seqSpillFill : Obligations.SeqSpillFill := by
  unfold Obligations.SeqSpillFill
  intro s q hs
  refine ⟨FlowProofs.spill_none, fun hfit hin => ?spill, fun d hlo hhi => ?fill⟩
  case spill =>
    refine ⟨_, spill_some hfit, ?_⟩
    rw [setCtx_ctx_of_id (q := q)]
    · exact ⟨toNat_add_frame hin, rfl, rfl, writeFrame_outside (length_window _ _) hin, fun r => rfl,
        fun k hk => writeFrame_window hs.2 hin hk⟩
    · exact Laws.State.ctx_id s q
  case fill =>
    obtain ⟨wsp, w⟩ := fill_ctx d hlo hhi
    refine ⟨wsp, rfl, fun k hk => ?_⟩
    have len : (upTo 32).length = 32 := length_upFrom 0 32
    rw [w, setWindow_reg _ d (by rw [List.length_map, len]) (by rwa [List.length_map, len])]
    simp only [upTo, List.getElem_map, getElem_upFrom, Nat.zero_add, frameReg]

end Sys2Proof.WindowProofs
end

section
/-! System registers, software traps, the return from a trap, halting, the grain and random words (R140, R172, R187, R195,
R197, R198, R344). -/

namespace Sys2Proof.SeqSysProofs

open Sys2Proof Sys2Proof.Machine Sys2Proof.Claims
open Sys2Proof.SeqProofs (runSeq_unguarded runSeq_guarded)

variable {s : State} {q : SeqId} {i : Instr}

/-! ## The grain and random words -/

theorem seqStand?_stand {c : SeqCtx} {st : Nat} (hb : c.bind = .stand st) : seqStand? s c = s.stand? st := by
  rw [seqStand?, hb]

theorem seqStand?_root {c : SeqCtx} {v : Nat} (hb : c.bind = .root v) : seqStand? s c = none := by
  rw [seqStand?, hb]

/-- The grain that SX.GRN writes, by the context's binding. -/
theorem grain_eq (s : State) (c : SeqCtx) :
    (match seqStand? s c, c.block with | some t, some _ => t.g | _, _ => 0) = feedGrain s c := by
  rw [feedGrain]
  cases hb : c.bind with
  | none => rw [seqStand?, hb]
  | root v => rw [seqStand?_root hb]
  | stand st =>
    rw [seqStand?_stand hb]
    cases c.block with
    | none => cases s.stand? st <;> rfl
    | some no =>
      dsimp only
      cases s.stand? st <;> rfl

theorem feedGrain_idle {s : State} {c : SeqCtx} (h : c.block = none) : feedGrain s c = 0 := by
  rw [feedGrain, h]
  cases c.bind <;> rfl

theorem sxGrn_may {f : SX} (h : SeqMay s q (.sxGrn f) false []) :
    exec (.sxGrn f) s = .next (ctxPut s q f.d (BitVec.ofNat 64 (feedGrain s (s.ctx q))) false) := by
  rw [← grain_eq]
  exact runSeq_unguarded h _

/-- Settles O25, by the context's binding and the block it feeds. -/
theorem seqGrain : Obligations.SeqGrain := by
  unfold Obligations.SeqGrain
  refine ⟨by decide, fun s q f h => ⟨sxGrn_may h, fun hb => ?_⟩⟩
  rw [sxGrn_may h, feedGrain_idle hb]
  rfl

/-- Settles O26: the traps of a pair that does not exist, else both registers. -/
theorem seqRandom : Obligations.SeqRandom := by
  unfold Obligations.SeqRandom
  refine ⟨by decide, fun s q f h hg => ⟨fun h15 h63 => ?pair, fun hd => ?trap⟩⟩
  case pair =>
    refine (runSeq_guarded h hg _).trans ?_
    rw [if_neg (not_or.mpr ⟨h15, h63⟩)]
    rfl
  case trap =>
    refine (runSeq_guarded h hg _).trans ?_
    rw [if_pos hd]
    rfl

/-! ## System registers -/

theorem sxSysCsrrd_some {f : SX} {v : W64} (h : SeqMay s q (.sxSysCsrrd f) false [])
    (hv : csrRead s (s.ctx q) f.sel12.toNat = some v) : exec (.sxSysCsrrd f) s = .next (ctxPut s q f.d v false) := by
  refine (runSeq_unguarded h _).trans ?_
  simp only [hv]
  rfl

theorem sxSysCsrrd_none {f : SX} (h : SeqMay s q (.sxSysCsrrd f) false [])
    (hv : csrRead s (s.ctx q) f.sel12.toNat = none) :
    exec (.sxSysCsrrd f) s = .next (seqTrap q 0x08 (f.sel12.setWidth 64) s) := by
  refine (runSeq_unguarded h _).trans ?_
  simp only [hv]
  rfl

theorem sxSysCsrwr_some {f : SX} {s1 : State} (h : SeqMay s q (.sxSysCsrwr f) false [f.d])
    (hv : csrWrite (s.ctx q) f.sel12.toNat (regV s q f.d) s = some s1) : exec (.sxSysCsrwr f) s = .next (ctxNext s1 q) := by
  rw [regV] at hv
  refine (runSeq_unguarded h _).trans ?_
  simp only [hv]
  rfl

theorem sxSysCsrwr_none {f : SX} (h : SeqMay s q (.sxSysCsrwr f) false [f.d])
    (hv : csrWrite (s.ctx q) f.sel12.toNat (regV s q f.d) s = none) :
    exec (.sxSysCsrwr f) s = .next (seqTrap q 0x08 (f.sel12.setWidth 64) s) := by
  rw [regV] at hv
  refine (runSeq_unguarded h _).trans ?_
  simp only [hv]
  rfl

/-- The registers that a read takes from the context, or from the die's clock. -/
theorem csrRead_context (s : State) (c : SeqCtx) : ∀ p ∈ [(0x000, c.tvec), (0x001, c.tcause), (0x002, c.tinfo), (0x003, c.epc),
    (0x004, c.wsp), (0x005, c.wlim), (0x008, (s.die c.id.die).cyc), (0x009, c.frm), (0x00A, c.oskey), (0x00E, c.tagctl)],
    csrRead s c p.1 = some p.2 := by
  simp only [List.forall_mem_cons]
  exact ⟨rfl, rfl, rfl, rfl, rfl, rfl, rfl, rfl, rfl, rfl, List.forall_mem_nil _⟩

theorem seqVf_stand {c : SeqCtx} {st : Nat} {t : Stand} (hb : c.bind = .stand st) (ht : s.stand? st = some t) :
    seqVf s c = t.vf := by
  rw [seqVf, hb]
  simp only [ht]

theorem seqVf_root {c : SeqCtx} {v : Nat} (hb : c.bind = .root v) : seqVf s c = v := by
  rw [seqVf, hb]

/-- The registers of a context that feeds a stand, but for GRNCTL. -/
theorem csrRead_stand {c : SeqCtx} {st : Nat} {t : Stand} (hb : c.bind = .stand st) (ht : s.stand? st = some t) :
    ∀ p ∈ [(0x006, t.vf % 64), (0x007, t.kern.kid * 2 ^ 32 + t.die * 2 ^ 28 + t.col * 2 ^ 24 + t.row * 2 ^ 21
        + (t.kern.w - 1) * 2 ^ 17 + (t.kern.h - 1) * 2 ^ 14 + c.id.ctx * 2 ^ 12), (0x00B, t.retry),
      (0x00C, (s.vf t.vf).mem.pins.length * 2 ^ 32 + (s.vf t.vf).cfg.lockq.toNat % 2 ^ 32)],
    csrRead s c p.1 = some (BitVec.ofNat 64 p.2) := by
  have hs : seqStand? s c = some t := (seqStand?_stand hb).trans ht
  have hv := seqVf_stand hb ht
  simp only [List.forall_mem_cons]
  refine ⟨?_, ?_, ?_, ?_, List.forall_mem_nil _⟩
  · rw [csrRead, hv]
  · rw [csrRead, standReg, hs]
  · rw [csrRead, hs]; rfl
  · rw [csrRead, hv]

/-- The registers of a root program's context. -/
theorem csrRead_root {c : SeqCtx} {v : Nat} (hb : c.bind = .root v) :
    ∀ p ∈ [(0x006, v % 64), (0x007, c.id.die * 2 ^ 28 + c.id.ctx * 2 ^ 12), (0x00B, 3),
      (0x00C, (s.vf v).mem.pins.length * 2 ^ 32 + (s.vf v).cfg.lockq.toNat % 2 ^ 32)],
    csrRead s c p.1 = some (BitVec.ofNat 64 p.2) := by
  have hs : seqStand? s c = none := seqStand?_root hb
  have hv := seqVf_root (s := s) hb
  simp only [List.forall_mem_cons]
  refine ⟨?_, ?_, ?_, ?_, List.forall_mem_nil _⟩
  · rw [csrRead, hv]
  · rw [csrRead, standReg, hs]
  · rw [csrRead, hs]; rfl
  · rw [csrRead, hv]

theorem csrRead_grnctl {c : SeqCtx} {st no : Nat} {t : Stand} (hb : c.bind = .stand st) (ht : s.stand? st = some t)
    (hf : c.block = some no) : csrRead s c 0x00D = some (grnRead t) := by
  rw [csrRead, seqStand?_stand hb, ht, hf]

theorem csrRead_grnctl_idle {c : SeqCtx} (hf : c.block = none) : csrRead s c 0x00D = none := by
  rw [csrRead, hf]
  cases seqStand? s c <;> rfl

theorem csrWrite_grnctl {c : SeqCtx} {st no : Nat} (v : W64) (hb : c.bind = .stand st) (hf : c.block = some no) :
    csrWrite c 0x00D v s = some (s.updStand st fun t => grnWrite t v.toNat) := by
  rw [csrWrite, hb, hf]

theorem csrWrite_grnctl_idle {c : SeqCtx} (v : W64) (hf : c.block = none) : csrWrite c 0x00D v s = none := by
  rw [csrWrite, hf]
  cases c.bind <;> rfl

theorem csrWrite_retry_stand {c : SeqCtx} {st : Nat} (v : W64) (hb : c.bind = .stand st) :
    csrWrite c 0x00B v s = some (s.updStand st fun t => { t with retry := v.toNat % 16 }) := by
  rw [csrWrite, hb]

theorem csrWrite_retry_root {c : SeqCtx} {vf : Nat} (v : W64) (hb : c.bind = .root vf) : csrWrite c 0x00B v s = some s := by
  rw [csrWrite, hb]

/-- A read-only register ignores a write. -/
theorem csrWrite_readOnly (c : SeqCtx) (v : W64) (s : State) : ∀ n ∈ [1, 2, 6, 7, 8, 0xC, 0xE], csrWrite c n v s = some s := by
  simp only [List.forall_mem_cons]
  exact ⟨rfl, rfl, rfl, rfl, rfl, rfl, rfl, List.forall_mem_nil _⟩

/-- The mask of the bits h to l. -/
theorem ones64_getLsbD {h l : Nat} (hl : l ≤ h + 1) {k : Nat} (hk : k < 64) :
    (ones64 h l).getLsbD k = (decide (l ≤ k) && decide (k < h + 1)) := by
  have value : (2 ^ (h + 1) - 1) - (2 ^ l - 1) = (2 ^ (h + 1 - l) - 1) * 2 ^ l := by
    rw [Nat.sub_mul, ← Nat.pow_add, Nat.sub_add_cancel hl, Nat.one_mul]
    have := Nat.one_le_two_pow (n := l)
    omega
  rw [ones64, BitVec.getLsbD_ofNat, value, Nat.testBit_mul_two_pow, Nat.testBit_two_pow_sub_one, decide_eq_true hk, Bool.true_and]
  by_cases hlk : l ≤ k
  · simp only [hlk, decide_true, Bool.true_and, decide_eq_decide]
    omega
  · simp only [hlk, decide_false, Bool.false_and]

/-- Masking the bits h to l keeps them in their places. -/
theorem and_ones64 (v : W64) {h l : Nat} (hl : l ≤ h + 1) : v &&& ones64 h l = field v h l := by
  refine BitVec.eq_of_getLsbD_eq fun k hk => ?_
  rw [BitVec.getLsbD_and, ones64_getLsbD hl hk, field, BitVec.getLsbD_ofNat, Nat.testBit_mul_two_pow, Nat.testBit_div_two_pow,
    Nat.testBit_mod_two_pow, decide_eq_true hk, Bool.true_and]
  by_cases hlk : l ≤ k
  · simp only [hlk, decide_true, Bool.true_and, Nat.sub_add_cancel hlk, BitVec.testBit_toNat, Bool.and_comm]
  · simp only [hlk, decide_false, Bool.false_and, Bool.and_false]

/-- Settles O27: a read by `csrRead` and a write by `csrWrite`, register by register. -/
theorem seqSystemRegisters : Obligations.SeqSystemRegisters := by
  unfold Obligations.SeqSystemRegisters
  refine ⟨by decide, fun s q f => ⟨fun h => ?reads, fun h v hv => ?writes⟩⟩
  case reads =>
    have id : (s.ctx q).id = q := Laws.State.ctx_id s q
    refine ⟨fun p hp hn => ?context, fun v hv => sxSysCsrrd_some h hv, fun st t hb ht => ⟨fun p hp hn => ?stand,
      fun no hn hf => ?grnctl⟩, fun v hb p hp hn => ?root, fun hn hf => ?idle⟩
    case context => exact sxSysCsrrd_some h (hn ▸ csrRead_context s (s.ctx q) p (by rwa [id]))
    case stand => exact sxSysCsrrd_some h (hn ▸ csrRead_stand hb ht p (by rwa [id]))
    case grnctl => exact sxSysCsrrd_some h (hn ▸ csrRead_grnctl hb ht hf)
    case root => exact sxSysCsrrd_some h (hn ▸ csrRead_root hb p (by rwa [id]))
    case idle => exact sxSysCsrrd_none h (hn ▸ csrRead_grnctl_idle hf)
  case writes =>
    subst hv
    refine ⟨fun hn => ?tvec, fun hn => ?epc, fun hn => ?wsp, fun hn => ?wlim, fun hn => ?frm, fun hn => ?oskey, fun hn => ?readOnly,
      fun v hb hn => ?retryRoot, fun st hb => ⟨fun hn => ?retry, fun no hn hf => ?grnctl⟩, fun hn hf => ?idle⟩
    case tvec => rw [← and_ones64 _ (by decide)]; exact sxSysCsrwr_some h (by rw [hn]; rfl)
    case epc => rw [← and_ones64 _ (by decide)]; exact sxSysCsrwr_some h (by rw [hn]; rfl)
    case wsp => rw [← and_ones64 _ (by decide)]; exact sxSysCsrwr_some h (by rw [hn]; rfl)
    case wlim => rw [← and_ones64 _ (by decide)]; exact sxSysCsrwr_some h (by rw [hn]; rfl)
    case frm => rw [← and_ones64 _ (by decide)]; exact sxSysCsrwr_some h (by rw [hn]; rfl)
    case oskey => exact sxSysCsrwr_some h (by rw [hn]; rfl)
    case readOnly => exact sxSysCsrwr_some h (csrWrite_readOnly _ _ s _ hn)
    case retryRoot => exact sxSysCsrwr_some h (hn ▸ csrWrite_retry_root _ hb)
    case retry => exact sxSysCsrwr_some h (hn ▸ csrWrite_retry_stand _ hb)
    case grnctl => exact sxSysCsrwr_some h (hn ▸ csrWrite_grnctl _ hb hf)
    case idle => exact sxSysCsrwr_none h (hn ▸ csrWrite_grnctl_idle _ hf)

/-! ## Traps, returns and halting -/

theorem idleAgain_root {v : Nat} (hb : (s.ctx q).bind = .root v) : idleAgain (s.ctx q) s =
    giveUp q .halted (s.setCtx { s.ctx q with h := false, fromIdle := false, limm := none }) := by
  simp only [idleAgain, hb, Laws.State.ctx_id]

theorem idleAgain_stand {st : Nat} (hb : (s.ctx q).bind = .stand st) : idleAgain (s.ctx q) s =
    giveUp q .idle (s.setCtx { s.ctx q with h := false, fromIdle := false, limm := none }) := by
  simp only [idleAgain, hb, Laws.State.ctx_id]

theorem feedAfter_root {c : SeqCtx} {v : Nat} (hb : c.bind = .root v) (s : State) : feedAfter c s = s := by
  rw [feedAfter, hb]

theorem feedAfter_stand {c : SeqCtx} {st : Nat} (hb : c.bind = .stand st) (s : State) : feedAfter c s = feedNext st s := by
  rw [feedAfter, hb]

/-- ERET of a handler that was entered from idle. -/
theorem sxSysEret_idle {f : SX} (h : SeqMay s q (.sxSysEret f) false []) (hh : (s.ctx q).h = true) (hi : (s.ctx q).fromIdle = true) :
    exec (.sxSysEret f) s = .next (feedAfter (s.ctx q) (handlerReturn q (idleAgain (s.ctx q) s))) := by
  refine (runSeq_unguarded h _).trans ?_
  simp only [hh, hi, Laws.State.ctx_id]
  rfl

/-- HALT of a context that feeds a stand. -/
theorem sxSysHalt_stand {f : SX} {st : Nat} (h : SeqMay s q (.sxSysHalt f) false []) (hb : (s.ctx q).bind = .stand st) :
    exec (.sxSysHalt f) s = .next (feedNext st (
      if (s.ctx q).h then handlerReturn q (if (s.ctx q).fromIdle then idleAgain (s.ctx q) s
        else endFeed st (s.setCtx { s.ctx q with h := false }))
      else if (s.ctx q).fromIdle then idleAgain (s.ctx q) s else endFeed st (s.setCtx { s.ctx q with h := false }))) := by
  refine (runSeq_unguarded h _).trans ?_
  simp only [feedAfter_stand hb, hb, Laws.State.ctx_id]
  rfl

/-- Settles O28: each instruction by H, by where the handler was entered from and by the context's binding. -/
theorem seqSystem : Obligations.SeqSystem := by
  unfold Obligations.SeqSystem
  refine fun s q f => ⟨fun h => runSeq_unguarded h _, fun h => ⟨fun hh => ?eretClear, fun hh hi ha => ?eret,
    fun st hh hi hb => ?eretStand, fun v hh hi hb => ?eretRoot⟩, fun h => ⟨fun v hb => ?haltRoot, fun st hb hi => ⟨fun hh => ?halt,
      fun hh => ?haltHandler⟩, fun st hb hh hi => ?haltIdle⟩, fun h => ?yield, fun h => runSeq_unguarded h _⟩
  case eretClear =>
    refine (runSeq_unguarded h _).trans ?_
    rw [if_pos hh]
    rfl
  case eret =>
    refine (runSeq_unguarded h _).trans ?_
    simp only [hh, hi, ha, Laws.State.ctx_id]
    rfl
  case eretStand => rw [sxSysEret_idle h hh hi, idleAgain_stand hb, feedAfter_stand hb]
  case eretRoot => rw [sxSysEret_idle h hh hi, idleAgain_root hb, feedAfter_root hb]
  case haltRoot =>
    refine (runSeq_unguarded h _).trans ?_
    rw [← FlowProofs.haltRoot_ctx]
    simp only [hb]
    rfl
  case halt => rw [sxSysHalt_stand h hb, hh, hi]; rfl
  case haltHandler => rw [sxSysHalt_stand h hb, hh, hi]; rfl
  case haltIdle => rw [sxSysHalt_stand h hb, hh, hi, idleAgain_stand hb]; rfl
  case yield =>
    refine (runSeq_unguarded h _).trans ?_
    rw [Laws.State.ctx_id]
    rfl

end Sys2Proof.SeqSysProofs
end

section
/-! Waits, timelines, tags, commands, launches, barriers and context changes of a sequencer (R185, R188 to R196). -/

namespace Sys2Proof.SeqSyncProofs

open Sys2Proof Sys2Proof.Machine Sys2Proof.Claims
open Sys2Proof.SeqProofs (runSeq_unguarded runSeq_guarded)
open Sys2Proof.SeqSysProofs (seqVf_stand)

variable {s : State} {q : SeqId} {i : Instr}

/-! ## Engine contexts and stands of a context -/

theorem hasEngine_iff {n : Nat} {g : Eng} : hasEngine s q n g ↔ seqEng? s (s.ctx q) n = some g := by
  unfold hasEngine seqEng?
  cases hb : (s.ctx q).bind with
  | none => simp
  | root v => simp
  | stand st => simp [Option.bind_eq_some_iff]

theorem noEngine_iff {n : Nat} : (∀ g, ¬ hasEngine s q n g) ↔ seqEng? s (s.ctx q) n = none := by
  simp only [hasEngine_iff, Option.eq_none_iff_forall_ne_some, ne_eq]

theorem updStand_stand {n : Nat} {t : Stand} {f : Stand → Stand} (h : s.stand? n = some t) (hid : (f t).id = t.id) :
    (s.updStand n f).stand? n = some (f t) := by
  have hn : t.id = n := State.stand_id s n t h
  have same : { f t with id := n } = f t := by rw [← hn, ← hid]
  rw [State.updStand, h]
  dsimp only
  rw [same]
  exact hn ▸ hid ▸ State.setStand_stand s (f t)

/-! ## Waiting (R185) -/

/-- A wait takes one of three ways, by its condition and its limit. -/
theorem seqWait_cases {w : SeqWait} {limit : Nat} {info : W64}
    (hx : exec i s = .next ((seqWait w limit info (s.ctx q) s).apply q)) : waitResult i s q w limit := by
  refine ⟨fun hw => ?_, fun hw hl => ?_, fun hw hl => ?_⟩
  · rw [hx, seqWait, hw]; rfl
  · rw [hx, seqWait, hw]
    simp only [if_neg (Nat.ne_of_gt hl), Laws.State.ctx_id]
    rfl
  · rw [hx, seqWait, hw]
    simp only [if_pos hl]
    rfl

theorem seqWait_refused {w : SeqWait} {limit cause : Nat} {info : W64} (hw : waitNow s (s.ctx q) w = .error cause) :
    (seqWait w limit info (s.ctx q) s).apply q = seqTrap q cause info s := by
  rw [seqWait, hw]
  rfl

theorem ne_of_toNat_ne {a b : W64} (h : a.toNat ≠ b.toNat) : a ≠ b := fun e => h (congrArg BitVec.toNat e)

/-- SR.WAIT QUEUE on the command queue of an engine context. -/
theorem srWaitQueue_engine {f : SR} {g : Eng} (h : SeqMay s q (.srWaitQueue f) false [f.a, f.b, f.d])
    (hg : (s.ctx q).pred f.q.toNat = true) (ha : (regV s q f.a).toNat < 16) (he : hasEngine s q (regV s q f.a).toNat g) :
    exec (.srWaitQueue f) s = .next ((seqWait (.queue (regV s q f.a).toNat (regV s q f.b).toNat) (regV s q f.d).toNat
      (regV s q f.a) (s.ctx q) s).apply q) := by
  rw [hasEngine_iff] at he
  have other : regV s q f.a ≠ 0x10 := ne_of_toNat_ne (Nat.ne_of_lt ha)
  have there : ¬ (16 ≤ (regV s q f.a).toNat ∨ (seqEng? s (s.ctx q) (regV s q f.a).toNat).isNone) := by
    rw [he]
    simp only [Option.isNone_some, Bool.false_eq_true, or_false]
    omega
  refine (runSeq_guarded h hg _).trans ?_
  simp only [regV] at other there ⊢
  simp only [if_neg other, if_neg there]

/-- SR.WAIT QUEUE on the context's own trap queue. -/
theorem srWaitQueue_trapq {f : SR} (h : SeqMay s q (.srWaitQueue f) false [f.a, f.b, f.d])
    (hg : (s.ctx q).pred f.q.toNat = true) (ha : regV s q f.a = 0x10) :
    exec (.srWaitQueue f) s = .next ((seqWait (.trapq (regV s q f.b).toNat) (regV s q f.d).toNat
      (regV s q f.a) (s.ctx q) s).apply q) := by
  refine (runSeq_guarded h hg _).trans ?_
  simp only [regV] at ha ⊢
  simp only [if_pos ha]

theorem srWaitQueue_refused {f : SR} (h : SeqMay s q (.srWaitQueue f) false [f.a, f.b, f.d])
    (hg : (s.ctx q).pred f.q.toNat = true)
    (ha : 16 < (regV s q f.a).toNat ∨ ((regV s q f.a).toNat < 16 ∧ ∀ g, ¬ hasEngine s q (regV s q f.a).toNat g)) :
    exec (.srWaitQueue f) s = .next (seqTrap q 0x08 (regV s q f.a) s) := by
  rw [noEngine_iff] at ha
  have other : regV s q f.a ≠ 0x10 := ne_of_toNat_ne (by
    show (regV s q f.a).toNat ≠ 16
    omega)
  have missing : 16 ≤ (regV s q f.a).toNat ∨ (seqEng? s (s.ctx q) (regV s q f.a).toNat).isNone := by
    rcases ha with ha | ⟨_, ha⟩
    · exact .inl (Nat.le_of_lt ha)
    · exact .inr (by rw [ha]; rfl)
  refine (runSeq_guarded h hg _).trans ?_
  simp only [regV] at other missing ⊢
  simp only [if_neg other, if_pos missing]
  rfl

theorem srWaitTimeline_engine {f : SR} {g : Eng} (h : SeqMay s q (.srWaitTimeline f) false [f.a, f.b, f.d])
    (hg : (s.ctx q).pred f.q.toNat = true) (ha : (regV s q f.a).toNat < 512) (he : hasEngine s q ((regV s q f.a).toNat % 256) g) :
    exec (.srWaitTimeline f) s = .next ((seqWait (.timeline ((regV s q f.a).toNat % 256) ((regV s q f.a).toNat / 256 % 2 == 1)
      (regV s q f.b).toNat) (regV s q f.d).toNat (regV s q f.a) (s.ctx q) s).apply q) := by
  rw [hasEngine_iff] at he
  have there : ¬ (512 ≤ (regV s q f.a).toNat ∨ (seqEng? s (s.ctx q) ((regV s q f.a).toNat % 256)).isNone) := by
    rw [he]
    simp only [Option.isNone_some, Bool.false_eq_true, or_false]
    omega
  refine (runSeq_guarded h hg _).trans ?_
  simp only [regV] at there ⊢
  simp only [if_neg there]

theorem srWaitTimeline_refused {f : SR} (h : SeqMay s q (.srWaitTimeline f) false [f.a, f.b, f.d])
    (hg : (s.ctx q).pred f.q.toNat = true)
    (ha : 512 ≤ (regV s q f.a).toNat ∨ ∀ g, ¬ hasEngine s q ((regV s q f.a).toNat % 256) g) :
    exec (.srWaitTimeline f) s = .next (seqTrap q 0x08 (regV s q f.a) s) := by
  rw [noEngine_iff] at ha
  have missing : 512 ≤ (regV s q f.a).toNat ∨ (seqEng? s (s.ctx q) ((regV s q f.a).toNat % 256)).isNone :=
    ha.imp_right fun ha => by rw [ha]; rfl
  refine (runSeq_guarded h hg _).trans ?_
  simp only [regV] at missing ⊢
  simp only [if_pos missing]
  rfl

theorem srWaitTag_may {f : SR} {ent : BitVec 256} (h : SeqMay s q (.srWaitTag f) false [f.a, f.d])
    (hg : (s.ctx q).pred f.q.toNat = true) (he : ent = (s.entry? (seqVf s (s.ctx q)) (refTid (regV s q f.a))).getD 0) :
    exec (.srWaitTag f) s = .next ((seqWait (.tag (regV s q f.a) ent) (regV s q f.d).toNat (regV s q f.a) (s.ctx q) s).apply q) := by
  subst he
  exact runSeq_guarded h hg _

/-- A wait's query of the entry that the table holds now is the query of its tid. -/
theorem waitQuery_now (s : State) (vf : Nat) (ref : W64) :
    waitQuery s vf ref ((s.entry? vf (refTid ref)).getD 0) = query s vf ref := by
  have zero : (tensorEntry 0).v = false := rfl
  unfold query State.tensor?
  cases he : s.entry? vf (refTid ref) with
  | none =>
    rw [waitQuery, Option.getD_none, if_neg (by rw [zero]; decide)]
    rfl
  | some w =>
    unfold State.entry? at he
    split at he
    · cases he
    · split at he
      case h_2 => cases he
      case h_1 w' hl =>
        split at he
        case isFalse => cases he
        case isTrue hv =>
          cases he
          rw [waitQuery, Option.getD_some, if_pos hv, hl]
          rfl

/-- Settles O18: each wait's object, then `waitNow` by the kind of wait. -/
theorem seqWaits : Obligations.SeqWaits := by
  unfold Obligations.SeqWaits
  refine ⟨fun s q f hg => ⟨fun h => ⟨fun g ha he => seqWait_cases (srWaitQueue_engine h hg ha he),
      fun ha => seqWait_cases (srWaitQueue_trapq h hg ha), srWaitQueue_refused h hg⟩,
    fun h => ⟨fun g ha he => seqWait_cases (srWaitTimeline_engine h hg ha he), srWaitTimeline_refused h hg⟩,
    fun h ent he => ⟨seqWait_cases (srWaitTag_may h hg he), he ▸ waitQuery_now s _ _, fun cause hw => ?tag⟩⟩, ?conditions⟩
  case tag => rw [srWaitTag_may h hg he, seqWait_refused hw]
  case conditions =>
    rintro s q _ rfl
    refine ⟨fun n g need he => ?_, fun need => rfl, fun n g v target he => ?_, fun ref ent hq => ?_, fun ref ent hq => ?_,
      fun ref ent hq => ?_, fun ref ent r hq hr => ?_, fun vf ref ent hv => if_pos hv⟩
    · rw [waitNow, hasEngine_iff.mp he]; rfl
    · rw [waitNow, hasEngine_iff.mp he]
    · rw [waitNow, hq]
    · rw [waitNow, hq]; rfl
    · rw [waitNow, hq]; rfl
    · rcases hr with rfl | rfl <;> (rw [waitNow, hq]; rfl)

/-! ## Timeline reads and tag queries (R190, R192) -/

/-- A query answers 0 to 3. -/
theorem query_le {vf : Nat} {ref : W64} {r : Nat} (h : query s vf ref = some r) : r ≤ 3 := by
  unfold query at h
  split at h
  · cases h
  · unfold queryEnt at h
    dsimp only at h
    split at h
    · cases h
    · split at h
      · split at h <;> cases h <;> omega
      · split at h <;> cases h <;> omega

theorem seqTlrd_counter {f : SR} {v : Bool} {g : Eng} (h : SeqMay s q i false []) (hg : (s.ctx q).pred f.q.toNat = true)
    (he : hasEngine s q ((regV s q f.a).toNat % 256) g) (ha : (regV s q f.a).toNat < 256) :
    seqTlrd i f v s = .next (ctxPut s q f.d (BitVec.ofNat 64 (g.count v)) false) := by
  obtain ⟨st, t, hb, ht, hn⟩ := id he
  rw [hasEngine_iff] at he
  simp only [regV] at he ha
  refine (runSeq_guarded h hg _).trans ?_
  dsimp only
  rw [if_neg (by omega), hb, he]
  dsimp only
  rw [if_neg (by omega)]
  rfl

theorem seqTlrd_flag {f : SR} {v : Bool} {st : Nat} {g : Eng} (h : SeqMay s q i false []) (hg : (s.ctx q).pred f.q.toNat = true)
    (hb : (s.ctx q).bind = .stand st) (he : hasEngine s q ((regV s q f.a).toNat % 256) g)
    (hlo : 256 ≤ (regV s q f.a).toNat) (hhi : (regV s q f.a).toNat < 512) :
    seqTlrd i f v s = .next (ctxNext (State.setCtx (s.updStand st fun t => t.updEng ((regV s q f.a).toNat % 256) fun e =>
      { e with err := false }) ((s.ctx q).setReg f.d ⟨if g.err then 1 else 0, false⟩)) q) := by
  rw [hasEngine_iff] at he
  simp only [regV] at he hlo hhi
  refine (runSeq_guarded h hg _).trans ?_
  dsimp only
  rw [if_neg (by omega), hb, he]
  dsimp only
  rw [if_pos (by omega)]
  rfl

theorem seqTlrd_refused {f : SR} {v : Bool} (h : SeqMay s q i false []) (hg : (s.ctx q).pred f.q.toNat = true)
    (ha : 512 ≤ (regV s q f.a).toNat ∨ ∀ g, ¬ hasEngine s q ((regV s q f.a).toNat % 256) g) :
    seqTlrd i f v s = .next (seqTrap q 0x08 (regV s q f.a) s) := by
  rw [noEngine_iff] at ha
  simp only [regV] at ha
  refine (runSeq_guarded h hg _).trans ?_
  dsimp only
  split
  · rfl
  · rw [ha.resolve_left ‹_›]
    cases (s.ctx q).bind <;> rfl

/-- Settles O19: both reads are one shape, and a query is `query`. -/
theorem seqTimelinesAndTags : Obligations.SeqTimelinesAndTags := by
  unfold Obligations.SeqTimelinesAndTags
  refine ⟨by decide, by decide, fun s q f p hp h hg => ?reads, fun s q f h hg => ⟨fun r hr => ⟨query_le hr, ?query⟩, fun hr => ?none⟩⟩
  case reads =>
    have shape : exec p.1 s = seqTlrd p.1 f p.2 s := by
      revert p
      simp only [List.forall_mem_cons]
      exact ⟨fun _ => rfl, fun _ => rfl, List.forall_mem_nil _⟩
    rw [shape]
    exact ⟨fun st t g hb ht hn => ⟨seqTlrd_counter h hg ⟨st, t, hb, ht, hn⟩, seqTlrd_flag h hg hb ⟨st, t, hb, ht, hn⟩⟩,
      seqTlrd_refused h hg⟩
  case query =>
    refine (runSeq_guarded h hg _).trans ?_
    simp only [regV] at hr
    simp only [hr]
    rfl
  case none =>
    refine (runSeq_guarded h hg _).trans ?_
    simp only [regV] at hr
    simp only [hr]
    rfl

/-! ## Publications and advances (R189, R191, R111) -/

theorem feeding_block {c : SeqCtx} {st b : Nat} (hb : c.bind = .stand st) (hk : c.block = some b) : c.feeding = some (st, b) := by
  rw [SeqCtx.feeding, hb, hk]

/-- A held publication: the stand keeps it and TAGCTL counts it. -/
theorem holdPub_holds {st : Nat} {t : Stand} (p : HeldPub) (ht : s.stand? st = some t) :
    (holdPub st p (s.ctx q) s).stand? st = some { t with held := t.held ++ [p] } ∧
    ((holdPub st p (s.ctx q) s).ctx q).tagctl = BitVec.ofNat 64 (min 255 (bitsAt (s.ctx q).tagctl.toNat 8 8 + 1) * 256 +
      if p.advance then bitsAt (s.ctx q).tagctl.toNat 0 3 else 5) := by
  refine ⟨updStand_stand (f := fun t => { t with held := t.held ++ [p] }) ht rfl, ?_⟩
  rw [holdPub, SeqCtlProofs.setCtx_ctx_of_id (q := q)]
  exact Laws.State.ctx_id s q

theorem srTagp_held {f : SR} {scope : BitVec 3} {st b : Nat} (h : SeqMay s q (.srTagp f scope) false [f.a])
    (hg : (s.ctx q).pred f.q.toNat = true) (hf : (s.ctx q).feeding = some (st, b)) :
    exec (.srTagp f scope) s = .next (ctxNext (holdPub st (seqPub (s.ctx q) b false (regV s q f.a) scope.toNat) (s.ctx q) s) q) := by
  refine (runSeq_guarded h hg _).trans ?_
  simp only [hf]
  rfl

/-- A publication outside a block, whatever its outcome. -/
theorem srTagp_now {f : SR} {scope : BitVec 3} (h : SeqMay s q (.srTagp f scope) false [f.a])
    (hg : (s.ctx q).pred f.q.toNat = true) (hf : (s.ctx q).feeding = none) {r : State × PubOut}
    (hr : r = publish (seqVf s (s.ctx q)) (s.ctx q).stand? (regV s q f.a) s) :
    (r.2.cause = none → exec (.srTagp f scope) s = .next (ctxNext (r.1.updCtx q fun x => { x with
      tagctl := BitVec.ofNat 64 (putBits x.tagctl.toNat 0 3 r.2.code) }) q)) ∧
    (∀ cause, r.2.cause = some cause → exec (.srTagp f scope) s = .next (seqTrap q cause (r.2.info (regV s q f.a)) s)) := by
  subst hr
  refine ⟨fun hc => ?_, fun cause hc => ?_⟩
  · refine (runSeq_guarded h hg _).trans ?_
    simp only [regV] at hc
    simp only [hf, hc, Laws.State.ctx_id]
    rfl
  · refine (runSeq_guarded h hg _).trans ?_
    simp only [regV] at hc
    simp only [hf, hc]
    rfl

/-- SR.TAGG of a number that is no tid. -/
theorem srTagg_noTid {f : SR} (h : SeqMay s q (.srTagg f) false [f.a]) (hg : (s.ctx q).pred f.q.toNat = true)
    (ha : 4096 ≤ (regV s q f.a).toNat) : exec (.srTagg f) s = .next (seqTrap q 0x08 (regV s q f.a) s) := by
  refine (runSeq_guarded h hg _).trans ?_
  simp only [regV] at ha
  simp only [if_pos ha]
  rfl

theorem srTagg_now {f : SR} (h : SeqMay s q (.srTagg f) false [f.a]) (hg : (s.ctx q).pred f.q.toNat = true)
    (hf : (s.ctx q).feeding = none) (ha : (regV s q f.a).toNat < 4096) {r : State × Option Nat}
    (hr : r = advance (seqVf s (s.ctx q)) (regV s q f.a).toNat s) :
    (r.2 = none → exec (.srTagg f) s = .next (ctxNext r.1 q)) ∧
    (∀ cause, r.2 = some cause → exec (.srTagg f) s = .next (seqTrap q cause (regV s q f.a) r.1)) := by
  subst hr
  simp only [regV] at ha
  refine ⟨fun hc => ?_, fun cause hc => ?_⟩
  · refine (runSeq_guarded h hg _).trans ?_
    simp only [regV] at hc
    simp only [if_neg (Nat.not_le.mpr ha), hf, hc]
    rfl
  · refine (runSeq_guarded h hg _).trans ?_
    simp only [regV] at hc
    simp only [if_neg (Nat.not_le.mpr ha), hf, hc]
    rfl

theorem srTagg_held {f : SR} {st b : Nat} {e : TEnt} (h : SeqMay s q (.srTagg f) false [f.a])
    (hg : (s.ctx q).pred f.q.toNat = true) (hf : (s.ctx q).feeding = some (st, b)) (ha : (regV s q f.a).toNat < 4096)
    (he : s.tensor? (seqVf s (s.ctx q)) (regV s q f.a).toNat = some e) (hp : e.p = true) :
    exec (.srTagg f) s = .next (ctxNext (holdPub st (seqPub (s.ctx q) b true (regV s q f.a <<< 48) 0) (s.ctx q) s) q) := by
  simp only [regV] at ha he
  refine (runSeq_guarded h hg _).trans ?_
  simp only [if_neg (Nat.not_le.mpr ha), hf, he, hp]
  rfl

theorem srTagg_refused {f : SR} {st b : Nat} (h : SeqMay s q (.srTagg f) false [f.a])
    (hg : (s.ctx q).pred f.q.toNat = true) (hf : (s.ctx q).feeding = some (st, b))
    (he : ∀ e, s.tensor? (seqVf s (s.ctx q)) (regV s q f.a).toNat = some e → e.p = false) :
    exec (.srTagg f) s = .next (seqTrap q 0x08 (regV s q f.a) s) := by
  by_cases ha : 4096 ≤ (regV s q f.a).toNat
  · exact srTagg_noTid h hg ha
  simp only [regV] at ha he
  refine (runSeq_guarded h hg _).trans ?_
  simp only [if_neg ha, hf]
  cases ht : s.tensor? (seqVf s (s.ctx q)) ((s.ctx q).reg f.a).v.toNat with
  | none => rfl
  | some e =>
    simp only [he e ht]
    rfl

/-- Settles O20: outside a block at once, inside one held. -/
theorem seqTagPublish : Obligations.SeqTagPublish := by
  unfold Obligations.SeqTagPublish
  refine ⟨⟨rfl, fun n w ref => ⟨rfl, rfl, rfl, ?info⟩⟩, fun s q f scope hg => ⟨fun h => ⟨fun r hf hr => srTagp_now h hg hf hr,
    fun st t b hb ht hk => ?held⟩, fun h => ⟨srTagg_noTid h hg, fun r hf ha hr => srTagg_now h hg hf ha hr,
      fun st t b e hb ht hk ha he hp => ?advance, fun st b hb hk he => srTagg_refused h hg (feeding_block hb hk) he⟩⟩⟩
  case info =>
    unfold PubOut.info
    split <;> simp_all
  case held =>
    obtain ⟨stand, tagctl⟩ := holdPub_holds (q := q) (seqPub (s.ctx q) b false (regV s q f.a) scope.toNat) ht
    exact ⟨_, srTagp_held h hg (feeding_block hb hk), stand, tagctl⟩
  case advance =>
    obtain ⟨stand, tagctl⟩ := holdPub_holds (q := q) (seqPub (s.ctx q) b true (regV s q f.a <<< 48) 0) ht
    exact ⟨_, srTagg_held h hg (feeding_block hb hk) ha (seqVf_stand hb ht ▸ he) hp, stand, tagctl⟩

end Sys2Proof.SeqSyncProofs
end

section
/-! Commands, launches, barriers and context changes of a sequencer (R188, R193, R194, R196). -/

namespace Sys2Proof.SeqCmdProofs

open Sys2Proof Sys2Proof.Machine Sys2Proof.Claims
open Sys2Proof.SeqProofs (runSeq_unguarded runSeq_guarded)

variable {s : State} {q : SeqId} {i : Instr}

/-! ## SS.SCMD (R165, R193) -/

theorem seqEng?_stand {c : SeqCtx} {st n : Nat} {t : Stand} (hb : c.bind = .stand st) (ht : s.stand? st = some t) :
    seqEng? s c n = t.eng? n := by
  rw [seqEng?, hb]
  dsimp only
  rw [ht]
  rfl

theorem seqEng?_root {c : SeqCtx} {v n : Nat} (hb : c.bind = .root v) : seqEng? s c n = none := by
  rw [seqEng?, hb]

@[simp] theorem setReg_pc (c : SeqCtx) (d : Code6) (x : Reg) : (c.setReg d x).pc = c.pc := by
  unfold SeqCtx.setReg
  split
  · rfl
  · split <;> rfl

/-- SS.SCMD for an engine context that the stand has. -/
theorem ssScmd_engine {f : SR} {st : Nat} {t : Stand} {g : Eng} (h : SeqMay s q (.ssScmd f) false [f.a, f.b])
    (hg : (s.ctx q).pred f.q.toNat = true) (hb : (s.ctx q).bind = .stand st) (ht : s.stand? st = some t)
    (he : t.eng? (skidFields (regV s q f.a ++ regV s q f.b)).eng.toNat = some g) :
    exec (.ssScmd f) s = .next ((
      let w : W128 := regV s q f.a ++ regV s q f.b
      let cmd := newCmd (s.ctx q) g.nextSeq w (acceptCmd s t w)
      let s1 := setReg (s.ctx q) f.d ⟨BitVec.ofNat 64 g.nextSeq, false⟩ (submitCmd ⟨st, (skidFields w).eng.toNat⟩ cmd s)
      if queueSlots ≤ g.queued then .wait s (.scmd (skidFields w).eng.toNat) (s.cyc (s.ctx q).id.die + scmdLimit)
      else if cmd.finished then .trapPast s1 0x11 (regV s q f.a) else .done s1 : SeqAns).apply q) := by
  rw [← seqEng?_stand hb ht] at he
  simp only [regV] at he
  refine (runSeq_guarded h hg _).trans ?_
  dsimp only
  rw [hb, he]
  dsimp only
  rw [ht]
  rfl

theorem ssScmd_absent {f : SR} (h : SeqMay s q (.ssScmd f) false [f.a, f.b]) (hg : (s.ctx q).pred f.q.toNat = true)
    (he : seqEng? s (s.ctx q) (skidFields (regV s q f.a ++ regV s q f.b)).eng.toNat = none) :
    exec (.ssScmd f) s = .next (seqTrapAt q 0x11 0 (regV s q f.a) (BitVec.ofNat 64 ((s.ctx q).pc + 4)) s) := by
  simp only [regV] at he
  refine (runSeq_guarded h hg _).trans ?_
  dsimp only
  rw [he]
  cases (s.ctx q).bind <;> rfl

/-- A command that is rejected traps past its instruction, whose register is written. -/
theorem trapPast_setReg {s' : State} {d : Code6} {x : Reg} {info : W64} :
    (SeqAns.trapPast (setReg (s.ctx q) d x s') 0x11 info).apply q =
      seqTrapAt q 0x11 0 info (BitVec.ofNat 64 ((s.ctx q).pc + 4)) (s'.setCtx ((s.ctx q).setReg d x)) := by
  have same : ((s'.setCtx ((s.ctx q).setReg d x)).ctx q).pc = (s.ctx q).pc := by
    rw [SeqCtlProofs.setCtx_ctx_of_id ((SeqMemProofs.setReg_id _ d x).trans (Laws.State.ctx_id s q)), setReg_pc]
  rw [SeqAns.apply, setReg, same]

/-- Settles O21: the queue's room, then acceptance. -/
theorem seqSkidCommand : Obligations.SeqSkidCommand := by
  unfold Obligations.SeqSkidCommand
  refine ⟨by decide, ?_⟩
  rintro s q f h hg _ rfl
  refine ⟨fun st t g hb ht he => ⟨fun hf => ?full, fun hr => ⟨fun x hx => ?accepted, fun hx => ?rejected⟩⟩, fun hn => ?absent⟩
  case full =>
    rw [ssScmd_engine h hg hb ht he]
    dsimp only
    rw [if_pos (show queueSlots ≤ g.queued from hf), Laws.State.ctx_id]
    rfl
  case accepted =>
    rw [ssScmd_engine h hg hb ht he]
    dsimp only
    rw [if_neg (show ¬ queueSlots ≤ g.queued from Nat.not_le.mpr hr), hx]
    rfl
  case rejected =>
    rw [ssScmd_engine h hg hb ht he]
    dsimp only
    rw [if_neg (show ¬ queueSlots ≤ g.queued from Nat.not_le.mpr hr), hx]
    exact congrArg _ trapPast_setReg
  case absent =>
    refine ssScmd_absent h hg ?_
    rcases hn with ⟨v, hb⟩ | ⟨st, hb, hn⟩
    · exact seqEng?_root hb
    · cases ht : s.stand? st with
      | none =>
        rw [seqEng?, hb]
        dsimp only
        rw [ht]
        rfl
      | some t => rw [seqEng?_stand hb ht, hn t ht]

/-! ## SS.LNCH (R25, R104, R194) -/

/-- Where a launch record stands, as the context sees it. -/
def recordPlace (s : State) (c : SeqCtx) : SeqPlace → Nat × Memory
  | .local off => (localAddr c.id off, s.lmem)
  | .queue k reg => (localAddr c.id (0x10000 * k + 0xF800 + reg), queueOver c k s)
  | .mem pa => (pa, seqView s c)

theorem ssLnch_placed {f : SR} {x : SeqPlace} (h : SeqMay s q (.ssLnch f) false [f.a]) (hg : (s.ctx q).pred f.q.toNat = true)
    (hp : seqPlace s (s.ctx q) (regV s q f.a) 128 .read = .ok x) (hh : seqHeld s (s.ctx q) x = false) :
    exec (.ssLnch f) s = .next ((
      match poisonAt (recordPlace s (s.ctx q) x).2 (recordPlace s (s.ctx q) x).1 128 with
      | some k => .trap s 0x06 0 (poisonInfo ((regV s q f.a).toNat + k))
      | none =>
        let r := launch (seqVf s (s.ctx q)) q.die (BitVec.ofNat 1024 ((recordPlace s (s.ctx q) x).2.readN
          (recordPlace s (s.ctx q) x).1 128)) (rootFirst (s.ctx q) (seqUsed s q (regV s q f.a)))
        .done (r.1.updCtx q fun x => x.setReg f.d ⟨BitVec.ofNat 64 r.2, false⟩) : SeqAns).apply q) := by
  simp only [regV] at hp ⊢
  refine (runSeq_guarded h hg _).trans ?_
  simp only [hp, hh, Laws.State.ctx_id]
  cases x <;> (simp only [recordPlace, Laws.State.ctx_id]; rfl)

theorem ssLnch_held {f : SR} {x : SeqPlace} (h : SeqMay s q (.ssLnch f) false [f.a]) (hg : (s.ctx q).pred f.q.toNat = true)
    (hp : seqPlace s (s.ctx q) (regV s q f.a) 128 .read = .ok x) (hh : seqHeld s (s.ctx q) x = true) :
    exec (.ssLnch f) s = .next s := by
  simp only [regV] at hp
  refine (runSeq_guarded h hg _).trans ?_
  simp only [hp, hh]
  rfl

theorem ssLnch_refused {f : SR} {cause : Nat} (h : SeqMay s q (.ssLnch f) false [f.a]) (hg : (s.ctx q).pred f.q.toNat = true)
    (hp : seqPlace s (s.ctx q) (regV s q f.a) 128 .read = .error cause) :
    exec (.ssLnch f) s = .next (seqTrap q cause (regV s q f.a) s) := by
  simp only [regV] at hp
  refine (runSeq_guarded h hg _).trans ?_
  simp only [hp]
  rfl

section Launch

variable {vf die : Nat} {w : BitVec 1024}

theorem launch_malformed (hw : recMalformed w = true) : launch vf die w s = (s, 2) := by
  simp [launch, launchStatus, hw]

theorem launch_unknown (hw : recMalformed w = false) (hl : launchable s vf w = false) : launch vf die w s = (s, 3) := by
  simp [launch, launchStatus, hw, hl]

theorem launch_full (hw : recMalformed w = false) (hl : launchable s vf w = true) (hf : 4096 ≤ (s.die die).recs.length) :
    launch vf die w s = (s, 1) := by
  simp [launch, launchStatus, hw, hl, hf]

theorem launch_enters (hw : recMalformed w = false) (hl : launchable s vf w = true) (hf : (s.die die).recs.length < 4096) :
    launch vf die w s = (enterRec vf die w s, 0) := by
  simp [launch, launchStatus, hw, hl, Nat.not_le.mpr hf]

end Launch

/-- Settles O22: the place of the record, its poison, then the status of the launch. -/
theorem seqLaunch : Obligations.SeqLaunch := by
  unfold Obligations.SeqLaunch
  rintro s q f _ rfl h hg
  refine ⟨fun x m pa w s1 vf hp hh hx hw hs hv => ?placed, fun x hp hh => ssLnch_held h hg hp hh, fun cause hp => ssLnch_refused h hg hp⟩
  have place : recordPlace s (s.ctx q) x = (pa, m) := by
    rcases hx with ⟨rfl, rfl⟩ | ⟨off, rfl, rfl, rfl⟩ | ⟨k, reg, rfl, rfl, rfl⟩
    · rfl
    · rw [recordPlace, Laws.State.ctx_id]
    · rw [recordPlace, Laws.State.ctx_id]
  rw [ssLnch_placed h hg hp hh, place]
  dsimp only
  rw [← hw, ← hs, ← hv]
  refine ⟨fun hn => ⟨fun hm => ?malformed, fun hm hl => ?unknown, fun hm hl hf => ?full, fun hm hl hf => ?enters⟩, fun k hk => ?poison⟩
  case malformed => rw [hn, launch_malformed hm]; rfl
  case unknown => rw [hn, launch_unknown hm hl]; rfl
  case full => rw [hn, launch_full hm hl hf]; rfl
  case enters => rw [hn, launch_enters hm hl hf]; rfl
  case poison => rw [hk]; rfl

/-! ## SX.BAR (R188) -/

/-- Settles O23: what the wait of the context holds once it has arrived. -/
theorem seqBarrier : Obligations.SeqBarrier := by
  unfold Obligations.SeqBarrier
  refine fun s q f h => ⟨fun k s2 hk hs => ⟨fun b dl hw => ?completes, fun dl hw => ?waits⟩, fun hk => ?refused⟩
  case completes =>
    subst hs
    simp only [regV, Laws.State.ctx_id] at hw
    refine (runSeq_unguarded h _).trans ?_
    simp only [regV, hk, Laws.State.ctx_id, barrierLimit, hw]
    rfl
  case waits =>
    subst hs
    simp only [regV, Laws.State.ctx_id] at hw
    refine (runSeq_unguarded h _).trans ?_
    simp only [regV, hk, Laws.State.ctx_id, barrierLimit, hw]
    rfl
  case refused =>
    refine (runSeq_unguarded h _).trans ?_
    simp only [hk]
    rfl

/-! ## SX.CTX (R196) -/

/-- SX.CTX COND of a context that feeds a stand. -/
theorem sxCtxCond_stand {f : SX} {st : Nat} (h : SeqMay s q (.sxCtxCond f) false [f.d]) (hb : (s.ctx q).bind = .stand st) :
    exec (.sxCtxCond f) s = .next ((if 4 ≤ (regV s q f.d).toNat then .trap s 0x08 0 (regV s q f.d)
      else if (s.stand? st).all (ctxcRoom s) then .done (injectCtxc st (regV s q f.d).toNat s) else .stay s : SeqAns).apply q) := by
  refine (runSeq_unguarded h _).trans ?_
  dsimp only
  rw [hb]
  rfl

theorem waitNow_switch {st : Nat} {t : Stand} (hb : (s.ctx q).bind = .stand st) (ht : s.stand? st = some t) :
    waitNow s (s.ctx q) .switch = .ok (t.switchTo.all fun x => t.weaves.all fun w => w.actx == x) := by
  rw [waitNow, hb]
  dsimp only
  rw [ht]
  rfl

/-- SX.CTX SWITCH of a context that feeds a stand. -/
theorem sxCtxSwitch_stand {f : SX} {st : Nat} (h : SeqMay s q (.sxCtxSwitch f) false []) (hb : (s.ctx q).bind = .stand st) :
    exec (.sxCtxSwitch f) s = .next ((seqWait .switch switchLimit 0 (s.ctx q) s).apply q) := by
  refine (runSeq_unguarded h _).trans ?_
  rw [hb]

/-- Settles O24: room for the CTXC at every ingress; the weaves that have switched. -/
theorem seqContextControl : Obligations.SeqContextControl := by
  unfold Obligations.SeqContextControl
  refine fun s q f => ⟨fun h => ⟨fun st t hb ht hd => ⟨fun hr => ?room, fun hr => ?noRoom⟩, fun st hb hd => ?number, fun v hb => ?condRoot⟩,
    fun h => ⟨fun st t hb ht => ⟨fun hx => ?switched, fun x hx hw => ?waits⟩, fun v hb => ?switchRoot⟩⟩
  case room =>
    rw [sxCtxCond_stand h hb, if_neg (Nat.not_le.mpr hd), ht, Option.all_some, if_pos hr]
    rfl
  case noRoom =>
    rw [sxCtxCond_stand h hb, if_neg (Nat.not_le.mpr hd), ht, Option.all_some, hr]
    rfl
  case number =>
    rw [sxCtxCond_stand h hb, if_pos hd]
    rfl
  case condRoot =>
    refine (runSeq_unguarded h _).trans ?_
    dsimp only
    rw [hb]
    rfl
  case switched =>
    have all : (t.switchTo.all fun x => t.weaves.all fun w => w.actx == x) = true := by
      simpa [Option.all_eq_true] using hx
    obtain ⟨now, _, _⟩ := SeqSyncProofs.seqWait_cases (sxCtxSwitch_stand h hb)
    exact now (by rw [waitNow_switch hb ht, all])
  case waits =>
    have some : (t.switchTo.all fun x => t.weaves.all fun w => w.actx == x) = false := by
      simpa [hx] using hw
    obtain ⟨_, later, _⟩ := SeqSyncProofs.seqWait_cases (sxCtxSwitch_stand h hb)
    exact later (by rw [waitNow_switch hb ht, some]) (by decide)
  case switchRoot =>
    refine (runSeq_unguarded h _).trans ?_
    rw [hb]
    rfl

end Sys2Proof.SeqCmdProofs
end

section
/-! The whole machine: words written out, the state after reset, and what one step runs (R145 to R164, R168, R240, R294, R381). -/

namespace Sys2Proof.MachineProofs

open Sys2Proof Sys2Proof.Machine Sys2Proof.Claims

/-! ## Words written out -/

/-- Settles O55, word by word: the encodings are small finite tables. -/
theorem decodeWords : Obligations.DecodeWords := by
  unfold Obligations.DecodeWords
  refine ⟨?seqs, ?cells, ?seqRefused, ?cellRefused, by decide, by decide, by decide⟩
  case seqs =>
    simp only [seqWords, List.forall_mem_cons]
    exact ⟨by decide, by decide, by decide, by decide, by decide, by decide, by decide, by decide, by decide, by decide, by decide,
      by decide, by decide, by decide, by decide, by decide, by decide, List.forall_mem_nil _⟩
  case cells =>
    simp only [cellWords, List.forall_mem_cons]
    exact ⟨by decide, by decide, by decide, by decide, by decide, by decide, by decide, by decide, List.forall_mem_nil _⟩
  case seqRefused =>
    simp only [List.forall_mem_cons]
    exact ⟨by decide, by decide, by decide, by decide, List.forall_mem_nil _⟩
  case cellRefused =>
    simp only [List.forall_mem_cons]
    exact ⟨by decide, by decide, List.forall_mem_nil _⟩

/-! ## Reset -/

theorem reset_die (d : Nat) : State.reset.die d = Die.reset := by
  unfold State.die PerDie.get
  split <;> rfl

theorem reset_vf (v : Nat) : State.reset.vf v = Vf.reset v := rfl

theorem reset_ctx (q : SeqId) : State.reset.ctx q = SeqCtx.unbound q := rfl

theorem reset_tensor? (v tid : Nat) : State.reset.tensor? v tid = none := by
  unfold State.tensor? State.entry?
  split <;> rfl

theorem unbound_reg (q : SeqId) (r : Code6) : (SeqCtx.unbound q).reg r = ⟨0, false⟩ := by
  unfold SeqCtx.reg
  split
  · rfl
  · split <;> exact FileProofs.nth_nil _ _

/-- Settles O58, part by part of the state. -/
theorem resetState : Obligations.ResetState := by
  unfold Obligations.ResetState
  refine ⟨⟨rfl, rfl⟩, rfl, fun a => ⟨rfl, rfl⟩, fun d => ?dies, fun v tid => ?vfs, rfl, fun q => ⟨rfl, rfl, rfl⟩,
    fun q r => unbound_reg q r, rfl, rfl, rfl, rfl, rfl, rfl, rfl, rfl, rfl, rfl, rfl, rfl⟩
  case dies =>
    have cyc : State.reset.cyc d = (State.reset.die d).cyc.toNat := rfl
    rw [cyc, reset_die]
    exact ⟨rfl, rfl, rfl, rfl, rfl⟩
  case vfs => exact ⟨reset_tensor? v tid, rfl, rfl, rfl, rfl, rfl, rfl, rfl, rfl, rfl, rfl, rfl, rfl, rfl⟩

/-! ## One step -/

variable {s s1 : State} {i : Instr}

/-- While the module is up, a turn is an agent's word, what is due or an event. -/
theorem takeTurn_up (t : Turn) (h : s.svc.down = false) : takeTurn t s = match t with
    | .seq q => runFetched (fetchSeq q s)
    | .task k => runFetched (fetchTask k s)
    | .engine e => runFetched (fetchEngine e s)
    | .due d => runDue d { s with actor := .none }
    | .event i => exec i { s with actor := .none } := by
  unfold takeTurn
  rw [if_neg (by simp [h])] <;> cases t <;> rfl

/-- A step takes the turn at the head of the agenda. -/
theorem step_takes {t : Turn} (h : Takes s s1 t) : step s = takeTurn t s1 ∧ s1.svc.down = false := by
  obtain ⟨rest, hagenda, hup, rfl⟩ := h
  rw [step, hagenda]
  exact ⟨rfl, hup⟩

theorem step_seq {q : SeqId} (h : Takes s s1 (.seq q)) : step s = runFetched (fetchSeq q s1) :=
  (step_takes h).1.trans (takeTurn_up _ (step_takes h).2)

theorem step_task {k : TKey} (h : Takes s s1 (.task k)) : step s = runFetched (fetchTask k s1) :=
  (step_takes h).1.trans (takeTurn_up _ (step_takes h).2)

theorem step_engine {e : EKey} (h : Takes s s1 (.engine e)) : step s = runFetched (fetchEngine e s1) :=
  (step_takes h).1.trans (takeTurn_up _ (step_takes h).2)

theorem step_due {d : Due} (h : Takes s s1 (.due d)) : step s = runDue d { s1 with actor := .none } :=
  (step_takes h).1.trans (takeTurn_up _ (step_takes h).2)

theorem step_event (h : Takes s s1 (.event i)) : step s = exec i { s1 with actor := .none } :=
  (step_takes h).1.trans (takeTurn_up _ (step_takes h).2)

theorem takes_state {t : Turn} (h : Takes s s1 t) : ∃ rest, s1 = { s with agenda := rest } := by
  obtain ⟨rest, _, _, heq⟩ := h
  exact ⟨rest, heq⟩

/-- The word of a running context whose sequencer has not issued in this cycle. -/
theorem fetchSeq_word {q : SeqId} {w : W32} (hr : (s.ctx q).run = .running) (hi : s.seqIssued q = false)
    (hp : (s.ctx q).pc % 4 = 0) (hw : (s.ctx q).text[(s.ctx q).pc / 4]? = some w) :
    fetchSeq q s = match decodeSeq w with
      | .ok i => .run i { noteSeq q s with actor := .seq q }
      | .error _ => .idle (seqTrap q 0x01 (w.setWidth 64) (noteSeq q s)) := by
  rw [fetchSeq]
  dsimp only
  rw [if_neg (by simp [hr, hi]), if_neg (by simp [hp]), hw] <;> rfl

theorem fetchSeq_issued {q : SeqId} (hi : s.seqIssued q = true) : fetchSeq q s = .idle s := by
  rw [fetchSeq, if_pos (.inr hi)]

theorem not_yielded {w : Weave} {k : Task} (h : Task.mayIssue w k = true) : k.yielded = false := by
  simp only [Task.mayIssue, Bool.and_eq_true, Bool.not_eq_true'] at h
  exact h.2

/-- The word of a task that may issue. -/
theorem fetchTask_word {k : TKey} {t : Stand} {tk : Task} {n : NodeDesc} {w : W64} (ht : s.stand? k.stand = some t)
    (hk : (t.weave k.pos).task? k.nid = some tk) (hn : t.kern.node? k.pos k.nid = some n)
    (hm : Task.mayIssue (t.weave k.pos) tk = true) (hw : n.text[tk.pc]? = some w) :
    fetchTask k s = match decodeCell w with
      | .ok i => .run i { s with actor := .task k }
      | .error c => .idle (cellTrap k (refusedCause n w c) 0 tk.pc (w.extractLsb' 0 32) (w.extractLsb' 32 32) 0 0 s) := by
  rw [fetchTask, ht]
  dsimp only
  rw [hk, hn]
  dsimp only
  rw [not_yielded hm, if_neg Bool.false_ne_true, if_neg (by simp [hm]), hw] <;> rfl

theorem refusedCause_illegal (n : NodeDesc) (w : W64) : refusedCause n w .illegal = 0x01 := by
  unfold refusedCause
  split
  · split <;> rfl
  · rfl

theorem refusedCause_reserved {n : NodeDesc} {w : W64} {j : Instr} (h : parseCell w = some j) :
    refusedCause n w .reservedField = if (cellPorts j).any fun p => !(n.port p).en then 0x01 else 0x02 := by
  rw [refusedCause, h]
  rfl

/-- The oldest unfinished command of an engine context that no wave is about to pass. -/
theorem fetchEngine_command {e : EKey} {t : Stand} {g : Eng} {c : Cmd} (ht : s.stand? e.stand = some t) (hg : t.eng? e.eng = some g)
    (hh : g.halted = false) (hp : passDue t g = none) (hc : g.cmds.find? (fun c => !c.finished) = some c)
    (hi : decodeSkid c.word = some i) (hm : mayWork t g c = true) :
    fetchEngine e s = .run i { (if c.started then s else s.setStand (t.updEng e.eng fun g => { g with
      qhead := g.qhead + 1, cmds := g.cmds.map fun x => if x.seq = c.seq then { x with started := true } else x })) with
      actor := .engine e } := by
  rw [fetchEngine, ht]
  dsimp only
  rw [hg]
  dsimp only
  rw [hh, if_neg Bool.false_ne_true, hp]
  dsimp only
  rw [hc]
  dsimp only
  rw [hi]
  dsimp only
  rw [hm, if_neg (by decide)]

/-- Settles O59, by the turn at the head of the agenda. -/
theorem stepRunsDecoded : Obligations.StepRunsDecoded := by
  unfold Obligations.StepRunsDecoded
  refine fun s s1 i => ⟨fun q w s2 h hr hi hp hw hs => ?seq, fun q h hi => ?issued, fun k t tk n w h ht hk hn hm hw => ?task,
    fun n w j hj => ?refused, fun e t g c h ht hg hh hp hc hd hm => ?engine, step_event, fun k => step_due,
    fun q => step_due, fun st => step_due, fun t rest ha hdown hreset hloss => ?down, fun ha => ?idle⟩
  case seq =>
    obtain ⟨rest, rfl⟩ := takes_state h
    subst hs
    have fetched := fetchSeq_word (s := { s with agenda := rest }) hr hi hp hw
    refine ⟨fun hd => ?_, fun c hd => ?_⟩
    · rw [step_seq h, fetched, hd]
      rfl
    · rw [step_seq h, fetched, hd]
      rfl
  case issued =>
    obtain ⟨rest, rfl⟩ := takes_state h
    rw [step_seq h, fetchSeq_issued (s := { s with agenda := rest }) hi]
    rfl
  case task =>
    obtain ⟨rest, rfl⟩ := takes_state h
    have fetched := fetchTask_word (s := { s with agenda := rest }) ht hk hn hm hw
    rw [step_task h, fetched]
    refine ⟨fun hd => ?_, fun hd => ?_, fun cause hd hc => ?_⟩
    · rw [hd]; rfl
    · rw [hd, ← refusedCause_illegal n w]; rfl
    · rw [hd, hc]; rfl
  case refused =>
    rw [refusedCause_reserved hj]
    refine ⟨fun hall => if_neg ?_, fun p hp hoff => if_pos ?_⟩
    · simp only [List.any_eq_true, not_exists, not_and, Bool.not_eq_true, Bool.not_eq_false']
      exact hall
    · exact List.any_eq_true.mpr ⟨p, hp, by rw [hoff]; rfl⟩
  case engine =>
    obtain ⟨rest, rfl⟩ := takes_state h
    have fetched := fetchEngine_command (s := { s with agenda := rest }) ht hg hh hp hc hd hm
    rw [step_engine h, fetched]
    refine ⟨fun hs => ?_, fun hs => ?_⟩
    · rw [hs]; rfl
    · rw [hs]; rfl
  case down =>
    rw [step, ha]
    exact if_pos ⟨hdown, hreset, hloss⟩
  case idle => rw [step, ha]

end Sys2Proof.MachineProofs
end

section
/-! How a cell instruction starts, and the vector, predicate, floating-point and lane instructions (R16, R154, R162, R202 to R212,
R234 to R249). -/

namespace Sys2Proof.CellProofs

open Sys2Proof Sys2Proof.Machine Sys2Proof.Claims
open Sys2Proof.Laws (runCell_may)

variable {s : State} {c : Cell} {i : Instr} {f : CG} {body : Cell → State → CellAns}

/-! ## The checks before an instruction -/

theorem runCell_turn (h : CellTurn s c) (i : Instr) (body : Cell → State → CellAns) :
    runCell i body s = .next (cellIssue i body c s) := by
  simp only [runCell, h.actor, h.cell, h.may, if_true]

/-- An answer that issues is the weave's only one of the cycle. -/
theorem runCell_issues {a : CellAns} (h : CellTurn s c) (hi : c.hasIssued s = false) (ha : cellAns i body c s = a)
    (hx : a.issues = true) : runCell i body s = .next (noteIssue c (a.apply i c s)) := by
  rw [runCell_turn h, cellIssue, ha]
  simp only [hx, hi, if_true, Bool.false_eq_true, if_false]

/-- An answer that does not issue is put into effect whatever the weave has issued. -/
theorem runCell_waits {a : CellAns} (h : CellTurn s c) (ha : cellAns i body c s = a) (hx : a.issues = false) :
    runCell i body s = .next (a.apply i c s) := by
  rw [runCell_turn h, cellIssue, ha]
  simp only [hx, Bool.false_eq_true, if_false]

theorem runCell_later (h : CellTurn s c) (hi : c.hasIssued s = true) (hx : (cellAns i body c s).issues = true) :
    runCell i body s = .next (cellHolds s c) := by
  rw [runCell_turn h, cellIssue]
  simp only [hx, hi, if_true]
  rfl

theorem cellAns_illegal (h : cellCheck i = some .illegal ∨ ∃ p ∈ cellPorts i, (c.n.port p).en = false) :
    cellAns i body c s = .illegal i s 0 0 := by
  refine if_pos (h.imp_right ?_)
  rintro ⟨p, hp, hoff⟩
  exact List.any_eq_true.mpr ⟨p, hp, by rw [hoff]; rfl⟩

section Present

variable (hp : ∀ p ∈ cellPorts i, (c.n.port p).en = true)

include hp

theorem ports_present : ((cellPorts i).any fun p => !(c.n.port p).en) = false := by
  rw [List.any_eq_false]
  intro p hmem
  simp [hp p hmem]

theorem cellAns_reserved (h : cellCheck i = some .reservedField) :
    cellAns i body c s = .trap s 0x02 0 (wordHalves i).1 (wordHalves i).2 0 0 := by
  simp [cellAns, ports_present hp, h]

variable (hw : cellCheck i = none)

include hw

theorem cellAns_deferred {d : Deferred} (hd : c.tk.deferred.find? (fun d => d.reached i (cellSc i)) = some d) :
    cellAns i body c s = .deliver d := by
  simp [cellAns, ports_present hp, hw, hd]

variable (hd : ∀ d ∈ c.tk.deferred, d.reached i (cellSc i) = false)

include hd

omit hp hw in
theorem deferred_none : (c.tk.deferred.find? fun d => d.reached i (cellSc i)) = none := by
  rw [List.find?_eq_none]
  intro d hmem
  simp [hd d hmem]

theorem cellAns_missing {p : Nat} (hm : c.missing (portRefs (cellSrcs i)) = some p) :
    cellAns i body c s = .wait (48 + p) c.n.limit (c.tk.inq p).head (c.tk.inq p).tail := by
  simp [cellAns, ports_present hp, hw, deferred_none hd, hm]

variable (hm : c.missing (portRefs (cellSrcs i)) = none)

include hm

theorem cellAns_full {o : Nat} (ho : c.fullOut s (cellOuts i) = some o) :
    cellAns i body c s = .wait (52 + o) c.n.limit (s.outIndices c o).1 (s.outIndices c o).2 := by
  simp [cellAns, ports_present hp, hw, deferred_none hd, hm, ho]

variable (ho : c.fullOut s (cellOuts i) = none)

include ho

theorem cellAns_badToken {p : Nat} {t : Tok} {used : List (Nat × Nat)}
    (hb : c.badToken (portRefs (cellSrcs i)) = some (p, t, used)) :
    cellAns i body c s = if t.kind = 9 then .trap (s.updTask c.key fun x => x.takeRefs used)
        ((nth Lane.zero t.lanes 0).v.toNat % 256) 0 (BitVec.ofNat 32 (48 + p)) (nth Lane.zero t.lanes 0).v 0 0
      else .illegal i (s.updTask c.key fun x => x.takeRefs used) (t.kind.setWidth 32) 0 := by
  simp [cellAns, ports_present hp, hw, deferred_none hd, hm, ho, hb]

theorem cellAns_tiles (hb : c.badToken (portRefs (cellSrcs i)) = none) (he : (cellSc i).getLsbD 3 = true)
    (ht : ∃ m ∈ c.w.mults, m.nid = c.key.nid) : cellAns i body c s = .hold := by
  have busy : (c.w.mults.any fun m => m.nid == c.key.nid) = true := by
    simpa [List.any_eq_true] using ht
  simp [cellAns, ports_present hp, hw, deferred_none hd, hm, ho, hb, he, busy]

end Present

/-- Settles O43, in the order of the checks in `cellAns`. -/
theorem cellChecks : Obligations.CellChecks := by
  unfold Obligations.CellChecks
  refine fun s c i body h => ⟨fun hi hx => runCell_issues h hi (cellAns_illegal hx) rfl,
    fun hp => ⟨fun hi hw => runCell_issues h hi (cellAns_reserved hp hw) rfl, fun hw =>
      ⟨fun d hd => runCell_waits h (cellAns_deferred hp hw hd) rfl, fun hd =>
        ⟨fun p hm => runCell_waits h (cellAns_missing hp hw hd hm) rfl, fun hm =>
          ⟨fun o ho => runCell_waits h (cellAns_full hp hw hd hm ho) rfl, fun ho =>
            ⟨fun p t used hi hb s1 l0 hs hl => ?bad, fun hb he ht => runCell_waits h (cellAns_tiles hp hw hd hm ho hb he ht) rfl⟩⟩⟩⟩⟩,
    fun hmay => ?may, fun hi hx => runCell_later h hi hx⟩
  case bad =>
    subst hs hl
    have ans := cellAns_badToken (body := body) hp hw hd hm ho hb
    refine ⟨fun hk => ?_, fun hk => ?_⟩
    · rw [if_pos hk] at ans
      exact runCell_issues h hi ans rfl
    · rw [if_neg hk] at ans
      exact runCell_issues h hi ans rfl
  case may =>
    rw [runCell_may hmay]
    exact ⟨fun hx => by rw [if_pos hx], fun hx => by rw [if_neg (by simp [hx])]⟩

/-! ## What an instruction that may run does -/

/-- An instruction that writes results when it takes effect. -/
theorem runCell_write {p : Pend} (h : CellMay s c i) (hb : body c (cellDrawn s c i) = .write c p (cellDrawn s c i)) :
    runCell i body s = .next (cellWrote s c i p) := by
  rw [runCell_may h, hb]
  rfl

/-- An instruction that leaves the state s1 and goes on. -/
theorem runCell_done {s1 : State} (h : CellMay s c i) (hb : body c (cellDrawn s c i) = .done s1) :
    runCell i body s = .next (cellPassed s1 c i) := by
  rw [runCell_may h, hb]
  rfl

theorem runCell_trap {s1 : State} {cause : Nat} {op1 op2 op3 op4 : W32} (h : CellMay s c i)
    (hb : body c (cellDrawn s c i) = .trap s1 cause 0 op1 op2 op3 op4) :
    runCell i body s = .next (cellTrapped s1 c cause op1 op2 op3 op4) := by
  rw [runCell_may h, hb]
  rfl

/-! ## Integers (R206 to R211) -/

theorem laneWise_may (h : CellMay s c i) (g : Cell → Nat → (Nat → W32) → W32) :
    laneWise i f g s = .next (cellWrote s c i (byLane c i f (g c))) :=
  runCell_write h rfl

theorem byElem_eq_ofElems (w : Nat) (g : Cell → Nat → Nat → Nat → Nat) (c : Cell) : byElem w g c = fun _ => ofElems w (g c) := rfl

theorem exec_intTable (f : CG) (s : State) : ∀ p ∈ intTable, exec (p.1 f) s = elementwise (p.1 f) f p.2 s := by
  simp only [intTable, List.forall_mem_cons]
  exact ⟨rfl, rfl, rfl, rfl, rfl, rfl, rfl, rfl, rfl, rfl, rfl, rfl, rfl, rfl, rfl, rfl, rfl, rfl, List.forall_mem_nil _⟩

theorem exec_wordTable (f : CG) (s : State) : ∀ p ∈ wordTable, exec (p.1 f) s = laneWise (p.1 f) f (fun _ _ => p.2 f) s := by
  simp only [wordTable, List.forall_mem_cons]
  exact ⟨rfl, rfl, rfl, rfl, rfl, rfl, rfl, rfl, List.forall_mem_nil _⟩

/-- Settles O31: elementwise and whole-lane instructions are one shape; CV.MOVK writes every lane, CV.TDOT marks T2BAD. -/
theorem cellIntegerResult : Obligations.CellIntegerResult := by
  unfold Obligations.CellIntegerResult
  refine ⟨fun s c f p hp h => ?_, fun s c f => ⟨fun p hp h => ?_,
    fun h => laneWise_may h fun c l x => if c.w.pbit (f.aux.toNat % 16) l then x 0 else x 1, fun h => runCell_write h rfl, fun h => runCell_done h rfl⟩⟩
  · rw [exec_intTable f s p hp]
    exact laneWise_may h _
  · rw [exec_wordTable f s p hp]
    exact laneWise_may h _

/-! ## Predicates (R205, R207, R212, R237) -/

theorem predWise_clean {traps : Bool} (h : CellMay s c i) (g : Cell → Nat → (Nat → W32) → Bool)
    (hn : traps = true → poisonedSrc c (cellSrcs i) (c.active f) = none) :
    predWise i f traps g s = .next (cellWrote s c i (c.resultP f.d.toNat (c.active f) fun l => g c l (laneIn c i l))) := by
  refine runCell_write h ?_
  have none : (if traps then poisonedSrc c (cellSrcs i) (c.active f) else none) = Option.none := by
    cases traps with
    | false => rfl
    | true => exact hn rfl
  simp only [none]
  rfl

theorem predWise_poisoned {code lane : Nat} (h : CellMay s c i) (g : Cell → Nat → (Nat → W32) → Bool)
    (hp : poisonedSrc c (cellSrcs i) (c.active f) = some (code, lane)) :
    predWise i f true g s = .next (cellTrapped (cellDrawn s c i) c 0x06 (BitVec.ofNat 32 code) (BitVec.ofNat 32 lane) 0 0) := by
  refine runCell_trap h ?_
  simp only [if_true, hp]
  rfl

theorem elemCond_eq_laneCond (f : CG) (g : Nat → Nat → Bool) (c : Cell) (l : Nat) (x : Nat → W32) :
    elemCond f g c l x = laneCond f g x := by
  unfold elemCond laneCond laneBit
  by_cases ha : f.aux.toNat / 8 % 2 = 0 <;> simp [ha]

theorem exec_condTable (f : CG) (s : State) : ∀ p ∈ condTable,
    exec (p.1 f) s = predWise (p.1 f) f true (fun _ _ => laneCond f (p.2 f)) s := by
  have cond : ∀ g, elemCond f g = fun _ _ => laneCond f g := fun g => by
    funext c l x
    exact elemCond_eq_laneCond f g c l x
  simp only [condTable, List.forall_mem_cons, ← cond]
  exact ⟨rfl, rfl, rfl, List.forall_mem_nil _⟩

theorem exec_cvPset (f : CG) (s : State) :
    exec (.cvPset f) s = predWise (.cvPset f) f (f.aux == 0) (fun c l x => psetBit f.aux.toNat c l (x 0)) s := rfl

/-- Settles O32: the producers are one shape, by whether a source lane is poisoned. -/
theorem cellPredicateResult : Obligations.CellPredicateResult := by
  unfold Obligations.CellPredicateResult
  refine fun s c f => ⟨fun p hp h => ?conds, fun h => ⟨fun hn => ?pset, fun code lane ha hx => ?psetPoison⟩⟩
  case conds =>
    rw [exec_condTable f s p hp]
    exact ⟨fun hn => predWise_clean h _ fun _ => hn, fun code lane hx => predWise_poisoned h _ hx⟩
  case pset =>
    rw [exec_cvPset, predWise_clean h _ fun ht => hn.resolve_left fun hne => hne (by simpa using ht)]
    rfl
  case psetPoison =>
    have bit : (f.aux == 0) = true := by rw [ha]; rfl
    rw [exec_cvPset, bit]
    exact predWise_poisoned h _ hx

/-! ## Floating point (R234 to R242) -/

theorem exec_floatTable (f : CG) (s : State) : ∀ p ∈ floatTable, exec (p.1 f) s = floatWise (p.1 f) f p.2 s := by
  simp only [floatTable, List.forall_mem_cons]
  exact ⟨rfl, rfl, rfl, rfl, rfl, rfl, rfl, List.forall_mem_nil _⟩

theorem exec_encTable (f : CG) (s : State) : ∀ p ∈ encTable, exec (p.1 f) s = encWise (p.1 f) f p.2 s := by
  simp only [encTable, List.forall_mem_cons]
  exact ⟨rfl, rfl, rfl, List.forall_mem_nil _⟩

theorem exec_specTable (f : CG) (s : State) : ∀ p ∈ specTable, exec (p.1 f) s = specialWise (p.1 f) f p.2 s := by
  simp only [specTable, List.forall_mem_cons]
  exact ⟨rfl, rfl, rfl, rfl, rfl, rfl, rfl, rfl, List.forall_mem_nil _⟩

/-- One rounding of a function of exact values (R234). -/
theorem floatWise_may (h : CellMay s c i) (g : RM → FVal → FVal → FVal → FVal) :
    floatWise i f g s = .next (cellWrote s c i (byLane c i f fun _ => ofElems (fmtOf f.ty.toNat).width fun x y z =>
      (fmtOf f.ty.toNat).write c.rm c.ftz (g c.rm ((fmtOf f.ty.toNat).readIn c.ftz x) ((fmtOf f.ty.toNat).readIn c.ftz y)
        ((fmtOf f.ty.toNat).readIn c.ftz z)))) := by
  rw [floatWise, laneWise_may h, byElem_eq_ofElems]

theorem encWise_may (h : CellMay s c i) (g : FFmt → Nat → Nat) :
    encWise i f g s = .next (cellWrote s c i (byLane c i f fun _ => ofElems (fmtOf f.ty.toNat).width fun x _ _ =>
      g (fmtOf f.ty.toNat) x)) := by
  rw [encWise, laneWise_may h, byElem_eq_ofElems]

/-- An instruction whose results an INSTRUCTION_COMPLETION writes (R240). -/
theorem runCell_pends {p : Pend} (h : CellMay s c i) (hb : body c (cellDrawn s c i) = .later (cellDrawn s c i) p) :
    runCell i body s = .next (cellPends s c i p) := by
  rw [runCell_may h, hb]
  rfl

/-- Settles O33: arithmetic, encodings and special functions are one shape each; a conversion by its first failing element. -/
theorem cellFloatResult : Obligations.CellFloatResult := by
  unfold Obligations.CellFloatResult
  rintro s c f _ rfl
  refine ⟨fun p hp h => ?float, fun p hp h => ?enc, fun p hp h => ?spec, fun h => ⟨fun hn => ?converts, fun l j x hx => ?overflows⟩⟩
  case float =>
    rw [exec_floatTable f s p hp]
    exact floatWise_may h p.2
  case enc =>
    rw [exec_encTable f s p hp]
    exact encWise_may h p.2
  case spec =>
    rw [exec_specTable f s p hp]
    exact runCell_pends h rfl
  case converts => exact runCell_write h (by simp only [hn])
  case overflows => exact runCell_trap h (by simp only [hx])

/-! ## Lanes (R243 to R249) -/

/-- The four words of CL.RNGX, one register after another. -/
theorem clRngx_may (h : CellMay s c (.clRngx f)) {o : Nat → W32 × W32 × W32 × W32} {u : W32 → W32}
    (ho : ∀ l, o l = osier (laneIn c (.clRngx f) l 0 + c.lid + BitVec.ofNat 32 l) (laneIn c (.clRngx f) l 1) (laneIn c (.clRngx f) l 2)
      (laneIn c (.clRngx f) l 3) (nth 0 c.n.ks (2 * (f.aux.toNat % 4))) (nth 0 c.n.ks (2 * (f.aux.toNat % 4) + 1)))
    (hu : ∀ x, u x = if f.ty = 5 then x else uniform x) {r : Nat → (W32 × W32 × W32 × W32 → W32) → Pend}
    (hr : ∀ j g, r j g = c.result (f.d + BitVec.ofNat 6 j) (c.active f) fun l => ⟨u (g (o l)), laneBad c (.clRngx f) l⟩) :
    exec (.clRngx f) s = .next (cellWrote s c (.clRngx f)
      ((((r 0 fun x => x.1).join (r 1 fun x => x.2.1)).join (r 2 fun x => x.2.2.1)).join (r 3 fun x => x.2.2.2))) := by
  refine runCell_write h ?_
  simp only [hr, hu, ho]
  rfl

/-- Settles O34, instruction by instruction. -/
theorem cellLaneResult : Obligations.CellLaneResult := by
  unfold Obligations.CellLaneResult
  rintro s c f _ _ rfl rfl
  refine ⟨fun h a ha => ?lred, fun h a b k out ha hb hk ho => ?lscn, fun h a b ha hb => ?lshf, fun h a b k ha hb hk => ⟨fun hl => ?lbrd,
    fun hl => ?lbrdOut⟩, fun h kept hk => ?lcmp, fun h o u ho hu r hr => clRngx_may h ho hu hr⟩
  case lred => subst ha; exact runCell_write h rfl
  case lscn => subst ha hb hk ho; exact runCell_write h rfl
  case lshf => subst ha hb; exact runCell_write h rfl
  case lbrd =>
    subst ha hb hk
    exact runCell_write h (if_neg (Nat.not_le.mpr hl))
  case lbrdOut =>
    subst ha hb hk
    exact runCell_trap h (if_pos hl)
  case lcmp => subst hk; exact runCell_write h rfl

end Sys2Proof.CellProofs
end

section
/-! Matrix weaves: tiles, buffers, multiplies, chains, drains and the butterfly stage (R252 to R267). -/

namespace Sys2Proof.MatrixProofs

open Sys2Proof Sys2Proof.Machine Sys2Proof.Claims
open Sys2Proof.Laws (runCell_may)
open Sys2Proof.CellProofs (runCell_write runCell_done runCell_trap)

variable {s : State} {c : Cell} {i : Instr} {f : CG} {body : Cell → State → CellAns}

/-! ## Answers -/

/-- An instruction that waits with nothing done. -/
theorem runCell_hold (h : CellMay s c i) (hb : body c (cellDrawn s c i) = .hold) : runCell i body s = .next (cellHolds s c) := by
  rw [runCell_may h, hb]
  rfl

/-- A word that its own operands or its weave refuse. -/
theorem runCell_illegal (h : CellMay s c i) (hb : body c (cellDrawn s c i) = .illegal i (cellDrawn s c i) 0 0) :
    runCell i body s = .next (cellIllegal s c i) := by
  rw [runCell_may h, hb]
  rfl

/-! ## Regions of rows (R253) -/

theorem regionTrap_none {off pitch rows size : Nat} (h : RegionIn c off pitch rows size) :
    regionTrap i c s off pitch rows size = none := by
  have reach := h.reach
  rw [regionTrap, if_neg (Classical.not_not.mpr h.align.1), if_neg (Classical.not_not.mpr h.align.2), if_neg (Nat.not_lt.mpr h.apart),
    if_neg (Nat.not_lt.mpr h.reach)]

theorem lineWait_none {lines : List Nat} (hf : c.faultOn lines = none) (he : c.emptyLine lines = none) :
    c.lineWait lines = none := by
  rw [Cell.lineWait, hf, he]
  rfl

theorem regionWait_none {off pitch rows size : Nat} (h : RegionOk c off pitch rows size) :
    regionWait c off pitch rows size = none :=
  lineWait_none h.faults h.lines

/-! ## Zeroing and B loads (R254, R255) -/

theorem arg0_eq_scalar (c : Cell) (i : Instr) (j : Nat) : arg0 c i j = c.scalar (cellSrcs i) j := rfl

theorem cxMzero_idle (h : CellMay s c (.cxMzero f)) (hb : c.w.busyTile f.d.toNat = false) :
    exec (.cxMzero f) s = .next (cellSets s c (.cxMzero f) fun w => w.setTile f.d.toNat ⟨f.aux.toNat == 1, [], [], [], 0⟩) :=
  runCell_done h (if_neg (by rw [hb]; decide))

theorem cxMzero_busy (h : CellMay s c (.cxMzero f)) (hb : c.w.busyTile f.d.toNat = true) :
    exec (.cxMzero f) s = .next (cellHolds s c) :=
  runCell_hold h (if_pos hb)

theorem cxMldb_loads {off kb pitch : Nat} (h : CellMay s c (.cxMldb f)) (ho : off = arg0 c (.cxMldb f) 0)
    (hk : kb = arg0 c (.cxMldb f) 1) (hp : pitch = arg0 c (.cxMldb f) 2) (hlo : 0 < kb) (hhi : kb ≤ 64)
    (hr : RegionOk c off pitch kb (4 * tyWidth f.ty.toNat)) :
    exec (.cxMldb f) s = .next (cellSets s c (.cxMldb f) fun w => w.setBuf f.d.toNat
      ⟨f.ty, kb, w.storeRows off pitch kb 32 (tyWidth f.ty.toNat)⟩) := by
  have legal : ¬ (kb = 0 ∨ 64 < kb) := by omega
  refine runCell_done h ?_
  simp only [← arg0_eq_scalar, ← ho, ← hk, ← hp, if_neg legal, regionTrap_none hr.toRegionIn, regionWait_none hr]
  rfl

theorem cxMldb_refused (h : CellMay s c (.cxMldb f)) (hk : arg0 c (.cxMldb f) 1 = 0 ∨ 64 < arg0 c (.cxMldb f) 1) :
    exec (.cxMldb f) s = .next (cellIllegal s c (.cxMldb f)) :=
  runCell_illegal h (if_pos hk)

/-! ## Multiplies (R256, R257) -/

theorem exec_multTable (f : CG) (s : State) : ∀ p ∈ multTable, exec (p.1 f) s = runCell (p.1 f) (multBody (p.1 f) f p.2) s := by
  simp only [multTable, List.forall_mem_cons]
  exact ⟨rfl, rfl, List.forall_mem_nil _⟩

theorem multBody_lone {tern : Bool} (h : f.aux.toNat / 2 = 0) (c : Cell) (s : State) :
    multBody i f tern c s = multLead i f tern false c s := by
  rw [multBody, h]
  rfl

theorem multBody_lead {tern : Bool} (h : f.aux.toNat / 2 = 1) (c : Cell) (s : State) :
    multBody i f tern c s = multLead i f tern true c s := by
  rw [multBody, h]
  rfl

theorem multBody_follow {tern : Bool} (h : f.aux.toNat / 2 = 2) (c : Cell) (s : State) :
    multBody i f tern c s = multFollow i f tern c s := by
  rw [multBody, h]
  rfl

section Lead

variable {off k pitch : Nat} {tern lead : Bool} (ho : off = arg0 c i 0) (hk : k = arg0 c i 1) (hp : pitch = arg0 c i 2)
  (ht : multTypes c.w f tern = true) (hlo : 0 < k) (hhi : k ≤ (c.w.buf (f.aux.toNat % 2)).kb)
  (hr : RegionOk c off pitch (32 * c.st.g) (4 * ceilDiv (k * tyWidth f.ty.toNat) 32))

include ho hk hp ht hlo hhi hr

/-- A lone or leading multiply on a region that can be read, once its types agree. -/
theorem multLead_reads (hl : lead = true → c.w.chain ≠ 0) : multLead i f tern lead c s =
    (let a := c.w.storeRows off pitch (32 * c.st.g) k (tyWidth f.ty.toNat)
    if lead ∧ (c.w.link.isSome ∨ c.w.linkWaits .place) then .done (pushMult c.key.weave (c.mult f k a (some .place) s) s)
    else .done (if lead then c.weave (fun w => { w with link := some ⟨f.ty, k, a, []⟩ }) (enterMult c f k a s)
      else enterMult c f k a s)) := by
  have legal : ¬ (k = 0 ∨ (c.w.buf (f.aux.toNat % 2)).kb < k) := by omega
  have member : ¬ ((lead = true) ∧ c.w.chain = 0) := fun h => hl h.1 h.2
  have trap := regionTrap_none (s := s) (i := i) hr.toRegionIn
  have wait := regionWait_none hr
  simp only [multLead, ← arg0_eq_scalar, ← ho, ← hk, ← hp, if_neg member, ht, if_neg legal, tileRows, trap, wait]
  rfl

theorem multLead_lone : multLead i f tern false c s =
    .done (enterMult c f k (c.w.storeRows off pitch (32 * c.st.g) k (tyWidth f.ty.toNat)) s) := by
  rw [multLead_reads ho hk hp ht hlo hhi hr (by simp)]
  rfl

theorem multLead_places (hc : c.w.chain ≠ 0) (hl : c.w.link = none) (hw : c.w.linkWaits .place = false) :
    multLead i f tern true c s = .done ((enterMult c f k (c.w.storeRows off pitch (32 * c.st.g) k (tyWidth f.ty.toNat)) s).updWeave
      c.key.weave fun w => { w with link := some ⟨f.ty, k, c.w.storeRows off pitch (32 * c.st.g) k (tyWidth f.ty.toNat), []⟩ }) := by
  rw [multLead_reads ho hk hp ht hlo hhi hr (fun _ => hc)]
  dsimp only
  rw [if_neg (by simp [hl, hw])]
  rfl

theorem multLead_waits (hc : c.w.chain ≠ 0) (hw : c.w.link ≠ none ∨ c.w.linkWaits .place = true) :
    multLead i f tern true c s = .done (pushMult c.key.weave
      (c.mult f k (c.w.storeRows off pitch (32 * c.st.g) k (tyWidth f.ty.toNat)) (some .place) s) s) := by
  rw [multLead_reads ho hk hp ht hlo hhi hr (fun _ => hc)]
  exact if_pos ⟨rfl, hw.imp_left Option.isSome_iff_ne_none.mpr⟩

end Lead

section Follow

variable {tern : Bool} {lead : WPos} (hl : c.w.leader = some lead) (ht : multTypes c.w f tern = true)

include hl ht

/-- A member's multiply once its types agree. -/
theorem multFollow_member : multFollow i f tern c s =
    match (if c.w.linkWaits .take then none else linkOffer c.st c.w) with
    | none => .done (pushMult c.key.weave (c.mult f 0 [] (some .take) s) s)
    | some x =>
      if x.ty ≠ f.ty then .illegal i s 0 0
      else if (c.w.buf (f.aux.toNat % 2)).kb < x.k then .illegal i s (BitVec.ofNat 32 x.k) 0
      else .done ((enterMult c f x.k x.a s).updStand c.key.stand fun t => t.takeFrom lead c.key.pos) := by
  have member : ¬ (multTypes c.w f tern = false ∨ (c.w.leader.isNone ∧ c.w.chain = 0)) := by simp [ht, hl]
  rw [multFollow, if_neg member, hl]
  rfl

theorem multFollow_takes {x : Link} (hx : linkOffer c.st c.w = some x) (hw : c.w.linkWaits .take = false) (hty : x.ty = f.ty)
    (hk : x.k ≤ (c.w.buf (f.aux.toNat % 2)).kb) : multFollow i f tern c s =
      .done ((enterMult c f x.k x.a s).updStand c.key.stand fun t => t.takeFrom lead c.key.pos) := by
  rw [multFollow_member hl ht, hw, if_neg Bool.false_ne_true, hx]
  dsimp only
  rw [if_neg (Classical.not_not.mpr hty), if_neg (Nat.not_lt.mpr hk)]

theorem multFollow_disagrees {x : Link} (hx : linkOffer c.st c.w = some x) (hw : c.w.linkWaits .take = false) (hty : x.ty ≠ f.ty) :
    multFollow i f tern c s = .illegal i s 0 0 := by
  rw [multFollow_member hl ht, hw, if_neg Bool.false_ne_true, hx]
  exact if_pos hty

theorem multFollow_waits (hx : linkOffer c.st c.w = none ∨ c.w.linkWaits .take = true) : multFollow i f tern c s =
    .done (pushMult c.key.weave (c.mult f 0 [] (some .take) s) s) := by
  have none : (if c.w.linkWaits .take then none else linkOffer c.st c.w) = Option.none := by
    by_cases hw : c.w.linkWaits .take = true
    · rw [if_pos hw]
    · rw [if_neg hw, hx.resolve_right hw]
  rw [multFollow_member hl ht, none]

end Follow

/-- Types that do not agree, whatever the role in the chain (R257). -/
theorem multBody_disagrees {tern : Bool} (ht : multTypes c.w f tern = false) (s : State) :
    multBody i f tern c s = .illegal i s 0 0 := by
  unfold multBody
  split
  · exact if_pos (.inl ht)
  · unfold multLead
    dsimp only
    rw [ht]
    split <;> rfl

/-! ## Chains (R261, R262) -/

theorem linkOffer_calm {t : Stand} {w : Weave} {lead : WPos} {x : Link} (hl : w.leader = some lead) (hw : t.wave = none)
    (hx : (t.weave lead).link = some x) : linkOffer t w = if x.taken.contains w.pos then none else some x := by
  rw [linkOffer, hl, Option.bind_some]
  dsimp only
  rw [hw, hx, Option.isSome_none, Bool.and_false, if_neg Bool.false_ne_true]
  cases hc : x.taken.contains w.pos <;> (simp only [Option.filter, hc]; rfl)

theorem cxMchn_forms {n : Nat} {ms : List WPos} (h : CellMay s c (.cxMchn f)) (hn : n = arg0 c (.cxMchn f) 0)
    (hm : ms = chainMembers c.key.pos n) (hlo : 0 < n) (hhi : n ≤ 8) (hin : ∀ m ∈ ms, m.dcol < c.st.kern.w)
    (hfree : ∀ m ∈ ms, (c.st.weave m).inOther c.key.pos = false) (hl : c.w.link = none) (hw : c.w.linkWaits .place = false) :
    exec (.cxMchn f) s = .next (cellPassed
      (((ms.drop 1).foldl (fun acc m => acc.updWeave ⟨c.key.stand, m⟩ fun w => { w with leader := some c.key.pos })
        (((chainMembers c.key.pos c.w.chain).drop 1).foldl (fun acc m => acc.updWeave ⟨c.key.stand, m⟩ fun w =>
          { w with leader := none }) (cellDrawn s c (.cxMchn f)))).updWeave c.key.weave fun w =>
        { w with chain := if n = 1 then 0 else n }) c (.cxMchn f)) := by
  have legal : ¬ (n = 0 ∨ 8 < n) := by omega
  have inside : ¬ ((ms.any fun m => c.st.kern.w ≤ m.dcol) = true) := by
    simpa [List.any_eq_true] using hin
  have free : ¬ ((ms.any fun m => (c.st.weave m).inOther c.key.pos) = true) := by
    simpa [List.any_eq_true] using hfree
  have empty : ¬ (c.w.link.isSome ∨ c.w.linkWaits .place) := by simp [hl, hw]
  refine runCell_done h ?_
  simp only [← arg0_eq_scalar, ← hn, ← hm, if_neg legal, if_neg inside, if_neg free, if_neg empty]
  rfl

/-- Settles O36, instruction by instruction and by the multiply's role in its chain. -/
theorem cellMatrixLoads : Obligations.CellMatrixLoads := by
  unfold Obligations.CellMatrixLoads
  rintro s c f _ _ rfl rfl
  refine ⟨fun h => ⟨cxMzero_idle h, cxMzero_busy h⟩, fun h off kb pitch ho hk hp => ⟨cxMldb_loads h ho hk hp, fun hx => cxMldb_refused h (hk ▸ hx)⟩,
    fun p hmem h => ?mults, fun t w lead x hl hw hx => linkOffer_calm hl hw hx,
    fun h n ms hn hm hlo hhi hin hfree hl hw s1 s2 hs1 hs2 => ?chain⟩
  case mults =>
    rw [exec_multTable f s p hmem]
    refine ⟨fun off k pitch a ho hk hp ha ht hlo hhi hr => ⟨fun hx => ?lone, fun hx hc => ⟨fun hl hw => ?places, fun hw => ?waits⟩⟩,
      fun lead hx hl ht => ⟨fun x ho hw => ⟨fun hty hk => ?takes, fun hty => ?disagrees⟩, fun hw => ?follows⟩, fun ht => ?types⟩
    case lone => subst ha; exact runCell_done h ((multBody_lone hx c _).trans (multLead_lone ho hk hp ht hlo hhi hr))
    case places => subst ha; exact runCell_done h ((multBody_lead hx c _).trans (multLead_places ho hk hp ht hlo hhi hr hc hl hw))
    case waits => subst ha; exact runCell_done h ((multBody_lead hx c _).trans (multLead_waits ho hk hp ht hlo hhi hr hc hw))
    case takes => exact runCell_done h ((multBody_follow hx c _).trans (multFollow_takes hl ht ho hw hty hk))
    case disagrees => exact runCell_illegal h ((multBody_follow hx c _).trans (multFollow_disagrees hl ht ho hw hty))
    case follows => exact runCell_done h ((multBody_follow hx c _).trans (multFollow_waits hl ht hw))
    case types => exact runCell_illegal h (multBody_disagrees ht _)
  case chain =>
    subst hs2 hs1
    exact cxMchn_forms h hn hm hlo hhi hin hfree hl hw

end Sys2Proof.MatrixProofs
end

section
/-! Reading, draining and scaling tiles, the twiddle generator and the butterfly stage (R55, R258 to R260, R264 to R267). -/

namespace Sys2Proof.TileReadProofs

open Sys2Proof Sys2Proof.Machine Sys2Proof.Claims
open Sys2Proof.CellProofs (runCell_write runCell_done runCell_trap)
open Sys2Proof.MatrixProofs (runCell_illegal regionTrap_none arg0_eq_scalar)

variable {s : State} {c : Cell} {i : Instr} {f : CG}

/-! ## MRD (R258) -/

theorem cxMrd_reads {t : Tile} {b : Lane} (h : CellMay s c (.cxMrd f)) (ht : t = c.w.tile f.a.toNat) (hb : b = cellSrc c (.cxMrd f) 1 0)
    (hty : t.int = true ↔ f.ty.toNat = 4) (hw : f.aux.getLsbD 0 = true → c.w.busyTile f.a.toNat = false) :
    exec (.cxMrd f) s = .next (cellWrote s c (.cxMrd f) ((c.result f.d (c.active f) fun l =>
        let r := laneRow l (bitsAt b.v.toNat 5 1)
        let j := bitsAt b.v.toNat 0 5
        ⟨if t.int then BitVec.ofNat 32 (intSat 4 (t.el r j).v.toInt) else BitVec.ofNat 32 (t.deliver r j),
          (t.el r j).poison || b.poison⟩).join (if f.aux.getLsbD 1 then allLanes c f.e t.count else Pend.none))) := by
  subst ht hb
  have agree : ¬ (((c.w.tile f.a.toNat).int : Prop) ≠ (f.ty.toNat = 4)) := Classical.not_not.mpr (propext hty)
  have idle : ¬ (f.aux.getLsbD 0 ∧ c.w.busyTile f.a.toNat) := fun hx => by
    have := hw hx.1
    rw [hx.2] at this
    cases this
  refine runCell_write h ?_
  simp only [if_neg agree, if_neg idle]
  rfl

theorem cxMrd_refused (h : CellMay s c (.cxMrd f)) (hty : ¬ ((c.w.tile f.a.toNat).int = true ↔ f.ty.toNat = 4)) :
    exec (.cxMrd f) s = .next (cellIllegal s c (.cxMrd f)) :=
  runCell_illegal h (if_pos fun heq => hty (iff_of_eq heq))

/-! ## MDRN (R68, R259) -/

theorem cxMdrn_plain (h : CellMay s c (.cxMdrn f))
    (hr : RegionIn c (arg0 c (.cxMdrn f) 1) (arg0 c (.cxMdrn f) 2) (32 * c.st.g) (4 * tyWidth f.ty.toNat))
    (hb : c.w.busyTile f.a.toNat = false) (ha : f.aux.getLsbD 2 = false) :
    exec (.cxMdrn f) s = .next (cellPassed (drainBody f c (arg0 c (.cxMdrn f) 1) (arg0 c (.cxMdrn f) 2) (fun _ => 0)
      (cellDrawn s c (.cxMdrn f))) c (.cxMdrn f)) := by
  have trap := regionTrap_none (s := cellDrawn s c (.cxMdrn f)) (i := .cxMdrn f) hr
  refine runCell_done h ?_
  simp only [← arg0_eq_scalar, tileRows, trap, ha, hb]
  rfl

theorem cxMdrn_scaled (h : CellMay s c (.cxMdrn f))
    (hr : RegionIn c (arg0 c (.cxMdrn f) 1) (arg0 c (.cxMdrn f) 2) (32 * c.st.g) (4 * tyWidth f.ty.toNat))
    (hb : c.w.busyTile f.a.toNat = false) {raw : BitVec 256} {s2 : State} {l : List Int} (ha : f.aux.getLsbD 2 = true)
    (he : c.entry? (cellDrawn s c (.cxMdrn f)) (arg0 c (.cxMdrn f) 4 % 65536) = some raw) (hread : (tensorEntry raw).r = true)
    (hd : drainScales c (tensorEntry raw) (arg0 c (.cxMdrn f) 3) (32 * c.st.g) (cellDrawn s c (.cxMdrn f)) = .ok s2 l) :
    exec (.cxMdrn f) s = .next (cellPassed (drainBody f c (arg0 c (.cxMdrn f) 1) (arg0 c (.cxMdrn f) 2) (fun r => nth 0 l r) s2)
      c (.cxMdrn f)) := by
  have trap := regionTrap_none (s := cellDrawn s c (.cxMdrn f)) (i := .cxMdrn f) hr
  refine runCell_done h ?_
  simp only [← arg0_eq_scalar, tileRows, trap, ha, hb, he, hread, hd]
  rfl

/-! ## MSCL (R260) -/

theorem cxMscl_scales (h : CellMay s c (.cxMscl f)) (hi : (c.w.tile f.d.toNat).int = false) (hb : c.w.busyTile f.d.toNat = false)
    {r : Nat → Nat} {j : Nat} (hr : r = fun l => laneRow l (bitsAt (arg0 c (.cxMscl f) 2) 5 1))
    (hj : j = bitsAt (arg0 c (.cxMscl f) 2) 0 5) :
    exec (.cxMscl f) s = .next (cellSets s c (.cxMscl f) fun w =>
      w.setTile f.d.toNat ((c.lanesWith (c.active f)).foldl (fun t l =>
        let a := cellSrc c (.cxMscl f) 0 l
        let b := cellSrc c (.cxMscl f) 1 l
        if f.aux.getLsbD 0 then t.setEl (r l) j ⟨BitVec.ofNat 48 (scaleF32 a.v.toNat b.v.toInt), a.poison || b.poison⟩
        else t.scaleRow (r l) b.v.toInt b.poison) (w.tile f.d.toNat))) := by
  subst hr hj
  refine runCell_done h ?_
  simp only [hi, hb]
  rfl

theorem cxMscl_refused (h : CellMay s c (.cxMscl f)) (hi : (c.w.tile f.d.toNat).int = true) :
    exec (.cxMscl f) s = .next (cellIllegal s c (.cxMscl f)) :=
  runCell_illegal h (if_pos hi)

/-! ## TWG and MBFY (R264 to R267) -/

theorem cxTwg_writes (h : CellMay s c (.cxTwg f)) {a : Vec} {b : Lane} {n : Nat} (ha : a = cellSrc c (.cxTwg f) 0)
    (hb : b = cellSrc c (.cxTwg f) 1 0) (hn : n = b.v.toNat) (hv : twValid n = true) :
    exec (.cxTwg f) s = .next (cellPassed (writeResult c.key
      ((c.result f.d (c.active f) fun l => ⟨BitVec.ofNat 32 (twRe n ((a l).v.toNat % n)), (a l).poison || b.poison⟩).join
        (c.result (f.d + 1) (c.active f) fun l => ⟨BitVec.ofNat 32 (twIm n ((a l).v.toNat % n) (f.aux.getLsbD 0)), (a l).poison || b.poison⟩))
      ((cellDrawn s c (.cxTwg f)).updWeave c.key.weave fun w => { w with twst := BitVec.ofNat 32 n })) c (.cxTwg f)) := by
  subst ha hb hn
  have valid : ¬ (twValid (cellSrc c (.cxTwg f) 1 0).v.toNat = false) := by rw [hv]; decide
  exact runCell_done h (if_neg valid)

/-- A stage on a pair of tiles. -/
theorem cxMbfy_stage (h : CellMay s c (.cxMbfy f)) {g : Stage} {d rows : Nat} {re im : Tile} {out : Nat → Nat × Nat × Bool}
    (hg : g = ⟨f.aux.toNat % 4 + 2, arg0 c (.cxMbfy f) 0, arg0 c (.cxMbfy f) 1, arg0 c (.cxMbfy f) 2,
      (c.tk.twn.getD c.w.twst).toNat % 2 ^ 17, f.aux.toNat / 4 % 4, f.aux.getLsbD 4⟩)
    (hd : d = f.d.toNat) (hrows : rows = 32 * c.st.g) (hre : re = c.w.tile d) (him : im = c.w.tile (d + 1))
    (hout : out = stageOut g (pairPoint re im rows)) (hri : re.int = false) (hii : im.int = false) (hn : g.n ≠ 0) (hq : g.q ≠ 0)
    (hlo : 0 < g.m) (hhi : g.m ≤ 1024 * c.st.g) (hm : g.m % (g.r * g.q) = 0) (hb : c.w.busyTile d = false)
    (hb1 : c.w.busyTile (d + 1) = false) :
    exec (.cxMbfy f) s = .next (cellPassed (addOps c.key.stand (2 * g.r * g.m) ((cellDrawn s c (.cxMbfy f)).updWeave c.key.weave fun w =>
      (w.setTile d ((upTo g.m).foldl (fun t o => t.setEl (o % rows) (o / rows) ⟨BitVec.ofNat 48 (out o).1, (out o).2.2⟩) re)).setTile (d + 1)
        ((upTo g.m).foldl (fun t o => t.setEl (o % rows) (o / rows) ⟨BitVec.ofNat 48 (out o).2.1, (out o).2.2⟩) im))) c (.cxMbfy f)) := by
  have legal : ¬ ((re.int : Prop) ∨ im.int ∨ g.n = 0 ∨ g.q = 0 ∨ g.m = 0 ∨ 1024 * c.st.g < g.m ∨ g.m % (g.r * g.q) ≠ 0) := by
    simp only [hri, hii, hm, hn, hq, not_or, Nat.not_lt, ne_eq, not_true_eq_false, not_false_eq_true, Bool.false_eq_true, true_and, and_true]
    omega
  have idle : ¬ ((c.w.busyTile d : Prop) ∨ c.w.busyTile (d + 1)) := by simp [hb, hb1]
  refine runCell_done h ?_
  subst hout hrows hre him hg hd
  exact (if_neg legal).trans (if_neg idle)

theorem cxMbfy_refused (h : CellMay s c (.cxMbfy f))
    (hi : (c.w.tile f.d.toNat).int = true ∨ (c.w.tile (f.d.toNat + 1)).int = true) :
    exec (.cxMbfy f) s = .next (cellIllegal s c (.cxMbfy f)) :=
  runCell_illegal h (if_pos (hi.imp_right .inl))

/-- Settles O37, instruction by instruction. -/
theorem cellMatrixReads : Obligations.CellMatrixReads := by
  unfold Obligations.CellMatrixReads
  refine fun s c f => ⟨fun h t b ht hb hty hw => cxMrd_reads h ht hb hty hw, fun h hty => cxMrd_refused h hty, cxMscl_refused,
    cxMbfy_refused, fun h hr hb s1 hs => ?drains, fun e row0 rows he => if_pos he,
    fun h r j hr hj hi hb => cxMscl_scales h hi hb hr hj, fun h a b n ha hb hn hv => cxTwg_writes h ha hb hn hv,
    fun h g d rows re im out hg hd hrows hre him hout hri hii hn hq hlo hhi hm hb hb1 =>
      cxMbfy_stage h hg hd hrows hre him hout hri hii hn hq hlo hhi hm hb hb1⟩
  case drains =>
    subst hs
    exact ⟨cxMdrn_plain h hr hb, fun raw s2 l ha he hread hd => cxMdrn_scaled h hr hb ha he hread hd⟩

end Sys2Proof.TileReadProofs
end

section
/-! Digit transducers: images, headers and passes (R269 to R282). -/

namespace Sys2Proof.DigitProofs

open Sys2Proof Sys2Proof.Machine Sys2Proof.Claims
open Sys2Proof.Laws (runCell_may)
open Sys2Proof.CellProofs (runCell_write runCell_done runCell_trap runCell_pends)
open Sys2Proof.MatrixProofs (runCell_hold runCell_illegal lineWait_none)

variable {s : State} {c : Cell} {i : Instr} {f : CG}

/-! ## Installing an image (R272, R275) -/

theorem installImage_good {src : Nat} {bs : List Byte} (hb : imageBad bs = none) (s : State) :
    installImage i f c src bs false s = .done (s.updWeave c.key.weave fun w =>
      w.setSlot f.d.toNat ⟨imageHdr bs, imageEntries bs, false⟩) := by
  simp only [installImage, hb, Bool.false_eq_true, if_false]

theorem installImage_bad {src k : Nat} {bs : List Byte} (hb : imageBad bs = some k) (s : State) :
    installImage i f c src bs false s =
      .trap s 0x01 0 (BitVec.ofNat 32 src) (BitVec.ofNat 32 k) (wordHalves i).1 (wordHalves i).2 := by
  simp only [installImage, hb, Bool.false_eq_true, if_false]

/-- What installs a clean image, or refuses it at its first offending byte, does so for the instruction. -/
theorem runCell_installs {body : Cell → State → CellAns} {src : Nat} {bs : List Byte} {s1 : State} (h : CellMay s c i)
    (hb : body c (cellDrawn s c i) = installImage i f c src bs false s1) :
    (imageBad bs = none → runCell i body s = .next (cellPassed (s1.updWeave c.key.weave fun w =>
      w.setSlot f.d.toNat ⟨imageHdr bs, imageEntries bs, false⟩) c i)) ∧
    (∀ k, imageBad bs = some k → runCell i body s = .next (cellTrapped s1 c 0x01
      (BitVec.ofNat 32 src) (BitVec.ofNat 32 k) (wordHalves i).1 (wordHalves i).2)) :=
  ⟨fun hg => runCell_done h (hb.trans (installImage_good hg s1)), fun _ hk => runCell_trap h (hb.trans (installImage_bad hk s1))⟩

/-- An image of the store whose lines are full and clean. -/
theorem dxldStore_reads {src n : Nat} (hn : n = imageLen (c.w.store.bytesAt src 16)) (hhead : src + 16 ≤ storeSize c.st)
    (hall : src + n ≤ storeSize c.st)
    (hl : ∀ k ∈ [16, n], c.faultOn (linesOf src k) = none ∧ c.emptyLine (linesOf src k) = none)
    (hp : c.w.storePoison src n = false) (s : State) :
    dxldStore i f c src s = installImage i f c src (c.w.store.bytesAt src n) false s := by
  have wait : ∀ k ∈ [16, n], c.lineWait (linesOf src k) = none := fun k hk => lineWait_none (hl k hk).1 (hl k hk).2
  simp only [dxldStore, if_neg (Nat.not_lt.mpr hhead), wait 16 (by simp), ← hn, if_neg (Nat.not_lt.mpr hall), wait n (by simp), hp]

theorem dxldMem_reads {src : Nat} {hd bs : List Byte} {s s1 s2 : State} (hh : readBlocks c src 16 s = .ok s1 hd false)
    (hb : readBlocks c src (imageLen hd) s = .ok s2 bs false) : dxldMem i f c src s = installImage i f c src bs false s2 := by
  unfold dxldMem
  dsimp only
  rw [hh]
  dsimp only
  rw [if_neg Bool.false_ne_true, hb]

theorem poisonedLane_none {v : Vec} {ls : List Nat} (h : ∀ l ∈ ls, (v l).poison = false) : poisonedLane v ls = none := by
  rw [poisonedLane, List.find?_eq_none]
  intro l hl
  simp [h l hl]

/-- What CD.DXLD does with an aligned address in clean operands. -/
def dxldAligned (f : CG) (c : Cell) (s : State) : CellAns :=
  if passPending c.w then .hold
  else if f.aux.getLsbD 0 then dxldStore (.cdDxld f) f c (arg0 c (.cdDxld f) 0) s
  else dxldMem (.cdDxld f) f c (arg0 c (.cdDxld f) 0 + 2 ^ 32 * (cellSrc c (.cdDxld f) 0 1).v.toNat) s

/-- The body of an instruction matters only at the cell whose turn it is. -/
theorem runCell_congr {body body' : Cell → State → CellAns} (h : CellMay s c i)
    (hb : body c (cellDrawn s c i) = body' c (cellDrawn s c i)) : runCell i body s = runCell i body' s := by
  rw [runCell_may h, runCell_may h, hb]

theorem exec_cdDxld (h : CellMay s c (.cdDxld f))
    (hp : poisonedLane (cellSrc c (.cdDxld f) 0) (if f.aux.getLsbD 0 then [0] else [0, 1]) = none)
    (ha : arg0 c (.cdDxld f) 0 % 16 = 0) : exec (.cdDxld f) s = runCell (.cdDxld f) (dxldAligned f) s := by
  refine runCell_congr h ?_
  simp only [arg0, cellSrc] at hp ha
  cases hf : f.aux.getLsbD 0
  case true =>
    have aligned : ¬ ((c.opd (cellSrcs (.cdDxld f)) 0 0).v.toNat % 16 ≠ 0 ∧ (c.opd (cellSrcs (.cdDxld f)) 0 0).v.toNat < 2 ^ 57) :=
      fun hx => hx.1 ha
    simp only [hf, if_true] at hp
    simp only [dxldAligned, arg0, cellSrc, hf, if_true, hp, if_neg aligned]
  case false =>
    have aligned : ¬ (((c.opd (cellSrcs (.cdDxld f)) 0 0).v.toNat + 2 ^ 32 * (c.opd (cellSrcs (.cdDxld f)) 0 1).v.toNat) % 16 ≠ 0 ∧
        (c.opd (cellSrcs (.cdDxld f)) 0 0).v.toNat + 2 ^ 32 * (c.opd (cellSrcs (.cdDxld f)) 0 1).v.toNat < 2 ^ 57) := by
      omega
    simp only [hf, Bool.false_eq_true, if_false] at hp
    simp only [dxldAligned, arg0, cellSrc, hf, Bool.false_eq_true, if_false, hp, if_neg aligned]

theorem cdDxld_store {src n : Nat} {bs : List Byte} (hsrc : src = arg0 c (.cdDxld f) 0)
    (hn : n = imageLen (c.w.store.bytesAt src 16)) (hbs : bs = c.w.store.bytesAt src n) (hf : f.aux.getLsbD 0 = true)
    (hhead : src + 16 ≤ storeSize c.st)
    (hall : src + n ≤ storeSize c.st)
    (hl : ∀ k ∈ [16, n], c.faultOn (linesOf src k) = none ∧ c.emptyLine (linesOf src k) = none)
    (hc : c.w.storePoison src n = false) (hw : passPending c.w = false) (s : State) :
    dxldAligned f c s = installImage (.cdDxld f) f c src bs false s := by
  rw [dxldAligned, hw, hf, if_neg Bool.false_ne_true, if_pos rfl, ← hsrc, dxldStore_reads hn hhead hall hl hc, hbs]

theorem cdDxld_memory {src : Nat} {hd bs : List Byte} {s1 s2 : State}
    (hsrc : src = arg0 c (.cdDxld f) 0 + 2 ^ 32 * (cellSrc c (.cdDxld f) 0 1).v.toNat) (hf : f.aux.getLsbD 0 = false)
    (hw : passPending c.w = false) (hh : readBlocks c src 16 s = .ok s1 hd false)
    (hb : readBlocks c src (imageLen hd) s = .ok s2 bs false) :
    dxldAligned f c s = installImage (.cdDxld f) f c src bs false s2 := by
  rw [dxldAligned, hw, hf, if_neg Bool.false_ne_true, if_neg Bool.false_ne_true, ← hsrc, dxldMem_reads hh hb]

theorem cdDxld_poisoned {l : Nat} (h : CellMay s c (.cdDxld f))
    (hp : poisonedLane (cellSrc c (.cdDxld f) 0) (if f.aux.getLsbD 0 then [0] else [0, 1]) = some l) :
    exec (.cdDxld f) s = .next (cellTrapped (cellDrawn s c (.cdDxld f)) c 0x06 (BitVec.ofNat 32 f.a.toNat) (BitVec.ofNat 32 l) 0 0) := by
  have poisoned : poisonedLane (c.opd (cellSrcs (.cdDxld f)) 0) (if f.aux.getLsbD 0 then [0] else [0, 1]) = some l := hp
  refine runCell_trap h ?_
  dsimp only
  rw [poisoned]
  rfl

/-! ## CD.DXCF and CD.DXFN (R276) -/

section Configure

variable {a : Vec} {x : Slot} (h : CellMay s c (.cdDxcf f)) (ha : a = cellSrc c (.cdDxcf f) 0) (hx : x = c.w.slot f.d.toNat)
  (h0 : (a 0).poison = false) (h1 : f.aux.toNat = 3 → (a 1).poison = false) (hw : hdrWidth x.hdr ≠ 0)
  (hs : f.aux.toNat = 1 → (a 0).v.toNat % 32 < hdrStates x.hdr)

include h ha hx h0 h1 hw hs

/-- CD.DXCF with clean operands and a legal change. -/
theorem exec_cdDxcf : exec (.cdDxcf f) s = runCell (.cdDxcf f) (fun c s =>
    if passPending c.w then .hold
    else .done (s.updWeave c.key.weave fun w =>
      w.setSlot f.d.toNat { x with hdr := hdrSet x.hdr f.aux.toNat (a 0).v.toNat (a 1).v.toNat })) s := by
  have clean : poisonedLane a (if f.aux.toNat = 3 then [0, 1] else [0]) = none := by
    refine poisonedLane_none fun l hl => ?_
    split at hl
    · next h3 => simp only [List.mem_cons, List.not_mem_nil, or_false] at hl; rcases hl with rfl | rfl <;> simp [h0, h1 h3]
    · simp only [List.mem_singleton] at hl; rw [hl, h0]
  have legal : ¬ (hdrWidth x.hdr = 0 ∨ (f.aux.toNat = 1 ∧ hdrStates x.hdr ≤ (a 0).v.toNat % 32)) := by
    rintro (hz | ⟨h1, hle⟩)
    · exact hw hz
    · exact absurd (hs h1) (Nat.not_lt.mpr hle)
  refine runCell_congr h ?_
  subst ha hx
  rw [cellSrc] at clean
  dsimp only
  rw [clean]
  exact if_neg legal

theorem cdDxcf_changes (hp : passPending c.w = false) : exec (.cdDxcf f) s = .next (cellSets s c (.cdDxcf f) fun w =>
    w.setSlot f.d.toNat { x with hdr := hdrSet x.hdr f.aux.toNat (a 0).v.toNat (a 1).v.toNat }) :=
  (exec_cdDxcf h ha hx h0 h1 hw hs).trans (runCell_done h (if_neg (by rw [hp]; decide)))

theorem cdDxcf_held (hp : passPending c.w = true) : cellHeld s c (.cdDxcf f) :=
  (exec_cdDxcf h ha hx h0 h1 hw hs).trans (runCell_hold h (if_pos hp))

end Configure

theorem cdDxfn_last (h : CellMay s c (.cdDxfn f)) (hv : f.aux.toNat / 4 = 0) (hp : passPending c.w = false) :
    exec (.cdDxfn f) s = .next (cellWrote s c (.cdDxfn f) (c.result f.d (c.active f) fun l => nth Lane.zero c.w.recs l)) := by
  refine runCell_write h ?_
  simp only [hv, hp, Bool.false_eq_true, and_false, if_true, if_false]

theorem cdDxfn_header (h : CellMay s c (.cdDxfn f)) : ∀ p ∈ [(1, 0), (2, 64), (3, 96)], f.aux.toNat / 4 = p.1 →
    exec (.cdDxfn f) s = .next (cellWrote s c (.cdDxfn f)
      (c.result f.d (c.active f) fun _ => ⟨(c.w.slot (f.aux.toNat % 4)).hdr.extractLsb' p.2 32, false⟩)) := by
  simp only [List.forall_mem_cons]
  refine ⟨fun hv => runCell_write h ?_, fun hv => runCell_write h ?_, fun hv => runCell_write h ?_, List.forall_mem_nil _⟩ <;>
    simp only [hv, Nat.reduceEqDiff, false_and, if_false]

/-! ## Passes (R277 to R280) -/

theorem exec_passTable (f : CG) (s : State) : ∀ p ∈ passTable, exec (p.1 f) s = runCell (p.1 f) (passBody (p.1 f) f p.2) s := by
  simp only [passTable, List.forall_mem_cons]
  exact ⟨rfl, rfl, List.forall_mem_nil _⟩

/-- What `passFail` reports of a lane. -/
def laneFail (run : Nat → Except Undef PassOut) (l : Nat) : Option (Nat × Undef) :=
  match run l with
  | .error u => some (l, u)
  | .ok _ => none

theorem passFail_eq (run : Nat → Except Undef PassOut) : passFail c f run = (c.lanesWith (c.active f)).findSome? (laneFail run) := rfl

theorem findSome?_laneFail_defined {run : Nat → Except Undef PassOut} {ls : List Nat} (h : ∀ l ∈ ls, ∃ o, run l = .ok o) :
    ls.findSome? (laneFail run) = none := by
  rw [List.findSome?_eq_none_iff]
  intro l hl
  obtain ⟨o, ho⟩ := h l hl
  rw [laneFail, ho]

theorem passFail_first {run : Nat → Except Undef PassOut} {l : Nat} {u : Undef} {before after : List Nat}
    (hl : c.lanesWith (c.active f) = before ++ l :: after) (hu : run l = .error u) (hb : ∀ x ∈ before, ∃ o, run x = .ok o) :
    passFail c f run = some (l, u) := by
  rw [passFail_eq, hl, List.findSome?_append, findSome?_laneFail_defined hb, Option.none_or, List.findSome?_cons, laneFail, hu]

section Pass

variable {rev : Bool} (hw : hdrWidth (c.w.slot (f.aux.toNat % 4)).hdr ≠ 0)
  (hn : f.gq = 0 ∨ poisonedSrc c (cellSrcs i) (c.active f) = none) (hp : passPending c.w = false)

include hw hn hp

/-- A pass of a table with clean operands where it writes a predicate, once the passes before it have completed. -/
theorem passBody_runs (s : State) : passBody i f rev c s =
    match passFail c f (passOf c i f rev) with
    | some (l, u) =>
      .trap (s.updWeave c.key.weave fun w => { w with dxst := w.dxst ||| 2 }) 0x04 0 (c.lid + BitVec.ofNat 32 l)
        (BitVec.ofNat 32 (u.pos * 2 ^ 16 + u.st * 2 ^ 8 + u.x * 2 ^ 4 + u.y)) (cellSrc c i 0 l).v (cellSrc c i 1 l).v
    | none => .later s (passPend f c (cellSrcs i) (c.w.slot (f.aux.toNat % 4)) (passOutOf c i f rev)) := by
  have clean : (if f.gq = 0 then none else poisonedSrc c (cellSrcs i) (c.active f)) = none := by
    rcases hn with hn | hn
    · rw [if_pos hn]
    · rw [hn, ite_self]
  unfold passBody
  dsimp only
  rw [if_neg hw, clean]
  exact if_neg (by rw [hp]; decide)

theorem pass_keeps (h : CellMay s c i) (hok : ∀ l ∈ c.lanesWith (c.active f), ∃ o, passOf c i f rev l = .ok o) :
    runCell i (passBody i f rev) s =
      .next (cellPends s c i (passPend f c (cellSrcs i) (c.w.slot (f.aux.toNat % 4)) (passOutOf c i f rev))) :=
  runCell_pends h (by rw [passBody_runs hw hn hp, passFail_eq, findSome?_laneFail_defined hok])

theorem pass_undefined {l : Nat} {u : Undef} {before after : List Nat} (h : CellMay s c i)
    (hl : c.lanesWith (c.active f) = before ++ l :: after) (hu : passOf c i f rev l = .error u)
    (hb : ∀ x ∈ before, ∃ o, passOf c i f rev x = .ok o) : runCell i (passBody i f rev) s =
      .next (cellTrapped ((cellDrawn s c i).updWeave c.key.weave fun w => { w with dxst := w.dxst ||| 2 }) c 0x04
        (c.lid + BitVec.ofNat 32 l) (BitVec.ofNat 32 (u.pos * 2 ^ 16 + u.st * 2 ^ 8 + u.x * 2 ^ 4 + u.y))
        (cellSrc c i 0 l).v (cellSrc c i 1 l).v) :=
  runCell_trap h (by rw [passBody_runs hw hn hp, passFail_first hl hu hb])

end Pass

/-- Settles O38, instruction by instruction. -/
theorem cellDigits : Obligations.CellDigits := by
  unfold Obligations.CellDigits
  refine fun s c f => ⟨fun h src n bs hsrc hn hbs hf hp ha hhead hall hl hc hw => ?store,
    fun h src hd bs s1 s2 hsrc hf hp ha hw hh hb => ?memory, fun h ls hls => ⟨fun l hl => ?poisoned, fun hl ha hw => ?held⟩,
    fun h a x ha hx h0 h1 hw hs => ⟨cdDxcf_changes h ha hx h0 h1 hw hs, cdDxcf_held h ha hx h0 h1 hw hs⟩,
    fun h _ hh => ⟨cdDxfn_last h, fun p hp hv => hh ▸ cdDxfn_header h p hp hv⟩, fun p hmem h x hx hw hn hp => ?passes⟩
  case store =>
    rw [exec_cdDxld h (by rw [hf]; exact poisonedLane_none (by simp [hp])) (hsrc ▸ ha)]
    exact runCell_installs h (cdDxld_store hsrc hn hbs hf hhead hall hl hc hw _)
  case memory =>
    rw [exec_cdDxld h (by rw [hf]; exact poisonedLane_none hp) (by omega)]
    exact runCell_installs h (cdDxld_memory hsrc hf hw hh hb)
  case poisoned => exact cdDxld_poisoned h (hls ▸ hl)
  case held => exact (exec_cdDxld h (hls ▸ hl) ha).trans (runCell_hold h (if_pos hw))
  case passes =>
    subst hx
    rw [exec_passTable f s p hmem]
    exact ⟨pass_keeps hw hn hp h, fun l u before after => pass_undefined hw hn hp h⟩

end Sys2Proof.DigitProofs
end

section
/-! Memory instructions of the cells: element loads and stores, reply loads, tiles, updates, atomics, pins, prefetches and full
bits (R294 to R303). -/

namespace Sys2Proof.LaneProofs

open Sys2Proof Sys2Proof.Machine Sys2Proof.Claims
open Sys2Proof.Laws (runCell_may)
open Sys2Proof.CellProofs (runCell_done runCell_trap)
open Sys2Proof.MatrixProofs (lineWait_none)
open Sys2Proof.DigitProofs (runCell_congr)

variable {s : State} {c : Cell} {i : Instr} {f : CM} {body : Cell → State → CellAns} {lanes : List Nat} {r : LaneRun}

/-! ## Ends of a run of lanes (R294) -/

/-- An instruction that finishes as a load of d. -/
theorem runCell_loadEnds (h : CellMay s c i) {d : Code6} (hr : runEnds r) (hb : body c (cellDrawn s c i) = finishLoad c d r) :
    ∃ t, runCell i body s = .next t ∧ loadEnds c i d r t := by
  obtain ⟨s1, out, rfl⟩ | ⟨s1, out, cause, addr, l, rfl⟩ := hr
  case inl =>
    refine ⟨_, runCell_done h hb, fun s2 out2 he => ?_, fun _ _ _ _ _ he => LaneRun.noConfusion he⟩
    cases he
    rfl
  case inr =>
    refine ⟨_, runCell_done h hb, fun _ _ he => LaneRun.noConfusion he, fun s2 out2 cause2 addr2 l2 he => ?_⟩
    cases he
    rfl

/-- An instruction that finishes as a store. -/
theorem runCell_storeEnds (h : CellMay s c i) (hr : runEnds r) (hb : body c (cellDrawn s c i) = finishStore c r) :
    ∃ t, runCell i body s = .next t ∧ storeEnds c i r t := by
  obtain ⟨s1, out, rfl⟩ | ⟨s1, out, cause, addr, l, rfl⟩ := hr
  case inl =>
    refine ⟨_, runCell_done h hb, fun s2 out2 he => ?_, fun _ _ _ _ _ he => LaneRun.noConfusion he⟩
    cases he
    rfl
  case inr =>
    refine ⟨_, runCell_done h hb, fun _ _ he => LaneRun.noConfusion he, fun s2 out2 cause2 addr2 l2 he => ?_⟩
    cases he
    rfl

/-! ## Element loads and stores (R295 to R297) -/

/-- The check of the lane indices of an element access: the digit list's, or none. -/
def indexCheck (rev : Bool) (c : Cell) (b : Vec) (lanes : List Nat) : Option (W32 × W32) := if rev then revCheck c b lanes else none

theorem indexCheck_none {rev : Bool} {b : Vec} (h : rev = true → revCheck c b lanes = none) : indexCheck rev c b lanes = none := by
  cases rev with
  | false => rfl
  | true => exact h rfl

theorem exec_loadForms (f : CM) (s : State) : ∀ p ∈ loadForms, exec (p.1 f) s = cmElem (p.1 f) f false (p.2.1 f) (indexCheck p.2.2) s := by
  simp only [loadForms, List.forall_mem_cons]
  exact ⟨rfl, rfl, List.forall_mem_nil _⟩

theorem exec_storeForms (f : CM) (s : State) : ∀ p ∈ storeForms, exec (p.1 f) s = cmElem (p.1 f) f true (p.2.1 f) (indexCheck p.2.2) s := by
  simp only [storeForms, List.forall_mem_cons]
  exact ⟨rfl, rfl, List.forall_mem_nil _⟩

section Element

variable {addr : Cell → Vec → Nat → Nat} {check : Cell → Vec → List Nat → Option (W32 × W32)} (hl : lanes = lanesM c f)
  (hp : cmPoison c f.a lanes [(f.b, cellSrc c i 1)] = none) (hc : check c (cellSrc c i 1) lanes = none)

include hl hp hc

theorem cmElem_loads (h : CellMay s c i)
    (hr : r = eachLane (loadLane c f.ty f.ch.toNat (addr c (cellSrc c i 1))) lanes (cellDrawn s c i) []) (he : runEnds r) :
    ∃ t, cmElem i f false addr check s = .next t ∧ loadEnds c i f.d r t := by
  subst hl hr
  rw [cellSrc, lanesM] at hp hc
  refine runCell_loadEnds h he ?_
  dsimp only
  rw [hp]
  dsimp only
  rw [hc]
  rfl

theorem cmElem_stores (h : CellMay s c i)
    (hr : r = eachLane (storeLane c f.ty f.ch.toNat (addr c (cellSrc c i 1)) (cellSrc c i 4)) lanes (cellDrawn s c i) [])
    (he : runEnds r) : ∃ t, cmElem i f true addr check s = .next t ∧ storeEnds c i r t := by
  subst hl hr
  rw [cellSrc, lanesM] at hp hc
  refine runCell_storeEnds h he ?_
  dsimp only
  rw [hp]
  dsimp only
  rw [hc]
  rfl

end Element

section Lane

variable {ty : BitVec 4} {ch l : Nat} {addr : Nat → Nat} {x : Vec}

theorem loadLane_faults {cause : Nat} (h : cellPlace s c (laneCell l) (addr l) (cmBytes ty) .read = .error cause) :
    loadLane c ty ch addr s l = .bad cause (addr l) := by
  rw [loadLane, h]

theorem storeLane_faults {cause : Nat} (h : cellPlace s c (laneCell l) (addr l) (cmBytes ty) .write = .error cause) :
    storeLane c ty ch addr x s l = .bad cause (addr l) := by
  rw [storeLane, h]

theorem loadLane_self {off : Nat} (h : cellPlace s c (laneCell l) (addr l) (cmBytes ty) .read = .ok (.self off))
    (hf : c.faultOn [off / 128] = none) (he : c.emptyLine [off / 128] = none) : loadLane c ty ch addr s l =
      .val s ⟨cmExtend ty (c.w.store.readN off (cmBytes ty)), c.w.store.poisoned off⟩ := by
  rw [loadLane, h]
  dsimp only
  rw [hf]
  dsimp only
  rw [he]

theorem storeLane_self {off : Nat} (h : cellPlace s c (laneCell l) (addr l) (cmBytes ty) .write = .ok (.self off))
    (hf : c.faultOn [off / 128] = none) : storeLane c ty ch addr x s l = .val (s.updWeave c.key.weave fun w =>
      { w with store := w.store.store off (bytesLE (cmBytes ty) (x l).v.toNat) (x l).poison }) (x l) := by
  rw [storeLane, h]
  dsimp only
  rw [hf]

end Lane

/-- Settles O39: the forms by their run of lanes, a lane by its place. -/
theorem cellLoadStore : Obligations.CellLoadStore := by
  unfold Obligations.CellLoadStore
  refine ⟨fun s c f lanes hl => ⟨fun p hmem h hp hc r hr he => ?loads, fun p hmem h hp hc r hr he => ?stores⟩, fun _ _ _ _ => rfl,
    fun s c ty ch addr x l => ⟨fun cause => loadLane_faults, fun cause => storeLane_faults, fun off => loadLane_self,
      fun off => storeLane_self⟩⟩
  case loads =>
    rw [exec_loadForms f s p hmem]
    exact cmElem_loads hl hp (indexCheck_none hc) h hr he
  case stores =>
    rw [exec_storeForms f s p hmem]
    exact cmElem_stores hl hp (indexCheck_none hc) h hr he

/-! ## Reply loads and tiles (R298, R299) -/

theorem cmLdx_sends {dc dr : Int} {col slot vc : Nat} {s1 : State} {out : List (Nat × Lane)} (h : CellMay s c (.cmLdx f)) (hl : lanes = lanesM c f)
    (hk : c.st.kern.routes[f.b.toNat]? = some (.cell dc dr col slot vc)) (hp : cmPoison c f.a lanes [] = none)
    (hg : c.st.g ≤ (cellDrawn s c (.cmLdx f)).routeSlots c.st f.b.toNat)
    (hr : eachLane (loadLane c f.ty 3 (c.base f.a)) lanes (cellDrawn s c (.cmLdx f)) [] = .go s1 out) :
    exec (.cmLdx f) s = .next (cellPassed (sendReplies c.key.weave f.b.toNat ((upTo c.st.g).map (replyTok c f out none)) s1) c (.cmLdx f)) := by
  subst hl
  rw [lanesM] at hp hr
  refine runCell_done h ?_
  dsimp only
  rw [hk]
  dsimp only
  rw [hp]
  dsimp only
  rw [if_neg (Nat.not_lt.mpr hg), hr]

theorem memHeld_cellDrawn (s : State) (c : Cell) (i : Instr) (vf : Nat) : (cellDrawn s c i).memHeld vf = s.memHeld vf := by
  rw [State.memHeld, State.memHeld, State.vf, State.vf, cellDrawn, State.updTask_vfs]

/-- No access of a tile's lines is held, where none of one line is. -/
theorem lines_free {lines : List Nat} {vf die : Nat} (hm : s.memHeld vf = false)
    (hl : ∀ l ∈ lines, (cellDrawn s c i).accessHeld vf die (128 * l) = false) :
    ¬ (((cellDrawn s c i).memHeld vf || lines.any fun l => (cellDrawn s c i).accessHeld vf die (128 * l)) = true) := by
  rw [memHeld_cellDrawn, hm, Bool.false_or, List.any_eq_true]
  rintro ⟨l, hmem, hx⟩
  rw [hl l hmem] at hx
  exact Bool.false_ne_true hx

theorem cmLdt_loads {x : TileArgs} {s1 : State} {els : List TileEl} {n : Nat} {ls : List Nat} (h : CellMay s c (.cmLdt f))
    (hx : tileArgs c f (cellSrcs (.cmLdt f)) false (cellDrawn s c (.cmLdt f)) = .ok x) (hn : n = packedBytes x.e.width x.e.tileSize)
    (hls : ls = linesOf x.off n) (hf : c.faultOn ls = none) (hm : s.memHeld c.st.vf = false)
    (ha : ∀ l ∈ tileLines (cellTrans (cellDrawn s c (.cmLdt f)) c .read) x.e x.co,
      (cellDrawn s c (.cmLdt f)).accessHeld c.st.vf c.st.die (128 * l) = false)
    (he : evict c.key.weave (fun y => (tileLines (cellTrans (cellDrawn s c (.cmLdt f)) c .read) x.e x.co).contains y.line)
      (cellDrawn s c (.cmLdt f)) = some s1)
    (hr : readTile (cellTrans (cellDrawn s c (.cmLdt f)) c .read) (s1.standMem c.key.stand) x.e x.co = .ok els) :
    exec (.cmLdt f) s = .next (cellPassed (c.touchTile x (addBytes c.key.stand (elBytes x.e (x.e.tileElems x.co))
      (s1.updWeave c.key.weave fun w =>
      { w with store := packStore x.e.width x.off els (zeroLines x.off n w.store)
               full := ls.foldl (fun acc l => insertNat l acc) w.full }))) c (.cmLdt f)) := by
  subst hls hn
  refine runCell_done h ?_
  rw [hx]
  dsimp only
  rw [hf]
  dsimp only
  rw [if_neg (lines_free hm ha), he]
  dsimp only
  rw [hr]

theorem cmStt_stores {x : TileArgs} {s1 s2 : State} {ops : List SegOp} {n : Nat} {ls : List Nat} (h : CellMay s c (.cmStt f))
    (hx : tileArgs c f (cellSrcs (.cmStt f)) true (cellDrawn s c (.cmStt f)) = .ok x) (hn : n = packedBytes x.e.width x.e.tileSize)
    (hls : ls = linesOf x.off n) (hf : c.faultOn ls = none) (hl : c.emptyLine ls = none) (hm : s.memHeld c.st.vf = false)
    (ha : ∀ l ∈ tileLines (cellTrans (cellDrawn s c (.cmStt f)) c .write) x.e x.co,
      (cellDrawn s c (.cmStt f)).accessHeld c.st.vf c.st.die (128 * l) = false)
    (he : evict c.key.weave (fun y => (tileLines (cellTrans (cellDrawn s c (.cmStt f)) c .write) x.e x.co).contains y.line)
      (cellDrawn s c (.cmStt f)) = some s1)
    (hp : partOps (cellTrans (cellDrawn s c (.cmStt f)) c .write) (s1.standMem c.key.stand)
      (tileParts x.e (x.e.tileElems x.co) (packLoad x.e.width x.off x.e.tileSize c.w.store)) = .ok ops)
    (ht : tryHold c.key.stand (.weave c.key.pos) ops s1 = some s2) :
    exec (.cmStt f) s = .next (cellPassed (c.touchTile x (addBytes c.key.stand (elBytes x.e (x.e.tileElems x.co)) s2)) c (.cmStt f)) := by
  subst hls hn
  refine runCell_done h ?_
  rw [hx]
  dsimp only
  rw [hf, hl]
  dsimp only
  rw [if_neg (lines_free hm ha), he]
  dsimp only
  rw [hp]
  dsimp only
  rw [ht]

/-! ## Updates, atomics, pins (R300 to R302) -/

theorem cmUpd_ends (h : CellMay s c (.cmUpd f)) (hl : lanes = lanesM c f) (hp : cmPoison c f.a lanes [] = none)
    (hr : r = eachLane (updLane c f (cellSrc c (.cmUpd f) 4)) lanes (cellDrawn s c (.cmUpd f)) []) (he : runEnds r) :
    ∃ t, exec (.cmUpd f) s = .next t ∧ storeEnds c (.cmUpd f) r t := by
  subst hl hr
  rw [lanesM] at hp
  refine runCell_storeEnds h he ?_
  dsimp only
  rw [hp]
  rfl

/-- The word of an atomic reports the poison that it meets in memory with operand a (log 52). -/
def atomFinish (c : Cell) (f : CM) : LaneRun → CellAns
  | .bad s1 out 0x06 _ l => .poison (writeResult c.key (laneResult c f.d out) s1) f.a.toNat l
  | r => finishLoad c f.d r

theorem atomFinish_load (h : ∀ s1 out addr l, r ≠ .bad s1 out 0x06 addr l) : atomFinish c f r = finishLoad c f.d r := by
  unfold atomFinish
  split
  · next s1 out addr l => exact absurd rfl (h s1 out addr l)
  · rfl

/-- CM.ATOM with clean operands. -/
theorem exec_cmAtom (h : CellMay s c (.cmAtom f)) (hl : lanes = lanesM c f)
    (hp : cmPoison c f.a lanes ((f.d, c.w.lane f.d.toNat) :: if f.b = 6 then [(f.d + 1, c.w.lane (f.d.toNat + 1))] else []) = none) :
    exec (.cmAtom f) s = runCell (.cmAtom f) (fun c s => atomFinish c f (eachLane (atomLane c f) (lanesM c f) s [])) s := by
  subst hl
  have clean : cmPoison c f.a (c.lanesWith (c.activeM f))
      (if f.b = 6 then [(f.d, c.w.lane f.d.toNat), (f.d + 1, c.w.lane (f.d.toNat + 1))] else [(f.d, c.w.lane f.d.toNat)]) = none := by
    rw [← hp, lanesM]
    split <;> rfl
  refine runCell_congr h ?_
  dsimp only
  rw [clean]
  rfl

theorem exec_lockForms (f : CM) (s : State) : ∀ p ∈ [(Instr.cmLock f, true), (Instr.cmUnlk f, false)],
    exec p.1 s = cmLockForm p.1 f p.2 s := by
  simp only [List.forall_mem_cons]
  exact ⟨rfl, rfl, List.forall_mem_nil _⟩

theorem cmLockForm_pins {lock : Bool} {s1 : State} {out : List (Nat × Lane)} (h : CellMay s c i) (hl : lanes = lanesM c f)
    (hp : cmPoison c f.a lanes [] = none) (hr : eachLane (lockLane c f lock) lanes (cellDrawn s c i) [] = .go s1 out) :
    cmLockForm i f lock s = .next (cellPassed (writeResult c.key (laneResult c f.d out) s1) c i) := by
  subst hl
  rw [lanesM] at hp hr
  refine runCell_done h ?_
  dsimp only
  rw [hp]
  dsimp only
  rw [hr]
  rfl

/-! ## Prefetches and full bits (R303) -/

theorem cmPft_fetches (h : CellMay s c (.cmPft f)) (hl : lanes = lanesM c f)
    (hp : cmPoison c f.a lanes [(f.b, cellSrc c (.cmPft f) 1)] = none) (hm : s.memHeld c.st.vf = false) :
    exec (.cmPft f) s = .next (cellPassed (lanes.foldl (prefetchLane c f (cellSrc c (.cmPft f) 1)) (cellDrawn s c (.cmPft f)))
      c (.cmPft f)) := by
  subst hl
  rw [lanesM, cellSrc] at hp
  refine runCell_done h ?_
  dsimp only
  rw [hp]
  dsimp only
  rw [memHeld_cellDrawn, hm]
  rfl

section Fill

variable {a b : Lane} (h : CellMay s c (.cmFill f)) (ha : a = cellSrc c (.cmFill f) 0 0) (hb : b = cellSrc c (.cmFill f) 1 0)
  (hpa : a.poison = false) (hpb : b.poison = false)

include h ha hb hpa hpb

/-- CM.FILL with clean operands. -/
theorem exec_cmFill : exec (.cmFill f) s = runCell (.cmFill f) (fun c s =>
    if b.v = 0 then .done s
    else if 512 * c.st.g < a.v.toNat + b.v.toNat then .trap s 0x08 0 a.v 0 0 0
    else match c.faultOn (upFrom a.v.toNat b.v.toNat) with
      | some d => .deliver d
      | none => .done (s.updWeave c.key.weave fun w =>
          { w with full := (upFrom a.v.toNat b.v.toNat).foldl (fun acc l => flagNat l (f.d == 1) acc) w.full })) s := by
  refine runCell_congr h ?_
  subst ha hb
  exact (if_neg (by rw [← cellSrc, hpa]; decide)).trans (if_neg (by rw [← cellSrc, hpb]; decide))

theorem cmFill_empty (hz : b.v = 0) : exec (.cmFill f) s = .next (cellPassed (cellDrawn s c (.cmFill f)) c (.cmFill f)) :=
  (exec_cmFill h ha hb hpa hpb).trans (runCell_done h (if_pos hz))

theorem cmFill_flags (hz : b.v ≠ 0) (hr : a.v.toNat + b.v.toNat ≤ 512 * c.st.g)
    (hf : c.faultOn (upFrom a.v.toNat b.v.toNat) = none) : exec (.cmFill f) s = .next (cellSets s c (.cmFill f) fun w =>
      { w with full := (upFrom a.v.toNat b.v.toNat).foldl (fun acc l => flagNat l (f.d == 1) acc) w.full }) := by
  refine (exec_cmFill h ha hb hpa hpb).trans (runCell_done h ?_)
  rw [if_neg hz, if_neg (Nat.not_lt.mpr hr), hf]

theorem cmFill_outside (hz : b.v ≠ 0) (hr : 512 * c.st.g < a.v.toNat + b.v.toNat) :
    exec (.cmFill f) s = .next (cellTrapped (cellDrawn s c (.cmFill f)) c 0x08 a.v 0 0 0) :=
  (exec_cmFill h ha hb hpa hpb).trans (runCell_trap h ((if_neg hz).trans (if_pos hr)))

end Fill

/-- Settles O40, instruction by instruction. -/
theorem cellMemoryOther : Obligations.CellMemoryOther := by
  unfold Obligations.CellMemoryOther
  refine fun s c f lanes hl => ⟨fun h dc dr col slot vc s1 out hk hp hg hr => cmLdx_sends h hl hk hp hg hr,
    fun h x s1 els n ls => cmLdt_loads h, fun h x s1 s2 ops n ls => cmStt_stores h, fun h hp r hr he => cmUpd_ends h hl hp hr he,
    fun h hp r hr he => ?atomic, fun p hmem h hp s1 out hr => ?pins, fun h hp hm => cmPft_fetches h hl hp hm,
    fun h a b ha hb hpa hpb => ⟨cmFill_empty h ha hb hpa hpb, cmFill_flags h ha hb hpa hpb, cmFill_outside h ha hb hpa hpb⟩⟩
  case atomic =>
    rw [exec_cmAtom h hl hp]
    subst hl
    refine ⟨fun s1 out addr l hx => runCell_trap h ?_, fun hx => runCell_loadEnds h he ?_⟩
    · rw [← hr, hx]
      rfl
    · rw [← hr, atomFinish_load hx]
  case pins =>
    rw [exec_lockForms f s p hmem]
    exact cmLockForm_pins h hl hp hr

end Sys2Proof.LaneProofs
end

section
/-! Control instructions of the cells (R225 to R233, R344). -/

namespace Sys2Proof.ControlProofs

open Sys2Proof Sys2Proof.Machine Sys2Proof.Claims
open Sys2Proof.Laws (runCell_may)
open Sys2Proof.CellProofs (runCell_write runCell_done runCell_trap)
open Sys2Proof.MatrixProofs (runCell_illegal)
open Sys2Proof.DigitProofs (runCell_congr poisonedLane_none)

variable {s : State} {c : Cell} {i : Instr} {f : CG} {body : Cell → State → CellAns}

/-! ## Answers -/

/-- An instruction that goes elsewhere than to the next word. -/
theorem runCell_goto {s1 : State} {pc : Nat} {loops : List LoopEnt} (h : CellMay s c i)
    (hb : body c (cellDrawn s c i) = .goto s1 pc loops) :
    runCell i body s = .next (cellWent c i (fun x => { x with pc := pc, loops := loops }) s1) := by
  rw [runCell_may h, hb]
  rfl

/-- An instruction that waits with its operands where they are. -/
theorem runCell_wait {qid limit : Nat} {head tail : W32} (h : CellMay s c i)
    (hb : body c (cellDrawn s c i) = .wait qid limit head tail) : runCell i body s = .next (cellWait c qid limit head tail s) := by
  rw [runCell_may h, hb]
  rfl

/-- An instruction that waits with what it has done kept. -/
theorem runCell_waitIn {s1 : State} {qid limit : Nat} {head tail : W32} (h : CellMay s c i)
    (hb : body c (cellDrawn s c i) = .waitIn s1 qid limit head tail) :
    runCell i body s = .next (cellWait c qid limit head tail s1) := by
  rw [runCell_may h, hb]
  rfl

/-- An instruction that finds no room in the segment asks for a wave (R328). -/
theorem runCell_holdWave (h : CellMay s c i) (hb : body c (cellDrawn s c i) = .holdWave) :
    runCell i body s = .next (requestWave c.key.stand WaveFlags.none
      (s.updTask c.key fun x => { x with wait := some ⟨segmentWait, 0, 0, 0⟩, ent := none })) := by
  rw [runCell_may h, hb]
  rfl

/-- An instruction that stands where it is with an effect done. -/
theorem runCell_stay {s1 : State} (h : CellMay s c i) (hb : body c (cellDrawn s c i) = .stay s1) :
    runCell i body s = .next (noteIssue c s1) := by
  rw [runCell_may h, hb]
  rfl

/-! ## Loops (R225) -/

/-- The body of a loop whose last word is last leaves an enclosing body. -/
def leavesBody (c : Cell) (last : Nat) : Prop := ∃ l ∈ c.tk.loops, l.start ≤ c.tk.pc ∧ c.tk.pc ≤ l.last ∧ l.last < last

theorem leavesBody_iff (c : Cell) (last : Nat) :
    (c.tk.loops.any fun l => l.start ≤ c.tk.pc && c.tk.pc ≤ l.last && l.last < last) = true ↔ leavesBody c last := by
  simp [leavesBody, List.any_eq_true, and_assoc]

/-- What CC.LOOP does with clean operands. -/
def loopEnters (f : CG) (n last : Nat) (c : Cell) (s : State) : CellAns :=
  if (disp12 f).toInt ≤ 0 ∨ c.n.text.length ≤ last
      ∨ c.tk.loops.any (fun l => l.start ≤ c.tk.pc && c.tk.pc ≤ l.last && l.last < last) then .illegal (.ccLoop f) s 0 0
  else if n = 0 then .goto s (reachEnd 1 c.tk.loops last).2 (reachEnd 1 c.tk.loops last).1
  else if 4 ≤ c.tk.loops.length then .illegal (.ccLoop f) s 0 0
  else .goto s (c.tk.pc + 1) (⟨c.tk.pc + 1, last, n, n⟩ :: c.tk.loops)

/-- A body that stands within the text and within the body around it. -/
theorem loopEnters_within {n last : Nat} (hpos : 0 < (disp12 f).toInt) (htext : last < c.n.text.length) (hin : ¬ leavesBody c last)
    (s : State) : loopEnters f n last c s =
      if n = 0 then .goto s (reachEnd 1 c.tk.loops last).2 (reachEnd 1 c.tk.loops last).1
      else if 4 ≤ c.tk.loops.length then .illegal (.ccLoop f) s 0 0
      else .goto s (c.tk.pc + 1) (⟨c.tk.pc + 1, last, n, n⟩ :: c.tk.loops) := by
  refine if_neg ?_
  rw [leavesBody_iff]
  rintro (hx | hx | hx)
  · omega
  · omega
  · exact hin hx

theorem loopEnters_refused {n last : Nat}
    (hx : (disp12 f).toInt ≤ 0 ∨ c.n.text.length ≤ last ∨ leavesBody c last ∨ (0 < n ∧ 4 ≤ c.tk.loops.length)) (s : State) :
    loopEnters f n last c s = .illegal (.ccLoop f) s 0 0 := by
  by_cases hbad : (disp12 f).toInt ≤ 0 ∨ c.n.text.length ≤ last ∨ leavesBody c last
  · rw [← leavesBody_iff] at hbad
    exact if_pos hbad
  · obtain ⟨hpos, htext, hin⟩ : 0 < (disp12 f).toInt ∧ last < c.n.text.length ∧ ¬ leavesBody c last := by
      rwa [not_or, not_or, Int.not_le, Nat.not_le] at hbad
    have full : 0 < n ∧ 4 ≤ c.tk.loops.length := by
      rcases hx with hx | hx | hx | hx
      · exact absurd hx (Int.not_le.mpr hpos)
      · exact absurd hx (Nat.not_le.mpr htext)
      · exact absurd hx hin
      · exact hx
    rw [loopEnters_within hpos htext hin, if_neg (Nat.ne_of_gt full.1), if_pos full.2]

theorem ccLoop_poisoned {l : Nat} (h : CellMay s c (.ccLoop f)) (hp : poisonedLane (cellSrc c (.ccLoop f) 0) [0, 1] = some l) :
    exec (.ccLoop f) s =
      .next (cellTrapped (cellDrawn s c (.ccLoop f)) c 0x06 (BitVec.ofNat 32 f.a.toNat) (BitVec.ofNat 32 l) 0 0) := by
  rw [cellSrc] at hp
  refine runCell_trap h ?_
  dsimp only
  rw [Cell.arg, hp]
  rfl

section Loop

variable {n last : Nat} (h : CellMay s c (.ccLoop f)) (hp : poisonedLane (cellSrc c (.ccLoop f) 0) [0, 1] = none)
  (hn : n = twoLanes (cellSrc c (.ccLoop f) 0) % 2 ^ 40) (hlast : last = c.tk.pc + (disp12 f).toNat)

include h hp hn hlast

theorem exec_ccLoop : exec (.ccLoop f) s = runCell (.ccLoop f) (loopEnters f n last) s := by
  subst hn hlast
  rw [cellSrc] at hp
  refine runCell_congr h ?_
  dsimp only
  rw [Cell.arg, hp]
  rfl

theorem ccLoop_enters (hpos : 0 < (disp12 f).toInt) (htext : last < c.n.text.length) (hin : ¬ leavesBody c last) (h0 : 0 < n)
    (h4 : c.tk.loops.length < 4) : exec (.ccLoop f) s = .next (cellWent c (.ccLoop f) (fun x =>
      { x with pc := c.tk.pc + 1, loops := ⟨c.tk.pc + 1, last, n, n⟩ :: c.tk.loops }) (cellDrawn s c (.ccLoop f))) := by
  refine (exec_ccLoop h hp hn hlast).trans (runCell_goto h ?_)
  rw [loopEnters_within hpos htext hin, if_neg (Nat.ne_of_gt h0), if_neg (Nat.not_le.mpr h4)]

theorem ccLoop_skips (hpos : 0 < (disp12 f).toInt) (htext : last < c.n.text.length) (hin : ¬ leavesBody c last) (h0 : n = 0) :
    exec (.ccLoop f) s = .next (cellWent c (.ccLoop f) (fun x =>
      { x with pc := (reachEnd 1 c.tk.loops last).2, loops := (reachEnd 1 c.tk.loops last).1 }) (cellDrawn s c (.ccLoop f))) := by
  refine (exec_ccLoop h hp hn hlast).trans (runCell_goto h ?_)
  rw [loopEnters_within hpos htext hin, if_pos h0]

theorem ccLoop_refused (hx : (disp12 f).toInt ≤ 0 ∨ c.n.text.length ≤ last ∨ leavesBody c last ∨ (0 < n ∧ 4 ≤ c.tk.loops.length)) :
    exec (.ccLoop f) s = .next (cellIllegal s c (.ccLoop f)) :=
  (exec_ccLoop h hp hn hlast).trans (runCell_illegal h (loopEnters_refused hx _))

end Loop

theorem ccLbrk_leaves {l : LoopEnt} {ls : List LoopEnt} (h : CellMay s c (.ccLbrk f)) (hl : c.tk.loops = l :: ls) :
    exec (.ccLbrk f) s = .next (cellWent c (.ccLbrk f) (fun x => { x with pc := l.last + 1, loops := ls }) (cellDrawn s c (.ccLbrk f))) :=
  runCell_goto h (by rw [hl])

theorem ccLbrk_outside (h : CellMay s c (.ccLbrk f)) (hl : c.tk.loops = []) :
    exec (.ccLbrk f) s = .next (cellIllegal s c (.ccLbrk f)) :=
  runCell_illegal h (by rw [hl])

/-! ## Branches (R226) -/

/-- A taken CC.BRA and a CC.JMP branch alike. -/
theorem exec_branch : ∀ i ∈ [Instr.ccBra f, .ccJmp f], CellMay s c i →
    (i = .ccBra f → braTaken f.aux.toNat ((upTo c.lanes).map (c.active f)) = true) → exec i s = runCell i (cellBranch i f) s := by
  rintro i hi h ht
  obtain rfl | rfl : i = .ccBra f ∨ i = .ccJmp f := by simpa using hi
  · exact runCell_congr h (if_pos (ht rfl))
  · rfl

theorem cellBranch_outside {t : Int} (ht : t = c.tk.pc + (disp12 f).toInt) (hx : t < 0 ∨ (c.n.text.length : Int) ≤ t) (s : State) :
    cellBranch i f c s = .illegal i s 0 0 := by
  subst ht
  exact if_pos hx

theorem cellBranch_waits {t : Int} (ht : t = c.tk.pc + (disp12 f).toInt) (h0 : 0 ≤ t) (hl : t < (c.n.text.length : Int))
    (hb : (disp12 f).toInt ≤ 0) (hc : c.n.limit ≤ c.tk.branches) (s : State) :
    cellBranch i f c s = .wait 0x3D 1 (BitVec.ofNat 32 c.tk.branches) 0 := by
  subst ht
  exact (if_neg (by omega)).trans (if_pos ⟨hb, hc⟩)

theorem cellBranch_goes {t : Nat} (ht : (t : Int) = c.tk.pc + (disp12 f).toInt) (hl : t < c.n.text.length)
    (hb : (disp12 f).toInt ≤ 0 → c.tk.branches < c.n.limit) (s : State) : cellBranch i f c s =
      .goto (s.updTask c.key fun x => { x with branches := if (disp12 f).toInt ≤ 0 then x.branches + 1 else x.branches }) t
        (leaveLoops t c.tk.loops) := by
  have inside : ¬ ((t : Int) < 0 ∨ (c.n.text.length : Int) ≤ t) := by omega
  have allowed : ¬ ((disp12 f).toInt ≤ 0 ∧ c.n.limit ≤ c.tk.branches) := fun hx => Nat.not_le.mpr (hb hx.1) hx.2
  rw [cellBranch, ← ht, if_neg inside, if_neg allowed, Int.toNat_natCast]

/-! ## Special registers and publications (R227, R228, R233) -/

section Write

variable {x : Lane} (h : CellMay s c (.ccWrsr f)) (hx : x = cellSrc c (.ccWrsr f) 0 0) (hp : x.poison = false)

include h hx hp

theorem ccWrsr_frm (hf : f.aux.toNat = 6) : exec (.ccWrsr f) s = .next (cellPassed ((cellDrawn s c (.ccWrsr f)).updTask c.key fun k =>
    { k with frm := x.v &&& 7 }) c (.ccWrsr f)) := by
  subst hx
  refine runCell_done h ((if_neg (ne_true_of_eq_false hp)).trans ?_)
  rw [hf]
  rfl

theorem ccWrsr_dxst (hf : f.aux.toNat = 7) : exec (.ccWrsr f) s = .next (cellSets s c (.ccWrsr f) fun w =>
    { w with dxst := x.v &&& 3 }) := by
  subst hx
  refine runCell_done h ((if_neg (ne_true_of_eq_false hp)).trans ?_)
  rw [hf]
  rfl

theorem ccWrsr_twst (hf : f.aux.toNat = 8) : exec (.ccWrsr f) s = .next (cellSets s c (.ccWrsr f) fun w =>
    { w with twst := if twValid (x.v.toNat % 2 ^ 17) then BitVec.ofNat 32 (x.v.toNat % 2 ^ 17) else 0 }) := by
  subst hx
  refine runCell_done h ((if_neg (ne_true_of_eq_false hp)).trans ?_)
  rw [hf]
  rfl

end Write

theorem ccTagp_holds {a : Vec} (h : CellMay s c (.ccTagp f)) (ha : a = cellSrc c (.ccTagp f) 0) (h0 : (a 0).poison = false)
    (h1 : (a 1).poison = false) : exec (.ccTagp f) s = .next (cellPassed ((cellDrawn s c (.ccTagp f)).updStand c.key.stand fun t =>
      { t with held := t.held ++ [c.pub (BitVec.ofNat 64 ((a 0).v.toNat + 2 ^ 32 * (a 1).v.toNat)) f.aux.toNat] }) c (.ccTagp f)) := by
  have clean : poisonedLane a [0, 1] = none := poisonedLane_none (by simp [h0, h1])
  subst ha
  rw [cellSrc] at clean
  refine runCell_done h ?_
  dsimp only
  rw [Cell.arg, clean]
  rfl

/-! ## Timelines and fences (R229, R230) -/

section Timeline

variable {a : W32} {target : Nat} (h : CellMay s c (.ccTlw f)) (ha : a = (cellSrc c (.ccTlw f) 0 0).v) (hp : tlwPoison f c = none)
  (ht : target = twoLanes (cellSrc c (.ccTlw f) 1))

/-- What CC.TLW does with clean operands: a names the timeline. -/
def timelineWaits (f : CG) (a : W32) (target : Nat) (c : Cell) (s : State) : CellAns :=
  match (if 512 ≤ a.toNat then none else c.st.eng? (a.toNat % 256)) with
  | none => .trap s 0x08 0 a 0 0 0
  | some e =>
    if target ≤ e.count (a.toNat / 256 % 2 == 1) then .done (acquireWeave c.key.weave s)
    else .wait ((if a.toNat / 256 % 2 == 1 then 0x50 else 0x40) + e.no) (arg0 c (.ccTlw f) 2)
      (BitVec.ofNat 32 (e.count (a.toNat / 256 % 2 == 1) % 2 ^ 28)) (BitVec.ofNat 32 (target % 2 ^ 28))

include h ha hp ht

theorem exec_ccTlw : exec (.ccTlw f) s = runCell (.ccTlw f) (timelineWaits f a target) s := by
  subst ha ht
  refine runCell_congr h ?_
  dsimp only
  rw [hp]
  rfl

theorem ccTlw_reached {e : Eng} (hlo : a.toNat < 512) (he : c.st.eng? (a.toNat % 256) = some e)
    (hx : target ≤ e.count (a.toNat / 256 % 2 == 1)) :
    exec (.ccTlw f) s = .next (cellPassed (acquireWeave c.key.weave (cellDrawn s c (.ccTlw f))) c (.ccTlw f)) := by
  refine (exec_ccTlw h ha hp ht).trans (runCell_done h ?_)
  rw [timelineWaits, if_neg (Nat.not_le.mpr hlo), he]
  exact if_pos hx

theorem ccTlw_short {e : Eng} (hlo : a.toNat < 512) (he : c.st.eng? (a.toNat % 256) = some e)
    (hx : e.count (a.toNat / 256 % 2 == 1) < target) :
    exec (.ccTlw f) s = .next (cellWait c ((if a.toNat / 256 % 2 == 1 then 0x50 else 0x40) + e.no) (arg0 c (.ccTlw f) 2)
      (BitVec.ofNat 32 (e.count (a.toNat / 256 % 2 == 1) % 2 ^ 28)) (BitVec.ofNat 32 (target % 2 ^ 28)) s) := by
  refine (exec_ccTlw h ha hp ht).trans (runCell_wait h ?_)
  rw [timelineWaits, if_neg (Nat.not_le.mpr hlo), he]
  exact if_neg (Nat.not_le.mpr hx)

theorem ccTlw_noEngine (hx : 512 ≤ a.toNat ∨ c.st.eng? (a.toNat % 256) = none) :
    exec (.ccTlw f) s = .next (cellTrapped (cellDrawn s c (.ccTlw f)) c 0x08 a 0 0 0) := by
  have none : (if 512 ≤ a.toNat then none else c.st.eng? (a.toNat % 256)) = Option.none := by
    split
    · rfl
    · next hlo => exact hx.resolve_left hlo
  refine (exec_ccTlw h ha hp ht).trans (runCell_trap h ?_)
  rw [timelineWaits, none]

end Timeline

theorem ccFenc_acquires (h : CellMay s c (.ccFenc f)) (hk : f.aux.toNat / 8 = 2) :
    exec (.ccFenc f) s = .next (cellPassed (acquireWeave c.key.weave (cellDrawn s c (.ccFenc f))) c (.ccFenc f)) :=
  runCell_done h (if_pos hk)

theorem ccFenc_releases {s1 : State} (h : CellMay s c (.ccFenc f)) (hk : f.aux.toNat / 8 ≠ 2)
    (hr : releaseWeave c.key.weave (cellDrawn s c (.ccFenc f)) = some s1) :
    exec (.ccFenc f) s = .next (cellPassed (if f.aux.toNat / 8 = 0 then acquireWeave c.key.weave s1 else s1) c (.ccFenc f)) := by
  refine runCell_done h ((if_neg hk).trans ?_)
  rw [hr]

theorem ccFenc_full (h : CellMay s c (.ccFenc f)) (hk : f.aux.toNat / 8 ≠ 2)
    (hr : releaseWeave c.key.weave (cellDrawn s c (.ccFenc f)) = none) :
    exec (.ccFenc f) s = .next (requestWave c.key.stand WaveFlags.none
      (s.updTask c.key fun x => { x with wait := some ⟨segmentWait, 0, 0, 0⟩, ent := none })) := by
  refine runCell_holdWave h ((if_neg hk).trans ?_)
  rw [hr]

/-! ## Barriers (R231) -/

theorem cellArrive_completes {k : BarKey} {bit : Bool} {s0 s1 s2 : State} (hr : releaseWeave c.key.weave s0 = some s1)
    (hs : s2 = arrive k (.task c.key) bit (keepSlots c.key (allLanes c f.d 0) s1)) (hh : (s2.barrier k).holds (.task c.key) = false) :
    cellArrive f c k bit s0 = .stay s2 := by
  subst hs
  rw [cellArrive, hr]
  exact if_neg (ne_true_of_eq_false hh)

theorem ccBarr_completes {k : BarKey} {s0 s1 s2 : State} {x : Lane} (h : CellMay s c (.ccBarr f))
    (h0 : s0 = c.undo (cellDrawn s c (.ccBarr f))) (hx : x = cellSrc c (.ccBarr f) 0 0)
    (hk : standKey (cellDrawn s c (.ccBarr f)) c.st c.key.pos f.aux.toNat f.e.toNat = some k)
    (hf : ((cellDrawn s c (.ccBarr f)).barrier k).holds (.task c.key) = false) (hp : x.poison = false)
    (hr : releaseWeave c.key.weave s0 = some s1)
    (hs : s2 = arrive k (.task c.key) (x.v.getLsbD 0) (keepSlots c.key (allLanes c f.d 0) s1))
    (hh : (s2.barrier k).holds (.task c.key) = false) : exec (.ccBarr f) s = .next (noteIssue c s2) := by
  subst hx h0
  refine runCell_stay h ?_
  dsimp only
  rw [hk]
  exact (if_neg (ne_true_of_eq_false hf)).trans ((if_neg (ne_true_of_eq_false hp)).trans (cellArrive_completes hr hs hh))

/-- A software trap (R344). -/
theorem ccTrap_traps (h : CellMay s c (.ccTrap f)) : exec (.ccTrap f) s = .next (noteIssue c (cellTrap c.key 0 f.aux.toNat c.tk.pc 0 0 0 0
    ((cellDrawn s c (.ccTrap f)).updTask c.key fun x => { x.advance with
      pend := if f.sc.getLsbD 3 then some { Pend.none with endt := true } else none }))) :=
  runCell_may h _

/-- Settles O42, instruction by instruction. -/
theorem cellControl : Obligations.CellControl := by
  unfold Obligations.CellControl
  refine fun s c f => ⟨fun h a n last ha hn hlast h0 h1 hpos htext hin => ?loops,
    fun h a n last ha hn hlast => ⟨fun l hp => ccLoop_poisoned h (ha ▸ hp), fun hp hx => ccLoop_refused h (ha ▸ hp) (ha ▸ hn) hlast hx⟩,
    fun h => ⟨fun l ls => ccLbrk_leaves h, ccLbrk_outside h⟩, fun i hi h ht t htt => ⟨fun hx => ?outside, fun h0 hl hb hc => ?waits⟩,
    fun i hi h ht t htt hl hb => ?goes, fun h hx => runCell_done h (if_neg (ne_true_of_eq_false hx)), fun h => runCell_write h rfl,
    fun h => runCell_write h rfl, fun h x hx hp => ⟨ccWrsr_frm h hx hp, ccWrsr_dxst h hx hp, ccWrsr_twst h hx hp⟩,
    fun h a ha h0 h1 => ccTagp_holds h ha h0 h1, fun h a e target v ha hp hlo he hv ht hx => ?reached,
    fun h a target ha hp ht => ⟨ccTlw_noEngine h ha hp ht, fun e v hlo he hv hx => ?short⟩,
    fun h => ⟨ccFenc_acquires h, fun s1 => ccFenc_releases h, ccFenc_full h⟩,
    fun h k s0 s1 s2 x h0 hx hk hf hp hr hs hh => ccBarr_completes h h0 hx hk hf hp hr hs hh, fun h => runCell_done h rfl, ccTrap_traps,
    fun h => runCell_done h rfl⟩
  case loops =>
    have clean : poisonedLane (cellSrc c (.ccLoop f) 0) [0, 1] = none := poisonedLane_none (by simp [← ha, h0, h1])
    have within : ¬ leavesBody c last := fun ⟨l, hl, hlo, hhi, hx⟩ => Nat.not_lt.mpr (hin l hl hlo hhi) hx
    exact ⟨fun hn0 h4 => ccLoop_enters h clean (ha ▸ hn) hlast hpos htext within hn0 h4,
      fun hn0 => ccLoop_skips h clean (ha ▸ hn) hlast hpos htext within hn0⟩
  case outside =>
    rw [exec_branch i hi h ht]
    exact runCell_illegal h (cellBranch_outside htt hx _)
  case waits =>
    rw [exec_branch i hi h ht]
    exact runCell_wait h (cellBranch_waits htt h0 hl hb hc _)
  case goes =>
    rw [exec_branch i hi h ht]
    exact runCell_goto h (cellBranch_goes htt hl hb _)
  case reached => subst hv; exact ccTlw_reached h ha hp ht hlo he hx
  case short => subst hv; exact ccTlw_short h ha hp ht hlo he hx

end Sys2Proof.ControlProofs
end

section
/-! Port instructions of the cells: receives, sends, skips, the filter, the merge and the join (R203, R213 to R224). -/

namespace Sys2Proof.PortProofs

open Sys2Proof Sys2Proof.Machine Sys2Proof.Claims
open Sys2Proof.Laws (runCell_may)
open Sys2Proof.CellProofs (runCell_write runCell_done runCell_trap)
open Sys2Proof.MatrixProofs (runCell_illegal)
open Sys2Proof.DigitProofs (runCell_congr poisonedLane_none)
open Sys2Proof.ControlProofs (runCell_wait runCell_waitIn)

variable {s : State} {c : Cell} {i : Instr} {f : CG} {body : Cell → State → CellAns}

/-! ## Answers -/

/-- An instruction that a poisoned operand stops. -/
theorem runCell_poison {x : Code6} {lane : Nat} (h : CellMay s c i)
    (hb : body c (cellDrawn s c i) = .poison (cellDrawn s c i) x.toNat lane) :
    runCell i body s = .next (cellTrapped (cellDrawn s c i) c 0x06 (x.setWidth 32) (BitVec.ofNat 32 lane) 0 0) := by
  rw [← BitVec.ofNat_toNat]
  exact runCell_trap h hb

/-- An instruction that its word or its operands refuse, with an effect kept and a third operand. -/
theorem runCell_refuses {s1 : State} {op3 op4 : W32} (h : CellMay s c i) (hb : body c (cellDrawn s c i) = .illegal i s1 op3 op4) :
    runCell i body s = .next (cellTrapped s1 c 0x01 (wordHalves i).1 (wordHalves i).2 op3 op4) :=
  runCell_trap h hb

theorem runCell_faultTrap {s1 : State} {p : Nat} {t : Tok} (h : CellMay s c i) (hb : body c (cellDrawn s c i) = faultTrap p t s1) :
    runCell i body s = .next (cellFaulted s1 c p t) :=
  runCell_trap h hb

theorem slotWait_room {o n : Nat} (h : n ≤ s.outSlots c o) : slotWait c s o n = none := if_neg (Nat.not_lt.mpr h)

theorem slotWait_full {o n : Nat} (h : ¬ n ≤ s.outSlots c o) :
    slotWait c s o n = some (.wait (52 + o) c.n.limit (s.outIndices c o).1 (s.outIndices c o).2) := if_pos (Nat.not_le.mp h)

/-- The bodies that first ask for slots of an output port. -/
def slotFirst (o n : Nat) (go : Cell → State → CellAns) (c : Cell) (s : State) : CellAns :=
  match slotWait c s o n with
  | some w => w
  | none => go c s

/-- The instruction waits where the port has not the slots. -/
theorem runCell_slotless {o n : Nat} {go : Cell → State → CellAns} (h : CellMay s c i)
    (hb : body c (cellDrawn s c i) = slotFirst o n go c (cellDrawn s c i)) (ho : ¬ portRoom s c i o n) :
    runCell i body s = .next (cellAwaitsSlot s c i o) :=
  runCell_wait h (by rw [hb, slotFirst, slotWait_full ho])

theorem slotFirst_room {o n : Nat} {go : Cell → State → CellAns} (ho : portRoom s c i o n) :
    slotFirst o n go c (cellDrawn s c i) = go c (cellDrawn s c i) := by
  rw [slotFirst, slotWait_room ho]

/-! ## Receives (R213, R214, R217) -/

theorem cpRecv_takes {p : Nat} {t : Tok} {ts : List Tok} (h : CellMay s c (.cpRecv f)) (hp : p = f.a.toNat - 48)
    (ht : (c.tk.inq p).avail = t :: ts) (hk : t.kind ≠ 9) : exec (.cpRecv f) s = .next (cellPassed (writeResult c.key (recvPend f c t t.vec)
      (if t.release then acquireWeave c.key.weave (dequeueN c.key p 1 (cellDrawn s c (.cpRecv f)))
      else dequeueN c.key p 1 (cellDrawn s c (.cpRecv f)))) c (.cpRecv f)) := by
  subst hp
  refine runCell_done h ?_
  change c.tokens _ = _ at ht
  dsimp only
  rw [ht]
  exact if_neg hk

theorem cpRecv_faults {p : Nat} {t : Tok} {ts : List Tok} (h : CellMay s c (.cpRecv f)) (hp : p = f.a.toNat - 48)
    (ht : (c.tk.inq p).avail = t :: ts) (hk : t.kind = 9) :
    exec (.cpRecv f) s = .next (cellFaulted (dequeueN c.key p 1 (cellDrawn s c (.cpRecv f))) c p t) := by
  subst hp
  refine runCell_faultTrap h ?_
  change c.tokens _ = _ at ht
  dsimp only
  rw [ht]
  exact if_pos hk

theorem cpRecv_waits {p : Nat} (h : CellMay s c (.cpRecv f)) (hp : p = f.a.toNat - 48) (ht : (c.tk.inq p).avail = []) :
    exec (.cpRecv f) s = .next (cellWait c (48 + p) (arg0 c (.cpRecv f) 1) (c.tk.inq p).head (c.tk.inq p).tail s) := by
  subst hp
  refine runCell_wait h ?_
  change c.tokens _ = _ at ht
  dsimp only
  rw [ht]
  rfl

theorem cpPeek_reads {p : Nat} {t : Tok} {ts : List Tok} (h : CellMay s c (.cpPeek f)) (hp : p = f.a.toNat - 48)
    (ht : (c.tk.inq p).avail = t :: ts) : exec (.cpPeek f) s =
      .next (cellWrote s c (.cpPeek f) (recvPend f c t fun l => if t.kind = 9 then ⟨(t.vec l).v, true⟩ else t.vec l)) := by
  subst hp
  refine runCell_write h ?_
  change c.tokens _ = _ at ht
  dsimp only
  rw [ht]

theorem cpPeek_waits {p : Nat} (h : CellMay s c (.cpPeek f)) (hp : p = f.a.toNat - 48) (ht : (c.tk.inq p).avail = []) :
    exec (.cpPeek f) s = .next (cellWait c (48 + p) (arg0 c (.cpPeek f) 1) (c.tk.inq p).head (c.tk.inq p).tail s) := by
  subst hp
  refine runCell_wait h ?_
  change c.tokens _ = _ at ht
  dsimp only
  rw [ht]
  rfl

/-! ## Sends (R215, R216, R219, R224) -/

/-- What CP.SEND does once the port has a slot. -/
def sendBody (f : CG) (c : Cell) (s : State) : CellAns :=
  match poisonedLane (cellSrc c (.cpSend f) 0) ((c.lanesWith (c.active f)).filter fun l => l < 16) with
  | some l => .poison s f.a.toNat l
  | none =>
    match releaseWeave c.key.weave s with
    | none => .holdWave
    | some s1 => .done (sendOut c.key (f.d.toNat - 52) (Tok.fit ⟨f.aux.setWidth 4,
        (upTo 16).map fun l => if c.active f l then cellSrc c (.cpSend f) 0 l else Lane.zero, true, 0, false⟩) s1)

theorem exec_cpSend (f : CG) (s : State) :
    exec (.cpSend f) s = runCell (.cpSend f) (slotFirst (f.d.toNat - 52) 1 (sendBody f)) s := rfl

section Send

variable {o : Nat} {a : Vec} {ls : List Nat} (h : CellMay s c (.cpSend f)) (ho : o = f.d.toNat - 52) (ha : a = cellSrc c (.cpSend f) 0)
  (hls : ls = (c.lanesWith (c.active f)).filter fun l => l < 16) (hr : portRoom s c (.cpSend f) o 1)

include h ho ha hls hr

theorem cpSend_poisoned {l : Nat} (hp : poisonedLane a ls = some l) : exec (.cpSend f) s =
    .next (cellTrapped (cellDrawn s c (.cpSend f)) c 0x06 (f.a.setWidth 32) (BitVec.ofNat 32 l) 0 0) := by
  subst ho ha hls
  rw [exec_cpSend]
  refine runCell_poison h ((slotFirst_room hr).trans ?_)
  rw [sendBody, hp]

theorem cpSend_sends {s1 : State} (hp : ∀ l ∈ ls, (a l).poison = false)
    (hw : releaseWeave c.key.weave (cellDrawn s c (.cpSend f)) = some s1) :
    exec (.cpSend f) s = .next (cellPassed (sendOut c.key o (Tok.fit ⟨f.aux.setWidth 4,
      (upTo 16).map fun l => if c.active f l then a l else Lane.zero, true, 0, false⟩) s1) c (.cpSend f)) := by
  subst ho ha hls
  rw [exec_cpSend]
  refine runCell_done h ((slotFirst_room hr).trans ?_)
  rw [sendBody, poisonedLane_none hp]
  dsimp only
  rw [hw]

end Send

/-- The tokens of CP.EOS: those of the pending skip count, and the EOS. -/
def eosToks (f : CG) (c : Cell) : List Tok := skipToks (nth 0 c.tk.skips (f.d.toNat - 52)) ++ [ctlTok 5 0]

/-- Send tokens on port d and clear its pending skip count. -/
def flushBody (f : CG) (toks : List Tok) (c : Cell) (s : State) : CellAns :=
  .done (setSkip c.key (f.d.toNat - 52) 0 (sendAll c.key (f.d.toNat - 52) toks s))

theorem exec_cpEos (h : CellMay s c (.cpEos f)) : exec (.cpEos f) s =
    runCell (.cpEos f) (slotFirst (f.d.toNat - 52) (eosToks f c).length (flushBody f (eosToks f c))) s :=
  runCell_congr h rfl

/-- What CP.CTXC does once the port has a slot. -/
def ctxcBody (f : CG) (c : Cell) (s : State) : CellAns :=
  if (cellSrc c (.cpCtxc f) 0 0).poison then .poison s f.a.toNat 0
  else .done (sendOut c.key (f.d.toNat - 52) (ctlTok 8 (BitVec.ofNat 32 ((cellSrc c (.cpCtxc f) 0 0).v.toNat % 4))) s)

theorem exec_cpCtxc (f : CG) (s : State) :
    exec (.cpCtxc f) s = runCell (.cpCtxc f) (slotFirst (f.d.toNat - 52) 1 (ctxcBody f)) s := rfl

/-! ## Skips and the filter (R220, R221) -/

/-- CP.SKIP of a clean operand. -/
theorem exec_cpSkip {toks : List Tok} (h : CellMay s c (.cpSkip f)) (hp : (cellSrc c (.cpSkip f) 0 0).poison = false)
    (ht : toks = skipToks (nth 0 c.tk.skips (f.d.toNat - 52) + (cellSrc c (.cpSkip f) 0 0).v.toNat % 256)) :
    exec (.cpSkip f) s = runCell (.cpSkip f) (slotFirst (f.d.toNat - 52) toks.length (flushBody f toks)) s := by
  subst ht
  exact runCell_congr h (if_neg (ne_true_of_eq_false hp))

section Filter

variable {sel : Nat} (h : CellMay s c (.cpFilt f)) (hp : (cellSrc c (.cpFilt f) 0 0).poison = false)
  (hs : sel = (cellSrc c (.cpFilt f) 0 0).v.toNat % 4)

/-- The tokens of CP.FILT on port j, and the skip count that it leaves. -/
def filtAct (c : Cell) (sel j : Nat) : List Tok × Nat := filtPort sel j (nth 0 c.tk.skips j)

/-- CP.FILT of a clean operand that names the selected port. -/
def filtBody (f : CG) (sel : Nat) (c : Cell) (s : State) : CellAns :=
  match (maskPorts f.aux).findSome? fun j => slotWait c s j (filtAct c sel j).1.length with
  | some w => w
  | none => .done ((maskPorts f.aux).foldl (fun acc j =>
      setSkip c.key j (filtAct c sel j).2 (sendAll c.key j (filtAct c sel j).1 acc)) s)

include h hp hs

theorem exec_cpFilt (hm : sel ∈ maskPorts f.aux) : exec (.cpFilt f) s = runCell (.cpFilt f) (filtBody f sel) s := by
  subst hs
  refine runCell_congr h ((if_neg (ne_true_of_eq_false hp)).trans (if_neg ?_))
  rw [Bool.not_eq_true', Bool.not_eq_false, List.contains_iff_mem]
  exact hm

theorem cpFilt_refused (hm : sel ∉ maskPorts f.aux) : exec (.cpFilt f) s = .next (cellTrapped (cellDrawn s c (.cpFilt f)) c 0x01
    (wordHalves (.cpFilt f)).1 (wordHalves (.cpFilt f)).2 (BitVec.ofNat 32 sel) 0) := by
  subst hs
  refine runCell_refuses h ((if_neg (ne_true_of_eq_false hp)).trans (if_pos ?_))
  rw [Bool.not_eq_true', ← Bool.not_eq_true, List.contains_iff_mem]
  exact hm

theorem cpFilt_sends (hm : sel ∈ maskPorts f.aux) (hr : ∀ j ∈ maskPorts f.aux, portRoom s c (.cpFilt f) j (filtAct c sel j).1.length) :
    exec (.cpFilt f) s = .next (cellPassed ((maskPorts f.aux).foldl (fun acc j =>
      setSkip c.key j (filtAct c sel j).2 (sendAll c.key j (filtAct c sel j).1 acc)) (cellDrawn s c (.cpFilt f))) c (.cpFilt f)) := by
  have room : ((maskPorts f.aux).findSome? fun j => slotWait c (cellDrawn s c (.cpFilt f)) j (filtAct c sel j).1.length) = none := by
    rw [List.findSome?_eq_none_iff]
    exact fun j hj => slotWait_room (hr j hj)
  refine (exec_cpFilt h hp hs hm).trans (runCell_done h ?_)
  rw [filtBody, room]

theorem cpFilt_waits {before after : List Nat} {j : Nat} (hm : sel ∈ maskPorts f.aux) (hl : maskPorts f.aux = before ++ j :: after)
    (hb : ∀ k ∈ before, portRoom s c (.cpFilt f) k (filtAct c sel k).1.length)
    (hj : ¬ portRoom s c (.cpFilt f) j (filtAct c sel j).1.length) : exec (.cpFilt f) s = .next (cellAwaitsSlot s c (.cpFilt f) j) := by
  have room : (before.findSome? fun j => slotWait c (cellDrawn s c (.cpFilt f)) j (filtAct c sel j).1.length) = none := by
    rw [List.findSome?_eq_none_iff]
    exact fun k hk => slotWait_room (hb k hk)
  refine (exec_cpFilt h hp hs hm).trans (runCell_wait h ?_)
  rw [filtBody, hl, List.findSome?_append, room, Option.none_or, List.findSome?_cons, slotWait_full hj]

end Filter

/-! ## Merging (R222) -/

section Merge

variable {arms live : List MergeArm} {s1 : State} (h : CellMay s c (.cpMrge f))
  (harms : arms = mergeArms c f ((cellDrawn s c (.cpMrge f)).credits c.creditKey))
  (hs1 : s1 = mergeTake c arms (cellDrawn s c (.cpMrge f))) (hlive : live = arms.filter fun a => a.cr == 0 && !a.atEos)

include h harms hs1

theorem cpMrge_waits {a : MergeArm} (ha : (arms.find? fun a => a.cr == 0 && a.head.isNone) = some a) :
    exec (.cpMrge f) s = .next (cellWait c (48 + a.port) c.n.limit ((c.tk.inq a.port).head + BitVec.ofNat 32 a.taken)
      (c.tk.inq a.port).tail s1) := by
  subst hs1 harms
  refine runCell_waitIn h ?_
  dsimp only
  rw [ha]

variable (hheads : ∀ a ∈ arms, a.cr = 0 → a.head ≠ none)

include hheads

omit h harms hs1 in
theorem find?_headless : (arms.find? fun a => a.cr == 0 && a.head.isNone) = none := by
  rw [List.find?_eq_none]
  intro a ha hx
  rw [Bool.and_eq_true, beq_iff_eq, Option.isNone_iff_eq_none] at hx
  exact hheads a ha hx.1 hx.2

theorem cpMrge_ends (he : ∀ a ∈ arms, a.cr = 0 ∧ a.atEos = true) :
    exec (.cpMrge f) s = .next (cellPassed (writeResult c.key (allLanes c f.d 4) s1) c (.cpMrge f)) := by
  have all : (arms.all fun a => a.cr == 0 && a.atEos) = true := by
    rw [List.all_eq_true]
    intro a ha
    rw [(he a ha).1, (he a ha).2]
    rfl
  have none := find?_headless hheads
  subst hs1 harms
  refine runCell_done h ?_
  dsimp only
  rw [none]
  exact if_pos all

omit h harms hs1 hheads in
theorem all_done_false (hx : ∃ a ∈ arms, a.cr ≠ 0 ∨ a.atEos = false) : ¬ (arms.all fun a => a.cr == 0 && a.atEos) = true := by
  rw [List.all_eq_true]
  intro hall
  obtain ⟨a, ha, hx⟩ := hx
  have both := hall a ha
  rw [Bool.and_eq_true, beq_iff_eq] at both
  rcases hx with hx | hx
  · exact hx both.1
  · exact ne_true_of_eq_false hx both.2

include hlive

theorem cpMrge_takes {a : MergeArm} (hl : live = [a]) :
    exec (.cpMrge f) s = .next (cellPassed (writeResult c.key (allLanes c f.d (BitVec.ofNat 32 a.port))
      (arms.foldl (fun acc b => if b.port = a.port then acc
        else acc.updTask c.creditKey fun x => { x with cr := setCount x.cr b.port (b.cr - 1) }) s1)) c (.cpMrge f)) := by
  rw [hl] at hlive
  have mem : a ∈ arms.filter fun a => a.cr == 0 && !a.atEos := hlive ▸ List.mem_singleton_self a
  have going : ∃ a ∈ arms, a.cr ≠ 0 ∨ a.atEos = false := by
    rw [List.mem_filter, Bool.and_eq_true, Bool.not_eq_true'] at mem
    exact ⟨a, mem.1, .inr mem.2.2⟩
  have none := find?_headless hheads
  have notAll := all_done_false going
  subst hs1 harms
  refine runCell_done h ?_
  dsimp only
  rw [none]
  refine (if_neg notAll).trans ?_
  rw [← hlive]
  rfl

theorem cpMrge_refused (hx : ∃ a ∈ arms, a.cr ≠ 0 ∨ a.atEos = false) (hl : live.length ≠ 1) :
    exec (.cpMrge f) s = .next (cellTrapped s1 c 0x01 (wordHalves (.cpMrge f)).1 (wordHalves (.cpMrge f)).2 0 0) := by
  have none := find?_headless hheads
  have notAll := all_done_false hx
  subst hs1 harms
  refine runCell_refuses h ?_
  dsimp only
  rw [none]
  refine (if_neg notAll).trans ?_
  rw [← hlive]
  split
  · next a => exact absurd rfl hl
  · rfl

end Merge

/-! ## Joining (R223) -/

/-- The two heads of a join, once neither is missing and neither is a FAULT token. -/
def joinHeads (f : CG) (ha hb : Tok) (c : Cell) (s : State) : CellAns :=
  if ha.kind = 0 ∧ hb.kind = 0 then
    (if (nth Lane.zero ha.lanes 0).poison then .poison s f.a.toNat 0
    else if (nth Lane.zero hb.lanes 0).poison then .poison s f.b.toNat 0
    else joinStep f c (f.a.toNat - 48) (f.b.toNat - 48) ha hb s)
  else if ha.kind = 0 then joinReset (.cpJoin f) f c (f.a.toNat - 48) hb.kind s
  else if hb.kind = 0 then joinReset (.cpJoin f) f c (f.b.toNat - 48) ha.kind s
  else if ha.kind = hb.kind then .write c (joinPend f c 3) s
  else .illegal (.cpJoin f) s 0 0

section Join

variable {pa pb : Nat} (h : CellMay s c (.cpJoin f)) (hpa : pa = f.a.toNat - 48) (hpb : pb = f.b.toNat - 48)

include h hpa

theorem cpJoin_waitsA (ht : (c.tk.inq pa).avail = []) :
    exec (.cpJoin f) s = .next (cellWait c (48 + pa) c.n.limit (c.tk.inq pa).head (c.tk.inq pa).tail s) := by
  subst hpa
  change c.tokens _ = _ at ht
  refine runCell_wait h ?_
  dsimp only
  rw [ht]
  rfl

variable {ha hb : Tok} (hha : (c.tk.inq pa).avail.head? = some ha)

include hha

theorem cpJoin_faultsA (hk : ha.kind = 9) : exec (.cpJoin f) s = .next (cellFaulted (cellDrawn s c (.cpJoin f)) c pa ha) := by
  subst hpa
  change (c.tokens _).head? = _ at hha
  refine runCell_faultTrap h ?_
  dsimp only
  rw [hha]
  cases (c.tokens (f.b.toNat - 48)).head? <;> exact if_pos hk

variable (hka : ha.kind ≠ 9)

include hpb hka

theorem cpJoin_waitsB (ht : (c.tk.inq pb).avail = []) :
    exec (.cpJoin f) s = .next (cellWait c (48 + pb) c.n.limit (c.tk.inq pb).head (c.tk.inq pb).tail s) := by
  subst hpa hpb
  change (c.tokens _).head? = _ at hha
  change c.tokens _ = _ at ht
  refine runCell_wait h ?_
  dsimp only
  rw [hha, ht]
  exact if_neg hka

variable (hhb : (c.tk.inq pb).avail.head? = some hb)

include hhb

theorem cpJoin_faultsB (hk : hb.kind = 9) : exec (.cpJoin f) s = .next (cellFaulted (cellDrawn s c (.cpJoin f)) c pb hb) := by
  subst hpa hpb
  change (c.tokens _).head? = _ at hha hhb
  refine runCell_faultTrap h ?_
  dsimp only
  rw [hha, hhb]
  exact (if_neg hka).trans (if_pos hk)

variable (hkb : hb.kind ≠ 9)

include hkb

theorem exec_cpJoin : exec (.cpJoin f) s = runCell (.cpJoin f) (joinHeads f ha hb) s := by
  subst hpa hpb
  change (c.tokens _).head? = _ at hha hhb
  refine runCell_congr h ?_
  dsimp only
  rw [hha, hhb]
  exact (if_neg hka).trans (if_neg hkb)

theorem cpJoin_controls (h0 : ha.kind ≠ 0) (h1 : hb.kind ≠ 0) (hk : ha.kind = hb.kind) :
    exec (.cpJoin f) s = .next (cellWrote s c (.cpJoin f) (joinMarks c f 3)) := by
  refine (exec_cpJoin h hpa hpb hha hka hhb hkb).trans (runCell_write h ?_)
  rw [joinHeads, if_neg (fun hx => h0 hx.1), if_neg h0, if_neg h1, if_pos hk]
  rfl

theorem cpJoin_disagrees (h0 : ha.kind ≠ 0) (h1 : hb.kind ≠ 0) (hk : ha.kind ≠ hb.kind) :
    exec (.cpJoin f) s = .next (cellTrapped (cellDrawn s c (.cpJoin f)) c 0x01
      (wordHalves (.cpJoin f)).1 (wordHalves (.cpJoin f)).2 0 0) := by
  refine (exec_cpJoin h hpa hpb hha hka hhb hkb).trans (runCell_illegal h ?_)
  rw [joinHeads, if_neg (fun hx => h0 hx.1), if_neg h0, if_neg h1, if_neg hk]

end Join

section Data

variable {pa pb : Nat} {ha hb : Tok} (h : CellMay s c (.cpJoin f)) (hpa : pa = f.a.toNat - 48) (hpb : pb = f.b.toNat - 48)
  (hha : (c.tk.inq pa).avail.head? = some ha) (hhb : (c.tk.inq pb).avail.head? = some hb) (h0 : ha.kind = 0) (h1 : hb.kind = 0)

include h hpa hpb hha hhb h0 h1

theorem exec_cpJoin_data : exec (.cpJoin f) s = runCell (.cpJoin f) (joinHeads f ha hb) s :=
  exec_cpJoin h hpa hpb hha (by rw [h0]; decide) hhb (by rw [h1]; decide)

theorem cpJoin_poisonedA (hp : (nth Lane.zero ha.lanes 0).poison = true) :
    exec (.cpJoin f) s = .next (cellTrapped (cellDrawn s c (.cpJoin f)) c 0x06 (f.a.setWidth 32) 0 0 0) := by
  refine (exec_cpJoin_data h hpa hpb hha hhb h0 h1).trans (runCell_poison h ?_)
  rw [joinHeads, if_pos ⟨h0, h1⟩, if_pos hp]

theorem cpJoin_poisonedB (hp : (nth Lane.zero ha.lanes 0).poison = false) (hq : (nth Lane.zero hb.lanes 0).poison = true) :
    exec (.cpJoin f) s = .next (cellTrapped (cellDrawn s c (.cpJoin f)) c 0x06 (f.b.setWidth 32) 0 0 0) := by
  refine (exec_cpJoin_data h hpa hpb hha hhb h0 h1).trans (runCell_poison h ?_)
  rw [joinHeads, if_pos ⟨h0, h1⟩, if_neg (ne_true_of_eq_false hp), if_pos hq]

theorem cpJoin_steps {act : Nat} {s1 : State} (hp : (nth Lane.zero ha.lanes 0).poison = false)
    (hq : (nth Lane.zero hb.lanes 0).poison = false) (hact : act = f.aux.toNat / 4 ^ joinOutcome f.ty.toNat ha hb % 4)
    (hs : s1 = if act = 0 ∨ act = 2 then dequeueN c.key pa 1 (cellDrawn s c (.cpJoin f)) else cellDrawn s c (.cpJoin f)) :
    exec (.cpJoin f) s = .next (cellPassed (writeResult c.key
      (((c.result f.d (fun _ => true) ha.vec).join (c.result f.c (fun _ => true) hb.vec)).join
        (joinMarks c f (joinOutcome f.ty.toNat ha hb)))
      (if act = 1 ∨ act = 2 then dequeueN c.key pb 1 s1 else s1)) c (.cpJoin f)) := by
  refine (exec_cpJoin_data h hpa hpb hha hhb h0 h1).trans (runCell_done h ?_)
  subst hpa hpb hs hact
  rw [joinHeads, if_pos ⟨h0, h1⟩, if_neg (ne_true_of_eq_false hp), if_neg (ne_true_of_eq_false hq)]
  rfl

end Data

/-- A join that resets its data side p does so as `joinReset` says. -/
theorem joinResets_of_exec {p : Nat} {kind : BitVec 4} (h : CellMay s c (.cpJoin f))
    (he : exec (.cpJoin f) s = runCell (.cpJoin f) (fun c s => joinReset (.cpJoin f) f c p kind s) s) : joinResets s c f p kind := by
  rintro n s1 rfl rfl
  refine ⟨fun hn => he.trans (runCell_waitIn h ?_), fun t hn => ⟨fun hk => he.trans (runCell_faultTrap h ?_),
    fun hk heq => he.trans (runCell_done h ?_), fun hk hne => he.trans (runCell_refuses h ?_)⟩⟩
  all_goals
    change (c.tokens p)[_]? = _ at hn
    rw [joinReset]
    rw [Cell.tokens] at hn ⊢
    rw [hn]
  · exact if_pos hk
  · exact (if_neg hk).trans (if_neg (Classical.not_not.mpr heq))
  · exact (if_neg hk).trans (if_pos hne)

theorem cpJoin_resetsA {pa pb : Nat} {ha hb : Tok} (h : CellMay s c (.cpJoin f)) (hpa : pa = f.a.toNat - 48)
    (hpb : pb = f.b.toNat - 48) (hha : (c.tk.inq pa).avail.head? = some ha) (hhb : (c.tk.inq pb).avail.head? = some hb)
    (h0 : ha.kind = 0) (h1 : hb.kind ≠ 0) (h9 : hb.kind ≠ 9) : joinResets s c f pa hb.kind := by
  refine joinResets_of_exec h ((exec_cpJoin h hpa hpb hha (by rw [h0]; decide) hhb h9).trans (runCell_congr h ?_))
  rw [joinHeads, if_neg (fun hx => h1 hx.2), if_pos h0, hpa]

theorem cpJoin_resetsB {pa pb : Nat} {ha hb : Tok} (h : CellMay s c (.cpJoin f)) (hpa : pa = f.a.toNat - 48)
    (hpb : pb = f.b.toNat - 48) (hha : (c.tk.inq pa).avail.head? = some ha) (hhb : (c.tk.inq pb).avail.head? = some hb)
    (h9 : ha.kind ≠ 9) (h0 : ha.kind ≠ 0) (h1 : hb.kind = 0) : joinResets s c f pb ha.kind := by
  refine joinResets_of_exec h ((exec_cpJoin h hpa hpb hha h9 hhb (by rw [h1]; decide)).trans (runCell_congr h ?_))
  rw [joinHeads, if_neg (fun hx => h0 hx.1), if_neg h0, if_pos h1, hpb]

/-- Settles O41, instruction by instruction. -/
theorem cellPorts : Obligations.CellPorts := by
  unfold Obligations.CellPorts
  refine ⟨fun s c f p o hp ho => ⟨fun h => ⟨fun t ts ht s1 hs => ?recv, cpRecv_waits h hp⟩,
    fun h => ⟨fun t ts ht => cpPeek_reads h hp ht, cpPeek_waits h hp⟩, fun h a ls ha hls => ?send, fun h toks ht => ?eos,
    fun h a ha => ?ctxc, fun h a toks ha ht => ?skip, fun h a sel ha hs => ?filt, fun h arms s1 live harms hs1 hlive => ?mrge⟩,
    fun s c f pa pb hpa hpb h => ⟨cpJoin_waitsA h hpa, fun ha hha => ⟨cpJoin_faultsA h hpa hha, cpJoin_waitsB h hpa hpb hha,
      fun hb hhb hka => ⟨cpJoin_faultsB h hpa hpb hha hka hhb, fun h0 h1 => ?data, cpJoin_resetsA h hpa hpb hha hhb,
        cpJoin_resetsB h hpa hpb hha hhb hka, fun h0 h1 hkb => ⟨cpJoin_controls h hpa hpb hha hka hhb hkb h0 h1,
          cpJoin_disagrees h hpa hpb hha hka hhb hkb h0 h1⟩⟩⟩⟩⟩
  case recv =>
    subst hs
    exact ⟨cpRecv_takes h hp ht, cpRecv_faults h hp ht⟩
  case send =>
    refine ⟨fun hr => ?_, fun hr => ⟨fun l => cpSend_poisoned h ho ha hls hr, fun s1 hc hw => cpSend_sends h ho ha hls hr hc hw⟩⟩
    subst ho
    rw [exec_cpSend]
    exact runCell_slotless h rfl hr
  case eos =>
    subst ho ht
    rw [exec_cpEos h]
    exact ⟨fun hr => runCell_slotless h rfl hr, fun hr => runCell_done h (slotFirst_room hr)⟩
  case ctxc =>
    subst ho ha
    rw [exec_cpCtxc]
    exact ⟨fun hr => runCell_slotless h rfl hr, fun hr => ⟨fun hx => runCell_poison h ((slotFirst_room hr).trans (if_pos hx)),
      fun hx => runCell_done h ((slotFirst_room hr).trans (if_neg (ne_true_of_eq_false hx)))⟩⟩
  case skip =>
    subst ho ha
    refine ⟨fun hx => runCell_poison h (if_pos hx), fun hx => ?_⟩
    rw [exec_cpSkip h hx ht]
    exact ⟨fun hr => runCell_slotless h rfl hr, fun hr => runCell_done h (slotFirst_room hr)⟩
  case filt =>
    subst ha
    exact ⟨fun hx => runCell_poison h (if_pos hx), fun hx => ⟨fun hm => ⟨cpFilt_sends h hx hs hm,
      fun before j after hl hb => cpFilt_waits h hx hs hm hl hb⟩, cpFilt_refused h hx hs⟩⟩
  case mrge =>
    exact ⟨fun a => cpMrge_waits h harms hs1, fun hheads => ⟨cpMrge_ends h harms hs1 hheads,
      fun a => cpMrge_takes h harms hs1 hlive hheads, cpMrge_refused h harms hs1 hlive hheads⟩⟩
  case data =>
    exact ⟨cpJoin_poisonedA h hpa hpb hha hhb h0 h1, cpJoin_poisonedB h hpa hpb hha hhb h0 h1,
      fun hp hq act s1 => cpJoin_steps h hpa hpb hha hhb h0 h1 hp hq⟩

end Sys2Proof.PortProofs
end

section
/-! Skid commands on tiles and lines (R304, R305, R309, R311, R313, R315, R328). -/

namespace Sys2Proof.SkidProofs

open Sys2Proof Sys2Proof.Machine Sys2Proof.Claims
open Sys2Proof.Laws (runSkid_turn runSkid_may)

variable {s : State} {x : EngAt} {i : Instr} {f : Skid} {body : EngAt → State → State}

/-- What a command does after a write, as the statements say it. -/
theorem wrote_afterWrite (next : State → State) (w : WriteAns) : wrote x s next w (afterWrite x.key x.c s next w) :=
  ⟨fun s1 hw => by rw [hw]; rfl, fun hw => by rw [hw]; rfl, fun hw => by rw [hw]; rfl⟩

/-- A command whose step is a write. -/
theorem runSkid_writes {next : State → State} {w : WriteAns} (h : EngMay s x i)
    (hb : body x s = afterWrite x.key x.c s next w) : ∃ t, runSkid i body s = .next t ∧ wrote x s next w t :=
  ⟨_, (runSkid_may h body).trans (congrArg Host.Outcome.next hb), wrote_afterWrite next w⟩

theorem runSkid_does {s1 : State} (h : EngMay s x i) (hb : body x s = s1) : runSkid i body s = .next s1 :=
  (runSkid_may h body).trans (congrArg Host.Outcome.next hb)

/-! ## Copies and reductions (R305, R309, R313) -/

theorem exec_moverForms (f : Skid) (s : State) : ∀ i ∈ moverForms f, exec i s = runSkid i moverStep s := by
  simp only [moverForms, List.forall_mem_cons]
  exact ⟨rfl, rfl, rfl, rfl, List.forall_mem_nil _⟩

section Mover

variable {a b : Side} (ha : x.c.srcSide = some a) (hb : x.c.dstSide = some b)

include ha hb

theorem moverStep_stores (hs : a.store ≠ none) (hd : b.store ≠ none) : moverStep x s =
    afterWrite x.key x.c s (fun s1 => finishCmd x.key x.c (markFull x.key x.c b (movePairs a b) s1))
      (moveEls x.key x.c a b (movePairs a b) s) := by
  rw [moverStep, ha, hb]
  exact if_pos ⟨Option.isSome_iff_ne_none.mpr hs, Option.isSome_iff_ne_none.mpr hd⟩

theorem moverStep_out (hs : a.store ≠ none) (hd : b.store = none) (hop : cmdOp x.c.word ≠ 8) :
    moverStep x s = copyOut x.key x.c a b s := by
  rw [moverStep, ha, hb]
  exact (if_neg (by simp [hd])).trans (if_pos ⟨Option.isSome_iff_ne_none.mpr hs, hop⟩)

/-- A copy or reduction that requests lines. -/
theorem moverStep_lines (hx : a.store = none ∨ (b.store = none ∧ cmdOp x.c.word = 8)) : moverStep x s =
    match x.c.todo with
    | none => takeEls x.key x.c a b ((movePairs a b).filter fun q => (pairLine a b q).isNone) (moverLines (cmdOp x.c.word) a b)
        (failCmd x.key x.c 0x07) s
    | some todo =>
      if (x.c.due a b).1.isEmpty = false then writeDue x.key x.c a b s
      else if todo.isEmpty then finishCmd x.key x.c s
      else issueLine x.key x.c x.st todo s := by
  have notStores : ¬ (a.store.isSome ∧ b.store.isSome) := by
    rcases hx with hx | hx <;> simp [hx]
  have notOut : ¬ (a.store.isSome ∧ cmdOp x.c.word ≠ 8) := by
    rcases hx with hx | hx <;> simp [hx]
  rw [moverStep, ha, hb]
  exact (if_neg notStores).trans (if_neg notOut)

end Mover

theorem copyOut_starts {a b : Side} (ht : x.c.todo = none) :
    copyOut x.key x.c a b s = updCmd x.key x.c.seq (fun y => { y with todo := some b.lines }) s := by
  rw [copyOut, ht]

theorem copyOut_ends {a b : Side} (ht : x.c.todo = some []) : copyOut x.key x.c a b s = finishCmd x.key x.c s := by
  rw [copyOut, ht]

theorem copyOut_line {a b : Side} {l : Nat} {ls : List Nat} (ht : x.c.todo = some (l :: ls)) : copyOut x.key x.c a b s =
    afterWrite x.key x.c s (updCmd x.key x.c.seq fun y => { y with todo := some ls })
      (moveEls x.key x.c a b ((movePairs a b).filter fun q => pairLine a b q == some l) s) := by
  rw [copyOut, ht]

section Lines

variable {a b : Side} {now later : List ((List Nat × List Nat) × (W32 × Bool))} (ha : x.c.srcSide = some a) (hb : x.c.dstSide = some b)
  (hx : a.store = none ∨ (b.store = none ∧ cmdOp x.c.word = 8)) (hdue : x.c.due a b = (now, later))

include ha hb hx

theorem moverStep_takes (ht : x.c.todo = none) : moverStep x s =
    takeEls x.key x.c a b ((movePairs a b).filter fun q => (pairLine a b q).isNone) (moverLines (cmdOp x.c.word) a b)
      (failCmd x.key x.c 0x07) s := by
  rw [moverStep_lines ha hb hx, ht]

include hdue

theorem moverStep_writes (ht : x.c.todo ≠ none) (hn : now ≠ []) : moverStep x s =
    afterWrite x.key x.c s (fun s1 => markFull x.key x.c b (now.map (·.1)) (updCmd x.key x.c.seq (fun y => { y with kept := later }) s1))
      (putEls x.key x.c b (now.map (·.1.2)) (now.map fun y => ⟨y.2.1.toNat, y.2.2⟩) s) := by
  obtain ⟨todo, ht⟩ := Option.ne_none_iff_exists'.mp ht
  rw [moverStep_lines ha hb hx, ht]
  dsimp only
  rw [hdue, if_pos (by simpa using hn), writeDue, hdue]

theorem moverStep_ends (hn : now = []) (ht : x.c.todo = some []) : moverStep x s = finishCmd x.key x.c s := by
  rw [moverStep_lines ha hb hx, ht]
  dsimp only
  rw [hdue, hn]
  rfl

theorem moverStep_issues {l : Nat} {ls : List Nat} (hn : now = []) (ht : x.c.todo = some (l :: ls)) :
    moverStep x s = issueLine x.key x.c x.st (l :: ls) s := by
  rw [moverStep_lines ha hb hx, ht]
  dsimp only
  rw [hdue, hn]
  rfl

end Lines

/-! ## Commands on lines (R290, R305) -/

theorem exec_lineForms (f : Skid) (s : State) : ∀ i ∈ lineForms f, exec i s = runSkid i lineStep s := by
  simp only [lineForms, List.forall_mem_cons]
  exact ⟨rfl, rfl, rfl, List.forall_mem_nil _⟩

theorem lineStep_memory {a : Side} (ha : x.c.srcSide = some a) (hs : a.store = none) : lineStep x s =
    match x.c.todo with
    | none => updCmd x.key x.c.seq (fun y => { y with todo := some a.lines }) s
    | some [] => finishCmd x.key x.c s
    | some todo => issueLine x.key x.c x.st todo s := by
  rw [lineStep, ha]
  dsimp only
  rw [hs] <;> rfl

theorem lineStep_store {a : Side} {p : StoreAddr} (ha : x.c.srcSide = some a) (hs : a.store = some p) : lineStep x s =
    finishCmd x.key x.c (if cmdOp x.c.word = 0xB then countRefused x.st.vf
      (((a.e.tileElems a.co).filter a.e.inExt).foldl (fun acc ix => addOnce acc (storeLine a.e p.off ix)) []).length s else s) := by
  rw [lineStep, ha]
  dsimp only
  rw [hs]

/-! ## Writing a tile (R305, R328) -/

theorem writeTile_ends {k : EKey} {c : Cmd} {b : Side} {el : List Nat → TileEl} {done : State → State} (hs : b.store = none)
    (hl : b.lines.length ≤ c.pos) : writeTile k c b el s done = done s := by
  rw [writeTile, List.getElem?_eq_none hl]
  exact if_neg (by simp [hs])

theorem writeTile_line {k : EKey} {c : Cmd} {b : Side} {el : List Nat → TileEl} {done : State → State} {l : Nat} {ixs : List (List Nat)}
    (hs : b.store = none) (hl : b.lines[c.pos]? = some l)
    (hi : ixs = (b.e.tileElems b.co).filter fun ix => b.e.inExt ix && b.vline ix == l) : writeTile k c b el s done =
      afterWrite k c s (updCmd k c.seq fun y => { y with pos := y.pos + 1 }) (writeEls k b ixs (ixs.map el) s) := by
  subst hi
  rw [writeTile, hl]
  exact if_neg (by simp [hs])

theorem writeTile_store {k : EKey} {c : Cmd} {b : Side} {el : List Nat → TileEl} {done : State → State} (hs : b.store ≠ none) :
    writeTile k c b el s done = afterWrite k c s done (writeEls k b (b.e.tileElems b.co) ((b.e.tileElems b.co).map el) s) :=
  if_pos (Option.isSome_iff_ne_none.mpr hs)

/-- A command whose step writes a tile in global memory. -/
theorem runSkid_wroteTile {b : Side} {el : List Nat → TileEl} {done : State → State} (h : EngMay s x i) (he : exec i s = runSkid i body s)
    (hs : b.store = none) (hb : body x s = writeTile x.key x.c b el s done) (hd : done s = finishCmd x.key x.c s) :
    wroteTile x s i b el := by
  refine ⟨fun hl => he.trans (runSkid_does h (hb.trans ((writeTile_ends hs hl).trans hd))), fun l ixs hl hi => ?_⟩
  rw [he]
  exact runSkid_writes h (hb.trans (writeTile_line hs hl hi))

theorem skFill_memory {b : Side} {el : List Nat → TileEl} (h : EngMay s x (.skFill f)) (hd : x.c.dstSide = some b)
    (hel : el = fun _ => ⟨fillValue b.e.width f.stid.toNat, false⟩) (hs : b.store = none) : wroteTile x s (.skFill f) b el := by
  subst hel
  refine runSkid_wroteTile h (show execSkFill f s = _ from rfl) hs (done := fun s1 => finishCmd x.key x.c s1) ?_ rfl
  rw [hd]
  dsimp only
  rw [hs]

theorem skFill_store {b : Side} {el : List Nat → TileEl} {p : StoreAddr} {ls : List Nat} (h : EngMay s x (.skFill f))
    (hd : x.c.dstSide = some b) (hel : el = fun _ => ⟨fillValue b.e.width f.stid.toNat, false⟩) (hs : b.store = some p)
    (hls : ls = ((b.e.tileElems b.co).filter b.e.inExt).foldl (fun acc ix => addOnce acc (storeLine b.e p.off ix)) []) :
    ∃ t, exec (.skFill f) s = .next t ∧
      wrote x s (fun s1 => finishCmd x.key x.c (if f.fe = 1 then setFull x.key.stand p.pos ls s1 else s1))
        (writeEls x.key b (b.e.tileElems b.co) ((b.e.tileElems b.co).map el) s) t := by
  subst hel hls
  change ∃ t, execSkFill f s = _ ∧ _
  refine runSkid_writes h ?_
  rw [hd]
  dsimp only
  rw [hs]
  exact writeTile_store (by simp [hs])

/-! ## Holding accesses (R315) -/

/-- The commands that access global memory themselves, or write there what their replies brought. -/
def accessForms (f : Skid) : List Instr :=
  [.skCpylg f, .skCpygg f, .skRedc f, .skStrm f, .skSink f, .skGath f, .skScat f, .skFill f, .skDisp f, .skCmbn f, .skColl f]

theorem exec_accessForms (f : Skid) (s : State) : ∀ i ∈ accessForms f, ∃ body, exec i s = runSkid i body s := by
  simp only [accessForms, List.forall_mem_cons]
  exact ⟨⟨moverStep, rfl⟩, ⟨moverStep, rfl⟩, ⟨moverStep, rfl⟩, ⟨_, show execSkStrm f s = _ from rfl⟩,
    ⟨_, show execSkSink f s = _ from rfl⟩, ⟨_, show execSkGath f s = _ from rfl⟩, ⟨_, show execSkScat f s = _ from rfl⟩,
    ⟨_, show execSkFill f s = _ from rfl⟩, ⟨_, show execSkDisp f s = _ from rfl⟩, ⟨_, show execSkCmbn f s = _ from rfl⟩,
    ⟨_, show execSkColl f s = _ from rfl⟩, List.forall_mem_nil _⟩

/-- Settles O44, by the kind of command and where its tiles stand. -/
theorem skidTileCommands : Obligations.SkidTileCommands := by
  unfold Obligations.SkidTileCommands
  refine fun s x f => ⟨fun i hi h a b ha hb => ?movers, fun i hi h a ha hs => ?lines, fun i hi h a p n ha hs hn => ?refused,
    fun h b el hd hel => ⟨skFill_memory h hd hel, fun p ls hs hls => skFill_store h hd hel hs hls⟩,
    fun h => ?blaze, fun h => ?nothing, fun i hi h hh => ?held⟩
  case movers =>
    rw [exec_moverForms f s i hi]
    refine ⟨fun hs hd => runSkid_writes h (moverStep_stores ha hb hs hd), fun hs hd hop => ⟨fun ht => ?starts, fun ht => ?ends,
      fun l ls ps ht hps => ?line⟩, fun hx => ⟨fun ps ht hps => ?takes, fun now later ht hdue => ⟨fun hn => ?writes, fun hn ht => ?done,
        fun l ls hn ht => ?issues⟩⟩⟩
    case starts => exact runSkid_does h ((moverStep_out ha hb hs hd hop).trans (copyOut_starts ht))
    case ends => exact runSkid_does h ((moverStep_out ha hb hs hd hop).trans (copyOut_ends ht))
    case line =>
      subst hps
      exact runSkid_writes h ((moverStep_out ha hb hs hd hop).trans (copyOut_line ht))
    case takes =>
      subst hps
      exact runSkid_does h (moverStep_takes ha hb hx ht)
    case writes => exact runSkid_writes h (moverStep_writes ha hb hx hdue ht hn)
    case done => exact runSkid_does h (moverStep_ends ha hb hx hdue hn ht)
    case issues => exact runSkid_does h (moverStep_issues ha hb hx hdue hn ht)
  case lines =>
    rw [exec_lineForms f s i hi]
    refine ⟨fun ht => runSkid_does h ?_, fun ht => runSkid_does h ?_, fun l ls ht => runSkid_does h ?_⟩ <;>
      rw [lineStep_memory ha hs, ht]
  case refused =>
    subst hn
    rw [exec_lineForms f s i hi]
    exact runSkid_does h (lineStep_store ha hs)
  case blaze =>
    change execSkBlaz f s = _
    exact runSkid_may h _
  case nothing =>
    change execSkNopc f s = _
    exact runSkid_may h _
  case held =>
    obtain ⟨body, he⟩ := exec_accessForms f s i hi
    rw [he, runSkid_turn h, if_pos hh]

end Sys2Proof.SkidProofs
end

section
/-! Skid commands on streams: STRM, SINK, GATH, SCAT, DISP, CMBN and COLL (R305 to R308, R310). -/

namespace Sys2Proof.StreamProofs

open Sys2Proof Sys2Proof.Machine Sys2Proof.Claims
open Sys2Proof.Laws (runSkid_may)
open Sys2Proof.SkidProofs (runSkid_writes runSkid_does runSkid_wroteTile writeTile_store)

variable {s : State} {x : EngAt} {f : Skid} {a b : Side} {t : Tok} {ts : List Tok} {r : Nat}

/-! ## STRM (R305) -/

/-- The token of elements that were read, or that of the fault that kept them from it (R294). -/
def elsTok (w : Nat) : Except Nat (List TileEl) → Tok
  | .ok els => dataTok w els
  | .error _ => faultTok 0x07

theorem elsTok_eq {w : Nat} {read : Except Nat (List TileEl)} {tok : Tok} (hok : ∀ els, read = .ok els → tok = dataTok w els)
    (herr : ∀ e, read = .error e → tok = faultTok 0x07) : elsTok w read = tok := by
  cases read with
  | ok els => exact (hok els rfl).symm
  | error e => exact (herr e rfl).symm

section Strm

variable {tok : Tok} {s1 : State} (h : EngMay s x (.skStrm f)) (ha : x.c.srcSide = some a) (ht : x.c.todo = none)
  (hr : s.routeSlots x.st f.route.toNat ≠ 0)
  (htok : elsTok a.e.width (readEls s x.st a (tokenPart a.e.width x.c.pos (a.e.tileElems a.co))) = tok)
  (hs : s1 = sendTok x.key f.route.toNat tok (touchEls x.st a (tokenPart a.e.width x.c.pos (a.e.tileElems a.co)) s))

include h ha ht hr htok hs

/-- STRM sends the tile's next elements. -/
theorem skStrm_sends : exec (.skStrm f) s = .next (if tokensFor a.e.width a.e.tileSize ≤ x.c.pos + 1 then endStream x.key x.c s1
    else updCmd x.key x.c.seq (fun c => { c with pos := c.pos + 1 }) s1) := by
  subst hs htok
  change execSkStrm f s = _
  refine runSkid_does h ?_
  rw [ha]
  exact (if_neg (by simp [ht])).trans (if_neg hr)

theorem skStrm_goes (hn : x.c.pos + 1 < tokensFor a.e.width a.e.tileSize) :
    exec (.skStrm f) s = .next (updCmd x.key x.c.seq (fun c => { c with pos := c.pos + 1 }) s1) := by
  rw [skStrm_sends h ha ht hr htok hs, if_neg (Nat.not_le.mpr hn)]

theorem skStrm_ends (hn : tokensFor a.e.width a.e.tileSize ≤ x.c.pos + 1) :
    exec (.skStrm f) s = .next (endStream x.key x.c s1) := by
  rw [skStrm_sends h ha ht hr htok hs, if_pos hn]

end Strm

/-! ## FAULT tokens (R310) -/

theorem sink_faults : ∀ i ∈ [Instr.skSink f, .skScat f, .skCmbn f], EngMay s x i → x.c.dstSide = some b → x.g.port.q = t :: ts →
    t.kind = 9 → exec i s = .next (failCmd x.key x.c t.cause (takeToken x.key s)) := by
  intro i hi h hb hq hk
  obtain rfl | rfl | rfl : i = .skSink f ∨ i = .skScat f ∨ i = .skCmbn f := by simpa using hi
  case inl =>
    change execSkSink f s = _
    refine runSkid_does h ?_
    dsimp only
    rw [hb, hq]
    exact if_pos hk
  case inr.inl =>
    change execSkScat f s = _
    refine runSkid_does h ?_
    dsimp only
    rw [hb, hq]
    exact if_pos hk
  case inr.inr =>
    change execSkCmbn f s = _
    refine runSkid_does h ?_
    dsimp only
    rw [hb, hq]
    dsimp only
    rw [hk]
    rfl

theorem source_faults : ∀ i ∈ [Instr.skGath f, .skDisp f], EngMay s x i → x.c.srcSide = some a → x.c.todo = none →
    x.g.port.q = t :: ts → t.kind = 9 → exec i s = .next (failCmd x.key x.c t.cause (takeToken x.key s)) := by
  intro i hi h ha ht hq hk
  obtain rfl | rfl : i = .skGath f ∨ i = .skDisp f := by simpa using hi
  case inl =>
    change execSkGath f s = _
    refine runSkid_does h ((if_neg (by simp [ht])).trans ?_)
    rw [ha, hq]
    exact if_pos hk
  case inr =>
    change execSkDisp f s = _
    refine runSkid_does h ((if_neg (by simp [ht])).trans ?_)
    rw [ha, hq]
    exact if_pos hk

/-! ## SINK (R305) -/

theorem skSink_writes {ixs : List (List Nat)} (h : EngMay s x (.skSink f)) (hb : x.c.dstSide = some b) (hq : x.g.port.q = t :: ts)
    (hk : t.kind = 0) (hi : ixs = tokenPart b.e.width x.c.pos (b.e.tileElems b.co)) : ∃ u, exec (.skSink f) s = .next u ∧
      wrote x s (fun s1 => if tokensFor b.e.width b.e.tileSize ≤ x.c.pos + 1 then finishCmd x.key x.c (takeToken x.key s1)
          else updCmd x.key x.c.seq (fun c => { c with pos := c.pos + 1 }) (takeToken x.key s1))
        (writeEls x.key b ixs (elsOfTok b.e.width ixs.length t) s) u := by
  subst hi
  change ∃ u, execSkSink f s = _ ∧ _
  refine runSkid_writes h ?_
  dsimp only
  rw [hb, hq]
  exact (if_neg (by rw [hk]; decide)).trans (if_neg (Classical.not_not.mpr hk))

/-! ## GATH (R306) -/

section Gath

variable (h : EngMay s x (.skGath f)) (ha : x.c.srcSide = some a) (ht : x.c.todo = none) (hq : x.g.port.q = t :: ts)
  (hr : s.routeSlots x.st f.route.toNat ≠ 0)

/-- The token that answers a token of indices. -/
def gatherTok : Except Nat (List Lane) → Tok
  | .ok vs => Tok.fit ⟨0, vs, false, 0, false⟩
  | .error c => faultTok c

/-- GATH with a token at its port and room on its route. -/
def gatherStep (f : Skid) (a : Side) (t : Tok) (x : EngAt) (s : State) : State :=
  if t.kind = 5 then endStream x.key x.c (sendTok x.key f.route.toNat (ctlTok 5 0) (takeToken x.key s))
  else if t.kind ≠ 0 then sendTok x.key f.route.toNat t (takeToken x.key s)
  else sendTok x.key f.route.toNat (gatherTok (gatherLanes s x.st a (fitLen ⟨0, false⟩ 16 t.lanes)))
    (takeToken x.key (touchEls x.st a ((fitLen ⟨0, false⟩ 16 t.lanes).filterMap fun l => linearIx a.e l.v.toNat) s))

include h ha ht hq hr

theorem exec_skGath (hk : t.kind ≠ 9) : exec (.skGath f) s = .next (gatherStep f a t x s) := by
  change execSkGath f s = _
  refine runSkid_does h ((if_neg (by simp [ht])).trans ?_)
  rw [ha, hq]
  exact (if_neg hk).trans (if_neg hr)

theorem skGath_answers {read : Except Nat (List Lane)} (hk : t.kind = 0)
    (hg : gatherLanes s x.st a (fitLen ⟨0, false⟩ 16 t.lanes) = read) : exec (.skGath f) s =
      .next (sendTok x.key f.route.toNat (gatherTok read) (takeToken x.key (touchEls x.st a
        ((fitLen ⟨0, false⟩ 16 t.lanes).filterMap fun l => linearIx a.e l.v.toNat) s))) := by
  rw [exec_skGath h ha ht hq hr (by rw [hk]; decide), gatherStep, hk, if_neg (by decide), if_neg (by decide), hg]

theorem skGath_forwards (h0 : t.kind ≠ 0) (h5 : t.kind ≠ 5) (h9 : t.kind ≠ 9) :
    exec (.skGath f) s = .next (sendTok x.key f.route.toNat t (takeToken x.key s)) := by
  rw [exec_skGath h ha ht hq hr h9, gatherStep, if_neg h5, if_pos h0]

theorem skGath_ends (hk : t.kind = 5) : exec (.skGath f) s =
    .next (endStream x.key x.c (sendTok x.key f.route.toNat (ctlTok 5 0) (takeToken x.key s))) := by
  rw [exec_skGath h ha ht hq hr (by rw [hk]; decide), gatherStep, if_pos hk]

end Gath

/-! ## SCAT (R306) -/

section Scat

variable (h : EngMay s x (.skScat f)) (hb : x.c.dstSide = some b) (hq : x.g.port.q = t :: ts) (hk : t.kind = 0)

include h hb hq hk

theorem skScat_keeps (hp : x.c.pairHalf = []) :
    exec (.skScat f) s = .next (updCmd x.key x.c.seq (fun c => { c with pairHalf := [t] }) (takeToken x.key s)) := by
  change execSkScat f s = _
  refine runSkid_does h ?_
  dsimp only
  rw [hb, hq]
  refine (if_neg (by rw [hk]; decide)).trans ((if_neg (by rw [hk]; decide)).trans ?_)
  rw [hp]
  exact if_neg (Classical.not_not.mpr hk)

variable {i : Tok} {is : List Tok} {p : List (List Nat × TileEl) × Option Nat} (hp : x.c.pairHalf = i :: is)
  (hl : p = scatterLanes b.e ((fitLen ⟨0, false⟩ 16 i.lanes).zip (fitLen ⟨0, false⟩ 16 t.lanes)))

/-- What SCAT does when it has tried to write the elements of a pair: cause is that of the first bad coordinate. -/
def scatterEnds (x : EngAt) (cause : Option Nat) (s : State) : Option (State × Bool) → State
  | none => pauseCmd x.key x.c s
  | some (s1, bad) =>
    match (if bad then some 0x07 else cause) with
    | some c => failCmd x.key x.c c (updCmd x.key x.c.seq (fun c => { c with pairHalf := [], paused := false }) (takeToken x.key s1))
    | none => updCmd x.key x.c.seq (fun c => { c with pairHalf := [], paused := false }) (takeToken x.key s1)

include hp hl

theorem exec_skScat : exec (.skScat f) s = .next (scatterEnds x p.2 s (scatterAll x.key b p.1 s)) := by
  subst hl
  change execSkScat f s = _
  refine runSkid_does h ?_
  dsimp only
  rw [hb, hq]
  refine (if_neg (by rw [hk]; decide)).trans ((if_neg (by rw [hk]; decide)).trans ?_)
  rw [hp]
  exact if_neg (Classical.not_not.mpr hk)

theorem skScat_pauses (hw : scatterAll x.key b p.1 s = none) : exec (.skScat f) s = .next (pauseCmd x.key x.c s) := by
  rw [exec_skScat h hb hq hk hp hl, hw]
  rfl

variable {s1 s2 : State} {bad : Bool} (hw : scatterAll x.key b p.1 s = some (s1, bad))
  (hs : s2 = updCmd x.key x.c.seq (fun c => { c with pairHalf := [], paused := false }) (takeToken x.key s1))

include hw hs

theorem skScat_faults (hbad : bad = true) : exec (.skScat f) s = .next (failCmd x.key x.c 0x07 s2) := by
  rw [exec_skScat h hb hq hk hp hl, hw, hbad, hs]
  rfl

theorem skScat_fails {cause : Nat} (hbad : bad = false) (hc : p.2 = some cause) :
    exec (.skScat f) s = .next (failCmd x.key x.c cause s2) := by
  rw [exec_skScat h hb hq hk hp hl, hw, hbad, hs, hc]
  rfl

theorem skScat_writes (hbad : bad = false) (hc : p.2 = none) : exec (.skScat f) s = .next s2 := by
  rw [exec_skScat h hb hq hk hp hl, hw, hbad, hs, hc]
  rfl

end Scat

/-! ## DISP (R307) -/

section Disp

variable (h : EngMay s x (.skDisp f)) (ha : x.c.srcSide = some a) (ht : x.c.todo = none) (hq : x.g.port.q = t :: ts)

include h ha ht hq

theorem skDisp_eos (hk : t.kind = 5) : exec (.skDisp f) s = .next (if f.t0.toNat ≤ x.c.ends then endStream x.key x.c (takeToken x.key s)
    else if s.routeSlots x.st (f.route.toNat + x.c.ends) = 0 then s
    else updCmd x.key x.c.seq (fun c => { c with ends := c.ends + 1 }) (sendTok x.key (f.route.toNat + x.c.ends) (ctlTok 5 0) s)) := by
  change execSkDisp f s = _
  refine runSkid_does h ((if_neg (by simp [ht])).trans ?_)
  rw [ha, hq]
  exact (if_neg (by rw [hk]; decide)).trans (if_pos hk)

variable {per : Nat} {l : Lane} (hper : per = tokensFor a.e.width (a.e.x 0) + 1) (hl : l = nth ⟨0, false⟩ t.lanes (x.c.pos / per))
  (hk : t.kind = 0) (hpos : x.c.pos / per < 16)

include hper hl hk hpos

theorem skDisp_lane : exec (.skDisp f) s = .next (dispLane x f a per l (x.c.pos % per) s) := by
  subst hper hl
  change execSkDisp f s = _
  refine runSkid_does h ((if_neg (by simp [ht])).trans ?_)
  rw [ha, hq]
  exact (if_neg (by rw [hk]; decide)).trans ((if_neg (by rw [hk]; decide)).trans ((if_neg (Classical.not_not.mpr hk)).trans
    (if_neg (Nat.not_le.mpr hpos))))

variable (hp : l.poison = false)

include hp

theorem skDisp_skips (hv : l.v = noIndex) : exec (.skDisp f) s =
    .next (updCmd x.key x.c.seq (fun y => { y with pos := (y.pos / per + 1) * per }) s) := by
  rw [skDisp_lane h ha ht hq hper hl hk hpos]
  exact congrArg Host.Outcome.next ((if_neg (ne_true_of_eq_false hp)).trans (if_pos hv))

variable {row ex : Nat} (hv : l.v ≠ noIndex) (hz : bitsAt l.v.toNat 28 4 = 0) (hrow : row = bitsAt l.v.toNat 0 24)
  (hex : ex = bitsAt l.v.toNat 24 4)

include hv hz hrow hex

omit hrow in
theorem skDisp_beyond (hx : f.t0.toNat ≤ ex) : exec (.skDisp f) s = .next (updEngine x.key (fun g => { g with err := true })
    (updCmd x.key x.c.seq (fun y => { y with pos := (y.pos / per + 1) * per }) s)) := by
  subst hex
  rw [skDisp_lane h ha ht hq hper hl hk hpos]
  exact congrArg Host.Outcome.next ((if_neg (ne_true_of_eq_false hp)).trans ((if_neg hv).trans ((if_neg (Classical.not_not.mpr hz)).trans (if_pos hx))))

/-- The token that DISP sends at place sub of a row: its elements, or EOD1 after the last. -/
def rowTok (s : State) (x : EngAt) (a : Side) (per row sub : Nat) : Tok :=
  if sub + 1 = per then ctlTok 1 0 else elsTok a.e.width (readEls s x.st a (tokenPart a.e.width sub (rowIxs a.e row)))

theorem skDisp_sends (hx : ex < f.t0.toNat) (hin : row < a.e.rows) (hr : s.routeSlots x.st (f.route.toNat + ex) ≠ 0) :
    exec (.skDisp f) s = .next (updCmd x.key x.c.seq (fun y => { y with pos := y.pos + 1 })
      (sendTok x.key (f.route.toNat + ex) (rowTok s x a per row (x.c.pos % per))
        (touchEls x.st a (tokenPart a.e.width (x.c.pos % per) (rowIxs a.e row)) s))) := by
  subst hex hrow
  rw [skDisp_lane h ha ht hq hper hl hk hpos]
  exact congrArg Host.Outcome.next ((if_neg (ne_true_of_eq_false hp)).trans ((if_neg hv).trans ((if_neg (Classical.not_not.mpr hz)).trans
    ((if_neg (Nat.not_le.mpr hx)).trans ((if_neg (Nat.not_le.mpr hin)).trans (if_neg hr))))))

end Disp

theorem rowTok_eq {per row sub : Nat} {tok : Tok} (hend : sub + 1 = per → tok = ctlTok 1 0)
    (hok : ∀ els, sub + 1 ≠ per → readEls s x.st a (tokenPart a.e.width sub (rowIxs a.e row)) = .ok els → tok = dataTok a.e.width els)
    (herr : ∀ e, sub + 1 ≠ per → readEls s x.st a (tokenPart a.e.width sub (rowIxs a.e row)) = .error e → tok = faultTok 0x07) :
    rowTok s x a per row sub = tok := by
  unfold rowTok
  split
  · next hx => exact (hend hx).symm
  · next hx => exact elsTok_eq (fun els => hok els hx) fun e => herr e hx

/-! ## CMBN (R307) -/

section Cmbn

variable {mine : List Tok} (h : EngMay s x (.skCmbn f)) (hb : x.c.dstSide = some b) (hq : x.g.port.q = t :: ts)
  (hm : mine = x.c.pairHalf.filter fun u => u.rid == t.rid)

include h hb hq hm

theorem skCmbn_keeps (hk : t.kind = 0) (hne : mine ≠ []) :
    exec (.skCmbn f) s = .next (updCmd x.key x.c.seq (fun c => { c with pairHalf := c.pairHalf ++ [t] }) (takeToken x.key s)) := by
  obtain ⟨u, us, hmine⟩ := List.exists_cons_of_ne_nil hne
  rw [hm] at hmine
  change execSkCmbn f s = _
  refine runSkid_does h ?_
  dsimp only
  rw [hb, hq]
  dsimp only
  rw [hk, hmine]
  rfl

theorem skCmbn_eos (hk : t.kind = 5) (he : mine = []) : exec (.skCmbn f) s =
    .next (if x.c.ends + 1 < f.t0.toNat then updCmd x.key x.c.seq (fun c => { c with ends := c.ends + 1 }) (takeToken x.key s)
    else finishCmd x.key x.c
      (updEngine x.key (fun g => { g with err := g.err || !(rowsHeld x.g x.c).isEmpty, rows := [] }) (takeToken x.key s))) := by
  rw [hm] at he
  change execSkCmbn f s = _
  refine runSkid_does h ?_
  dsimp only
  rw [hb, hq]
  dsimp only
  rw [hk, he]
  rfl

theorem skCmbn_record {hd : Tok} {vs : List Tok} (hk : t.kind = 1) (hmine : mine = hd :: vs) (hn : vs.length = ceilDiv (b.e.x 0) 16) :
    exec (.skCmbn f) s = .next (cmbRecord x b hd ((vs.map fun u => fitLen ⟨0, false⟩ 16 u.lanes).flatten)
      (x.c.pairHalf.filter fun u => u.rid != t.rid) s) := by
  rw [hm] at hmine
  change execSkCmbn f s = _
  refine runSkid_does h ?_
  dsimp only
  rw [hb, hq]
  dsimp only
  rw [hk, hmine]
  exact if_pos hn

end Cmbn

section Record

variable {hd : Tok} {vals : List Lane} {row ex : Nat} {old : CmbRow} {others : List CmbRow} {got : List (Nat × Lane × List Lane)}
  {rest : List Tok} {s1 : State} (hrow : row = (nth ⟨0, false⟩ hd.lanes 0).v.toNat) (hex : ex = (nth ⟨0, false⟩ hd.lanes 1).v.toNat)
  (hold : old = (x.g.rows.find? fun q => q.row == row).getD ⟨row, (nth ⟨0, false⟩ hd.lanes 3).v.toNat, []⟩)
  (hothers : others = x.g.rows.filter fun q => q.row != row) (hgot : got = insertPart (ex, nth ⟨0, false⟩ hd.lanes 2, vals) old.got)
  (hs : s1 = updCmd x.key x.c.seq (fun c => { c with pairHalf := rest }) (takeToken x.key s))

include hrow hex hold hothers hgot hs

/-- What a complete record does to its row. -/
theorem cmbRecord_eq : cmbRecord x b hd vals rest s =
    if old.got.any (fun p => p.1 == ex) then updEngine x.key (fun g => { g with err := true }) s1
    else if got.length < old.need then updEngine x.key (fun g => { g with rows := others ++ [{ old with got := got }] }) s1
    else afterWrite x.key x.c s (fun s2 => updEngine x.key (fun g => { g with rows := others })
        (updCmd x.key x.c.seq (fun c => { c with pairHalf := rest }) (takeToken x.key s2)))
      (writeEls x.key b (rowIxs b.e row) ((upTo (b.e.x 0)).map (cmbEl b.e got)) s) := by
  subst hs hgot hothers hold hex hrow
  rfl

theorem cmbRecord_again (hx : ∃ q ∈ old.got, q.1 = ex) :
    cmbRecord x b hd vals rest s = updEngine x.key (fun g => { g with err := true }) s1 := by
  rw [cmbRecord_eq hrow hex hold hothers hgot hs, if_pos]
  simpa [List.any_eq_true] using hx

omit hrow hex hold hothers hgot hs in
theorem any_expert_false (hx : ∀ q ∈ old.got, q.1 ≠ ex) : ¬ (old.got.any fun p => p.1 == ex) = true := by
  rw [List.any_eq_true]
  rintro ⟨q, hq, he⟩
  exact hx q hq (beq_iff_eq.mp he)

theorem cmbRecord_keeps (hx : ∀ q ∈ old.got, q.1 ≠ ex) (hn : got.length < old.need) : cmbRecord x b hd vals rest s =
    updEngine x.key (fun g => { g with rows := others ++ [{ old with got := got }] }) s1 := by
  rw [cmbRecord_eq hrow hex hold hothers hgot hs, if_neg (any_expert_false hx), if_pos hn]

theorem cmbRecord_writes (hx : ∀ q ∈ old.got, q.1 ≠ ex) (hn : old.need ≤ got.length) : cmbRecord x b hd vals rest s =
    afterWrite x.key x.c s (fun s2 => updEngine x.key (fun g => { g with rows := others })
        (updCmd x.key x.c.seq (fun c => { c with pairHalf := rest }) (takeToken x.key s2)))
      (writeEls x.key b (rowIxs b.e row) ((upTo (b.e.x 0)).map (cmbEl b.e got)) s) := by
  rw [cmbRecord_eq hrow hex hold hothers hgot hs, if_neg (any_expert_false hx), if_neg (Nat.not_lt.mpr hn)]

end Record

theorem insertPart_perm (p : Nat × Lane × List Lane) (l : List (Nat × Lane × List Lane)) : (insertPart p l).Perm (p :: l) := by
  induction l with
  | nil => exact .refl _
  | cons q qs ih =>
    unfold insertPart
    split
    · exact .refl _
    · exact (ih.cons q).trans (.swap p q qs)

/-- A contribution of a new expert takes its place in increasing order. -/
theorem insertPart_pairwise {p : Nat × Lane × List Lane} {l : List (Nat × Lane × List Lane)} (hl : l.Pairwise fun y z => y.1 < z.1)
    (hp : ∀ q ∈ l, q.1 ≠ p.1) : (insertPart p l).Pairwise fun y z => y.1 < z.1 := by
  induction l with
  | nil => exact List.pairwise_singleton _ p
  | cons q qs ih =>
    obtain ⟨hq, hqs⟩ := List.pairwise_cons.mp hl
    unfold insertPart
    split
    · next hlt =>
      refine List.pairwise_cons.mpr ⟨fun z hz => ?_, hl⟩
      rcases List.mem_cons.mp hz with rfl | hz
      · exact hlt
      · exact Nat.lt_trans hlt (hq z hz)
    · next hge =>
      refine List.pairwise_cons.mpr ⟨fun z hz => ?_, ih hqs fun y hy => hp y (List.mem_cons_of_mem q hy)⟩
      rcases List.mem_cons.mp ((insertPart_perm p qs).mem_iff.mp hz) with rfl | hz
      · exact Nat.lt_of_le_of_ne (Nat.not_lt.mp hge) (hp q List.mem_cons_self)
      · exact hq z hz

/-! ## COLL (R308) -/

section Coll

/-- One step of COLL on its part. -/
def collStep (f : Skid) (a b : Side) (p : CollPart) (x : EngAt) (s : State) : State :=
  match p.stage with
  | .issued =>
    (match readEls s x.st a (a.e.tileElems a.co) with
    | .error _ => failCmd x.key x.c 0x07 s
    | .ok els => contribute x.key x.c (els.map fun e => (BitVec.ofNat 32 e.v, e.poison))
        (if a.store.isSome then addBytes x.key.stand (elBytes a.e (a.e.tileElems a.co)) s else s))
  | .joined => writeTile x.key x.c b (collEl b p.els) s (finishCmd x.key x.c)
  | _ => settleColl x.st.vf f.scope.toNat b.tid (b.e.tileIndex b.co) f.l2op.toNat b.e.fmt s

/-- The step of COLL for the part that its command has. -/
def collBody (f : Skid) (x : EngAt) (s : State) : State :=
  match x.c.srcSide, x.c.dstSide, myPart? s x.key x.c.seq with
  | some a, some b, some p => collStep f a b p x s
  | _, _, _ => rejectCmd x.key x.c s

theorem exec_skColl (f : Skid) (s : State) : exec (.skColl f) s = runSkid (.skColl f) (collBody f) s := rfl

variable {p : CollPart} (h : EngMay s x (.skColl f)) (ha : x.c.srcSide = some a) (hb : x.c.dstSide = some b)
  (hp : myPart? s x.key x.c.seq = some p)

include ha hb hp

theorem collBody_eq : collBody f x s = collStep f a b p x s := by
  rw [collBody, ha, hb, hp]

theorem collBody_contributes {els : List TileEl} (hs : p.stage = .issued) (hr : readEls s x.st a (a.e.tileElems a.co) = .ok els) :
    collBody f x s = updColls (fun l => l.map fun q => if q.cmd = some (x.key, x.c.seq) then
        { q with els := els.map fun e => (BitVec.ofNat 32 e.v, e.poison), stage := .contributed } else q)
      (updCmd x.key x.c.seq (fun c => { c with todo := some [], passR := true })
        (if a.store.isSome then addBytes x.key.stand (elBytes a.e (a.e.tileElems a.co)) s else s)) := by
  rw [collBody_eq ha hb hp, collStep, hs]
  dsimp only
  rw [hr]
  rfl

theorem collBody_fails {e : Nat} (hs : p.stage = .issued) (hr : readEls s x.st a (a.e.tileElems a.co) = .error e) :
    collBody f x s = failCmd x.key x.c 0x07 s := by
  rw [collBody_eq ha hb hp, collStep, hs]
  dsimp only
  rw [hr]

theorem collBody_settles (hs : p.stage = .contributed ∨ p.stage = .sent) :
    collBody f x s = settleColl x.st.vf f.scope.toNat b.tid (b.e.tileIndex b.co) f.l2op.toNat b.e.fmt s := by
  rw [collBody_eq ha hb hp, collStep]
  rcases hs with hs | hs <;> rw [hs]

theorem collBody_joined (hs : p.stage = .joined) :
    collBody f x s = writeTile x.key x.c b (collEl b p.els) s (finishCmd x.key x.c) := by
  rw [collBody_eq ha hb hp, collStep, hs]

end Coll

theorem length_filterMap_upTo_lt {α : Type} {g : Nat → Option α} {n m : Nat} (hn : n < m) (hg : g n = none) :
    ((upTo m).filterMap g).length < m := by
  have short := List.length_filterMap_lt_length_iff_exists.mpr ⟨n, FileProofs.mem_upTo.mpr hn, hg⟩
  rwa [show (upTo m).length = m from MemoryProofs.length_upFrom 0 m] at short

/-- A collective of which a rank has not contributed stays as it is. -/
theorem settleColl_waits {vf scope dtid tile l2op ty n : Nat} (hn : n < collSize s vf scope)
    (hp : ∀ p, s.fab.colls.find? (fun p => p.matches vf scope dtid tile && p.rank == n && p.stage != .joined) = some p →
      p.ready = false) : settleColl vf scope dtid tile l2op ty s = s := by
  refine if_pos ?_
  rw [List.filter_filterMap]
  refine length_filterMap_upTo_lt hn ?_
  rw [Option.filter_eq_none_iff]
  intro p hx
  simp [hp p hx]

/-- Settles O45, command by command. -/
theorem skidStreamCommands : Obligations.SkidStreamCommands := by
  unfold Obligations.SkidStreamCommands
  rintro s x f _ _ rfl rfl
  refine ⟨fun h a tok s1 ha ht hr hok herr hs => ?strm, fun i hi h b t ts => sink_faults i hi h, fun i hi h a t ts => source_faults i hi h,
    fun h b t ts ixs hb hq hk hi => skSink_writes h hb hq hk hi, fun h a t ts ha ht hq hr s1 hs => ?gath,
    fun h b t ts hb hq hk => ⟨skScat_keeps h hb hq hk, fun i is p hp hl => ⟨skScat_pauses h hb hq hk hp hl, fun s1 bad s2 hw hs =>
      ⟨skScat_faults h hb hq hk hp hl hw hs, fun cause => skScat_fails h hb hq hk hp hl hw hs, skScat_writes h hb hq hk hp hl hw hs⟩⟩⟩,
    fun h a t ts per l ha ht hq hper hl => ⟨fun hk hpos hp hv => skDisp_skips h ha ht hq hper hl hk hpos hp hv,
      fun row ex hk hpos hp hv hz hrow hex => ⟨skDisp_beyond h ha ht hq hper hl hk hpos hp hv hz hex,
        fun tok ixs hx hin hr hi hend hok herr => ?row⟩, fun hk hlt hr => ?eos, fun hk hle => ?ended⟩,
    fun h b t ts mine hb hq hm => ⟨skCmbn_keeps h hb hq hm, fun hk he hlt => ?counts, fun hk he hle => ?combined, ?records⟩,
    fun p l hl hp => ⟨insertPart_pairwise hl hp, insertPart_perm p l⟩, fun h a b p ha hb hp => ?coll,
    fun vf scope dtid tile l2op ty n hn hp => settleColl_waits hn hp⟩
  case strm => exact ⟨skStrm_goes h ha ht hr (elsTok_eq hok herr) hs, skStrm_ends h ha ht hr (elsTok_eq hok herr) hs⟩
  case gath =>
    subst hs
    exact ⟨fun ls hk hg => skGath_answers h ha ht hq hr (read := .ok ls) hk hg,
      fun c hk hg => skGath_answers h ha ht hq hr (read := .error c) hk hg,
      fun h0 h5 _ h9 => skGath_forwards h ha ht hq hr h0 h5 h9, skGath_ends h ha ht hq hr⟩
  case row =>
    subst hi
    rw [skDisp_sends h ha ht hq hper hl hk hpos hp hv hz hrow hex hx hin hr, rowTok_eq hend hok herr]
  case eos => rw [skDisp_eos h ha ht hq hk, if_neg (Nat.not_le.mpr hlt), if_neg hr]
  case ended => rw [skDisp_eos h ha ht hq hk, if_pos hle]
  case counts => rw [skCmbn_eos h hb hq hm hk he, if_pos hlt]
  case combined => rw [skCmbn_eos h hb hq hm hk he, if_neg (Nat.not_lt.mpr hle)]
  case records =>
    intro hd vs row ex old others got rest s1 hk hmine hn hrow hex hold hothers hrest hgot hs
    subst hrest
    rw [skCmbn_record h hb hq hm hk hmine hn]
    refine ⟨fun hx => ?again, fun hx hlt => ?keeps, fun hx hle => ?writes⟩
    case again => rw [cmbRecord_again hrow hex hold hothers hgot hs hx]
    case keeps => rw [cmbRecord_keeps hrow hex hold hothers hgot hs hx hlt]
    case writes =>
      rw [cmbRecord_writes hrow hex hold hothers hgot hs hx hle]
      exact ⟨_, rfl, SkidProofs.wrote_afterWrite _ _⟩
  case coll =>
    rw [exec_skColl]
    refine ⟨fun els hs hr => runSkid_does h (collBody_contributes ha hb hp hs hr), fun e hs hr => runSkid_does h (collBody_fails ha hb hp hs hr),
      fun hs => runSkid_does h (collBody_settles ha hb hp hs), fun hs hd => ?_, fun hs hd => ?_⟩
    · exact runSkid_wroteTile h (exec_skColl f s) hd (collBody_joined ha hb hp hs) rfl
    · exact runSkid_writes h ((collBody_joined ha hb hp hs).trans (writeTile_store hd))

end Sys2Proof.StreamProofs
end

section
/-! A task's wait at its limit, and the fourth operand of its record (R17, R18). -/

namespace Sys2Proof.AgentProofs

open Sys2Proof Sys2Proof.Machine Sys2Proof.Claims

/-- The only task of a stand of one weave. -/
def lateKey : TKey := ⟨0, ⟨0, 0, 0, 0⟩, 1⟩

/-- A wait under object number 0x3E whose limit has come. -/
def lateWait : TWait := ⟨0x3E, 0, 0, 0⟩

/-- The task has fired, stands at word 1 and waits. -/
def waitsLate (k : Task) : Task := { k with fired := true, pc := 1, wait := some lateWait }

/-- A state in which `lateKey` waits under 0x3E beyond its limit. -/
def lateState : State :=
  let t := Stand.placed 0 0 0 0 0 1 0 (bareKernel [] [0, 0] 1) ⟨0, 0, 0⟩ [5] [0] 0 0
  { State.reset with stands := [{ t with weaves := t.weaves.map fun w => { w with tasks := w.tasks.map waitsLate } }] }

theorem lateState_cell : (lateState.cell? lateKey).isSome = true := by decide

/-- What the task sees. -/
def lateCell : Cell := (lateState.cell? lateKey).get lateState_cell

/-- The first byte of op4 in the record that the context of the stand's queue holds first. -/
def firstOp4 : Out → Option Byte
  | .next s => some (s.lmem.byte (localAddr ⟨0, 0, 0⟩ (tqBase ⟨0, 0, 0⟩) + 28))
  | _ => none

/-- Refutes O46: the record of a wait that has expired carries 0 in op4 whatever the wait's object is (`waitTrap`), while the
statement asks for the task's pc there when the object is 0x3E; the task of `lateState` stands at word 1. -/
theorem not_eventsOfAgents : ¬ Obligations.EventsOfAgents := by
  unfold Obligations.EventsOfAgents
  rintro ⟨tasks, -⟩
  obtain ⟨-, -, -, -, expired, -⟩ := tasks lateState lateKey lateCell lateWait
  have claim := expired 1 ⟨(Option.some_get lateState_cell).symm, by decide, by decide, by decide, by decide⟩ (by decide) (by decide)
    (by decide) (by decide) (by decide)
  exact absurd (congrArg firstOp4 claim) (by decide)

end Sys2Proof.AgentProofs
end

section
/-! Events of weaves, coppice windows and waves (R111, R136, R139 to R143, R263, R285, R347, R348, R351, R360). -/

namespace Sys2Proof.WaveProofs

open Sys2Proof Sys2Proof.Machine Sys2Proof.Claims

variable {s s1 : State} {k : WKey} {st : Nat} {t : Stand} {tile bad row : Nat} {m m1 : Mult} {w : Weave}

/-! ## Chunks of multiplies (R263, R360) -/

section Chunk

variable (ht : s.stand? k.stand = some t) (hm : (t.weave k.pos).mults.find? (fun m => m.tile == tile) = some m)

include ht hm

/-- An event of a multiply that does not wait for the link. -/
theorem exec_chunk (hl : m.link = none) (hs : s1 = if bad = 0 then s else countError t.die 0 (t.compOf k.pos) s) :
    exec (.matrixChunkComplete k tile bad row) s =
      if t.retry < bad then
        .next (defer ⟨k.stand, k.pos, m.nid⟩ ⟨0x0A, m.pc, BitVec.ofNat 32 row, 6, 0, [], [tile], [m.buf], [], false⟩
          (s1.updWeave k fun w => { w with mults := dropFirst (fun x => x.tile == tile) w.mults }))
      else .next (s1.updWeave k fun w => { (w.setTile tile ((w.tile tile).chunk (tileRows t.g) m)) with
          mults := if m.k ≤ 8 * (m.done + 1) then dropFirst (fun x => x.tile == tile) w.mults
            else replaceFirst (fun x => x.tile == tile) { m with done := m.done + 1 } w.mults }) := by
  subst hs
  change execMatrixChunkComplete k tile bad row s = _
  rw [execMatrixChunkComplete, ht]
  dsimp only
  rw [hm]
  exact if_neg (by simp [hl])

/-- An event of a multiply that waits for the link. -/
theorem exec_chunk_link (hl : m.link ≠ none) :
    exec (.matrixChunkComplete k tile bad row) s = .next (linkStep k t (t.weave k.pos) m s) := by
  change execMatrixChunkComplete k tile bad row s = _
  rw [execMatrixChunkComplete, ht]
  dsimp only
  rw [hm]
  exact if_pos (Option.isSome_iff_ne_none.mpr hl)

end Chunk

section Link

variable (hf : w.mults.find? (fun x => x.link == m.link) = some m)

include hf

/-- The first of the multiplies that wait as this one does. -/
theorem linkStep_first : linkStep k t w m s = match m.link with
    | some .place => if w.link.isSome then s else placeStep k t.g m s
    | some .take => (match linkOffer t w with | some x => takeStep k t w m x s | none => s)
    | none => s := by
  rw [linkStep, hf]
  exact if_neg (by simp)

theorem linkStep_places (hl : m.link = some .place) (hw : w.link = none) (hm : m1 = { m with link := none }) :
    linkStep k t w m s = countMult k t.g m1 (s.updWeave k fun w => { w with
      link := some ⟨m.ty, m.k, m.a, []⟩, mults := replaceFirst (fun x => x == m) m1 w.mults }) := by
  subst hm
  rw [linkStep_first hf, hl]
  exact if_neg (by simp [hw])

theorem linkStep_takes {lead : WPos} {x : Link} (hl : m.link = some .take) (hlead : w.leader = some lead) (hx : linkOffer t w = some x)
    (hty : x.ty = m.ty) (hk : x.k ≤ m.b.length) (hm : m1 = { m with link := none, k := x.k, a := x.a }) :
    linkStep k t w m s = (countMult k t.g m1 (s.updWeave k fun w => { w with
      mults := replaceFirst (fun x => x == m) m1 w.mults })).updStand k.stand fun t => t.takeFrom lead k.pos := by
  subst hm
  rw [linkStep_first hf, hl]
  dsimp only
  rw [hx]
  dsimp only
  rw [takeStep, if_neg (Classical.not_not.mpr hty), if_neg (Nat.not_lt.mpr hk), hlead]
  rfl

theorem linkStep_waits (hx : (m.link = some .place ∧ w.link ≠ none) ∨ (m.link = some .take ∧ linkOffer t w = none)) :
    linkStep k t w m s = s := by
  rw [linkStep_first hf]
  rcases hx with ⟨hl, hw⟩ | ⟨hl, hw⟩
  · rw [hl]
    exact if_pos (Option.isSome_iff_ne_none.mpr hw)
  · rw [hl]
    dsimp only
    rw [hw]

end Link

/-! ## The switch of contexts (R136) -/

theorem switchDue_ready {n : Nat} (h : ctxcReady t w n) : switchDue t w = some n := by
  obtain ⟨rest, hheads, hrest, hfired⟩ := h
  unfold switchDue
  split
  · next hnone =>
    rw [hnone] at hheads
    exact absurd hheads (by simp [ctxcHeads])
  · next act hne =>
    rw [hheads]
    exact if_pos (by rw [hrest, hfired]; rfl)

theorem ctxcSwitch_switches {n : Nat} (ht : s.stand? k.stand = some t) (hw : t.weaves.find? (fun w => w.pos == k.pos) = some w)
    (hr : t.status = .resident) (hh : w.halted = false) (hc : ctxcReady t w n) :
    exec (.ctxcSwitch k) s = .next (settleSwitch k.stand (switchWeave t w n s)) := by
  change execCtxcSwitch k s = _
  rw [execCtxcSwitch, ht]
  dsimp only
  rw [hw]
  dsimp only
  rw [if_neg (by simp [hr, hh]), switchDue_ready hc]

/-! ## The end of a window (R139 to R142) -/

section Window

variable (ht : s.stand? st = some t) (hr : t.status = .resident) (hw : t.cop.winStart + 2 ^ t.cop.wcur ≤ s.cyc t.die)

include ht hr hw

/-- A window of a resident stand that has ended. -/
theorem exec_window : exec (.coppiceWindowEnd st) s =
    if t.cop.pend ∨ (t.cop.ops = 0 ∧ t.cop.bytes = 0) then .next (s.setStand { t with cop := t.cop.newWindow (s.cyc t.die) })
    else match (t.cop.decide t.kern.grains t.g).2 with
      | none => .next (s.setStand { t with cop := (t.cop.decide t.kern.grains t.g).1.newWindow (s.cyc t.die) })
      | some g => .next (if (s.ctx t.ctx).block.isNone then requestWave st { WaveFlags.none with grain := true }
          (s.setStand { t with cop := { (t.cop.decide t.kern.grains t.g).1.newWindow (s.cyc t.die) with pend := true, target := g } })
        else s.setStand { t with cop := { (t.cop.decide t.kern.grains t.g).1.newWindow (s.cyc t.die) with pend := true, target := g } }) := by
  change execCoppiceWindowEnd st s = _
  rw [execCoppiceWindowEnd, ht]
  exact if_neg (by simp [hr, hw])

theorem window_idle (hx : t.cop.pend = true ∨ (t.cop.ops = 0 ∧ t.cop.bytes = 0)) : exec (.coppiceWindowEnd st) s =
    .next (s.setStand { t with cop := { t.cop with ops := 0, bytes := 0, winStart := s.cyc t.die, wcur := t.cop.wexp } }) := by
  rw [exec_window ht hr hw, if_pos hx]
  rfl

variable {c : Coppice} {g : Nat} (hp : t.cop.pend = false) (hx : t.cop.ops ≠ 0 ∨ t.cop.bytes ≠ 0)
  (hd : t.cop.decide t.kern.grains t.g = (c, some g))

include hp hx hd

theorem window_decides : exec (.coppiceWindowEnd st) s =
    .next (if (s.ctx t.ctx).block.isNone then requestWave st { WaveFlags.none with grain := true }
        (s.setStand { t with cop := { c.newWindow (s.cyc t.die) with pend := true, target := g } })
      else s.setStand { t with cop := { c.newWindow (s.cyc t.die) with pend := true, target := g } }) := by
  have busy : ¬ (t.cop.pend = true ∨ (t.cop.ops = 0 ∧ t.cop.bytes = 0)) := by
    rw [hp, not_or, Classical.not_and_iff_not_or_not]
    exact ⟨Bool.false_ne_true, hx⟩
  rw [exec_window ht hr hw, if_neg busy, hd]

theorem window_fed (hb : (s.ctx t.ctx).block ≠ none) : exec (.coppiceWindowEnd st) s =
    .next (s.setStand { t with cop := { c.newWindow (s.cyc t.die) with pend := true, target := g } }) := by
  rw [window_decides ht hr hw hp hx hd, if_neg (by simpa using hb)]

theorem window_unfed (hb : (s.ctx t.ctx).block = none) : exec (.coppiceWindowEnd st) s =
    .next (requestWave st { WaveFlags.none with grain := true }
      (s.setStand { t with cop := { c.newWindow (s.cyc t.die) with pend := true, target := g } })) := by
  rw [window_decides ht hr hw hp hx hd, if_pos (by simp [hb])]

end Window

/-! ## Evictions, snapshots and waves (R285, R347, R348, R351) -/

theorem l1Eviction_evicts {cell line : Nat} (he : evict k (fun x => x.cell == cell && x.line == line) s = some s1) :
    exec (.l1Eviction k cell line) s = .next s1 := by
  change execL1Eviction k cell line s = _
  rw [execL1Eviction, he]

theorem weaveSnapshot_snaps {t1 : Stand} {x : Wave} (ht : s.stand? k.stand = some t)
    (hd : (t.weaves.any fun w => w.pos == k.pos && snapDue s t w) = true) (hs : s1 = flushL1 k s) (ht1 : s1.stand? k.stand = some t1)
    (hx : t1.wave = some x) : exec (.weaveSnapshot k) s = .next (snapWeave t1 x (t1.weave k.pos) s1) := by
  subst hs
  change execWeaveSnapshot k s = _
  rw [execWeaveSnapshot, ht]
  refine (if_pos hd).trans ?_
  dsimp only
  rw [ht1, Option.bind_some, hx]

section Complete

variable {x : Wave} (ht : s.stand? st = some t) (hx : t.wave = some x)

include ht hx

/-- A wave under way. -/
theorem exec_waveComplete : exec (.waveComplete st) s =
    if x.committed then .next (afterCommit t x s)
    else if waveWhole t x = false then .next s
    else if x.flags.halt then .next (haltComplete t x s)
    else .next (commitWave t x s) := by
  change execWaveComplete st s = _
  rw [execWaveComplete, ht]
  dsimp only
  rw [hx]

theorem waveComplete_whole (hc : x.committed = false) (hw : waveWhole t x = true) :
    exec (.waveComplete st) s = .next (if x.flags.halt then haltComplete t x s else commitWave t x s) := by
  rw [exec_waveComplete ht hx, if_neg (ne_true_of_eq_false hc), if_neg (by simp [hw])]
  exact (apply_ite Host.Outcome.next _ _ _).symm

theorem waveComplete_publishes {p : HeldPub} {ps : List HeldPub} (hc : x.committed = true) (hl : pubsLeft s t.id = false)
    (hp : x.pubs = p :: ps) : exec (.waveComplete st) s =
      .next (handOver t p (s.setStand { t with wave := some { x with pubs := ps } })) := by
  rw [exec_waveComplete ht hx, if_pos hc, afterCommit, if_neg (ne_true_of_eq_false hl), hp]

end Complete

theorem periodicBlaze_requests (ht : s.stand? st = some t) (hr : t.status = .resident) (hw : t.wave = none) (hq : t.waveReq = none)
    (hh : t.isHeld = none) (hp : (s.vf t.vf).cfg.blzper.toNat % 32 ≠ 0)
    (hl : t.lastWaveAt + 2 ^ max 16 ((s.vf t.vf).cfg.blzper.toNat % 32) ≤ s.cyc t.die) :
    exec (.periodicBlaze st) s = .next (requestWave st WaveFlags.none s) := by
  change execPeriodicBlaze st s = _
  rw [execPeriodicBlaze, ht]
  dsimp only
  rw [blazePeriod, if_neg hp]
  exact if_pos ⟨hr, by simp [hw], by simp [hq], by simp [hh], hl⟩

/-- Settles O47, event by event. -/
theorem eventsOfWaves : Obligations.EventsOfWaves := by
  unfold Obligations.EventsOfWaves
  refine fun s k st t => ⟨fun tile bad row m s1 ht hm hl hs => ⟨fun hb => ?chunk, fun hb => ?residue⟩,
    fun tile bad row m w ht hw hm hf => ⟨fun hl hn m1 hm1 => ?places, fun lead x m1 hl hlead hx hty hk hm1 => ?takes, fun hx => ?waits⟩,
    fun w n => ctxcSwitch_switches, fun ht hr hw => ⟨window_idle ht hr hw, fun c g => window_fed ht hr hw, fun c g => window_unfed ht hr hw⟩,
    fun cell line s1 => l1Eviction_evicts, fun s1 t1 x => weaveSnapshot_snaps, fun x => waveComplete_whole,
    fun x p ps ht hx hc hl hp => waveComplete_publishes ht hx hc hl hp, periodicBlaze_requests⟩
  case chunk => rw [exec_chunk ht hm hl hs, if_neg (Nat.not_lt.mpr hb)]
  case residue => rw [exec_chunk ht hm hl hs, if_pos hb]
  case places =>
    subst hw
    rw [exec_chunk_link ht hm (by simp [hl]), linkStep_places hf hl hn hm1]
  case takes =>
    subst hw
    rw [exec_chunk_link ht hm (by simp [hl]), linkStep_takes hf hl hlead hx hty hk hm1]
  case waits =>
    subst hw
    have waiting : m.link ≠ none := by
      rcases hx with ⟨hl, -⟩ | ⟨hl, -⟩ <;> simp [hl]
    rw [exec_chunk_link ht hm waiting, linkStep_waits hf hx]

end Sys2Proof.WaveProofs
end

section
/-! Events of the tensor table, of the loader and of root programs (R70, R88, R93, R97 to R100, R103, R104, R119). -/

namespace Sys2Proof.LoaderProofs

open Sys2Proof Sys2Proof.Machine Sys2Proof.Claims

variable {s : State} {vf : Nat}

/-! ## The tensor table (R70) -/

section Table

variable {tid : Nat} (ht : tid = (s.vf vf).tens.ttidx.toNat % 4096)

include ht

theorem ttCommit_refuses (h : tid = 0 ∨ malformedEntry (s.vf vf).tens.staged = true) : exec (.ttCommit vf) s =
    .next (s.setVf { s.vf vf with tens := { (s.vf vf).tens with ttstat := 1 } }) := by
  subst ht
  exact if_pos h

theorem ttCommit_installs {old w : BitVec 256} (h0 : tid ≠ 0) (hm : malformedEntry (s.vf vf).tens.staged = false)
    (ho : old = (lookupNat tid (s.vf vf).tens.table).getD 0)
    (hw : w = if (tensorEntry old).v then BitVec.ofNat 256 (putBits (s.vf vf).tens.staged.toNat 48 8 (tensorEntry old).gen)
      else (s.vf vf).tens.staged) :
    exec (.ttCommit vf) s = .next (checkRecords vf tid (s.setVf { s.vf vf with tens := { (s.vf vf).tens with
      ttstat := 0, table := storeNat tid w (s.vf vf).tens.table } })) := by
  subst ht ho hw
  exact if_neg (not_or.mpr ⟨h0, ne_true_of_eq_false hm⟩)

theorem ttRead_stages {w : BitVec 256} (h0 : tid ≠ 0) (hw : lookupNat tid (s.vf vf).tens.table = some w) :
    exec (.ttRead vf) s = .next (s.setVf { s.vf vf with tens := { (s.vf vf).tens with
      ttw0 := w.extractLsb' 0 64, ttw1 := w.extractLsb' 64 64, ttw2 := w.extractLsb' 128 64, ttw3 := w.extractLsb' 192 64 } }) := by
  subst ht
  change execTtRead vf s = _
  rw [execTtRead]
  dsimp only
  rw [if_neg h0, hw, Option.getD_some]

end Table

/-! ## What a load reads, and its status (R97 to R99) -/

theorem not_busy (h : (s.vf vf).load.pending = none) : ¬ (s.vf vf).busy = true := by
  simp [Vf.busy, h]

section Objects

variable {root : Bool} {go : Obj → List Byte → State → Nat × State}

/-- An address that is no multiple of 64 ends the load with status 0x2C. -/
theorem loadObject_misaligned (ha : (s.vf vf).load.kladdr.toNat % 64 ≠ 0) : loadObject vf root go s = (0x2C, 0, s) := by
  rw [loadObject]
  dsimp only
  rw [if_neg ha]

variable {bs : List Byte} {o : Obj}

/-- An object that its registers name is checked for its format, measured and loaded. -/
theorem loadObject_object (h : objectOf s vf bs o) : loadObject vf root go s =
    if o.formatOk root = false then (0x20, if root then 0 else o.kid, s)
    else ((go o bs (addMeasure vf bs s)).1, if root then 0 else o.kid, (go o bs (addMeasure vf bs s)).2) := by
  obtain ⟨-, haddr, hbytes, rfl⟩ := h
  rw [loadObject]
  dsimp only
  rw [if_pos haddr, hbytes]

end Objects

/-- What KERNEL_LOAD does with an object once it is measured. -/
def loadKernel (vf : Nat) (o : Obj) (bs : List Byte) (s : State) : Nat × State :=
  match kernelChecks s vf o bs with
  | some code => (code, s)
  | none => installKernel vf o s

/-- What ROOT_PROGRAM_CREATE does with an object once it is measured. -/
def loadRoot (vf : Nat) (o : Obj) (bs : List Byte) (s : State) : Nat × State :=
  match firstFail [(signOk s vf o bs, 0x21), (o.descriptorOk, 0x22), (o.kernel.textOk, 0x23)] with
  | some code => (code, s)
  | none => createRoot vf o s

theorem exec_kernelLoad (h : (s.vf vf).load.pending = none) :
    exec (.kernelLoad vf) s = .next (beginCmd vf (loadObject vf false (loadKernel vf) s)) :=
  if_neg (not_busy h)

theorem exec_rootProgramCreate (h : (s.vf vf).load.pending = none) :
    exec (.rootProgramCreate vf) s = .next (beginCmd vf (loadObject vf true (loadRoot vf) s)) :=
  if_neg (not_busy h)

section Loads

variable {bs : List Byte} {o : Obj} (h : objectOf s vf bs o)

include h

theorem kernelLoad_object (hf : o.formatOk false = true) : exec (.kernelLoad vf) s = .next (loads
    (loadKernel vf o bs (addMeasure vf bs s)).2 vf (loadKernel vf o bs (addMeasure vf bs s)).1 o.kid) := by
  rw [exec_kernelLoad h.1, loadObject_object h, if_neg (by simp [hf])] <;> rfl

theorem kernelLoad_badFormat (hf : o.formatOk false = false) : exec (.kernelLoad vf) s = .next (loads s vf 0x20 o.kid) := by
  rw [exec_kernelLoad h.1, loadObject_object h, if_pos hf] <;> rfl

theorem rootProgramCreate_badFormat (hf : o.formatOk true = false) :
    exec (.rootProgramCreate vf) s = .next (loads s vf 0x20 0) := by
  rw [exec_rootProgramCreate h.1, loadObject_object h, if_pos hf] <;> rfl

theorem rootProgramCreate_creates {s1 : State} (hf : o.formatOk true = true) (hs : s1 = addMeasure vf bs s)
    (hsign : signOk s1 vf o bs = true) (hd : o.descriptorOk = true) (ht : o.kernel.textOk = true) :
    exec (.rootProgramCreate vf) s = .next (loads (createRoot vf o s1).2 vf (createRoot vf o s1).1 0) := by
  subst hs
  have passes : loadRoot vf o bs (addMeasure vf bs s) = createRoot vf o (addMeasure vf bs s) := by
    rw [loadRoot, hsign, hd, ht] <;> rfl
  rw [exec_rootProgramCreate h.1, loadObject_object h, if_neg (by simp [hf]), passes] <;> rfl

end Loads

/-! ## Installing a kernel (R88, R93, R99) -/

theorem loadKernel_refused {o : Obj} {bs : List Byte} {code : Nat} (h : kernelChecks s vf o bs = some code) :
    loadKernel vf o bs s = (code, s) := by
  rw [loadKernel, h]

section Install

variable {o o1 : Obj} {bs : List Byte} {table : List (Nat × BitVec 256)} {ids : PerDie (List Nat)} {a : Nat}
  (hc : kernelChecks s vf o bs = none) (ha : a = dataBase s vf o) (hr : o.relocated a = some o1)
  (hi : installTens o1.tensors (s.vf vf).tens.table = some table) (ht : (o.kernel.tags.all (tagOk table)) = true)
  (hids : assignIds s vf o.kernel.routes.length = some ids)

include hc ha hr hi ht hids

theorem loadKernel_inUse (hk : s.kernel? vf o.kid ≠ none) : loadKernel vf o bs s = (0x28, s) := by
  subst ha
  rw [loadKernel, hc]
  dsimp only
  rw [installKernel, hr, Option.getD_some, hi]
  dsimp only
  rw [if_neg (by simp [ht]), hids]
  exact if_pos (Option.isSome_iff_ne_none.mpr hk)

theorem loadKernel_installs {places : List (Nat × Nat)} (hk : s.kernel? vf o.kid = none) (hp : dataPlaces s vf o = some places) :
    loadKernel vf o bs s = (0, installData vf o1 a table places (s.updVf vf fun v => { v with load := { v.load with
      kernels := v.load.kernels ++ [{ o1.kernel with rids := ids, fits := o1.kernel.fitting }] } })) := by
  subst ha
  rw [loadKernel, hc]
  dsimp only
  rw [installKernel, hr, Option.getD_some, hi]
  dsimp only
  rw [if_neg (by simp [ht]), hids]
  dsimp only
  rw [if_neg (by simp [hk]), hp]

end Install

/-! ## Unloading (R100, R119) -/

theorem exec_kernelUnload {kid st : Nat} (hk : kid = (s.vf vf).load.klkid.toNat % 65536) (hp : (s.vf vf).load.pending = none)
    (hst : unloadStatus s vf kid = st) : exec (.kernelUnload vf) s = .next (loads
      (if st = 0x30 then s.setVf { s.vf vf with load := { (s.vf vf).load with
        kernels := (s.vf vf).load.kernels.filter fun k => k.kid != kid } } else s) vf st kid) := by
  subst hk hst
  exact if_neg (not_busy hp)

theorem unloadStatus_unknown {kid : Nat} (hk : s.kernel? vf kid = none) : unloadStatus s vf kid = 0x31 :=
  if_pos (by simp [hk])

theorem unloadStatus_unused {kid : Nat} (hk : s.kernel? vf kid ≠ none)
    (hst : ∀ t ∈ s.stands, ¬ (t.status = .resident ∧ t.vf = vf ∧ t.kern.kid = kid))
    (hrec : ∀ r ∈ s.recsOf vf, recKid r.word ≠ kid) : unloadStatus s vf kid = 0x30 := by
  have noStand : (s.stands.any fun t => t.status == .resident && t.vf == vf && t.kern.kid == kid) = false := by
    rw [List.any_eq_false]
    intro t ht hx
    simp only [Bool.and_eq_true, beq_iff_eq] at hx
    exact hst t ht ⟨hx.1.1, hx.1.2, hx.2⟩
  have noRec : ((s.recsOf vf).any fun r => recKid r.word == kid) = false := by
    rw [List.any_eq_false]
    exact fun r hr hx => hrec r hr (beq_iff_eq.mp hx)
  rw [unloadStatus, if_neg (by simpa using hk), noStand, noRec] <;> rfl

/-! ## The end of a command, and waiting root blocks (R99, R104) -/

theorem loaderCommandComplete_done {st kid : Nat} {s1 : State} (hp : (s.vf vf).load.pending = some (st, kid))
    (hs : s1 = s.setVf { s.vf vf with load := { (s.vf vf).load with
      pending := none, klstat := BitVec.ofNat 64 (st * 65536 + kid) } }) :
    exec (.loaderCommandComplete vf) s =
      match (s.vf vf).root with
      | some r => .next (if st = 0 ∧ kid = 0 then makeReady r.ctx s1 else s1)
      | none => .next s1 := by
  subst hs
  change execLoaderCommandComplete vf s = _
  rw [execLoaderCommandComplete, hp] <;> rfl

theorem rootBlockLaunch_launches {r : Root} (hr : (s.vf vf).root = some r) (hp : (s.vf vf).load.pending = none) :
    exec (.rootBlockLaunch vf) s = .next (launchWaiting vf r.ctx.die r.waiting s) := by
  change execRootBlockLaunch vf s = _
  rw [execRootBlockLaunch, hr]
  dsimp only
  rw [if_neg (not_busy hp)]

/-- Settles O48, command by command. -/
theorem eventsOfLoader : Obligations.EventsOfLoader := by
  unfold Obligations.EventsOfLoader
  rintro s vf v rfl
  refine ⟨fun tid ht => ⟨ttCommit_refuses ht, fun old w => ttCommit_installs ht, fun w => ttRead_stages ht⟩,
    fun hp ha => ⟨?loadPlace, ?createPlace⟩,
    fun bs o h => ⟨kernelLoad_badFormat h, rootProgramCreate_badFormat h, fun hf s1 hs => ⟨fun code hc => ?refused,
      fun table o1 ids places a hc hb hr hi ht hids => ⟨fun hk => ?inUse, fun hk hp => ?installs⟩⟩,
      fun hf s1 => rootProgramCreate_creates h hf⟩,
    fun kid hk hp => ⟨fun hn => ?unknown, fun hn hst hrec => ?unused⟩, ?complete, fun r => rootBlockLaunch_launches⟩
  case loadPlace => rw [exec_kernelLoad hp, loadObject_misaligned ha] <;> rfl
  case createPlace => rw [exec_rootProgramCreate hp, loadObject_misaligned ha] <;> rfl
  case refused =>
    subst hs
    rw [kernelLoad_object h hf, loadKernel_refused hc]
  case inUse =>
    subst hs
    rw [kernelLoad_object h hf, loadKernel_inUse hc hb hr hi ht hids hk]
  case installs =>
    subst hs
    rw [kernelLoad_object h hf, loadKernel_installs hc hb hr hi ht hids hk hp]
  case unknown => rw [exec_kernelUnload hk hp (unloadStatus_unknown hn), if_neg (by decide)]
  case unused => rw [exec_kernelUnload hk hp (unloadStatus_unused hn hst hrec), if_pos rfl]
  case complete =>
    intro st kid s1 hp hs
    exact ⟨fun hr => by rw [loaderCommandComplete_done hp hs, hr], fun r hr => by rw [loaderCommandComplete_done hp hs, hr]⟩

end Sys2Proof.LoaderProofs
end

section
/-! Events of tags and of the block scheduler (R106, R107, R110 to R115, R117, R118, R325, R335). -/

namespace Sys2Proof.TagProofs

open Sys2Proof Sys2Proof.Machine Sys2Proof.Claims

variable {s : State} {vf die : Nat} {ref : W64}

/-! ## The landing window (R106, R107) -/

theorem lwpub_now (h : s.memHeld vf = false) : exec (.lwpub vf ref) s = .next (hostPublish vf ref s) :=
  congrArg Host.Outcome.next (if_neg (ne_true_of_eq_false h))

theorem lwpub_held (h : s.memHeld vf = true) : exec (.lwpub vf ref) s = .next (holdHost vf (.publish ref) s) :=
  congrArg Host.Outcome.next (if_pos h)

/-- The host's query answers 4 where the reference names no tensor or tile. -/
theorem hostQuery_eq : hostQuery vf ref s = s.updVf vf fun v =>
    { v with win := { v.win with lwqres := BitVec.ofNat 64 ((query s vf ref).getD 4) } } := by
  unfold hostQuery
  cases query s vf ref <;> rfl

section Query

variable {s1 : State} (hs : s1 = s.updVf vf fun v => { v with win := { v.win with lwqref := ref &&& ~~~(0xFF00000000 : W64) } })

include hs

theorem lwqref_now (h : s.memHeld vf = false) : exec (.lwqref vf ref) s = .next (s1.updVf vf fun v =>
    { v with win := { v.win with lwqres := BitVec.ofNat 64 ((query s1 vf ref).getD 4) } }) := by
  rw [← hostQuery_eq, hs]
  exact congrArg Host.Outcome.next (if_neg (ne_true_of_eq_false h))

theorem lwqref_held (h : s.memHeld vf = true) : exec (.lwqref vf ref) s = .next (holdHost vf (.query ref) s1) := by
  rw [hs]
  exact congrArg Host.Outcome.next (if_pos h)

end Query

/-! ## Refused and stale publications (R110, R335) -/

theorem publish_noTensor {st : Option Nat} (h : s.tensor? vf (refTid ref) = none) : publish vf st ref s = (s, .refused 0x08 0) := by
  rw [publish, h]

section Publish

variable {st : Option Nat} {e : TEnt} (h : s.tensor? vf (refTid ref) = some e)

include h

theorem publish_noRight (hx : e.p = false ∨ e.tiles ≤ refTile ref) : publish vf st ref s = (s, .refused 0x08 0) := by
  rw [publish, h]
  exact if_pos hx

/-- A publication of a tile of a tensor that has the right p. -/
theorem publish_tile (hp : e.p = true) (ht : refTile ref < e.tiles) : publish vf st ref s =
    if refGen ref ≠ e.gen then (s, .stale)
    else match pubCheck s vf st e (refTile ref) with
      | some c => (s, .refused c.1 c.2)
      | none => match (enterTag vf e ref s).2.cause with
        | some _ => enterTag vf e ref s
        | none => (notify vf ref (enterTag vf e ref s).1, (enterTag vf e ref s).2) := by
  rw [publish, h]
  exact if_neg (not_or.mpr ⟨by simp [hp], Nat.not_le.mpr ht⟩)

theorem publish_stale (hp : e.p = true) (ht : refTile ref < e.tiles) (hg : refGen ref ≠ e.gen) :
    publish vf st ref s = (s, .stale) :=
  (publish_tile h hp ht).trans (if_pos hg)

theorem publish_refused {c w : Nat} (hp : e.p = true) (ht : refTile ref < e.tiles) (hg : refGen ref = e.gen)
    (hc : pubCheck s vf st e (refTile ref) = some (c, w)) : publish vf st ref s = (s, .refused c w) := by
  rw [publish_tile h hp ht, if_neg (Classical.not_not.mpr hg), hc]

end Publish

/-! ## Publications and advances at the home die (R110, R111, R114) -/

section Home

variable {h : HomeOp} {s1 : State} {adv : Bool} (hf : firstHome s die h s1) (ha : h.op.advance = adv)

include hf ha

/-- What a home die does with its oldest operation, of the kind that the event is of. -/
theorem homeStep_oldest : homeStep die adv s =
    match (if adv then advance h.vf (refTid h.op.ref) s1
      else ((publish h.vf (some h.stand) h.op.ref s1).1, (publish h.vf (some h.stand) h.op.ref s1).2.cause)) with
    | (s2, some cause) => reportPub h.stand h.op cause s2
    | (s2, none) => s2 := by
  obtain ⟨rest, hq, rfl⟩ := hf
  rw [homeStep, hq]
  dsimp only
  rw [if_neg (Classical.not_not.mpr ha)]
  generalize (if adv = true then _ else _ : State × Option Nat) = r
  obtain ⟨s2, _ | cause⟩ := r <;> rfl

theorem homeStep_performed {s2 : State} (hr : (if adv then advance h.vf (refTid h.op.ref) s1
    else ((publish h.vf (some h.stand) h.op.ref s1).1, (publish h.vf (some h.stand) h.op.ref s1).2.cause)) = (s2, none)) :
    homeStep die adv s = s2 := by
  rw [homeStep_oldest hf ha, hr]

theorem homeStep_reports {s2 : State} {cause : Nat} (hr : (if adv then advance h.vf (refTid h.op.ref) s1
    else ((publish h.vf (some h.stand) h.op.ref s1).1, (publish h.vf (some h.stand) h.op.ref s1).2.cause)) = (s2, some cause)) :
    homeStep die adv s = reportPub h.stand h.op cause s2 := by
  rw [homeStep_oldest hf ha, hr]

end Home

section Operation

variable {h : HomeOp} {s1 : State} (hf : firstHome s die h s1)

include hf

theorem publication_performed (ha : h.op.advance = false) (hc : (publish h.vf (some h.stand) h.op.ref s1).2.cause = none) :
    exec (.publication die) s = .next (publish h.vf (some h.stand) h.op.ref s1).1 :=
  congrArg Host.Outcome.next (homeStep_performed hf ha (Prod.ext rfl hc))

theorem publication_reports {cause : Nat} (ha : h.op.advance = false)
    (hc : (publish h.vf (some h.stand) h.op.ref s1).2.cause = some cause) :
    exec (.publication die) s = .next (reportPub h.stand h.op cause (publish h.vf (some h.stand) h.op.ref s1).1) :=
  congrArg Host.Outcome.next (homeStep_reports hf ha (Prod.ext rfl hc))

theorem generationAdvance_performed (ha : h.op.advance = true) (hc : (advance h.vf (refTid h.op.ref) s1).2 = none) :
    exec (.generationAdvance die) s = .next (advance h.vf (refTid h.op.ref) s1).1 :=
  congrArg Host.Outcome.next (homeStep_performed hf ha (Prod.ext rfl hc))

theorem generationAdvance_reports {cause : Nat} (ha : h.op.advance = true)
    (hc : (advance h.vf (refTid h.op.ref) s1).2 = some cause) :
    exec (.generationAdvance die) s = .next (reportPub h.stand h.op cause (advance h.vf (refTid h.op.ref) s1).1) :=
  congrArg Host.Outcome.next (homeStep_reports hf ha (Prod.ext rfl hc))

end Operation

/-! ## Waiting records and their dispatch (R112, R115, R117, R118) -/

theorem tagNotification_satisfies {n : Note} {rest : List Note} (h : (s.die die).notes = n :: rest) :
    exec (.tagNotification die) s = .next (s.updDie die fun d => { d with
      notes := rest, recs := d.recs.map fun r => r.satisfy (s.cyc die) n.vf n.tid n.gen.toNat n.tile.toNat }) := by
  change execTagNotification die s = _
  rw [execTagNotification, h]

theorem bitmapPoll_reads (h : s.cyc die % 2048 = 0) :
    exec (.bitmapPoll die) s = .next (s.updDie die fun d => { d with recs := d.recs.map (pollRec s die) }) :=
  if_neg (Classical.not_not.mpr h)

theorem blockDispatch_feeds {st : Nat} {t : Stand} {r : Rec} {b : Blk} (ht : s.stand? st = some t) (hd : t.die = die)
    (ha : t.accepts (s.ctx t.ctx) = true)
    (hr : bestRec ((s.die die).recs.filter fun r => r.st == .eligible && t.canRun r) = some r)
    (hb : b = Blk.mk r.id t.nextBlk (recT r.word 0) (recT r.word 1) (recT r.word 2) (recT r.word 3) (recOuts r.word) .queued) :
    exec (.blockDispatch die st) s = .next (feedBlk st b (acquireStand t ((s.updDie die fun d => { d with
      recs := d.recs.map fun x => if x.id = r.id then { x with st := .dispatched } else x }).setStand
        { t with blocks := t.blocks ++ [b], nextBlk := t.nextBlk + 1 }))) := by
  subst hb
  change execBlockDispatch die st s = _
  rw [execBlockDispatch, ht]
  dsimp only
  rw [if_neg (by simp [hd, ha]), hr]

/-- Settles O49, event by event. -/
theorem eventsOfTags : Obligations.EventsOfTags := by
  unfold Obligations.EventsOfTags
  exact fun s => ⟨fun vf ref => ⟨lwpub_now, lwpub_held⟩, fun vf ref s1 hs => ⟨lwqref_now hs, lwqref_held hs⟩,
    fun vf ref st => publish_noTensor,
    fun vf ref st e h => ⟨publish_noRight h, publish_stale h, fun c w => publish_refused h⟩,
    fun die h s1 hf => ⟨fun ha => ⟨publication_performed hf ha, fun cause => publication_reports hf ha⟩,
      fun ha => ⟨generationAdvance_performed hf ha, fun cause => generationAdvance_reports hf ha⟩⟩,
    fun die n rest => tagNotification_satisfies, fun die => bitmapPoll_reads, fun die => rfl,
    fun die st t r ht hd ha hr b => blockDispatch_feeds ht hd ha hr⟩

end Sys2Proof.TagProofs
end

section
/-! Events of the page allocator, of pre-emption and of a VF's resets (R27, R118, R126 to R131, R352, R379). -/

namespace Sys2Proof.PlaceProofs

open Sys2Proof Sys2Proof.Machine Sys2Proof.Claims

variable {s s1 : State} {die vf : Nat} {r : Rec}

/-! ## Placement (R126 to R129) -/

theorem suspendedStandReplace_places {t : Stand} {x : Site} (h : fittingSuspended s die = some (t, x)) :
    exec (.suspendedStandReplace die) s = .next (placeAgain t x s) := by
  change execSuspendedStandReplace die s = _
  rw [execSuspendedStandReplace, h]

theorem suspendedStandReplace_none (h : fittingSuspended s die = none) : exec (.suspendedStandReplace die) s = .next s := by
  change execSuspendedStandReplace die s = _
  rw [execSuspendedStandReplace, h]

theorem standPlacement_places (h : fittingSuspended s die = none)
    (hr : (requests s die).findSome? (fun r => satisfyRequest die r s) = some s1) :
    exec (.standPlacement die) s = .next s1 := by
  change execStandPlacement die s = _
  rw [execStandPlacement, h]
  dsimp only
  rw [hr]

theorem standPlacement_remedies (h : fittingSuspended s die = none)
    (hr : (requests s die).findSome? (fun r => satisfyRequest die r s) = none) :
    exec (.standPlacement die) s = .next (remedies die (requests s die) s) := by
  change execStandPlacement die s = _
  rw [execStandPlacement, h]
  dsimp only
  rw [hr]

/-- A request is an eligible record of a VF that is not suspended, and no resident stand can run it. -/
theorem request_asks (h : r ∈ requests s die) :
    r.st = .eligible ∧ s.pf.vfsusp.getLsbD r.vf = false ∧ ∀ t ∈ s.residents die, t.canRun r = false := by
  have asks : (r.st == .eligible && !(s.pf.vfsusp.getLsbD r.vf) && !((s.residents die).any fun t => t.canRun r)) = true := by
    simp only [requests, List.mem_append] at h
    rcases h with ((h | h) | h) | h <;> exact (List.mem_filter.mp (List.mem_filter.mp h).1).2
  simp only [Bool.and_eq_true, beq_iff_eq, Bool.not_eq_true', List.any_eq_false, Bool.not_eq_true] at asks
  obtain ⟨⟨eligible, notSuspended⟩, noStand⟩ := asks
  exact ⟨eligible, notSuspended, noStand⟩

/-! ## Pre-emption for a starving record (R352) -/

section Victim

variable {k : Kernel} (hk : s.kernel? r.vf (recKid r.word) = some k)

theorem grantable_iff : grantable s die r k = true ↔
    withinQuota s r.vf die k = true ∧ (asideFor s die r ≠ none ∨ saveFits s r.vf k = true) := by
  simp [grantable, Option.isSome_iff_ne_none]

theorem anyMoves_iff : (corners.any fun p => (boxMoves s die k p.1 p.2).isSome) = true ↔
    ∃ p ∈ corners, boxMoves s die k p.1 p.2 ≠ none := by
  simp only [List.any_eq_true, Option.isSome_iff_ne_none]

include hk

theorem victimFor_served (h : withinQuota s r.vf die k = false ∨ (asideFor s die r = none ∧ saveFits s r.vf k = false) ∨
    findSite s die k [] ≠ none ∨ ∃ p ∈ corners, boxMoves s die k p.1 p.2 ≠ none) : victimFor s die r = none := by
  have served : grantable s die r k = false ∨ (findSite s die k []).isSome ∨
      (corners.any fun p => (boxMoves s die k p.1 p.2).isSome) := by
    rw [anyMoves_iff, Option.isSome_iff_ne_none, ← Bool.not_eq_true, grantable_iff]
    rcases h with h | ⟨ha, hs⟩ | h | h
    · exact .inl fun hg => ne_true_of_eq_false h hg.1
    · exact .inl fun hg => hg.2.elim (· ha) (ne_true_of_eq_false hs)
    · exact .inr (.inl h)
    · exact .inr (.inr h)
  rw [victimFor, hk]
  exact if_pos served

theorem victimFor_leastRecent (hq : withinQuota s r.vf die k = true) (hs : asideFor s die r ≠ none ∨ saveFits s r.vf k = true)
    (hf : findSite s die k [] = none) (hm : ∀ p ∈ corners, boxMoves s die k p.1 p.2 = none) :
    victimFor s die r = leastRecent ((s.residents die).filter fun t => (t.kern.kid != k.kid || t.vf != r.vf)
      && (t.blocks.any fun b => (s.die die).recs.any fun x => x.id == b.recId && decide (1 ≤ x.cls)) && t.isHeld.isNone
      && fitsWithout s t k) := by
  have unserved : ¬ (grantable s die r k = false ∨ (findSite s die k []).isSome ∨
      (corners.any fun p => (boxMoves s die k p.1 p.2).isSome)) := by
    rw [anyMoves_iff, Option.isSome_iff_ne_none, grantable_iff.mpr ⟨hq, hs⟩]
    rintro (h | h | ⟨p, hp, h⟩)
    · exact Bool.noConfusion h
    · exact h hf
    · exact h (hm p hp)
  rw [victimFor, hk]
  exact if_neg unserved

end Victim

theorem anyUnsettled_iff : ((s.residents die).any fun t => t.target != .none || t.isIdle s) = true ↔
    ∃ u ∈ s.residents die, u.target ≠ .none ∨ u.isIdle s = true := by
  simp only [List.any_eq_true, Bool.or_eq_true, bne_iff_ne]

theorem preempt_unheld {t : Stand} (h : t.isHeld = none) :
    preempt t s = requestWave t.id { WaveFlags.none with preempt := true } (s.setStand { t with target := .suspend }) := by
  rw [preempt, h] <;> rfl

section Starvation

variable {l : List Rec} (hl : l = (requests s die).filter fun r => r.cls == 0 && decide (2 ^ 20 ≤ s.cyc die - r.elig))

include hl

theorem preemptStarvation_preempts {t : Stand} (hu : ∀ u ∈ s.residents die, u.target = .none ∧ u.isIdle s = false)
    (ht : l.findSome? (victimFor s die) = some t) (hh : t.isHeld = none) :
    exec (.preemptStarvation die) s = .next (requestWave t.id { WaveFlags.none with preempt := true }
      (s.setStand { t with target := .suspend })) := by
  subst hl
  have settled : ¬ ((s.residents die).any fun t => t.target != .none || t.isIdle s) = true := by
    rw [anyUnsettled_iff]
    rintro ⟨u, hm, h | h⟩
    · exact h (hu u hm).1
    · exact ne_true_of_eq_false (hu u hm).2 h
  change execPreemptStarvation die s = _
  rw [execPreemptStarvation, if_neg settled, ht]
  dsimp only
  rw [preempt_unheld hh]

theorem preemptStarvation_waits
    (h : (∃ u ∈ s.residents die, u.target ≠ .none ∨ u.isIdle s = true) ∨ ∀ r ∈ l, victimFor s die r = none) :
    exec (.preemptStarvation die) s = .next s := by
  subst hl
  change execPreemptStarvation die s = _
  rw [execPreemptStarvation]
  by_cases hu : ∃ u ∈ s.residents die, u.target ≠ .none ∨ u.isIdle s = true
  · exact if_pos (anyUnsettled_iff.mpr hu)
  · rw [if_neg (mt anyUnsettled_iff.mp hu), List.findSome?_eq_none_iff.mpr (h.resolve_left hu)]

end Starvation

/-! ## Suspended VFs and resets (R352, R379) -/

theorem exec_vfsusp (value : W64) : exec (.vfsusp value) s = .next (if s.svc.chMigrating = none then
      (upTo 64).foldl (fun acc v => if value.getLsbD v then suspendVf v acc else acc) { s with pf := { s.pf with vfsusp := value } }
    else { s with svc := { s.svc with chSusp := value } }) := by
  change execVfsusp value s = _
  rw [execVfsusp]
  dsimp only
  by_cases h : s.svc.chMigrating = none
  · rw [if_pos h, if_neg (by simp [h])]
  · rw [if_neg h, if_pos (Option.isSome_iff_ne_none.mpr h)]

theorem vfWatchdogExpiry_early
    (h : (s.vf vf).cfg.slice.toNat % 2 ^ 48 = 0 ∨ (s.vf vf).timer < (s.vf vf).cfg.slice.toNat % 2 ^ 48) :
    exec (.vfWatchdogExpiry vf) s = .next s :=
  if_pos h

theorem vfWatchdogExpiry_resets (h0 : (s.vf vf).cfg.slice.toNat % 2 ^ 48 ≠ 0)
    (ht : (s.vf vf).cfg.slice.toNat % 2 ^ 48 ≤ (s.vf vf).timer) : exec (.vfWatchdogExpiry vf) s =
      .next (hostEvent (.vf vf) 1 0 vf ((s.vf vf).cfg.root.toNat % 4) 0
        (hostEvent .pf 1 0 vf ((s.vf vf).cfg.root.toNat % 4) 0 (resetPartition vf s))) :=
  if_neg (not_or.mpr ⟨h0, Nat.not_lt.mpr ht⟩)

/-- Settles O50, event by event. -/
theorem eventsOfPlacement : Obligations.EventsOfPlacement := by
  unfold Obligations.EventsOfPlacement
  exact fun s die => ⟨⟨fun t x => suspendedStandReplace_places, suspendedStandReplace_none⟩,
    fun h => ⟨fun s1 => standPlacement_places h, standPlacement_remedies h⟩, fun r rs => ⟨fun h => if_pos h, fun h => if_neg (ne_true_of_eq_false h)⟩,
    fun r => request_asks, fun r k hk => ⟨victimFor_leastRecent hk, victimFor_served hk⟩,
    fun l hl => ⟨fun t => preemptStarvation_preempts hl, preemptStarvation_waits hl⟩, exec_vfsusp, fun vf => rfl,
    fun vf => ⟨vfWatchdogExpiry_early, vfWatchdogExpiry_resets⟩⟩

end Sys2Proof.PlaceProofs
end

section
/-! Events of tracks, rides, firebreaks and of other packages' packets (R120 to R125, R132 to R134, R288, R356, R359, R366,
R380). -/

namespace Sys2Proof.FabricProofs

open Sys2Proof Sys2Proof.Machine Sys2Proof.Claims

variable {s s1 : State} {n die k : Nat} {f : Flight} {t : Stand}

/-! ## Tracks (R120 to R123, R359) -/

/-- A setting takes the token where it stands: off the bus of its own stand, or from the latch at the end of a track. -/
def takenBy (s : State) (t : Stand) (f : Flight) (o : Stand) (sws : List SwitchSet) (w : SwitchSet) (x y : Nat) : Prop :=
  (f.place = .bus ∧ o = t ∧ busSetting t f = some (w, x, y)) ∨
    ∃ d c k, f.place = .latch x y d c k ∧ settingsAt s t.die x y = some (o, sws) ∧ latchSetting sws x y d c k = some w

section Hop

variable (hf : firstFlight s n f t)

include hf

section Setting

variable {o : Stand} {sws : List SwitchSet} {w : SwitchSet} {x y : Nat} (ha : f.arrived t = false) (hw : takenBy s t f o sws w x y)

include ha hw

/-- A hop is the check of the box, and the drive of the output track. -/
theorem hop_checks : exec (.trackSegmentHop n) s = .next (boxCheck o w x y f (driveTrack t.die w x y f) s) := by
  obtain ⟨hh, ht⟩ := hf
  change execTrackSegmentHop n s = _
  rw [execTrackSegmentHop, hh]
  dsimp only
  rw [ht]
  dsimp only
  rw [if_neg (ne_true_of_eq_false ha)]
  rcases hw with ⟨hp, rfl, hb⟩ | ⟨d, c, k, hp, hs, hl⟩
  · rw [hp]
    dsimp only
    rw [hb]
  · rw [hp]
    dsimp only
    rw [hs]
    dsimp only
    rw [hl]

theorem hop_drives (hr : f.tok.rid = o.rid w.route) : exec (.trackSegmentHop n) s = .next (driveTrack t.die w x y f s) := by
  rw [hop_checks hf ha hw, boxCheck, if_pos hr]

theorem hop_reaches {x' y' : Nat} (hr : f.tok.rid = o.rid w.route)
    (he : followTrack s t.die f.tok.rid w.odir (trackLen w.ocls) x y = .site x' y')
    (hl : latchLoad s t.die (.latch x' y' w.odir w.ocls w.otrk) < 2) :
    exec (.trackSegmentHop n) s = .next (atLatch s f (.latch x' y' w.odir w.ocls w.otrk)) := by
  rw [hop_drives hf ha hw hr, driveTrack, he]
  exact congrArg Host.Outcome.next (if_neg (Nat.not_le.mpr hl))

theorem hop_dropped {g : Guard} (hr : f.tok.rid = o.rid w.route)
    (he : followTrack s t.die f.tok.rid w.odir (trackLen w.ocls) x y = .dropped g) :
    exec (.trackSegmentHop n) s = .next (guardDrop g f.tok.rid (tokHdr f.tok) (dropFlight f.id s)) := by
  rw [hop_drives hf ha hw hr, driveTrack, he]

theorem hop_traps (hr : f.tok.rid ≠ o.rid w.route) : exec (.trackSegmentHop n) s = .next (trapStand o.id
    ⟨0x0B, 0, 4, ⟨x / 8 - o.col, y / 16 - o.row, x % 8, y % 16⟩, 0, BitVec.ofNat 32 o.lastWave, 0,
      BitVec.ofNat 32 (o.rid w.route), BitVec.ofNat 32 f.tok.rid, BitVec.ofNat 32 w.route, 0⟩ false (dropFlight f.id s)) := by
  rw [hop_checks hf ha hw, boxCheck, if_neg hr]

end Setting

/-! ## Delivery at the column (R123, R132) -/

section Delivery

variable {d : PktDst} {cc cr col : Nat} (hd : t.dst? f.route = some d) (hc : destColumn t f.route = some (cc, cr, col))
  (ha : f.arrived t = true)

include hd hc ha

theorem exec_delivery : exec (.inputBusDelivery n) s =
    if f.place = .bus ∧ s.lets t.id d f.tok.rid = false then
      .next (guardDrop (entryGuard t f cc cr col) f.tok.rid (tokHdr f.tok) (dropFlight n s))
    else .next ((dropFlight n s).arriveCell d t.vf (originAt s d f.stand (weaveSrc f.src)) f.tok) := by
  obtain ⟨hh, ht⟩ := hf
  change execInputBusDelivery n s = _
  rw [execInputBusDelivery, hh]
  dsimp only
  rw [ht]
  dsimp only
  rw [hd, hc]
  exact if_neg (by simp [ha])

theorem delivery_enters (h : f.place ≠ .bus ∨ s.lets t.id d f.tok.rid = true) : exec (.inputBusDelivery n) s =
    .next ((dropFlight n s).arriveCell d t.vf (originAt s d f.stand (weaveSrc f.src)) f.tok) := by
  rw [exec_delivery hf hd hc ha, if_neg]
  rintro ⟨bus, closed⟩
  exact h.elim (· bus) (ne_true_of_eq_false closed)

theorem delivery_dropped (hp : f.place = .bus) (hl : s.lets t.id d f.tok.rid = false) : exec (.inputBusDelivery n) s =
    .next (guardDrop (entryGuard t f cc cr col) f.tok.rid (tokHdr f.tok) (dropFlight n s)) := by
  rw [exec_delivery hf hd hc ha, if_pos ⟨hp, hl⟩]

end Delivery

end Hop

/-! ## Packets on rides (R124, R132, R288) -/

section Packets

variable {p : Packet} (hp : s.fab.packets.find? (fun p => p.id == n) = some p)

include hp

theorem exec_packetArrival : exec (.ridePacketArrival n) s = .next (if p.stays s then s else injectWaiting (packetArrive p s)) := by
  change execRidePacketArrival n s = _
  rw [execRidePacketArrival, hp]

theorem packetArrival_stays (h : p.stays s = true) : exec (.ridePacketArrival n) s = .next s := by
  rw [exec_packetArrival hp, if_pos h]

/-- A packet that its guard admits and whose port stands is put in order there. -/
theorem packetArrive_orders {q : QueueAt} (hq : (unpacked s n).queueAt p.dst = some q)
    (hd : (∃ e, p.dst = .eng e) ∨ ∃ die cc cr a b c, p.dst = .cell die cc cr a b c ∧ s.admits die cc cr p.tok.rid = true) :
    packetArrive p s = orderIn q p.dst p.sender p.seq p.tok (startOrder s.fab.packets q p (unpacked s n)) := by
  have hid : p.id = n := beq_iff_eq.mp (List.find?_some (p := fun p : Packet => p.id == n) hp)
  subst hid
  unfold unpacked at hq ⊢
  rcases hd with ⟨e, he⟩ | ⟨die, cc, cr, a, b, c, he, hadmits⟩
  · rw [he] at hq
    simp only [packetArrive, he, hq, Option.isNone_some, Bool.false_eq_true, if_false]
  · rw [he] at hq
    simp only [packetArrive, he, hq, hadmits, if_true, Option.isNone_some, Bool.false_eq_true, if_false]

end Packets

theorem firebreakReport_sends {r : FbReport} (h : s.fab.reports.find? (fun r => r.id == n) = some r) :
    exec (.firebreakReport n) s = .next (if r.last + 1024 ≤ s.cyc r.die then sendReport r s else s) := by
  change execFirebreakReport n s = _
  rw [execFirebreakReport, h]

/-! ## The power of rides (R124, R125, R366) -/

/-- A ride that is off, and that no VF maps to, begins to power up with the one below it on. -/
theorem beginPowerUp_begins (hk : k < 3) (hon : (s.ride die k).on = true) (hoff : (s.ride die (k + 1)).on = false)
    (hu : (s.ride die (k + 1)).upAt = none) (hb : rideBound s (k + 1) = false) :
    beginPowerUp die k s = updRide die (k + 1) (fun r => { r with upAt := some (s.cyc die + 4096) }) s :=
  if_pos ⟨hk, hoff, hu, hb, hon⟩

theorem rideCongestion_begins (hk : k < 3) (hs : s1 = updRide die k (fun r => { r with congested := true }) s)
    (hon : (s1.ride die k).on = true) (hoff : (s1.ride die (k + 1)).on = false) (hu : (s1.ride die (k + 1)).upAt = none)
    (hb : rideBound s1 (k + 1) = false) :
    exec (.rideCongestion die k) s = .next (updRide die (k + 1) (fun r => { r with upAt := some (s1.cyc die + 4096) }) s1) := by
  rw [← beginPowerUp_begins hk hon hoff hu hb, hs]
  rfl

theorem ridePowerUp_begins {c : Nat} (hk : k < 3) (hf : (s.ride die k).fullSince = some c) (hc : c + 256 ≤ s.cyc die)
    (hon : (s.ride die k).on = true) (hoff : (s.ride die (k + 1)).on = false) (hu : (s.ride die (k + 1)).upAt = none)
    (hb : rideBound s (k + 1) = false) : exec (.ridePowerUp die (k + 1)) s =
      .next (updRide die (k + 1) (fun r => { r with upAt := some (s.cyc die + 4096) }) s) := by
  have full : (s.ride die k).bufferFull (s.cyc die) = true := by simp [Ride.bufferFull, hf, hc]
  change execRidePowerUp die (k + 1) s = _
  rw [execRidePowerUp, hu, ← beginPowerUp_begins hk hon hoff hu hb]
  exact congrArg Host.Outcome.next (if_pos ⟨Nat.succ_ne_zero k, full⟩)

theorem ridePowerUp_ends {c : Nat} (hu : (s.ride die k).upAt = some c) (hc : c ≤ s.cyc die) : exec (.ridePowerUp die k) s =
    .next (injectWaiting (updRide die k (fun r => { r with on := true, upAt := none, lastFlit := s.cyc die }) s)) := by
  change execRidePowerUp die k s = _
  rw [execRidePowerUp, hu]
  exact if_pos hc

theorem ridePowerDown_ends (hk : k < 3) (hon : (s.ride die (k + 1)).on = true) (hb : rideBound s (k + 1) = false)
    (hc : stillCongested s die k = false) (hl : (s.ride die (k + 1)).lastFlit + 2 ^ 16 ≤ s.cyc die)
    (hq : s.rideBusy die (k + 1) = false) : exec (.ridePowerDown die (k + 1)) s =
      .next (updRide die k (fun r => { r with congested := false }) (updRide die (k + 1) (fun r => { r with on := false }) s)) := by
  refine if_neg ?_
  rintro (h | h | h | h | h | h | h)
  · omega
  · omega
  · exact ne_true_of_eq_false h hon
  · exact ne_true_of_eq_false hb h
  · exact ne_true_of_eq_false hc h
  · omega
  · exact ne_true_of_eq_false hq h

/-! ## Packets of other packages (R188, R305, R308, R380) -/

theorem podPacket_waits {p : PodPacket} (h : s.svc.linkUp = 0) : exec (.chiararexPacketArrival p) s = .next s := if_pos h

section Pod

variable (h : s.svc.linkUp ≠ 0)

include h

theorem podPacket_copies {vf va : Nat} {b mask : Byte} {bs : List Byte} {p : Bool} :
    exec (.chiararexPacketArrival (.copy vf va (b :: bs) mask p)) s = .next (podWrite vf va (b :: bs) mask p s) :=
  if_neg h

theorem podPacket_contributes {vf tid tile rank : Nat} {ws : List W32} {ps : List Bool} :
    exec (.chiararexPacketArrival (.coll vf tid tile rank ws ps)) s = .next { s with
      fab := { s.fab with colls := s.fab.colls ++ [⟨vf, 5, tid, tile, rank, ws.zip ps, none, .sent⟩] } } :=
  if_neg h

theorem podPacket_arrives {id rank m : Nat} {bit : Bool} (hm : ((lookupNat (256 + id) s.pf.barmem).getD 0).toNat % 65536 = m)
    (h0 : m ≠ 0) : exec (.chiararexPacketArrival (.barrier id rank bit)) s =
      .next (settleBarrier ⟨5, 0, id, m⟩ (s.setBarrier ⟨5, 0, id, m⟩
        (some { s.barrier ⟨5, 0, id, m⟩ with remote := (s.barrier ⟨5, 0, id, m⟩).remote ++ [(rank, bit)] }))) := by
  subst hm
  exact (if_neg h).trans (if_neg h0)

end Pod

/-- Settles O51, event by event. -/
theorem eventsOfFabric : Obligations.EventsOfFabric := by
  unfold Obligations.EventsOfFabric
  exact fun s n f t => ⟨fun hf ha o sws w x y hw => ⟨fun hr => ⟨fun x' y' => hop_reaches hf ha hw hr, fun g => hop_dropped hf ha hw hr⟩,
      hop_traps hf ha hw⟩,
    fun d cc cr col hf hd hc ha => ⟨delivery_enters hf hd hc ha, delivery_dropped hf hd hc ha⟩,
    fun p hp => packetArrival_stays hp,
    fun p q hp hs hq hd => by rw [exec_packetArrival hp, if_neg (ne_true_of_eq_false hs), packetArrive_orders hp hq hd],
    fun r => firebreakReport_sends, fun die k s1 => rideCongestion_begins, fun die k c => ridePowerUp_begins,
    fun die k c => ridePowerUp_ends, fun die k => ridePowerDown_ends, fun p => podPacket_waits,
    fun h => ⟨fun vf va b bs mask p => podPacket_copies h, fun vf tid tile rank ws ps => podPacket_contributes h,
      fun id rank bit m => podPacket_arrives h⟩⟩

end Sys2Proof.FabricProofs
end

section
/-! Events of slices, translation, partitions, host accesses and registers (R106, R107, R287 to R289, R292, R293, R313 to R315,
R379, R382, R383). -/

namespace Sys2Proof.MemEventProofs

open Sys2Proof Sys2Proof.Machine Sys2Proof.Claims

variable {s s1 : State} {vf : Nat} {sl : SliceId}

/-! ## Slices (R287, R288, R313, R314) -/

section Service

variable (hs : s1 = admitReqs s)

include hs

theorem sliceService_empty (hq : (s1.slice sl).queue = []) : exec (.sliceService sl) s = .next s1 := by
  subst hs
  change execSliceService sl s = _
  rw [execSliceService, serveOldest, hq]

section Oldest

variable {r : SliceReq} {rest : List SliceReq} (hq : (s1.slice sl).queue = r :: rest)

include hq

theorem sliceService_hit (hl : (s1.slice sl).lines.contains r.line = true) :
    exec (.sliceService sl) s = .next (moveLine r (s1.setSlice { s1.slice sl with queue := rest })) := by
  subst hs
  change execSliceService sl s = _
  rw [execSliceService, serveOldest, hq]
  exact congrArg Host.Outcome.next (if_pos hl)

theorem sliceService_miss (hl : (s1.slice sl).lines.contains r.line = false) : exec (.sliceService sl) s =
    .next (s1.setSlice { s1.slice sl with queue := rest, filling := (s1.slice sl).filling ++ [r] }) := by
  subst hs
  change execSliceService sl s = _
  rw [execSliceService, serveOldest, hq]
  exact congrArg Host.Outcome.next (if_neg (ne_true_of_eq_false hl))

end Oldest

end Service

theorem gddrFillReturn_replies {line : Nat} {rs : List SliceReq} (hh : isHost (128 * line) = false)
    (hr : rs = (s.slice sl).filling.filter fun r => r.line == line) (h0 : rs ≠ []) :
    exec (.gddrFillReturn sl line) s = .next (replyReqs sl (fun r => r.line == line)
      (if rs.all fun r => r.allocates s sl then fillSlice sl line s else s)) := by
  subst hr
  exact if_neg (by simp [hh, List.isEmpty_iff, h0])

theorem hostMemoryReply_replies {e : EKey} {line : Nat} (h : isHost (128 * line) = true) : exec (.hostMemoryReply e line) s =
    .next (s.slices.foldl (fun acc x => replyReqs x.id (fun r => r.line == line && r.eng == e) acc) s) :=
  if_pos h

/-! ## Translation (R292, R293) -/

theorem translationWalk_fills {unit : Nat} {va : BitVec 57} {p : Page}
    (h : findPage s.mem s.svc.memtop (s.vf vf).mem unit va.toNat = some p) :
    exec (.translationWalk vf unit va) s = .next (flitOn vf (unitDie unit) (s.updVf vf fun v => { v with mem := { v.mem with
      tlbs := (tlbChain unit).foldl (fun acc u => if acc.any (fun e => e.covers u va.toNat) then acc
        else tlbPut ⟨u, p.base, p.size, p.frame, p.r, p.w, p.nc⟩ acc) v.mem.tlbs } })) := by
  change execTranslationWalk vf unit va s = _
  rw [execTranslationWalk, State.tlbFill, State.updVf, VfMem.fillTlb, h] <;> rfl

/-- Without a partition a walk finds no page: its first table entry lies in device memory, and faults. -/
theorem findPage_unpartitioned {m : Memory} {memtop : Nat} {v : VfMem} {unit va : Nat} (hp : v.part.psize = 0)
    (hd : ∀ a, a / 4096 = bitsAt v.ptroot.toNat 12 40 → isHost a = false) (ht : tlbHit v.tlbs unit va = none) :
    findPage m memtop v unit va = none := by
  have first : (bitsAt v.ptroot.toNat 12 40 * 4096 + 8 * bitsAt va 48 9) / 4096 = bitsAt v.ptroot.toNat 12 40 := by
    have : bitsAt va 48 9 < 512 := Nat.mod_lt _ (by decide)
    omega
  have unreached : v.reaches memtop (bitsAt v.ptroot.toNat 12 40 * 4096 + 8 * bitsAt va 48 9) = false := by
    rw [VfMem.reaches, hd _ first, hp]
    rfl
  rw [findPage, ht]
  dsimp only
  rw [walk]
  split
  · rfl
  · rw [walkLevels]
    exact if_pos (.inl unreached)

/-- The first entry of a TLB makes room for one. -/
theorem length_filter_eraseP_lt {p : TlbEnt → Bool} {l : List TlbEnt} (h : 0 < (l.filter p).length) :
    ((l.eraseP p).filter p).length + 1 = (l.filter p).length := by
  obtain ⟨x, hx⟩ := List.exists_mem_of_length_pos h
  obtain ⟨hm, hp⟩ := List.mem_filter.mp hx
  obtain ⟨a, l1, l2, -, ha, hl, he⟩ := List.exists_of_eraseP hm hp
  rw [he, hl]
  simp [ha, Nat.add_assoc]

theorem tlbPut_capacity {e : TlbEnt} {l : List TlbEnt}
    (h : (l.filter fun x => x.unit == e.unit).length ≤ tlbCapacity e.unit) :
    ((tlbPut e l).filter fun x => x.unit == e.unit).length ≤ tlbCapacity e.unit := by
  have capacity : 0 < tlbCapacity e.unit := by
    unfold tlbCapacity
    split <;> decide
  rw [tlbPut, List.filter_append, List.length_append]
  have one : ([e].filter fun x => x.unit == e.unit).length = 1 := by
    rw [List.filter_cons_of_pos (p := fun x : TlbEnt => x.unit == e.unit) (beq_self_eq_true e.unit), List.filter_nil, List.length_singleton]
  split
  · next room => omega
  · next full =>
    have hits := length_filter_eraseP_lt (p := fun x => x.unit == e.unit) (l := l) (by omega)
    omega

theorem mem_tlbPut (e : TlbEnt) (l : List TlbEnt) : e ∈ tlbPut e l := by
  simp [tlbPut]

/-- An invalidation concerns an entry when it is of all of them, or of a page within it. -/
theorem invalidates_eq (e : TlbEnt) (x : Option Nat) : invalidates e x = x.all fun a => e.base ≤ a && a < e.base + e.size := by
  cases x <;> rfl

theorem tlbInvalidationComplete_empties : exec (.tlbInvalidationComplete vf) s = .next (s.updVf vf fun v => { v with mem := { v.mem with
    tlbstat := 0, tlbinv := []
    tlbs := v.mem.tlbs.filter fun e => !(v.mem.tlbinv.any fun x => x.all fun a => e.base ≤ a && a < e.base + e.size) } }) := by
  simp only [← invalidates_eq]
  rfl

/-! ## Partitions (R289, R290, R315) -/

theorem pcmdComplete_installs {s2 s3 : State} (hb : (s.vf vf).mem.pcmdBusy = true)
    (h1 : s1 = s.slices.foldl (fun acc x => drainSlice vf acc x.id) s)
    (h2 : s2 = { s1 with slices := s1.slices.map fun x => if (s.vf vf).mem.part.has x.id then { x with
      lines := x.lines.filter fun l => s1.vfs.any fun u => u.id != vf && u.mem.pins.contains l } else x })
    (h3 : s3 = s2.updVf vf (fun u => { u with mem := { u.mem with part := u.mem.staged, pcmdBusy := false } })) :
    exec (.pcmdComplete vf) s = .next ((s.vf vf).mem.hostq.foldl (hostWaited vf)
      ((admitReqs ((s3.vf vf).mem.pins.foldl (placePin vf) s3)).updVf vf fun v => { v with mem := { v.mem with hostq := [] } })) := by
  subst h3 h2 h1
  exact if_neg (by simp [hb])

theorem placePin_fills {l : Nat} (h : s.sliceBarred (homeSlice (s.vf vf).mem.part (128 * l)) = false) :
    placePin vf s l = fillSlice (homeSlice (s.vf vf).mem.part (128 * l)) l s :=
  if_neg (ne_true_of_eq_false h)

/-! ## Host accesses (R107, R315, R379) -/

theorem hostAccess_now {a : HostAccess} {n : Nat} (hh : HostAccess.holder vf a = some n) (hm : s.memHeld n = false) :
    exec (.hostCxlMemAccess vf a) s = .next (hostAccess vf s a) := by
  change execHostCxlMemAccess vf a s = _
  rw [execHostCxlMemAccess, hh]
  exact if_neg (ne_true_of_eq_false hm)

theorem hostAccess_held {a : HostAccess} {n : Nat} (hh : HostAccess.holder vf a = some n) (hm : s.memHeld n = true) :
    exec (.hostCxlMemAccess vf a) s = .next (holdHost n (.access a) s) := by
  change execHostCxlMemAccess vf a s = _
  rw [execHostCxlMemAccess, hh]
  exact if_pos hm

theorem hostRead_answers {off n pa : Nat} (hm : s.memHeld vf = false) (hr : hostRange s vf off n = some pa) :
    exec (.hostCxlMemAccess vf (.read off n)) s = .next (s.emit (.readData vf (s.mem.bytesAt pa n)
      ((upFrom (pa / 4) (ceilDiv (pa % 4 + n) 4)).map fun w => s.mem.poison.contains w))) := by
  rw [hostAccess_now (a := .read off n) rfl hm, hostAccess, hr]

theorem hostWrite_stores {off pa : Nat} {bs : List Byte} (hm : s.memHeld vf = false) (hr : hostRange s vf off bs.length = some pa) :
    exec (.hostCxlMemAccess vf (.write off bs)) s = .next { s with mem := s.mem.store pa bs false } := by
  rw [hostAccess_now (a := .write off bs) rfl hm, hostAccess, hr]

theorem registerRead_answers {sp : RegSpace} {off : BitVec 12} {width : Nat} {r : List Byte × State}
    (hh : HostAccess.holder vf (.register sp off width) = none) (hr : r = readRegister sp off.toNat width s) :
    exec (.hostCxlMemAccess vf (.register sp off width)) s = .next (r.2.emit (.readData vf r.1 [])) := by
  change execHostCxlMemAccess vf _ s = _
  rw [execHostCxlMemAccess, hh, hr] <;> rfl

theorem lwpub_waits (ref : W64) : exec (.lwpub vf ref) s =
    .next (if s.memHeld vf then holdHost vf (.publish ref) s else hostWaited vf s (.publish ref)) :=
  rfl

/-! ## Register writes -/

theorem window_ignores {n width : Nat} {off : BitVec 12} {v : W64} (h : width ≠ 8) :
    exec (.registerWrite (.window n) off ⟨width, v⟩) s = .next s ∧
      readRegister (.window n) off.toNat width s = (partOfReg off.toNat width 0, s) := by
  constructor
  · exact if_neg fun hx => h hx.2
  · rw [readRegister, if_neg fun hx => h hx.1]

/-- The bytes of a list, picked by their place. -/
theorem zipIdx_map_nth (new : List Byte) : ∀ (l : List Byte) (k : Nat), k + l.length = new.length →
    (l.zipIdx k).map (fun p => nth 0 new p.2) = new.drop k := by
  intro l
  induction l with
  | nil =>
    intro k hk
    exact (List.drop_eq_nil_of_le (by simp at hk; omega)).symm
  | cons b bs ih =>
    intro k hk
    have hlt : k < new.length := by
      simp only [List.length_cons] at hk
      omega
    have here : nth 0 new k = new[k] := by
      clear ih hk
      induction new generalizing k with
      | nil => exact absurd hlt (Nat.not_lt_zero k)
      | cons x xs ihx => cases k with
        | zero => rfl
        | succ k => exact ihx k (Nat.lt_of_succ_lt_succ hlt)
    rw [List.zipIdx_cons, List.map_cons, here, ih (k + 1) (by simp only [List.length_cons] at hk; omega)]
    exact List.getElem_cons_drop hlt

/-- An aligned access of 64 bits replaces the whole register. -/
theorem mergeReg_whole {off : Nat} (h : off % 8 = 0) (old : Option W64) (v : W64) : mergeReg off 8 old v = v := by
  have inside : ∀ p ∈ (bytesLE 8 (old.getD 0).toNat).zipIdx, (if off % 8 ≤ p.2 ∧ p.2 < off % 8 + 8
      then nth 0 (bytesLE 8 v.toNat) (p.2 - off % 8) else p.1) = nth 0 (bytesLE 8 v.toNat) p.2 := by
    intro p hp
    have := (List.mem_zipIdx hp).2.1
    rw [SeqMemProofs.length_bytesLE] at this
    rw [h, if_pos (by omega), Nat.sub_zero]
  rw [mergeReg, List.map_congr_left inside, zipIdx_map_nth _ _ 0 (by rw [Nat.zero_add, SeqMemProofs.length_bytesLE, SeqMemProofs.length_bytesLE]),
    List.drop_zero, WindowProofs.natOfBytesLE_bytesLE, Nat.mod_eq_of_lt (by have := v.isLt; omega), BitVec.ofNat_toNat, BitVec.setWidth_eq]

section Registers

variable {v : W64} {off : BitVec 12}

theorem pfWrite_whole (h : off.toNat % 8 = 0) :
    exec (.registerWrite .pf off ⟨8, v⟩) s = .next (writePf off.toNat v s) := by
  change execRegisterWrite .pf off ⟨8, v⟩ s = _
  rw [execRegisterWrite]
  dsimp only
  rw [mergeReg_whole h, show 8 * (off.toNat / 8) = off.toNat by omega]

theorem vfWrite_whole {n : Nat} (h : off.toNat % 8 = 0) :
    exec (.registerWrite (.vf n) off ⟨8, v⟩) s = .next (s.updVf n (writeVf off.toNat v)) := by
  change execRegisterWrite (.vf n) off ⟨8, v⟩ s = _
  rw [execRegisterWrite]
  dsimp only
  simp only [mergeReg_whole h, show 8 * (off.toNat / 8) = off.toNat by omega]

theorem vfByPfWrite_whole {n : Nat} (h : off.toNat % 8 = 0) :
    exec (.registerWrite (.vfByPf n) off ⟨8, v⟩) s = .next (s.updVf n (writeByPf off.toNat v)) := by
  change execRegisterWrite (.vfByPf n) off ⟨8, v⟩ s = _
  rw [execRegisterWrite]
  dsimp only
  simp only [mergeReg_whole h, show 8 * (off.toNat / 8) = off.toNat by omega]

end Registers

theorem registerWrite_completes (sp : RegSpace) (off : BitVec 12) (width : Nat) (v : W64) :
    ∃ t, exec (.registerWrite sp off ⟨width, v⟩) s = .next t := by
  change ∃ t, execRegisterWrite sp off ⟨width, v⟩ s = .next t
  cases sp with
  | pf => exact ⟨_, rfl⟩
  | vf n => exact ⟨_, rfl⟩
  | vfByPf n => exact ⟨_, rfl⟩
  | window n =>
    rw [execRegisterWrite]
    dsimp only
    split <;> exact ⟨_, rfl⟩

/-- Settles O52, event by event; a register write of 64 bits replaces the register, and keeps the bits of its field. -/
theorem eventsOfMemory : Obligations.EventsOfMemory := by
  unfold Obligations.EventsOfMemory
  exact fun s => ⟨fun sl s1 hs => ⟨sliceService_empty hs, fun r rest hq => ⟨sliceService_hit hs hq, sliceService_miss hs hq⟩⟩,
    fun sl line rs => gddrFillReturn_replies, fun e line => hostMemoryReply_replies, fun vf unit va p => translationWalk_fills,
    fun v unit va => findPage_unpartitioned, fun e l => ⟨tlbPut_capacity, mem_tlbPut e l⟩, fun vf => rfl, fun vf va => rfl,
    fun vf => tlbInvalidationComplete_empties, fun vf => rfl, fun vf s1 s2 s3 => pcmdComplete_installs, fun vf l => placePin_fills,
    fun vf off n pa => hostRead_answers, fun vf off bs pa => hostWrite_stores, fun vf a n => hostAccess_held, fun vf a => rfl,
    fun vf => lwpub_waits, fun vf sp off width r => registerRead_answers, fun n off width v => window_ignores,
    fun v => pfWrite_whole rfl, fun v => pfWrite_whole rfl, fun v => pfWrite_whole rfl, fun n v => vfWrite_whole rfl,
    fun n v => vfWrite_whole rfl, fun n v => vfByPfWrite_whole rfl, fun n v => rfl, registerWrite_completes⟩

end Sys2Proof.MemEventProofs
end

section
/-! Hardware errors, growth rings, in-field tests, channels and ports (R334, R355 to R361, R370 to R375, R380, R382). -/

namespace Sys2Proof.ErrorProofs

open Sys2Proof Sys2Proof.Machine Sys2Proof.Claims

variable {s s1 : State} {die unit : Nat}

/-! ## Hardware errors (R334, R355 to R358, R360) -/

/-- An error that is not of a link is counted, and leaves its effect unless it was corrected. -/
theorem exec_hardwareError {e : ErrReport} (h : ∀ p, e.site ≠ .link p) : exec (.hardwareError e) s =
    .next (if e.corrected ∧ ErrSite.always e.site = false then noteError e s else errEffect e (noteError e s)) := by
  change execHardwareError e s = _
  obtain ⟨die, slice, unit, code, corrected, site⟩ := e
  cases site with
  | link p => exact absurd rfl (h p)
  | _ => rfl

theorem hardwareError_corrected {e : ErrReport} (hc : e.corrected = true) (hl : ∀ p, e.site ≠ .link p)
    (ha : ErrSite.always e.site = false) : exec (.hardwareError e) s = .next (noteError e s) := by
  rw [exec_hardwareError hl, if_pos ⟨hc, ha⟩]

/-- A word of device memory is counted by its slice or its channel, one of host memory by no unit. -/
theorem noteError_memWord {slice : Bool} {code : Nat} {pa : Nat} : noteError ⟨die, slice, unit, code, false, .memWord pa⟩ s =
    if isHost pa then s else if slice then countError die 1 unit s else countError 0 2 (channelOf s.svc.chActive pa) s := by
  cases h : isHost pa with
  | true => simp [noteError, ErrReport.counter, h]
  | false => cases slice <;> simp [noteError, ErrReport.counter, h]

theorem hardwareError_memWord {slice : Bool} {code pa : Nat} (hh : isHost pa = true → s1 = s)
    (hd : isHost pa = false → s1 = if slice then countError die 1 unit s else countError 0 2 (channelOf s.svc.chActive pa) s) :
    exec (.hardwareError ⟨die, slice, unit, code, false, .memWord pa⟩) s = .next
      { s1 with mem := s1.mem.setPoison (pa / 4) true } := by
  have counted : noteError ⟨die, slice, unit, code, false, .memWord pa⟩ s = s1 := by
    rw [noteError_memWord]
    cases h : isHost pa with
    | true => rw [hh h, if_pos rfl]
    | false => rw [hd h, if_neg Bool.false_ne_true]
  rw [exec_hardwareError (by simp), counted] <;> rfl

/-- The residue error of an instruction that has used up its repeats traps (R355). -/
theorem hardwareError_instr {e : ErrReport} {code : Nat} {corrected : Bool} {k : TKey} {lane tries : Nat} {t : Stand} {c : Cell}
    (ht : (countError die 0 unit s).stand? k.stand = some t) (hr : t.retry < tries) (hc : (countError die 0 unit s).cell? k = some c)
    (hi : issuing (countError die 0 unit s) k = true) (he : e = ErrReport.mk die false unit code corrected (.instr k lane tries)) :
    exec (.hardwareError e) s = .next (residueTrap k lane e.unitCode
      ((countError die 0 unit s).updTask k fun x => x.takeRefs c.operandRefs)) := by
  subst he
  rw [exec_hardwareError (by simp), if_neg (by simp [ErrSite.always])]
  change Host.Outcome.next (instrError k lane code tries (countError die 0 unit s)) = _
  rw [instrError, ht, hc]
  exact congrArg Host.Outcome.next (if_pos ⟨hi, hr⟩)

theorem errorWindowReset_clears (h : s.cyc die % 2 ^ (s.pf.errwin.toNat % 64) = 0) : exec (.errorWindowReset die) s = .next
    (State.updDie { s with svc := { s.svc with rings := ringWindows die (s.die die).errs s.svc.rings } } die fun d => { d with errs := [] }) :=
  if_neg (Classical.not_not.mpr h)

/-! ## The bins of an hour (R370) -/

/-- Of rising bounds a value below the first lies in bin 0. -/
theorem binOf_cons {b : Int} {bs : List Int} (h : ∀ c ∈ bs, b ≤ c) (x : Int) :
    binOf (b :: bs) x = if x < b then 0 else binOf bs x + 1 := by
  unfold binOf
  split
  · next below =>
    rw [List.length_eq_zero_iff, List.filter_eq_nil_iff]
    intro c hc
    have : b ≤ c := (List.mem_cons.mp hc).elim (fun e => e ▸ Int.le_refl b) (h c)
    simp only [decide_eq_true_eq]
    omega
  · next above => rw [List.filter_cons_of_pos (by simp only [decide_eq_true_eq]; omega), List.length_cons]

theorem binOf_seven {a b c d e f g : Int} (h : List.Pairwise (· ≤ ·) [a, b, c, d, e, f, g]) (x : Int) :
    binOf [a, b, c, d, e, f, g] x = if x < a then 0 else if x < b then 1 else if x < c then 2 else if x < d then 3
      else if x < e then 4 else if x < f then 5 else if x < g then 6 else 7 := by
  obtain ⟨ha, h⟩ := List.pairwise_cons.mp h
  obtain ⟨hb, h⟩ := List.pairwise_cons.mp h
  obtain ⟨hc, h⟩ := List.pairwise_cons.mp h
  obtain ⟨hd, h⟩ := List.pairwise_cons.mp h
  obtain ⟨he, h⟩ := List.pairwise_cons.mp h
  obtain ⟨hf, h⟩ := List.pairwise_cons.mp h
  obtain ⟨hg, -⟩ := List.pairwise_cons.mp h
  rw [binOf_cons ha, binOf_cons hb, binOf_cons hc, binOf_cons hd, binOf_cons he, binOf_cons hf, binOf_cons hg]
  repeat' split
  all_goals rfl

/-! ## In-field tests (R371, R373, R374) -/

theorem iftcmd_asks {value : W32} {u : TestUnit} (hu : u = (bitsAt value.toNat 9 2, value.getLsbD 8, bitsAt value.toNat 0 8))
    (h1 : s.svc.ift.stat.toNat % 4 ≠ 1) (h2 : s.svc.ift.stat.toNat % 4 ≠ 2) (hn : u.2.1 = true ∨ u.2.2 < 128) :
    exec (.iftcmd value) s = .next (if u.2.1 = true ∧ s.inPartition u.1 u.2.2 = true then s.withIft { s.svc.ift with stat := iftWord 11 u }
      else s.withIft { s.svc.ift with stat := iftWord 1 u, queue := s.svc.ift.queue ++ [u] }) := by
  subst hu
  have free : ¬ (s.svc.ift.stat.toNat % 4 = 1 ∨ s.svc.ift.stat.toNat % 4 = 2 ∨ (value.getLsbD 8 = false ∧ 128 ≤ bitsAt value.toNat 0 8)) := by
    rintro (h | h | ⟨hs, hb⟩)
    · exact h1 h
    · exact h2 h
    · exact hn.elim (ne_true_of_eq_false hs) (Nat.not_lt.mpr hb)
  exact (if_neg free).trans (apply_ite Host.Outcome.next _ _ _).symm

theorem iftStart_starts {u : TestUnit} (hc : s.svc.ift.current = none)
    (hq : s.svc.ift.queue.find? (fun u => s.unowned u || u.2.1) = some u) (hu : s.unowned u = true) :
    exec .iftStart s = .next (s.withIft { stat := s.svc.ift.report 2 u, queue := s.svc.ift.queue.erase u, current := some u }) := by
  change execIftStart s = _
  rw [execIftStart, hc, hq]
  exact if_pos hu

section Tested

variable {u : TestUnit} (hc : s.svc.ift.current = some u)

include hc

theorem iftComplete_returns (hs : s1 = s.withIft { s.svc.ift with stat := s.svc.ift.report 7 u, current := none }) :
    exec (.iftComplete true) s = .next
      (ringEvent u.1 (if u.2.1 then 1 else 0) u.2.2 4 (ringEvent u.1 (if u.2.1 then 1 else 0) u.2.2 2 (returnUnit u s1))) := by
  subst hs
  change execIftComplete true s = _
  rw [execIftComplete, hc] <;> rfl

theorem iftComplete_retires (hs : s1 = s.withIft { s.svc.ift with stat := s.svc.ift.report 3 u, current := none })
    (hu : u.2.1 = false) : exec (.iftComplete false) s = .next
      (reportFail u.1 u.2.2 (ringEvent u.1 0 u.2.2 3 (keepRetired u s1))) := by
  subst hs
  change execIftComplete false s = _
  rw [execIftComplete, hc]
  simp only [hu, Bool.false_eq_true, if_false]

end Tested

/-! ## Channels (R291, R375) -/

theorem chret_begins {value : W32} {ch : Nat} (hch : ch = value.toNat % 64) (hv : value.getLsbD 7 = true)
    (hm : s.svc.chMigrating = none) (hlt : ch < 48) (ha : s.svc.chActive.getLsbD ch = true) :
    exec (.chret value) s = .next ((upTo 64).foldl (fun acc v => suspendVf v acc) { s with
      svc := { s.svc with chMigrating := some ch, chSusp := s.pf.vfsusp }, pf := { s.pf with vfsusp := BitVec.allOnes 64 } }) := by
  have field : bitsAt value.toNat 0 6 = ch := by rw [hch, bitsAt, Nat.pow_zero, Nat.div_one] <;> rfl
  have accepted : ¬ (value.getLsbD 7 = false ∨ s.svc.chMigrating.isSome ∨ 48 ≤ ch ∨ s.svc.chActive.getLsbD ch = false) := by
    simp [hv, hm, ha, Nat.not_le.mpr hlt]
  change execChret value s = _
  rw [execChret]
  dsimp only
  rw [field, if_neg accepted]

theorem channelMigrationComplete_retires {ch top : Nat} {act : BitVec 48} (hm : s.svc.chMigrating = some ch)
    (hr : ∀ t ∈ s.stands, t.status ≠ .resident) (ha : act = s.svc.chActive &&& ~~~(BitVec.ofNat 48 (2 ^ ch)))
    (ht : top = memtopOf (activeChannels act)) :
    exec .channelMigrationComplete s = .next (hostEvent .pf 9 0 0 0 (BitVec.ofNat 64 ch) (ringEvent 0 2 ch 5 (ringEvent 0 2 ch 1 { s with
      mem := s.mem.cutDevice top, slices := s.slices.map fun x => { x with lines := x.lines.filter fun l => 128 * l < top }
      pf := { s.pf with vfsusp := s.svc.chSusp }, svc := { s.svc with chActive := act, chMigrating := none, memtop := top } }))) := by
  have noStand : ¬ (s.stands.any fun t => t.status == .resident) = true := by
    rw [Bool.not_eq_true, List.any_eq_false]
    exact fun t ht h => hr t ht (beq_iff_eq.mp h)
  change execChannelMigrationComplete s = _
  rw [execChannelMigrationComplete, hm]
  dsimp only
  rw [if_neg noStand, ← ha, ← ht]

/-! ## Ports (R380) and event rings (R382) -/

theorem lnkcmd_trains (value : W32) :
    exec (.lnkcmd value) s = .next (if value.getLsbD 4 then trainPort (value.toNat % 16) s else s) := by
  change execLnkcmd value s = _
  rw [execLnkcmd, bitsAt, Nat.pow_zero, Nat.div_one] <;> rfl

theorem linkTrainingComplete_ends {port : Nat} (h : s.svc.linkTraining.contains port = true) :
    exec (.linkTrainingComplete port) s = .next { s with
      out := s.svc.podWait ++ s.out
      svc := { s.svc with
        linkUp := s.svc.linkUp ||| BitVec.ofNat 16 (2 ^ port), linkTraining := removeNat port s.svc.linkTraining
        linkRetries := storeNat port 0 s.svc.linkRetries, podWait := [] } } :=
  if_pos h

theorem evhead_moves (fn : FnId) (h : W32) : exec (.evhead fn h) s = .next
    (if (h - (s.ring fn).head).toNat ≤ ((s.ring fn).tail - (s.ring fn).head).toNat then s.setRing fn { s.ring fn with head := h } else s) :=
  (apply_ite Host.Outcome.next _ _ _).symm

/-- Settles O53, event by event. -/
theorem eventsOfErrors : Obligations.EventsOfErrors := by
  unfold Obligations.EventsOfErrors
  exact fun s => ⟨fun die slice unit code pa s1 => hardwareError_memWord, fun die slice unit code q r => rfl,
    fun die slice unit code id => rfl, fun die slice unit code d set way => rfl, fun e => hardwareError_corrected,
    fun die unit code corrected k lane tries t c e => hardwareError_instr, fun die => errorWindowReset_clears, rfl, fun hs => rfl,
    binOf_seven (by decide), binOf_seven (by decide), fun rings h r hr => hr ▸ rfl, fun value u => iftcmd_asks, fun u => iftStart_starts,
    fun u s1 hc => ⟨iftComplete_returns hc, iftComplete_retires hc⟩, fun value ch => chret_begins,
    fun ch act top => channelMigrationComplete_retires, lnkcmd_trains, fun port => linkTrainingComplete_ends, evhead_moves⟩

end Sys2Proof.ErrorProofs
end

section
/-! Firmware, attestation, the thermal trip, route sets and keys (R376 to R379, R381, R383). -/

namespace Sys2Proof.ModuleProofs

open Sys2Proof Sys2Proof.Machine Sys2Proof.Claims

variable {s : State} {vf : Nat}

/-! ## Resets (R376, R377) -/

section Reset

variable {bank : Nat} {svc : Service} (hs : svc = if s.svc.fwSwitch then s.svc.swapBanks else s.svc)
  (hb : bank = if s.svc.fwSwitch then 1 - fwBank s.pf.fwstat else fwBank s.pf.fwstat)

include hs hb

theorem exec_moduleReset {n : Nat} (hn : n = if s.svc.fwSwitch then 0 else fwFailed s.pf.fwstat) : exec .moduleReset s =
    if Config.firmwareSigned svc.fwActive then .next (afterReset svc (fwWord bank 0 0 0) sequencerSigned s)
    else if n + 1 < 3 then .next (afterReset svc (fwWord bank 0 0 (n + 1)) false s)
    else .next (afterReset svc.swapBanks (fwWord (1 - bank) 0 0 (if Config.firmwareSigned svc.swapBanks.fwActive then 0 else 1))
      (Config.firmwareSigned svc.swapBanks.fwActive && sequencerSigned) s) := by
  rw [hs, hb, hn]
  rfl

theorem moduleReset_boots (hg : Config.firmwareSigned svc.fwActive = true) :
    exec .moduleReset s = .next (afterReset svc (fwWord bank 0 0 0) sequencerSigned s) := by
  rw [exec_moduleReset hs hb rfl, if_pos hg]

variable {n : Nat} (hn : n = if s.svc.fwSwitch then 0 else fwFailed s.pf.fwstat) (hg : Config.firmwareSigned svc.fwActive = false)

include hn hg

theorem moduleReset_fails (hlt : n < 2) :
    exec .moduleReset s = .next (afterReset svc (fwWord bank 0 0 (n + 1)) false s) := by
  rw [exec_moduleReset hs hb hn, if_neg (ne_true_of_eq_false hg), if_pos (Nat.succ_lt_succ hlt)]

theorem moduleReset_bootsOther (hle : 2 ≤ n) (ho : Config.firmwareSigned svc.fwOther = true) :
    exec .moduleReset s = .next (afterReset svc.swapBanks (fwWord (1 - bank) 0 0 0) sequencerSigned s) := by
  have other : Config.firmwareSigned svc.swapBanks.fwActive = true := ho
  rw [exec_moduleReset hs hb hn, if_neg (ne_true_of_eq_false hg), if_neg (by omega), other, if_pos rfl, Bool.true_and]

end Reset

theorem powerLoss_downs : ∃ t, exec .powerLoss s = .next t ∧ t.svc.down = true ∧ t.stands = [] ∧
    t.svc.rings = s.svc.rings.map fun r => { r with now := r.flash } :=
  ⟨_, rfl, rfl, rfl, rfl⟩

/-! ## Firmware images (R376, R377) -/

theorem fwVerifyWrite_verifies {img : List Byte} {n code : Nat} (hp : s.svc.fwPending = none) (hn : n = s.pf.fwsize.toNat % 2 ^ 32)
    (hi : img = s.mem.bytesAt (hostAddr s.pf.fwaddr.toNat) n)
    (hc : code = if Config.bankSize < n then 2 else if Config.firmwareSigned img then 0 else 1) :
    exec .fwVerifyWrite s = .next { s with
      svc := { s.svc with fwPending := some (code, img) }
      pf := { s.pf with fwstat := fwWord (fwBank s.pf.fwstat) 1 (bitsAt s.pf.fwstat.toNat 4 4) (fwFailed s.pf.fwstat) } } := by
  rw [hc, hi, hn]
  exact if_neg (by simp [fwBusy, hp])

section WriteComplete

variable {code : Nat} {img : List Byte} (hp : s.svc.fwPending = some (code, img))

include hp

/-- The outcome of a write that the flash fails is 3, and the bank holds what the flash leaves. -/
theorem exec_firmwareWriteComplete {fails : Bool} (hf : (code == 0 && Config.flashFails s.free) = fails) :
    exec .firmwareWriteComplete s = .next { s with
      free := s.free + 1
      svc := { s.svc with
        fwPending := none
        fwOther := if fails then Config.flashLeaves s.free else if code = 0 then img else s.svc.fwOther }
      pf := { s.pf with fwstat := fwWord (fwBank s.pf.fwstat) 0 (if fails then 3 else code) (fwFailed s.pf.fwstat) } } := by
  subst hf
  change execFirmwareWriteComplete s = _
  rw [execFirmwareWriteComplete, hp]

theorem firmwareWriteComplete_outcome (h : code ≠ 0 ∨ Config.flashFails s.free = false) :
    exec .firmwareWriteComplete s = .next { s with
      free := s.free + 1
      svc := { s.svc with fwPending := none, fwOther := if code = 0 then img else s.svc.fwOther }
      pf := { s.pf with fwstat := fwWord (fwBank s.pf.fwstat) 0 code (fwFailed s.pf.fwstat) } } := by
  have kept : (code == 0 && Config.flashFails s.free) = false := by
    rw [Bool.and_eq_false_iff]
    exact h.imp_left beq_false_of_ne
  rw [exec_firmwareWriteComplete hp kept, if_neg Bool.false_ne_true, if_neg Bool.false_ne_true]

theorem firmwareWriteComplete_flashFails (hc : code = 0) (hf : Config.flashFails s.free = true) :
    exec .firmwareWriteComplete s = .next { s with
      free := s.free + 1
      svc := { s.svc with fwPending := none, fwOther := Config.flashLeaves s.free }
      pf := { s.pf with fwstat := fwWord (fwBank s.pf.fwstat) 0 3 (fwFailed s.pf.fwstat) } } := by
  have fails : (code == 0 && Config.flashFails s.free) = true := by rw [hc, hf] <;> rfl
  rw [exec_firmwareWriteComplete hp fails, if_pos rfl, if_pos rfl]

end WriteComplete

theorem fwBankSwitch_asks (h : s.svc.fwPending = none) :
    exec .fwBankSwitch s = .next { s with svc := { s.svc with fwSwitch := true } } :=
  if_neg (by simp [fwBusy, h])

/-! ## Attestation (R378) -/

theorem atcmd_begins (h : (s.vf vf).atBusy = none) :
    exec (.atcmd vf) s = .next (s.setVf { s.vf vf with atstat := 1, atBusy := some (s.vf vf).ataddr.toNat }) := by
  change execAtcmd vf s = _
  rw [execAtcmd, h]

/-- Bytes of a report of n measurements behind its nonce. -/
theorem reportLength (n : Nat) : 200 + 64 * n + 132 = 332 + 64 * n := by omega

section Report

variable {a : Nat} {nonce : List Byte} (ha : (s.vf vf).atBusy = some a) (hn : s.vfBytes vf a 64 = some nonce)

include ha hn

theorem attestationReport_written {places : List (Nat × Nat)}
    (hr : s.vfRange vf (a + 64) (332 + 64 * (s.vf vf).load.measures.length) .write = some places) :
    exec (.attestationReportComplete vf) s = .next (State.updVf { s with mem := storePieces places (attestation s vf nonce) s.mem } vf
      fun x => { x with atstat := 0, atBusy := none }) := by
  rw [← reportLength] at hr
  change execAttestationReportComplete vf s = _
  rw [execAttestationReportComplete, ha]
  dsimp only
  rw [hn, hr]

theorem attestationReport_failed (hr : s.vfRange vf (a + 64) (332 + 64 * (s.vf vf).load.measures.length) .write = none) :
    exec (.attestationReportComplete vf) s = .next (s.setVf { s.vf vf with atstat := 2, atBusy := none }) := by
  rw [← reportLength] at hr
  change execAttestationReportComplete vf s = _
  rw [execAttestationReportComplete, ha]
  dsimp only
  rw [hn, hr]

end Report

/-! ## The thermal trip (R381) -/

theorem thermalTrip_downs {s1 s2 : State} (h1 : s1 = (upTo 64).foldl (fun acc v => resetPartition v acc) s)
    (h2 : s2 = tripRings ((upTo 64).foldl (fun acc v => hostEvent (.vf v) 8 0 v 0 0 acc) (hostEvent .pf 8 0 0 0 0 s1))) :
    exec .thermalTrip s = .next { s2 with svc := { s2.svc with down := true } } := by
  change execThermalTrip s = _
  rw [execThermalTrip, h2, h1]

/-! ## Route sets and keys (R383) -/

theorem vfrset_sets {die : Nat} {value : W32} {x : W64} {s1 : State} (hv : vf = s.pf.vfsel.toNat % 64)
    (hx : x = BitVec.ofNat 64 (value.toNat % 2 ^ 25))
    (hs : s1 = s.updVf vf fun v => { v with cfg := { v.cfg with rset := v.cfg.rset.set die x } }) :
    exec (.vfrset die value) s = .next
      (if rsetRefused s vf die x then { s with pf := { s.pf with cfgstat := BitVec.ofNat 64 (s.pf.cfgstat.toNat % 2 + 2) } }
      else { s1 with pf := { s1.pf with cfgstat := BitVec.ofNat 64 (s1.pf.cfgstat.toNat % 2) } }) := by
  subst hs hx hv
  exact (apply_ite Host.Outcome.next _ _ _).symm

theorem vfkeyInstall_begins {key : BitVec 1056} (hp : s.svc.keyPending = none) (ha : s.pf.keyaddr.toNat + 132 ≤ 2 ^ 51)
    (hk : key = BitVec.ofNat 1056 (natOfBytesBE (s.mem.bytesAt (hostAddr s.pf.keyaddr.toNat) 132))) :
    exec .vfkeyInstall s = .next (beginKey (some key) (if onCurve key then 0 else 2) s) := by
  change execVfkeyInstall s = _
  rw [execVfkeyInstall, if_neg (by simp [hp])]
  dsimp only
  rw [if_neg (Nat.not_lt.mpr ha), ← hk]

theorem vfkeyClear_begins (hp : s.svc.keyPending = none) : exec .vfkeyClear s = .next (beginKey none 0 s) :=
  if_neg (by simp [hp])

theorem exec_keyComplete {slot n : Nat} {key : Option (BitVec 1056)} {s1 : State} (hp : s.svc.keyPending = some (vf, slot, key, n))
    (hs : s1 = { s with svc := { s.svc with keyPending := none }, pf := { s.pf with cfgstat := BitVec.ofNat 64 (2 * n) } }) :
    exec .vfKeyCommandComplete s = .next (if n = 0
      then s1.updVf vf fun v => { v with cfg := { v.cfg with keys := putKey slot key v.cfg.keys } } else s1) := by
  subst hs
  change execVfKeyCommandComplete s = _
  rw [execVfKeyCommandComplete, hp]

/-- Settles O54, event by event. -/
theorem eventsOfModule : Obligations.EventsOfModule := by
  unfold Obligations.EventsOfModule
  exact fun s => ⟨fun bank svc hs hb => ⟨moduleReset_boots hs hb,
      fun n hn hg => ⟨moduleReset_fails hs hb hn hg, moduleReset_bootsOther hs hb hn hg⟩⟩,
    fun img n code => fwVerifyWrite_verifies, fun code img hp => ⟨firmwareWriteComplete_outcome hp, firmwareWriteComplete_flashFails hp⟩,
    fwBankSwitch_asks, powerLoss_downs, fun vf => atcmd_begins,
    fun vf a nonce ha hn => ⟨fun places => attestationReport_written ha hn, attestationReport_failed ha hn⟩, fun s1 s2 => thermalTrip_downs,
    fun die value x vf s1 => vfrset_sets, fun key => vfkeyInstall_begins, vfkeyClear_begins,
    fun vf slot key s1 hs hp => (exec_keyComplete hp hs).trans (congrArg _ (if_pos rfl)),
    fun vf slot key n hn hp => (exec_keyComplete hp rfl).trans (congrArg _ (if_neg hn))⟩

end Sys2Proof.ModuleProofs
end
